-- ==== Sys2Proof/Word.lean ====
section
/-! DEFINITION. The widths the manual uses for what it treats as bits (R4, R7): registers and stamps of 64 bits,
bytes, and the numbers it gives fixed widths. -/

namespace Sys2Proof

/-- A register, a stamp or a handle (R7, R10, R67). -/
abbrev Word := BitVec 64

/-- One byte. -/
abbrev Byte := BitVec 8

/-- A context number, 0 to 2^20 - 1 (R38). -/
abbrev CtxNum := BitVec 20

/-- A paddock number, 0 to 4,095 (R289). -/
abbrev PdkNum := BitVec 12

/-- A device number of the pod (R54). -/
abbrev DevNum := BitVec 12

/-- A region, 0 to 3 (R17). -/
abbrev Region := BitVec 2

/-- A compute die, 0 to 3 (R463). -/
abbrev DieNum := BitVec 2

/-- A submission or completion index: 32 bits, modular (R46, R422). -/
abbrev Idx := BitVec 32

end Sys2Proof
end

