-- ==== Sys2Proof/Syntax.lean ====
section
/-! DEFINITION. The commands: one constructor of `Instr` per row of spec/opcode_table.json, with the operands that the
row's rule gives it. What a neighbour supplies (data of a read, a die's answer, a peer's request, host-memory bytes) is
an operand, since it is not Vrelop's own state. -/

namespace Sys2Proof

/-- Which halves of a 64-bit register a write addresses (R7). -/
inductive Half where
  | both | low | high
  deriving DecidableEq, Repr

/-- A register write of a row that has its own register: the halves it addresses and the 64-bit value (R7). -/
structure RegWrite where
  half : Half
  value : Word
  deriving DecidableEq, Repr

/-- A write to a context's 256 bytes of the doorbell window (R48): at the doorbell's offset, 64 bits or one half; or any other, at another
offset or of another size. -/
inductive DbWrite where
  | both | low | high | other
  deriving DecidableEq, Repr

/-- The size of a host access to the register window (R7). -/
inductive AccSize where
  | w64 | w32 | other
  deriving DecidableEq, Repr

/-- Scopes from narrowest to widest (R244); codes 0, 1, 2. -/
inductive Scope where
  | context | device | pod
  deriving DecidableEq, Repr

/-- Bytes of host memory that a read through the host link returns: address and byte; an address not listed reads 0. -/
abbrev HostBytes := List (Nat × Byte)

/-- What a fetch of a ring entry brings back (R63, R66): an error of the host port or the memory controller, and, for a
ring in host memory, the bytes read. -/
structure FetchReply where
  error : Bool
  host : HostBytes
  deriving DecidableEq, Repr

/-- What a read brings back (R237, R21): a status (0 is success), the elements, counted from the first one read, that stand in a
word that was uncorrectable or poisoned, and the bytes, which count only where the point of coherence is not one of this device's
stacks. -/
structure ReadReply where
  status : BitVec 16
  bad : List Nat
  bytes : List Byte
  deriving DecidableEq, Repr

/-- What an acknowledgement carries (R32, R235): a status (0 is success), the elements, counted from the first one written, whose
destination word the memory controller reported uncorrectable during an accumulate (R167), and a peer's collision and
replaced-word counts. -/
structure AckReply where
  status : BitVec 16
  bad : List Nat
  collisions : Nat
  replaced : Nat
  deriving DecidableEq, Repr

/-- The streams of a descriptor: index tensor, source (or table read), block scales read, destination, block scales
written (R101, R157, R194). -/
inductive StreamId where
  | idx | src | scaleIn | dst | scaleOut
  deriving DecidableEq, Repr

/-- Whose read returns: elements `pos` to `pos + count - 1` of a descriptor's stream, a peer's get, a die's read, or a
read held on a granule. -/
inductive ReadTarget where
  | job (h : Word) (st : StreamId) (pos count : Nat)
  | peer (id : Nat)
  | die (id : Nat)
  deriving DecidableEq, Repr

/-- Whose write or operation is acknowledged: elements of a descriptor's stream, a peer's put or accumulate served
here, a die's write, or a flag or fold operation of a descriptor at a peer home. -/
inductive AckTarget where
  | job (h : Word) (st : StreamId) (pos count : Nat)
  | peer (id : Nat)
  | die (id : Nat)
  | sync (h : Word)
  deriving DecidableEq, Repr

/-- A domain with its own clock and power state (R340, R341). -/
inductive Domain where
  | region (r : Region)
  | engine
  deriving DecidableEq, Repr

/-- A data request of a peer (R32, R170): the issuing device, its context and handle sequence, the request's own number
on that device, its paddock and paddock-virtual address, its first bit within the byte, its length in bits, the element
width, and the issuing stamp. -/
structure PeerReq where
  dev : DevNum
  ctx : CtxNum
  seq : Idx
  id : Nat
  paddock : PdkNum
  va : BitVec 48
  bit : BitVec 3
  bits : Nat
  ebits : Nat
  stamp : Word
  deriving DecidableEq, Repr

/-- A flag or fold operation of a peer (R253, R254, R267): device, source number bits [23:0] (R265), its context's queue
pair, its request number, the paddock it carries, its scope and its stamp. -/
structure PeerSync where
  dev : DevNum
  src : BitVec 24
  ctx : CtxNum
  id : Nat
  paddock : PdkNum
  scope : Scope
  stamp : Word
  deriving DecidableEq, Repr

/-- A direct access of a compute die to stack memory (R293). -/
structure DieAccess where
  die : DieNum
  id : Nat
  paddock : PdkNum
  va : BitVec 48
  write : Bool
  bytes : List Byte
  len : Nat
  deriving DecidableEq, Repr

/-- One table of code lengths, two halves of 256 (R204). -/
structure CodeTable where
  first : List Nat
  second : List Nat
  deriving DecidableEq, Repr

/-- Factors fitted to one tile: rank, U row-major and V row-major (R207). -/
structure Factors where
  rank : Nat
  u : List (BitVec 16)
  v : List (BitVec 16)
  deriving DecidableEq, Repr

/-- What the compressor chose in a pass, which the manual does not specify (R216): tables, and factors per tile. -/
structure CompressChoice where
  tables : List CodeTable
  factors : List Factors
  deriving DecidableEq, Repr

/-- What a checker detects: `word`, a codeword of a structure (R353) read with `bits` of its bits flipped, with the context that the word
serves; or `reach`, a reach byte in memory that an ATG slice reads uncorrectable (R292). -/
inductive Detection where
  | word (subsys : BitVec 4) (inst : BitVec 6) (structId : Byte) (ctx : Option CtxNum) (word bits : Nat)
  | reach (slice : BitVec 2) (paddock : PdkNum) (dev : DevNum)
  deriving DecidableEq, Repr

/-- A fault event that reaches FLT (R358, R364): the `n`th event already raised inside the engine, or those that checkers detect in one
cycle now, each of which reaches FLT after its source's delay (R20). -/
inductive FaultArrival where
  | raised (n : Nat)
  | detected (ds : List Detection)
  deriving DecidableEq, Repr

/-- Of the two translations that may choose a lead region (R22), the level of a table read that the memory controller reports
uncorrectable: of the destination's, and of the source's. -/
structure ProbeBad where
  dst : Option (BitVec 2) := none
  src : Option (BitVec 2) := none
  deriving DecidableEq, Repr

/-- A level of arbitration (R330): cell, unit, region, engine. -/
abbrev Level := BitVec 2

/-- Whose requests a stream at a crossbar port carries (R324): a descriptor's, a peer's (by the number it was given here), or a
die's. -/
inductive PortUser where
  | job (h : Word)
  | peer (id : Nat)
  | die (d : DieNum) (id : Nat)
  deriving DecidableEq, Repr

/-- A self-test target: row of R376 (counted from 0) and instance. -/
structure BistTarget where
  row : BitVec 4
  inst : BitVec 6
  deriving DecidableEq, Repr

/-- A competitor that becomes starved (R329): a descriptor at a walker queue or a compressor, a context at the fetch
arbiter, a request stream at an output port of a crossbar, the segment of an overdue self-test target (R380), or a competitor of a level whose
grants last one cycle and of which the model holds no count (log 22). -/
inductive Competitor where
  | job (h : Word)
  | ctx (c : CtxNum)
  | test (t : BistTarget)
  | port (l : Level) (n : Nat) (who : PortUser)
  | brief (l : Level)
  deriving DecidableEq, Repr

/-- A holder whose quantum ends: a walker or a region's compressor (R332). -/
inductive Holder where
  | walker (n : BitVec 5)
  | compressor (r : Region)
  deriving DecidableEq, Repr

/-- The failing cells that a diagnostic visit finds in one macro of a target (R382): structure, macro number, and the row and column of each
cell. -/
structure MacroCells where
  structId : Byte
  macroNo : Byte
  cells : List (BitVec 16 × BitVec 16)
  deriving DecidableEq, Repr

/-- What a self-test segment that ends has read (R377, R382): what it should, or something else; and in the last segment of a diagnostic visit,
the failing cells of the target by macro. -/
inductive SegmentEnd where
  | pass
  | fail
  | found (ms : List MacroCells)
  deriving DecidableEq, Repr

/-- How a cold-start phase ended (R456, R457): finished; the supply check with the levels that its inputs have by then; or failed
with a CAUSE code. -/
inductive PhaseEnd where
  | done
  | supply (corePg devNumValid : Bool) (devNum : DevNum)
  | failed (cause : BitVec 4)
  deriving DecidableEq, Repr

/-- The cipher engine's answer to WKEY_LOAD (R315, R316); `key` tells one unwrapped key from another. -/
inductive BlobAnswer where
  | unwrapped (key : Nat) | badBlob | notMember | notReleased
  deriving DecidableEq, Repr

/-- An SPDM 1.2 request code that arrives (R323), and where from. -/
inductive SpdmKind where
  | getVersion | getCapabilities | negotiateAlgorithms | getDigests | getCertificate | challenge
  | getMeasurements (signed : Bool) | other
  deriving DecidableEq, Repr

/-- A requester of SPDM: the host mailbox or a peer (R323). -/
inductive SpdmFrom where
  | host | peer (d : DevNum)
  deriving DecidableEq, Repr

/-- A beacon (R430): sender, its EPOCH, sequence, send stamp, and the entries of the vector that are not ABSENT. -/
structure Beacon where
  dev : DevNum
  epoch : BitVec 32
  seq : Nat
  stamp : Word
  states : List (DevNum × BitVec 2)
  deriving DecidableEq, Repr

/-- What a JOIN carries (R429, R433, R437): sender, its IDENT and EPOCH, the Bellwether it names, the stale and restart marks, and whether it is the
first since its sender's cold reset (log 95). -/
structure JoinMsg where
  dev : DevNum
  ident : BitVec 32
  epoch : BitVec 32
  bellwether : DevNum
  stale : Bool
  restarted : Bool
  first : Bool
  deriving DecidableEq, Repr

/-- What the SPDM exchange of a JOIN yields (R429, R428): whether signature and chain verified, and the identity and
measurements read. -/
structure VerdictInput where
  verified : Bool
  ident : BitVec 32
  measure2 : List Byte
  digest : List Byte
  deriving DecidableEq, Repr

/-- A worker's report of its time in a SYNC_REQ (R434): its EPOCH, t1, and its own Unsynced state. -/
structure SyncReport where
  dev : DevNum
  epoch : BitVec 32
  t1 : Word
  unsynced : Bool
  deriving DecidableEq, Repr

/-- A SYNC_RSP (R434): sender and the stamps t1, t2, t3 it carries; t4 is the stamp of its arrival. -/
structure SyncAnswer where
  dev : DevNum
  t1 : Word
  t2 : Word
  t3 : Word
  deriving DecidableEq, Repr

/-- What starts a Dormant exit (R346): a register access outside the AO domain, an arrival at NPI or OPI, or a write of
0 to DORMANT_EN. -/
inductive DormantTrigger where
  | registerAccess | arrival | disabled
  deriving DecidableEq, Repr

/-- The commands (spec/opcode_table.json, in the table's order). A descriptor is named by its handle (R67). Where the memory
controller may report a word of a structure that Vrelop itself reads as uncorrectable (R82, R112), an operand says so: `bad`
of a walker grant (the view records hit), of a dispatch and a page walk (the level of the table read), and of a finished census
(the addresses of the table entries). -/
inductive Instr where
  | submissionDoorbell (ctx : CtxNum) (half : DbWrite) (value : Word)
  | completionDoorbell (ctx : CtxNum) (half : DbWrite) (value : Word)
  | opiDoorbellMessage (die : DieNum) (ctx : CtxNum) (completion : Bool) (value : Word)
  | takeRecordedDoorbell (ctx : CtxNum)
  | landingCapture (addr : Nat) (bytes : List Byte)
  | descriptorFetch (reply : FetchReply)
  | timedRefetch (ctx : CtxNum) (reply : FetchReply)
  | ringStall (ctx : CtxNum)
  | fetchResume (ctx : CtxNum) (reply : FetchReply)
  | dispatch (h : Word) (bad : ProbeBad)
  | walkerGrant (r : Region) (bad : List (BitVec 24))
  | nop (h : Word)
  | copy (h : Word) (n : Nat)
  | transform (h : Word) (n : Nat)
  | gather (h : Word) (n : Nat)
  | scatter (h : Word) (n : Nat)
  | scatterAcc (h : Word) (n : Nat)
  | reduce (h : Word) (n : Nat)
  | putInline (h : Word) (n : Nat)
  | compress (h : Word) (n : Nat)
  | compressPassEnd (h : Word) (choice : CompressChoice)
  | expand (h : Word) (n : Nat)
  | expandBlockArrival (h : Word) (block : Nat)
  | flagSet (h : Word)
  | flagClear (h : Word)
  | flagWait (h : Word)
  | foldArrive (h : Word)
  | fence (h : Word)
  | invalidate (h : Word)
  | rekeySweep (h : Word)
  | scrub (h : Word)
  | query (h : Word)
  | fenceDone (h : Word)
  | pageWalkDone (slice : Region) (paddock : PdkNum) (va : BitVec 48) (bad : Option (BitVec 2))
  | readReturn (t : ReadTarget) (reply : ReadReply)
  | writeAck (t : AckTarget) (reply : AckReply)
  | appliedTimer (h : Word)
  | postCompletion (ctx : CtxNum)
  | spoolDrain (ctx : CtxNum)
  | contextClosed (ctx : CtxNum)
  | journalFlushReturn (ok : Bool)
  | enable
  | disable
  | reset
  | park
  | resume
  | registerWrite (off : BitVec 21) (size : AccSize) (value : Word)
  | vcInvOne (w : RegWrite)
  | vcInvPaddock (w : RegWrite)
  | vcInvEvery (w : RegWrite)
  | vcInvDone
  | tlbInvRange (w : RegWrite)
  | tlbInvPaddock (w : RegWrite)
  | tlbInvEvery (w : RegWrite)
  | tlbInvDone
  | rotate (w : RegWrite)
  | retire (w : RegWrite)
  | censusDone (bad : List Nat)
  | reachInv (w : RegWrite)
  | wkeyLoad (w : RegWrite)
  | wkeyErase (w : RegWrite)
  | pdkCmdDone
  | lfsrSeedWrite (r : Region) (w : RegWrite)
  | flagCfgWrite (w : RegWrite)
  | foldCfgWrite (w : RegWrite)
  | fresh
  | adopt
  | reattach
  | engResetReq (w : RegWrite)
  | fltModeWrite (w : RegWrite)
  | histPop (w : RegWrite)
  | alertForce (w : RegWrite)
  | pendingClear (w : RegWrite)
  | fltInjectArm (w : RegWrite)
  | fuseCmd (w : RegWrite)
  | fuseDone
  | podCtlWrite (w : RegWrite)
  | reverify (w : RegWrite)
  | podEpochWrite (w : RegWrite)
  | pwrCtlWrite (r : Region) (w : RegWrite)
  | pwrEngWrite (w : RegWrite)
  | capWrite (w : RegWrite)
  | dieCfgWrite (d : DieNum) (w : RegWrite)
  | peerPut (q : PeerReq) (bytes : List Byte) (scatter : Bool)
  | peerGet (q : PeerReq)
  | peerAccumulate (q : PeerReq) (op : BitVec 2) (dtype : BitVec 2) (bytes : List Byte) (fill : BitVec 32) (poisoned : List Nat)
  | peerFlagSet (m : PeerSync) (flag : BitVec 18)
  | peerFlagClear (m : PeerSync) (flag : BitVec 18)
  | peerWait (m : PeerSync) (flag : BitVec 18) (waitFor : Bool) (timeout : BitVec 48)
  | peerFoldArrival (m : PeerSync) (fold : BitVec 16) (count : Byte)
  | forwardedArrival (m : PeerSync) (fold : BitVec 16) (child : BitVec 16)
  | foldRelease (dev : DevNum) (fold : BitVec 16) (scope : Scope) (stamp : Word)
  | waitWithdrawal (dev : DevNum) (ctx : CtxNum) (id : Nat)
  | peerResetNotice (dev : DevNum)
  | peerRefusalResend (id : Nat)
  | remoteWaitRetry (h : Word)
  | releasePassToSyn (dev : DevNum) (ctx : CtxNum)
  | waitRecordObtained (id : Nat)
  | waitDeadline (id : Nat)
  | longWait (id : Nat)
  | dieSet (d : DieNum) (flag : BitVec 18)
  | dieClear (d : DieNum) (flag : BitVec 18)
  | dieWait (d : DieNum) (flag : BitVec 18) (waitFor : Bool) (timeout : BitVec 32) (token : BitVec 16)
  | dieAccess (a : DieAccess)
  | invalidateAck (h : Word) (d : DieNum)
  | diePortDown (p : BitVec 3)
  | quantumExpiry (x : Holder)
  | starvation (x : Competitor)
  | preemptSave (h : Word)
  | cutoff (h : Word)
  | activeToIdle (d : Domain)
  | idleToSleep (d : Domain)
  | wakeComplete (d : Domain)
  | rotation
  | ppmGrantStb (grant : BitVec 12)
  | ppmReturn
  | dormantEntry
  | dormantExit (t : DormantTrigger)
  | dormantExitDone
  | historyEntry
  | faultEvent (a : FaultArrival)
  | alertPulseEnd
  | alertHighEnd
  | watchdogExpiry
  | svcRestartDone
  | stackLost (n : BitVec 5)
  | networkPortLost (p : BitVec 5)
  | bistSliceStart
  | bistSegmentEnd (t : BistTarget) (e : SegmentEnd)
  | bistOverdue (t : BistTarget)
  | clockSample (mhz mv : BitVec 16)
  | sweepGranuleAdvance (slot : BitVec 2) (bad : List Nat)
  | lockReadTimeout (t : ReadTarget)
  | engResetLFall
  | engResetLRise
  | settleDone (settled : Bool)
  | resetPhaseEnd (host : HostBytes)
  | replayEnd
  | aoResetLFall
  | aoResetLRise
  | coldStartPhaseEnd (e : PhaseEnd)
  | supplyCheckTimeout
  | corePgFall
  | hostLinkChange (up : Bool)
  | hostResetInd
  | spdmRequest (src : SpdmFrom) (k : SpdmKind)
  | beaconSend
  | beaconReceive (b : Beacon)
  | syncReq (m : SyncReport)
  | syncRsp (m : SyncAnswer)
  | joinSend
  | join (m : JoinMsg)
  | verdict (dev : DevNum) (v : VerdictInput)
  | bellwetherStale
  | workerSilent (dev : DevNum)
  | routeLost (dev : DevNum)
  | remoteWaitResult (dev : DevNum) (ctx : CtxNum) (id : Nat) (status : BitVec 16) (detail : Word)
  | opiPortUp (p : BitVec 3) (d : DieNum)
  | adoptDone (host : HostBytes)
  | wkeyLoadDone (a : BlobAnswer)
  | timeCorrectionDone
  deriving DecidableEq, Repr

end Sys2Proof
end

