-- ==== Sys2Proof/Decode.lean ====
section
/-! DEFINITION. The command a word spells by the opcode table's bits. Vrelop takes no command as a word: the table gives no row
any bits (log 10), so no word spells one. -/

namespace Sys2Proof

/-- The command that `w` spells by the table's bits: none, since no row of the table gives bits (log 10). -/
def decodeTableWord (_nbits _w : Nat) : Option Instr := none

end Sys2Proof
end

