-- ==== Sys2Proof/Machine/Sha384.lean ====
section
/-! DEFINITION. SHA-384, which R394, R459 and R322 name (log 20): messages and digests are lists of bytes in the order of the
hash function. -/

namespace Sys2Proof.Machine

/-- The first eighty primes. -/
def sha512Primes : List Nat :=
  [2, 3, 5, 7, 11, 13, 17, 19, 23, 29, 31, 37, 41, 43, 47, 53, 59, 61, 67, 71, 73, 79, 83, 89, 97, 101, 103, 107, 109, 113,
   127, 131, 137, 139, 149, 151, 157, 163, 167, 173, 179, 181, 191, 193, 197, 199, 211, 223, 227, 229, 233, 239, 241, 251,
   257, 263, 269, 271, 277, 281, 283, 293, 307, 311, 313, 317, 331, 337, 347, 349, 353, 359, 367, 373, 379, 383, 389, 397,
   401, 409]

/-- The largest x with x^k ≤ n, by bisection of `bits` bits. -/
def rootBits (k n : Nat) : Nat → Nat → Nat
  | 0, acc => acc
  | b + 1, acc => rootBits k n b (if (acc + 2 ^ b) ^ k ≤ n then acc + 2 ^ b else acc)

/-- The first 64 bits of the fractional part of the cube root of p. -/
def cubeFrac (p : Nat) : Word := BitVec.ofNat 64 (rootBits 3 (p * 2 ^ 192) 70 0)

/-- The first 64 bits of the fractional part of the square root of p. -/
def squareFrac (p : Nat) : Word := BitVec.ofNat 64 (rootBits 2 (p * 2 ^ 128) 70 0)

def sha512K : List Word := sha512Primes.map cubeFrac

/-- SHA-384's initial value: square roots of the ninth to sixteenth primes. -/
def sha384Init : List Word := ((sha512Primes.drop 8).take 8).map squareFrac

def shaS0 (x : Word) : Word := x.rotateRight 1 ^^^ x.rotateRight 8 ^^^ (x >>> 7)
def shaS1 (x : Word) : Word := x.rotateRight 19 ^^^ x.rotateRight 61 ^^^ (x >>> 6)
def shaB0 (x : Word) : Word := x.rotateRight 28 ^^^ x.rotateRight 34 ^^^ x.rotateRight 39
def shaB1 (x : Word) : Word := x.rotateRight 14 ^^^ x.rotateRight 18 ^^^ x.rotateRight 41

/-- The message schedule, newest word first. -/
def shaSchedule : Nat → List Word → List Word
  | 0, w => w
  | n + 1, w => shaSchedule n
      ((shaS1 (w.getD 1 0) + w.getD 6 0 + shaS0 (w.getD 14 0) + w.getD 15 0) :: w)

/-- One round on the eight working words. -/
def shaRound (v : List Word) (kw : Word) : List Word :=
  match v with
  | [a, b, c, d, e, f, g, h] =>
    let t1 := h + shaB1 e + ((e &&& f) ^^^ (~~~e &&& g)) + kw
    let t2 := shaB0 a + ((a &&& b) ^^^ (a &&& c) ^^^ (b &&& c))
    [t1 + t2, a, b, c, d + t1, e, f, g]
  | _ => v

/-- A big-endian 64-bit word of eight bytes. -/
def beWord (bs : List Byte) : Word := BitVec.ofNat 64 (bs.foldl (fun n b => n * 256 + b.toNat) 0)

def beBytes (w : Word) : List Byte :=
  (List.range 8).map fun i => BitVec.ofNat 8 (w.toNat / 256 ^ (7 - i))

/-- One block of 128 bytes. -/
def shaBlock (hv : List Word) (blk : List Byte) : List Word :=
  let w := ((List.range 16).map fun i => beWord ((blk.drop (8 * i)).take 8)).reverse
  let ws := (shaSchedule 64 w).reverse
  let v := (List.zipWith (· + ·) sha512K ws).foldl shaRound hv
  List.zipWith (· + ·) hv v

def shaBlocks : Nat → List Word → List Byte → List Word
  | 0, hv, _ => hv
  | n + 1, hv, bs => shaBlocks n (shaBlock hv (bs.take 128)) (bs.drop 128)

def shaPad (bs : List Byte) : List Byte :=
  let n := bs.length
  let z := (239 - n % 128) % 128
  bs ++ [0x80] ++ List.replicate z 0 ++ beBytes (BitVec.ofNat 64 (n * 8 / 2 ^ 64)) ++ beBytes (BitVec.ofNat 64 (n * 8))

/-- The 48 bytes of the SHA-384 digest. -/
def sha384 (bs : List Byte) : List Byte :=
  let p := shaPad bs
  ((shaBlocks (p.length / 128) sha384Init p).take 6).flatMap beBytes

end Sys2Proof.Machine
end

