-- ==== Sys2Proof/Machine/Codes.lean ====
section
/-! DEFINITION. Numbers that several chapters share: completion statuses (R72), subsystem indices (R361), the classes of fault
events (R362) and the reset values of FLT_SEVERITY (R360). -/

namespace Sys2Proof.Machine

/-- Completion statuses (R72). -/
abbrev Status := BitVec 16

def stOk : Status := 0x0000
def stOkOob : Status := 0x0001
def stNarrow : Status := 0x0002
def stBadDescriptor : Status := 0x0100
def stAlias : Status := 0x0101
def stShape : Status := 0x0102
def stBadView : Status := 0x0103
def stNotPermitted : Status := 0x0104
def stStale : Status := 0x0105
def stPaddockFault : Status := 0x0200
def stPageFault : Status := 0x0201
def stAccessFault : Status := 0x0202
def stUnreachable : Status := 0x0203
def stUncorrected : Status := 0x0300
def stCorruptBlock : Status := 0x0301
def stUnderflow : Status := 0x0400
def stTimeout : Status := 0x0401
def stOrphaned : Status := 0x0402
def stFoldOverflow : Status := 0x0403
def stPodMismatch : Status := 0x0404
def stUnsynced : Status := 0x0405
def stCancelled : Status := 0x0500
def stAbandoned : Status := 0x0501
def stBusy : Status := 0x0502

/-- The statuses of class Partial (R72): 0x0200 to 0x02FF. -/
def isPartial (st : Status) : Bool := st.toNat / 256 = 2

/-- Subsystem indices (R361). -/
def subRfe : BitVec 4 := 0
def subCxs : BitVec 4 := 1
def subJrn : BitVec 4 := 2
def subWlk : BitVec 4 := 3
def subAtg : BitVec 4 := 4
def subLay : BitVec 4 := 5
def subCst : BitVec 4 := 6
def subDrv : BitVec 4 := 7
def subCdc : BitVec 4 := 8
def subNpi : BitVec 4 := 9
def subOpi : BitVec 4 := 10
def subSyn : BitVec 4 := 11
def subSvc : BitVec 4 := 12
def subFlt : BitVec 4 := 13

/-- The class of a fault event (R363): 0 Notice, 1 Corrected, 2 Contained, 3 Fatal. -/
inductive FClass where
  | notice | corrected | contained | fatal
  deriving DecidableEq, Repr

/-- CLASS as a history entry writes it (R363). -/
def FClass.code : FClass → BitVec 2
  | .notice => 0 | .corrected => 1 | .contained => 2 | .fatal => 3

/-- Severities (R358, R360): 0 IGNORE, 1 LOG, 2 CONTAINED, 3 FATAL. -/
inductive Severity where
  | ignore | log | contained | fatal
  deriving DecidableEq, Repr

def Severity.code : Severity → BitVec 2
  | .ignore => 0 | .log => 1 | .contained => 2 | .fatal => 3

def Severity.ofCode (b : BitVec 2) : Severity :=
  if b = 0 then .ignore else if b = 1 then .log else if b = 2 then .contained else .fatal

/-- The severity a class gives in SERVICE (R358). -/
def FClass.severity : FClass → Severity
  | .notice => .log | .corrected => .log | .contained => .contained | .fatal => .fatal

/-- A source number (R361): subsystem, instance, event code. -/
def sourceOf (sub : BitVec 4) (inst code : BitVec 6) : BitVec 16 := sub ++ inst ++ code

def srcSub (s : BitVec 16) : BitVec 4 := s.extractLsb' 12 4
def srcInst (s : BitVec 16) : BitVec 6 := s.extractLsb' 6 6
def srcCode (s : BitVec 16) : BitVec 6 := s.extractLsb' 0 6

/-- The engine-level self-test targets, whose BIST_UNREPAIRABLE is Fatal (R362): RFE, CXS, JRN, NPI, OPI and SYN 4. -/
def bistFatal (sub : BitVec 4) (inst : BitVec 6) : Bool :=
  sub = subRfe || sub = subCxs || sub = subJrn || sub = subNpi || sub = subOpi || (sub = subSyn && inst = 4)

/-- The class of an event (R362). DEDUCED (log 23): codes 0x02 to 0x05 and 0x07 belong to the subsystems whose
structures R353, or whose targets R376, name them; where a subsystem has none, the class is Notice. -/
def classOf (sub : BitVec 4) (inst code : BitVec 6) : FClass :=
  if code = 0x00 || code = 0x01 || code = 0x06 then .corrected
  else if code = 0x02 then
    if sub = subCxs || sub = subWlk || sub = subLay || sub = subCst || sub = subDrv || sub = subCdc then .contained else .notice
  else if code = 0x03 then
    if sub = subLay || sub = subSyn || sub = subSvc || sub = subFlt then .contained else .notice
  else if code = 0x04 then (if sub = subWlk then .contained else .notice)
  else if code = 0x05 then
    if sub = subRfe || sub = subCxs || sub = subJrn || sub = subNpi || sub = subOpi || sub = subSyn then .fatal else .notice
  else if code = 0x07 then
    if bistFatal sub inst then .fatal
    else if sub = subSvc || sub = subFlt then .notice else .contained
  else if code = 0x10 then
    if sub = subWlk || sub = subDrv || sub = subSyn || sub = subSvc then .contained else .notice
  else if code = 0x11 then
    if sub = subDrv || sub = subSyn then .contained else if sub = subSvc then .fatal else .notice
  else if code = 0x12 then (if sub = subDrv || sub = subSyn then .contained else .notice)
  else .notice

/-- The most severe class of a code over the instances of its subsystem (R360). -/
def classMax (sub : BitVec 4) (code : BitVec 6) : FClass :=
  if sub = subSyn && code = 0x07 then .fatal else classOf sub 0 code

/-- One FLT_SEVERITY register at reset, built from event code 32h upwards (R360). -/
def severityFields (sub : BitVec 4) (half : Nat) : Nat → Nat
  | 0 => 0
  | n + 1 => severityFields sub half n
      + (classMax sub (BitVec.ofNat 6 (32 * half + n))).severity.code.toNat * 4 ^ n

/-- FLT_SEVERITY[k] at reset (R360): subsystem k / 2, codes 32 (k mod 2) upwards. -/
def severityReset (k : Nat) : Word :=
  BitVec.ofNat 64 (severityFields (BitVec.ofNat 4 (k / 2)) (k % 2) 32)

end Sys2Proof.Machine
end

