-- ==== Sys2Proof/Machine/SMap.lean ====
section
/-! DEFINITION. Sparse maps: lists of (key, value) pairs with strictly rising keys that list no entry equal to the value an
unlisted key has. Equal maps are equal lists. Memory, tags, contexts, paddocks, flags, folds, tallies and the elements of a
stream are held so. -/

namespace Sys2Proof.Machine

/-- A sparse map from natural-number keys. -/
abbrev SMap (α : Type) := List (Nat × α)

/-- The value at `k`; `d` where none is listed. -/
def mapGet {α : Type} (d : α) : SMap α → Nat → α
  | [], _ => d
  | (k', v) :: m, k => if k' = k then v else mapGet d m k

/-- The map with `v` at `k`; an entry equal to `d` is not listed. -/
def mapSet {α : Type} [DecidableEq α] (d : α) : SMap α → Nat → α → SMap α
  | [], k, v => if v = d then [] else [(k, v)]
  | (k', v') :: m, k, v =>
    if k < k' then (if v = d then (k', v') :: m else (k, v) :: (k', v') :: m)
    else if k' = k then (if v = d then m else (k, v) :: m)
    else (k', v') :: mapSet d m k v

/-- The value at `k` changed by `f`. -/
def mapUpd {α : Type} [DecidableEq α] (d : α) (m : SMap α) (k : Nat) (f : α → α) : SMap α :=
  mapSet d m k (f (mapGet d m k))

/-- A list brought to `n` entries; `d` where it has none. -/
def padRow {α : Type} (d : α) : Nat → List α → List α
  | 0, _ => []
  | n + 1, l => l.headD d :: padRow d n l.tail

/-- A table of `n` entries with `x` at `i`. -/
def setRow {α : Type} (d : α) (n : Nat) (l : List α) (i : Nat) (x : α) : List α := (padRow d n l).set i x

/-- The canonical form: keys strictly rising, no entry equal to `d`. -/
abbrev MapWf {α : Type} (d : α) (m : SMap α) : Prop :=
  m.Pairwise (fun a b => a.1 < b.1) ∧ ∀ p ∈ m, p.2 ≠ d

end Sys2Proof.Machine
end

