-- ==== Sys2Proof/Machine/State.lean ====
section
/-! DEFINITION. The state of Vrelop as plain data (INVENTORY.md, State): the registers, records, queues and stores of each
subsystem, the stacks' memory with the key tag of each byte, the clock, the descriptors in work, what has left across the
boundary, and the queue of waiting commands. `State.reset` is the machine with AO_RESET_L low (R452). -/

namespace Sys2Proof.Machine

/-! ### Memory -/

/-- The key a byte of stack memory was written under (R295, R472): in the clear, a paddock's memory key, or the key in a
weight-key slot of the cipher engine (its number, 0 where the slot is erased). -/
inductive Tag where
  | clear
  | epoch (p : PdkNum) (e : BitVec 4)
  | slot (n : Byte) (key : Nat)
  deriving DecidableEq, Repr

/-- The bytes of the twenty stacks by TL9 physical address and the tag each was written under. -/
structure Memory where
  cells : List Host.Cell := []
  tags : SMap Tag := []
  deriving DecidableEq, Repr

/-- What an unlisted byte of a stack reads as (log 5). -/
def Memory.blank : Byte := 0

/-- The canonical form of the memory. -/
abbrev Memory.wf (m : Memory) : Prop :=
  MapWf Memory.blank m.cells ∧ MapWf Tag.clear m.tags

/-- What a part of TL9's physical address space is (R17, R110, R460): one stack, several stacks that take its blocks of `block`
bytes in turn, a die's scratchpad aperture, or the context store's region within a stack. -/
inductive MapKind where
  | stack (n : BitVec 5)
  | stacks (block : Nat) (ways : List (BitVec 5))
  | aperture (d : DieNum)
  | store (n : BitVec 5)
  deriving DecidableEq, Repr

/-- One part of TL9's memory map. -/
structure MapEntry where
  base : Nat
  size : Nat
  kind : MapKind
  deriving DecidableEq, Repr

/-! ### Arbiters -/

/-- An arbiter (R325, R326): its LFSR, and the competitor number that it served last without tickets. -/
structure Arb where
  lfsr : BitVec 32 := 1
  last : Option Nat := none
  deriving DecidableEq, Repr

/-! ### Contexts -/

/-- RFE_CTX_CTL.STATE (R39). -/
inductive CtxState where
  | disabled | enabled | parked | closing
  deriving DecidableEq, Repr

/-- RFE_PARK.CAUSE (R42). -/
inductive ParkCause where
  | none | stall | tailRange | operator | ringFault
  deriving DecidableEq, Repr

/-- Which command put a context into CLOSING (R44). -/
inductive Closing where
  | byDisable | byReset
  deriving DecidableEq, Repr

/-- A mismatched descriptor's wait (R63 to R66): timed refetches made, when the next is due, whether an immediate refetch
without budget is owed, and the stamp of the final expiry. -/
structure Refetch where
  retries : Nat
  due : Word
  urgent : Bool
  stallAt : Option Word
  suspended : Bool
  deriving DecidableEq, Repr

/-- A context record (R42) and its working state. -/
structure Ctx where
  gen : BitVec 12 := 0
  paddock : PdkNum := 0
  state : CtxState := .disabled
  tickets : Byte := 0x10
  operator : Bool := false
  dieDb : Bool := false
  sqBase : BitVec 52 := 0
  sqInHost : Bool := false
  sqTail : Idx := 0
  sqHead : Idx := 0
  retryBudget : Byte := 8
  sqLog2 : BitVec 5 := 0
  cqLog2 : BitVec 5 := 0
  notify : Bool := false
  vector : BitVec 11 := 0
  cqBase : BitVec 52 := 0
  cqInHost : Bool := false
  cqTail : Idx := 0
  cqHead : Idx := 0
  spoolBase : BitVec 45 := 0
  outstanding : Nat := 0
  spooled : Nat := 0
  parkIndex : Idx := 0
  parkRetries : Byte := 0
  parkCause : ParkCause := .none
  tallyAccept : Word := 0
  tallyPost : Word := 0
  tallyRefetch : Word := 0
  refetch : Option Refetch := none
  closing : Option Closing := none
  savedHead : Idx := 0
  savedCqTail : Idx := 0
  owed : List (Word × BitVec 32) := []
  deriving DecidableEq, Repr

/-! ### Descriptors in work -/

/-- A point of coherence that a request is sent to (R235). -/
inductive Dest where
  | stack (n : BitVec 5) (pa : Nat)
  | die (d : DieNum) (pa : Nat)
  | host (addr : Nat)
  | peer (d : DevNum) (va : Nat)
  deriving DecidableEq, Repr

/-- A request on its way: where to, the first bit within the byte, the tag that the inline cipher sees, the paddock and EPOCH
of the leaf it came through (R106, R110), the paddock-virtual address, whether the next
stage has yet to accept it (R328, R331), whether an invalidation of translations or of reach bytes waits for it (R114, R300), and
since when a locked granule holds it (R307). -/
structure Req where
  dest : Dest
  bit : Nat
  tag : Tag
  epoch : Option (PdkNum × BitVec 4) := none
  va : Nat
  waiting : Bool := false
  oldLeaf : Bool := false
  oldReach : Bool := false
  held : Option Word := none
  deriving DecidableEq, Repr

/-- The state of one element of a stream. `idle`: not reached; `todo`: the walker has reached it, and an input is awaited;
`ask`: its address waits for a translation; `half`: its value waits for the elements that share its bytes (R196); `fly`: its request is on its way; `got`: its value is here; `same`: it takes the
value of an earlier position, whose read it shares (R126, R156); `oob`: out of bounds; `done`: written and acknowledged;
`failed`: with the status and, for a peer, the device. `bad` marks a value derived from a poisoned or uncorrectable word
(R21). -/
inductive El where
  | idle
  | todo
  | ask (v : Nat) (bad : Bool)
  | half (v : Nat) (bad : Bool)
  | fly (q : Req) (v : Nat) (bad : Bool)
  | got (v : Nat) (bad : Bool)
  | same (p : Nat)
  | oob
  | done
  | failed (st : Status) (dev : DevNum)
  deriving DecidableEq, Repr

/-- A dimension of a view record (R85). -/
structure Dim where
  stride : Int
  extent : Nat
  lo : Nat
  len : Nat
  deriving DecidableEq, Repr

/-- A checked view record (R85). -/
structure View where
  dtype : Nat
  fill : Nat
  dims : List Dim
  deriving DecidableEq, Repr

/-- A view slot of a descriptor (R54). -/
structure Slot where
  view : BitVec 24
  device : DevNum
  base : BitVec 48
  deriving DecidableEq, Repr

/-- Where a descriptor stands. -/
inductive Stage where
  | fetched    -- handle issued
  | queued     -- dispatched, in its lead region's walker queue
  | running    -- executing
  | waiting    -- a FLAG_WAIT registered, a FENCE or a sync operation under way
  | finished   -- its status is known; the completion is not yet posted
  | spooled    -- its completion is in the spool
  deriving DecidableEq, Repr

/-- The idempotence class of a descriptor (R399). -/
inductive IdemClass where
  | i | a | n
  deriving DecidableEq, Repr

/-- A descriptor that has been fetched and whose completion is not yet in the completion ring (R76). -/
structure Job where
  handle : Word
  words : List Word := []
  payload : List Byte := []
  paddock : PdkNum := 0
  tickets : Byte := 0
  postIndex : Idx := 0
  cls : IdemClass := .i
  accepted : Bool := false
  adopted : Bool := false
  stage : Stage := .fetched
  lead : Region := 0
  -- dispatched again after the loss of a unit: in the same region (R414)
  stay : Bool := false
  -- walker, layout units, compressor
  walker : Option (BitVec 5) := none
  units : Nat := 0
  compressor : Bool := false
  grantStamp : Word := 0
  quantumAt : Word := 0
  queueStamp : Word := 0
  waited : Nat := 0
  starved : Option Word := none
  yieldAt : Option Word := none
  yieldTo : Option Word := none
  yieldLevel : Nat := 2
  compStamp : Word := 0
  compQuantum : Word := 0
  slot : Bool := false
  -- the last boundary that the walker passed, the end of its current advance, and where a cut-off rewinds to; the starts of its advances, the
  -- newest first; how far its commands let it come
  lastBound : Nat := 0
  nextBound : Nat := 0
  cutTo : Nat := 0
  bounds : List Nat := []
  asked : Nat := 0
  -- the streams
  checked : Bool := false
  viewWords : List (Option (List Word)) := []
  emitted : Nat := 0
  indexBack : Bool := false
  idxEl : SMap El := []
  srcEl : SMap El := []
  scaleInEl : SMap El := []
  dstEl : SMap El := []
  scaleOutEl : SMap El := []
  -- positions to be written again, accumulate operations counted (run and beat), lookups made, how far the cast unit has come, and what it
  -- has made of the positions before; `indexBack`: the first index run has returned (R157)
  again : List Nat := []
  ops : List (Nat × Nat) := []
  looked : List (StreamId × Nat × Nat) := []
  castNext : Nat := 0
  castVal : SMap Nat := []
  oob : Nat := 0
  collisions : Nat := 0
  replaced : Nat := 0
  replWords : List Nat := []
  badWords : List (DevNum × Nat) := []
  fault : Option (Nat × Status × DevNum) := none
  poisoned : Bool := false
  -- Cerhus
  pass : Nat := 0
  choice : CompressChoice := ⟨[], []⟩
  coded : List (List Byte) := []
  reread : Bool := false
  blocksDone : List Nat := []
  sending : List (Nat × BitVec 5) := []
  setWaits : List (BitVec 5) := []
  corrupt : List (Nat × BitVec 5) := []
  badImage : Bool := false
  -- invalidate messages not yet acknowledged, by die
  invals : List DieNum := []
  -- flag and fold operations
  syncSent : Bool := false
  waitId : Option Nat := none
  answer : Option (Status × Word × Word) := none
  -- exactly once
  doneChunks : List (Nat × Word) := []
  marked : List (Nat × Nat) := []
  progress : Option (Nat × Bool) := none
  skipBelow : Nat := 0
  homeStatus : Option Status := none
  -- outcome
  status : Status := 0
  detail : Word := 0
  ready : Option Word := none
  deriving DecidableEq, Repr

/-! ### RFE and CXS -/

/-- A doorbell recorded by the always-on catcher for one context (R51). -/
structure Caught where
  ctx : CtxNum
  sq : Option Word := none
  cq : Option Word := none
  deriving DecidableEq, Repr

/-- RFE: the doorbell catcher, doorbells withheld, the landing buffer, and the fetch arbiter with the contexts that starve at it and
the cycles that each has waited (R25, R51, R329). -/
structure Rfe where
  caught : List Caught := []
  withheld : List (CtxNum × Bool × Word) := []
  landing : List (Nat × List Byte) := []
  arb : Arb := {}
  starvedCtx : List (CtxNum × Word) := []
  waited : SMap Nat := []
  deriving DecidableEq, Repr

/-- The commands of CXS_CTX_CMD that stay BUSY (R41, R44). -/
inductive CtxBusy where
  | idle
  | closing (c : CtxNum)
  deriving DecidableEq, Repr

structure Cxs where
  sel : CtxNum := 0
  result : BitVec 4 := 0
  busy : CtxBusy := .idle
  storeBase : BitVec 36 := 0
  cache : List CtxNum := []
  away : SMap (List Word) := []
  deriving DecidableEq, Repr

/-! ### JRN -/

/-- Kinds of journal records (R393). -/
inductive JKind where
  | accept | retire | applied | progress | cursor | attach
  deriving DecidableEq, Repr

/-- A journal record (R393, R394). -/
structure JRec where
  jseq : Nat
  word1 : Word
  word2 : Word
  kind : JKind
  carried : Bool := false
  adopted : Bool := false
  doubt : Bool := false
  kspec : BitVec 24 := 0
  deriving DecidableEq, Repr

/-- JRN_CTL.STATE (R391). -/
inductive JState where
  | detached | attached | held | adopting
  deriving DecidableEq, Repr

/-- A write on the host link (R236): address and bytes. -/
structure HostWrite where
  addr : Nat
  bytes : List Byte
  deriving DecidableEq, Repr

structure Jrn where
  base : BitVec 52 := 0
  sizeLog2 : BitVec 5 := 0
  result : BitVec 4 := 0
  state : JState := .detached
  busy : Bool := false
  headSeq : Nat := 0
  durableSeq : Nat := 0
  tailSeq : Nat := 0
  recs : List JRec := []
  waiting : List JRec := []
  flushTo : Option Nat := none
  heldOut : List HostWrite := []
  deriving DecidableEq, Repr

/-! ### WLK and ATG -/

/-- WLK_VC_INV (R84): its fields, and the removal under way with what it removes. -/
structure VcInv where
  paddock : PdkNum := 0
  view : BitVec 24 := 0
  busy : Bool := false
  op : BitVec 2 := 0
  ofPaddock : PdkNum := 0
  ofView : BitVec 24 := 0
  deriving DecidableEq, Repr

/-- A cached view record: paddock, index, and its sixteen words (R82). -/
structure VcEntry where
  paddock : PdkNum
  view : BitVec 24
  words : List Word
  deriving DecidableEq, Repr

/-- A leaf (R109): page size as a power of two, page address, EPOCH and permissions. -/
structure Leaf where
  log2 : Nat
  addr : Nat
  epoch : BitVec 4
  host : Bool
  wr : Bool
  rd : Bool
  deriving DecidableEq, Repr

/-- A translation-cache entry (R111): paddock, page base, leaf. -/
structure TlbEntry where
  paddock : PdkNum
  va : Nat
  leaf : Leaf
  deriving DecidableEq, Repr

/-- A page walk in progress in a slice (R111), with the ROOT that stood when it began (R108). -/
structure Walk where
  paddock : PdkNum
  page : Nat
  root : BitVec 52
  deriving DecidableEq, Repr

/-- The commands of ATG_PDK_CMD that stay BUSY (R299 to R301, R316). -/
inductive PdkBusy where
  | idle
  | census (e : BitVec 4)
  | retiring (e : BitVec 4)
  | reach
  | wkeyLoad
  | wkeyErase
  deriving DecidableEq, Repr

structure Atg where
  sel : PdkNum := 0
  invVa : BitVec 32 := 0
  invLog2 : BitVec 6 := 16
  invPaddock : PdkNum := 0
  invBusy : Bool := false
  invOp : BitVec 2 := 0
  invOf : PdkNum := 0
  invLo : Nat := 0
  invSize : Nat := 0
  cmdResult : BitVec 4 := 0
  cmdArg : BitVec 4 := 0
  cmdBusy : PdkBusy := .idle
  censusEpoch : BitVec 4 := 0
  censusPages : BitVec 40 := 0
  tlb : List (List TlbEntry) := [[], [], [], []]
  walks : List (List Walk) := [[], [], [], []]
  reach : List (List (PdkNum × Nat × Byte)) := [[], [], [], []]
  reachBad : List (PdkNum × Nat) := []
  slotKeys : SMap Nat := []
  deriving DecidableEq, Repr

/-- ATG_PDK_WKEY.STATE (R313). -/
inductive WkeyState where
  | empty | loaded | refused
  deriving DecidableEq, Repr

/-- A paddock's entry (R81, R108, R290, R292, R296, R313). `erasing` marks a window that WKEY_ERASE has closed (R316). -/
structure Paddock where
  vtBase : BitVec 52 := 0
  vtLog2 : BitVec 5 := 0
  ptRoot : BitVec 52 := 0
  l1Log2 : BitVec 5 := 0
  enable : Bool := false
  scrubbing : Bool := false
  sweeping : Bool := false
  dieMask : BitVec 4 := 0
  reachBase : BitVec 55 := 0
  writeEpoch : BitVec 4 := 0
  live : BitVec 16 := 1
  wkeyState : WkeyState := .empty
  slot : Byte := 0
  policy : BitVec 2 := 0
  wwinBase : BitVec 27 := 0
  wwinLimit : BitVec 27 := 0
  blobAddr : BitVec 58 := 0
  blobHost : Bool := false
  erasing : Bool := false
  deriving DecidableEq, Repr

structure Wlk where
  inv : VcInv := {}
  cache : List (List VcEntry) := [[], [], [], []]
  fenced : List (BitVec 5) := []
  queue : List Arb := [{}, {}, {}, {}]
  deriving DecidableEq, Repr

/-! ### LAY, CST, DRV, CDC -/

structure Lay where
  fenced : List (BitVec 6) := []
  deriving DecidableEq, Repr

structure Cst where
  lfsr : List (BitVec 32) := [1, 1, 1, 1]
  seeds : List (BitVec 32) := [1, 1, 1, 1]
  deriving DecidableEq, Repr

/-- An entry of a Drover's recent-write tag file (R161): beat, byte mask, writer (none: no descriptor). -/
structure TagEntry where
  beat : Nat
  mask : BitVec 64
  writer : Option (DevNum × CtxNum × Idx)
  deriving DecidableEq, Repr

structure Drover where
  fenced : Bool := false
  tags : List TagEntry := []
  sets : List Word := []
  deriving DecidableEq, Repr

structure Cdc where
  fenced : List Region := []
  arb : List Arb := [{}, {}, {}, {}]
  deriving DecidableEq, Repr

/-! ### NPI and OPI -/

/-- NPI_PEER_STAT of one device (R430), and at a Bellwether the EPOCH that the worker last reported (R432). -/
structure PeerStat where
  state : BitVec 2 := 0
  cause : BitVec 4 := 0
  ident : BitVec 32 := 0
  epoch : BitVec 32 := 0
  deriving DecidableEq, Repr

/-- What a peer's data request does at this device (R32, R171). -/
inductive PeerOp where
  | put (scatter : Bool)
  | get
  | acc (op dtype : BitVec 2) (fill : BitVec 32) (poisoned : List Nat)
  deriving DecidableEq, Repr

/-- A peer's data request in service: waiting for a translation or a region (`req = none`), or sent to its point of
coherence; the elements of a get, and the words of a write, that a Drover's buffers have lost (R353). -/
structure PeerServe where
  id : Nat
  q : PeerReq
  op : PeerOp
  bytes : List Byte
  req : Option Req
  spoilt : List Nat := []
  replaced : Nat := 0
  deriving DecidableEq, Repr

/-- A POD-scope release (or other sync message) held at this NPI behind earlier requests of its queue pair (R246). -/
inductive SyncOp where
  | set (flag : BitVec 18)
  | clear (flag : BitVec 18)
  | arrive (fold : BitVec 16) (count : Byte)
  deriving DecidableEq, Repr

structure HeldSync where
  m : PeerSync
  op : SyncOp
  behind : List Nat
  deriving DecidableEq, Repr

/-- A message to a peer (R32, R170, R246, R268, R412, R429, R430, R434, R439). -/
inductive NpiMsg where
  | put (q : PeerReq) (bytes : List Byte) (scatter : Bool)
  | get (q : PeerReq)
  | acc (q : PeerReq) (op dtype : BitVec 2) (bytes : List Byte) (fill : BitVec 32) (poisoned : List Nat)
  | sync (m : PeerSync) (op : SyncOp)
  | wait (m : PeerSync) (flag : BitVec 18) (waitFor : Bool) (timeout : BitVec 48)
  | withdraw (ctx : CtxNum) (id : Nat)
  | forwarded (m : PeerSync) (fold child : BitVec 16)
  | release (fold : BitVec 16) (scope : Scope)
  | ack (id : Nat) (status : Status) (collisions replaced : Nat)
  | data (id : Nat) (status : Status) (bad : List Nat) (bytes : List Byte)
  | result (ctx : CtxNum) (id : Nat) (status : Status) (detail : Word)
  | refused (id : Nat)
  | noRecord (ctx : CtxNum) (id : Nat)
  | resetNotice
  | join (m : JoinMsg)
  | beacon (b : Beacon)
  | syncReq (m : SyncReport)
  | syncRsp (m : SyncAnswer)
  | spdm (k : SpdmKind)
  deriving DecidableEq, Repr

/-- NPI (R430, R246): the vector, the requests in service, the releases held, the routes lost, and the devices with which a
queue pair is held. -/
structure Npi where
  sel : DevNum := 0
  peers : SMap PeerStat := []
  serving : List PeerServe := []
  heldSync : List HeldSync := []
  nextReq : Nat := 0
  lost : List DevNum := []
  pairs : List DevNum := []
  deriving DecidableEq, Repr

/-- OPI_DIE_CFG of one die (R463). -/
structure DieCfg where
  enable : Bool := false
  result : BitVec 2 := 0
  syncCtx : CtxNum := 0
  portMask : Byte := 0
  disabling : Bool := false
  deriving DecidableEq, Repr

/-- A message to a compute die (R241, R259, R293). -/
inductive DieMsg where
  | dieAck (flag : BitVec 18) (status : Status)
  | wake (token : BitVec 16) (status : Status) (detail : BitVec 2)
  | resetNotice (port : BitVec 3)
  | invalidate (port : BitVec 3) (pa len : Nat)
  | write (port : BitVec 3) (pa : Nat) (bits : Nat) (v : Nat)
  | read (port : BitVec 3) (pa : Nat) (bits : Nat)
  | answer (id : Nat) (status : Status) (bytes : List Byte)
  deriving DecidableEq, Repr

/-- A die's access in service (R293), and whether a Drover's buffers have lost a word of it (R353). -/
structure DieServe where
  a : DieAccess
  req : Option Req
  spoilt : Bool := false
  deriving DecidableEq, Repr

structure Opi where
  die : List DieCfg := [{}, {}, {}, {}]
  ports : List (Option DieNum) := [none, none, none, none, none, none, none, none]
  serving : List DieServe := []
  deriving DecidableEq, Repr

/-! ### SYN -/

/-- A flag (R251, R252). -/
structure Flag where
  owned : Bool := false
  paddock : PdkNum := 0
  owner : CtxNum := 0
  value : Bool := false
  scope : Scope := .context
  lastDev : DevNum := 0
  lastSrc : BitVec 24 := 0
  changed : Bool := false
  deriving DecidableEq, Repr

/-- SYN_FOLD_STAT.STATE (R265). -/
inductive FoldState where
  | disabled | counting | forwarded
  deriving DecidableEq, Repr

/-- A fold (R263 to R265). -/
structure Fold where
  enable : Bool := false
  root : Bool := false
  paddock : PdkNum := 0
  rflagEn : Bool := false
  rflagAlt : Bool := false
  releaseFlag : BitVec 18 := 0
  expect : BitVec 16 := 0
  parentDev : DevNum := 0
  parentFold : BitVec 16 := 0
  state : FoldState := .disabled
  scopeMin : Scope := .context
  children : List (DevNum × BitVec 16) := []
  episode : BitVec 16 := 0
  count : Nat := 0
  deriving DecidableEq, Repr

/-- Who waits (R256, R259). -/
inductive Waiter where
  | job (h : Word)
  | peer (d : DevNum) (ctx : CtxNum) (id : Nat)
  | die (d : DieNum) (token : BitVec 16)
  deriving DecidableEq, Repr

/-- How far a waiter is from its flag's home (R275). A peer's class is that of the route in use, by the transport's tier count. -/
inductive Distance where
  | sameRegion | otherRegion | die | rack | pod
  deriving DecidableEq, Repr

/-- A wait (R256, R257): registered, or held for want of a record. -/
structure Wait where
  id : Nat
  flag : BitVec 18
  who : Waiter
  forClear : Bool
  timeout : Option Nat
  scope : Scope
  start : Word
  dist : Distance
  long : Bool
  deriving DecidableEq, Repr

/-- What an event does at its home (R270): a set or clear, an arrival, a wait, a child's arrival, a release, the change of a fold's
release flag and then the release of the fold's children, a deadline that has fired, the end of a wait before its condition holds (with what its
waiter is told, if anything), and the reset of an owner. -/
inductive HomeAct where
  | flag (f : BitVec 18) (v : Bool)
  | arrive (g : BitVec 16) (n : Byte)
  | wait (w : Wait)
  | child (g child : BitVec 16)
  | release (g : BitVec 16)
  | change (f : BitVec 18) (v : Bool) (kids : List (DevNum × BitVec 16))
  | expire (w : Wait)
  | ends (w : Wait) (how : Option (Status × Word))
  | owner (c : CtxNum) (r : Region)
  deriving DecidableEq, Repr

/-- Who operates on a flag or fold (R253, R265): device, source number bits [23:0], paddock, scope, the stamp the event is
judged by, and the context named in a history entry. -/
structure SyncSrc where
  dev : DevNum
  src : BitVec 24
  pk : PdkNum
  scope : Scope
  stamp : Word
  ctx : Option CtxNum
  deriving DecidableEq, Repr

/-- Who has the result of an event: nobody, a descriptor, a peer's request, or a die's message (R254, R259). -/
inductive SyncReply where
  | none
  | job (h : Word)
  | peer (d : DevNum) (id : Nat)
  | die (d : DieNum) (f : BitVec 18)
  deriving DecidableEq, Repr

/-- An event at a home; it may wait for its home's region to be Active (R34, R277). `ruling`, once it is made, is what the pod checks of the
states held when the event reached its home have answered: passed, or refused naming a device (R431, R438). -/
structure HomeEvent where
  act : HomeAct
  src : SyncSrc
  reply : SyncReply := .none
  ruling : Option (Option (Status × DevNum)) := none
  deriving DecidableEq, Repr

structure Syn where
  flagSel : BitVec 18 := 0
  foldSel : BitVec 16 := 0
  flags : SMap Flag := []
  folds : SMap Fold := []
  waits : List Wait := []
  held : List Wait := []
  events : List HomeEvent := []
  nextWait : Nat := 0
  lostRegions : List Region := []
  deriving DecidableEq, Repr

/-! ### SVC -/

/-- Power states (R341): codes 0, 1, 2. -/
inductive PState where
  | active | idle | sleep
  deriving DecidableEq, Repr

/-- One domain (R341 to R349): its state and since when, whether it has work and when work last ended, its wake, its request for
Active, and whether it is lowered for lending. -/
structure Dom where
  st : PState := .sleep
  since : Word := 0
  busy : Bool := false
  quiet : Word := 0
  wakeDue : Option Word := none
  wantSince : Option Word := none
  lent : Bool := false
  recalled : Bool := false
  left : Word := 0
  deriving DecidableEq, Repr

/-- SVC_PWR_CTL of one region (R344). -/
structure PwrCtl where
  minState : BitVec 2 := 0
  lendEn : Bool := true
  sleepDelay : BitVec 16 := 64
  idleDelay : BitVec 16 := 256
  deriving DecidableEq, Repr

/-- SVC_ARB_CFG of one level (R338). -/
structure ArbCfg where
  remote : Byte := 0x10
  svc : Byte := 0x04
  cutoff : Byte := 0
  starve : BitVec 12 := 0
  quantum : BitVec 12 := 0
  deriving DecidableEq, Repr

/-- A request stream that waits at an output port of the engine crossbar (R324, R328, R329): its level and port, whose it is, the stamp at which
its grant was parked, the cycles it has been eligible and not granted, the stamp at which it became starved, and how many writes were held for the
host when it began to wait (R416). -/
structure PortWait where
  level : Level
  port : Nat
  who : PortUser
  parked : Option Word := none
  waited : Nat := 0
  starved : Option Word := none
  behind : Nat := 0
  deriving DecidableEq, Repr

/-- Phases of a sweep's granule (R305), with the steps of R308 at the end of a leaf, the wait for the record that releases its last granule,
and the scrub's wait and zero writes (R318). -/
inductive SweepPhase where
  | start | quiesce | copying | recorded | writing | closing | leaf | leafWait | leafClose | finish
  deriving DecidableEq, Repr

/-- A REKEY_SWEEP or SCRUB that SVC runs (R304 to R318). `va` is the cursor granule, `pa` its physical address, `leaf` the
base and size of the page it lies in. `slot` is its slot of the scratch area (R310). -/
structure Sweep where
  handle : Word
  slot : BitVec 2
  scrub : Bool
  paddock : PdkNum
  fromE : BitVec 4
  toE : BitVec 4
  phase : SweepPhase := .start
  va : Nat := 0
  pa : Nat := 0
  page : Nat := 0
  log2 : Nat := 0
  scratchB : Bool := false
  abandons : Nat := 0
  nextCopy : Option Bool := none
  nextAbandons : Nat := 0
  skipped : Option (Nat × Status) := none
  words : Nat := 0
  nextWords : Nat := 0
  deriving DecidableEq, Repr

/-- What self-test has found and mapped in one macro of a target (R382, R383): structure, macro number, spare rows used,
whether the spare column is, and visits failed. -/
structure MacroUse where
  structId : Byte
  macroNo : Byte
  rows : Nat := 0
  col : Bool := false
  fails : Nat := 0
  deriving DecidableEq, Repr

/-- A spare mapped (R382): structure, macro, 1 spare row or 2 spare column, and the row or column. -/
structure Repair where
  structId : Byte
  macroNo : Byte
  kind : BitVec 2
  addr : BitVec 16
  deriving DecidableEq, Repr

/-- A self-test target's standing (R376 to R383): the stamp at which its last complete visit ended, slices of the visit done,
segments of the slice done, whether a segment runs; whether it is overdue, whether its arbiter has granted it the unit for one segment, whether it has won a yield, the
cycles it has waited for that and since when it is starved (R380); whether the visit is diagnostic, whether the MISR has left the reference, the
repairs that a visit run again confirms with the structure of a macro that no spare covers (R382); whether a sample of the visit lay outside R12
(clock, voltage), and the invalid visits in a row. -/
structure Bist where
  last : Word := 0
  slice : Nat := 0
  segment : Nat := 0
  active : Bool := false
  overdue : Bool := false
  granted : Bool := false
  won : Bool := false
  waited : Nat := 0
  starved : Option Word := none
  diag : Bool := false
  failed : Bool := false
  rerun : Option (List Repair) := none
  uncovered : Option Byte := none
  badClock : Bool := false
  badVolt : Bool := false
  invalid : Nat := 0
  macros : List MacroUse := []
  fenced : Bool := false
  deriving DecidableEq, Repr

/-- A fuse candidate (R383). -/
structure FuseCand where
  valid : Bool := false
  fused : Bool := false
  kind : BitVec 2 := 0
  addr : BitVec 16 := 0
  macroNo : Byte := 0
  structId : Byte := 0
  inst : BitVec 6 := 0
  sub : BitVec 4 := 0
  deriving DecidableEq, Repr

/-- Phases of an engine reset (R404, R453); `wait` is a reset phase that waits for ENG_RESET_L to rise. -/
inductive ResetPhase where
  | none | settle | wait | resetting | waitReplay | replay
  deriving DecidableEq, Repr

/-- SVC_ENG_RESET and the engine reset in progress (R403 to R411). -/
structure EngReset where
  settled : Bool := false
  settleMs : BitVec 16 := 100
  auto : Bool := false
  req : Bool := false
  phase : ResetPhase := .none
  byPin : Bool := false
  fatal : Bool := false
  mode : BitVec 2 := 0
  began : Word := 0
  deriving DecidableEq, Repr

/-- SVC_START_STAT and the cold start (R455). -/
structure Start where
  ready : Bool := false
  failed : Bool := false
  phase : BitVec 4 := 0
  cause : BitVec 4 := 0
  elapsed : BitVec 32 := 0
  phaseSince : Word := 0
  deriving DecidableEq, Repr

/-- SVC_POD_CTL, SVC_POD_STAT, SVC_POD_EPOCH, SVC_POD_AREA (R425 to R428) and the joins under way (R429). -/
structure Pod where
  role : BitVec 2 := 0
  bellwether : DevNum := 0
  notify : Bool := false
  vector : BitVec 11 := 0
  beaconUs : BitVec 16 := 100
  lostN : Byte := 10
  reverify : Bool := false
  self : BitVec 2 := 0
  stale : Bool := false
  rival : Bool := false
  changed : Bool := false
  device : DevNum := 0
  epoch : BitVec 32 := 0
  areaBase : BitVec 44 := 0
  reqCount : BitVec 5 := 0
  judging : List JoinMsg := []
  joinQueue : List JoinMsg := []
  beaconSeq : Nat := 0
  beaconAt : Word := 0
  joinAt : Word := 0
  joined : Bool := false
  lastSync : SMap Nat := []
  published : List (DevNum × BitVec 2) := []
  deriving DecidableEq, Repr

/-- SVC_PWR_ENG, SVC_PWR_SAVE, SVC_PWR_BUDGET (R345, R346, R350) and the recalls outstanding (R450). -/
structure Power where
  dormantEn : Bool := false
  engMin : BitVec 2 := 0
  dormantDelay : BitVec 16 := 1000
  rotateUs : Byte := 20
  dormant : Bool := true
  dormantExit : Option Word := none
  saveBase : BitVec 41 := 0
  savedAs : Option (Nat × Nat) := none
  grant : BitVec 12 := 0x960
  cap : BitVec 12 := 0x960
  recalls : List (Region × Word) := []
  ctl : List PwrCtl := [{}, {}, {}, {}]
  region : List Dom := [{}, {}, {}, {}]
  engine : Dom := {}
  deriving DecidableEq, Repr

structure Svc where
  start : Start := {}
  clkIn : Bool := false
  clkMv : BitVec 16 := 0
  clkMhz : BitVec 16 := 0
  reset : EngReset := {}
  scratch : BitVec 45 := 0
  sweeps : List Sweep := []
  arbCut : BitVec 4 := 0
  arbStarved : BitVec 4 := 0
  arbEn : Bool := false
  arbVector : BitVec 11 := 0
  ports : List PortWait := []
  portArb : List Arb := List.replicate 27 {}
  unitArb : List Arb := List.replicate 43 {}
  arb : List ArbCfg := [
    { starve := 1 },
    { cutoff := 8, starve := 16, quantum := 64 },
    { cutoff := 8, starve := 32, quantum := 8 },
    { starve := 16 }]
  power : Power := {}
  bistEn : Bool := true
  bistMask : BitVec 12 := 0
  bistTickets : Byte := 4
  bistVisit : BitVec 16 := 600
  bistInterval : BitVec 16 := 200
  bist : SMap Bist := []
  bistAt : Word := 0
  bistSince : Word := 0
  measures : List (List Byte) := []
  wheelAt : Option Nat := none
  fuseSel : BitVec 5 := 0
  cands : List FuseCand := List.replicate 32 {}
  fuseBusy : Option (BitVec 5) := none
  fuseAt : Word := 0
  fuseResult : BitVec 3 := 0
  pod : Pod := {}
  spdm : List SpdmFrom := []
  restarting : Bool := false
  restarts : Nat := 0
  lastExpiry : Option Word := none
  kick : Word := 0
  deriving DecidableEq, Repr

/-! ### FLT -/

/-- A fault event on its way (R364): its stamp and AO cycle, and `reached` once it has come to FLT, with the severity applied. -/
structure FEvent where
  stamp : Word
  cycle : Nat := 0
  source : BitVec 16
  cls : FClass
  ctx : Option CtxNum := none
  detail : Word := 0
  reached : Bool := false
  sev : Severity := .log
  mode : BitVec 2 := 0
  deriving DecidableEq, Repr

/-- A held history entry (R363). -/
structure HistEntry where
  poisoned : Bool := false
  ctx : Option CtxNum := none
  cls : FClass := .notice
  source : BitVec 16 := 0
  stamp : Word := 0
  count : Nat := 1
  sev : Severity := .log
  mode : BitVec 2 := 0
  detail : Word := 0
  deriving DecidableEq, Repr

/-- ENG_ALERT_L (R370, R371): driven low or not, the last AO cycle in which it must stay low, the AO cycle until which it must stay high, the change of
the pin that is due with its AO cycle, and the AO cycle of the last alerting cause. -/
structure Alert where
  active : Bool := false
  pending : Bool := false
  hold : Bool := true
  contEn : Bool := false
  lowUntil : Nat := 0
  highUntil : Nat := 0
  due : Option (Bool × Nat) := none
  causeAt : Option Nat := none
  deriving DecidableEq, Repr

/-- A codeword with `bits` inverted data bits that stands in a structure (R375): the word, and what was written into it. -/
structure Plant where
  sub : BitVec 4
  inst : BitVec 6
  structId : Byte
  bits : BitVec 2
  word : Nat
  content : Nat
  deriving DecidableEq, Repr

/-- FLT_INJECT (R375): its fields, the named structure's contents when it was armed, and the codewords that injections have inverted and nothing
has read since. -/
structure Inject where
  armed : Bool := false
  sub : BitVec 4 := 0
  inst : BitVec 6 := 0
  structId : Byte := 0
  bits : BitVec 2 := 0
  snap : List (Nat × Nat) := []
  plants : List Plant := []
  deriving DecidableEq, Repr

/-- FLT_TIME_STAT and the worker's time exchanges (R434 to R437). -/
structure TimeStat where
  unsynced : Bool := true
  skew : BitVec 16 := 0xFFFF
  pendingNs : Int := 0
  deltas : List Int := []
  good : Nat := 0
  lost : Nat := 0
  open_ : Option Word := none
  lastBeacon : Word := 0
  deriving DecidableEq, Repr

structure Flt where
  mode : BitVec 2 := 0
  fatal : Bool := false
  firstSource : BitVec 16 := 0
  alert : Alert := {}
  wdogEn : Bool := false
  wdogPeriod : BitVec 16 := 100
  inject : Inject := {}
  time : TimeStat := {}
  events : List FEvent := []
  hist : List HistEntry := []
  lost : Nat := 0
  severity : List Word := (List.range 28).map severityReset
  deriving DecidableEq, Repr

/-! ### The whole -/

/-- Inputs at the boundary (R446). -/
structure Pins where
  aoResetL : Bool := false
  engResetL : Bool := true
  corePg : Bool := true
  devNumValid : Bool := true
  hostLinkUp : Bool := true
  vmonMv : BitVec 12 := 750
  engMhz : BitVec 16 := 1750
  devNum : DevNum := 0
  deriving DecidableEq, Repr

/-- What SVC supports of SPDM 1.2 (R323). -/
inductive SpdmPart where
  | certCap | chalCap | measCapSigned | ecdsaP384 | sha384Base | sha384Measurement | dmtfMeasurement
  deriving DecidableEq, Repr

/-- SVC's answer to an SPDM request (R323): ERROR with code Busy, or UnsupportedRequest; the version; capabilities and algorithms; the digest of
slot 0's chain, and the chain; a signature over a challenge with the measurement digest; the measurement values by index, signed or not. -/
inductive SpdmAnswer where
  | busy
  | unsupported
  | version (v : Byte)
  | supports (ps : List SpdmPart)
  | digest (slot : Nat) (d : List Byte)
  | certificate (slot : Nat) (chain : List Byte)
  | challenged (digest signature : List Byte)
  | measured (vs : List (Nat × List Byte)) (signature : Option (List Byte))
  deriving DecidableEq, Repr

/-- What leaves Vrelop across its boundary (log 9). -/
inductive Out where
  | host (w : HostWrite)
  | flush
  | hostRead (addr bits : Nat)
  | msi (vector : BitVec 11)
  | npi (d : DevNum) (m : NpiMsg)
  | die (d : DieNum) (m : DieMsg)
  | spdm (src : SpdmFrom) (a : SpdmAnswer)
  | cipherLoad (slot : Byte) (addr : Nat) (host : Bool)
  | cipherErase (slot : Byte)
  | recall (r : Region)
  deriving DecidableEq, Repr

/-- Everything but the stacks' memory and the command queue. `fuses` are the repair fuses programmed, which no reset undoes
(R383). -/
structure Eng where
  pins : Pins := {}
  now : Word := 0
  aoCycle : Nat := 0
  memMap : List MapEntry := []
  ctxs : SMap Ctx := []
  cxs : Cxs := {}
  rfe : Rfe := {}
  jobs : List Job := []
  jrn : Jrn := {}
  wlk : Wlk := {}
  atg : Atg := {}
  pdks : SMap Paddock := []
  lay : Lay := {}
  cst : Cst := {}
  drv : List Drover := List.replicate 20 {}
  cdc : Cdc := {}
  npi : Npi := {}
  opi : Opi := {}
  syn : Syn := {}
  svc : Svc := {}
  flt : Flt := {}
  fuses : List FuseCand := []
  tally : SMap Word := []
  freeCount : Nat := 0
  out : List Out := []
  deriving DecidableEq, Repr

/-- Why a step would stop. No meaning stops with a fault: every condition of the manual is a status, an event at FLT or no
effect (INVENTORY.md, Faults). The constructor names the one thing that has no place in the model; nothing raises it. -/
inductive Fault where
  /-- Raised by no command. Safe. -/
  | outsideModel
  deriving DecidableEq, Repr

/-- Why a command would be refused. -/
inductive Refusal where
  /-- Raised by an arm of exec that has no meaning yet; the string is the row's mnemonic. Safe. -/
  | notModelled (mnemonic : String)
  deriving DecidableEq, Repr

/-- The machine: the engine, the stacks' memory, and the commands that wait, first in, first out. -/
structure State where
  eng : Eng
  mem : Memory
  pending : List Instr
  deriving DecidableEq, Repr

/-- TL9's memory map at reset (log 7): stack n in a window of 2^37 bytes of its own, holding 80 GB in whole 64 KiB blocks, of which
stack 19 gives Vrelop's context store 256 MiB; die d's aperture above 2^43. -/
def resetMap : List MapEntry :=
  ((List.range 19).map fun n => ⟨n * 2 ^ 37, 79999991808, .stack (BitVec.ofNat 5 n)⟩)
    ++ [⟨19 * 2 ^ 37, 297 * 2 ^ 28, .stack 19⟩, ⟨19 * 2 ^ 37 + 297 * 2 ^ 28, 2 ^ 28, .store 19⟩,
      ⟨19 * 2 ^ 37 + 298 * 2 ^ 28, 6225920, .stack 19⟩]
    ++ (List.range 4).map fun d => ⟨2 ^ 43 + d * 2 ^ 40, 2 ^ 40, .aperture (BitVec.ofNat 2 d)⟩

/-- The machine while AO_RESET_L is low (R452): every register and tally at its reset value, the time base at 0. -/
def State.reset : State where
  eng := { memMap := resetMap }
  mem := {}
  pending := []

end Sys2Proof.Machine
end

