-- ==== Sys2Proof/Config.lean ====
section
/-! DEFINITION. What an implementation or a neighbour fixes and what the manual leaves open, as constants with no body: nothing
can be proved of their values, so a claim holds whatever they are (log 6). -/

namespace Sys2Proof

/-- What the inline cipher makes of byte `b` at address `a`, written under one tag and read under another (R295). -/
opaque Config.wrongKey (written readAs a : Nat) (b : Byte) : Byte

/-- The device identity public key in the encoding of R394. -/
opaque Config.identityKey : List Byte

/-- The blocks that SVC measures, by index 1 to 4 (R322). -/
opaque Config.measured : Nat → List Byte

/-- The certificate chain of slot 0 (R323). -/
opaque Config.certChain : List Byte

/-- A signature by the device identity key (R323), drawn afresh each time. -/
opaque Config.signature (draw : Nat) : List Byte

/-- The delay with which a source delivers its events to FLT, from 1 AO cycle up to 8, by its placement (R364). -/
opaque Config.faultDelay : BitVec 16 → Nat

/-- What becomes of a codeword with four flipped bits or more (R355): 0 detected, 1 miscorrected, else undetected; drawn afresh each time. -/
opaque Config.wideError (draw : Nat) : Nat

/-- When SVC's main loop last completed before an expiry (R373); drawn afresh each time. -/
opaque Config.lastKick (draw : Nat) : Nat

/-- The place of arbiter `n` in the unpublished order of R459 (k = 4 upwards). -/
opaque Config.arbSeed : Nat → Nat

/-- A byte that the manual leaves unspecified (R214, R220); drawn afresh for each position. -/
opaque Config.slack (draw pos : Nat) : Byte

/-- What is written into the save area on an entry to Dormant, in a form that the manual does not give (R346); drawn afresh each time. -/
opaque Config.saveImage (draw : Nat) : List Byte

/-- What SVC makes of a save area whose bytes are not those that it saved (R346, log 26): flags, folds, and the waits kept. -/
opaque Config.restoredFlags (found : List Byte) : List (BitVec 18 × Machine.Flag)
opaque Config.restoredFolds (found : List Byte) : List (BitVec 16 × Machine.Fold)
opaque Config.restoresWait (found : List Byte) (id : Nat) : Bool

/-- Which entry a full cache gives up where no rule says (R82, R111); drawn afresh each time. -/
opaque Config.victim : Nat → Nat

/-- The switch tiers of the transport's route to a device, when a wait is registered (R275); drawn afresh each time. -/
opaque Config.routeTiers (draw device : Nat) : Nat

end Sys2Proof
end

