-- ==== Sys2Proof/Machine/Ops.lean ====
section
/-! DEFINITION. The named operations that the meanings share: how a command acts on the state, the stacks' memory with its
key tags, time, tallies, what leaves the boundary, fault events, contexts, paddocks and descriptors in work, and CRC-32C. -/

namespace Sys2Proof.Machine

/-! ### Writes to the stacks' memory -/

/-- One write to stack memory: address, the tag it is encrypted under, bytes. -/
structure MemOp where
  addr : Nat
  tag : Tag
  bytes : List Byte
  deriving DecidableEq, Repr

/-- One byte written under a tag. -/
def Memory.setByte (m : Memory) (tag : Tag) (a : Nat) (b : Byte) : Memory :=
  { cells := mapSet Memory.blank m.cells a b, tags := mapSet Tag.clear m.tags a tag }

/-- Bytes written at rising addresses. -/
def Memory.write (m : Memory) (tag : Tag) (a : Nat) : List Byte → Memory
  | [] => m
  | b :: bs => Memory.write (m.setByte tag a b) tag (a + 1) bs

/-- `n` bytes from `a` on zeroed in the clear: nothing is listed there. -/
def Memory.zero (m : Memory) (a n : Nat) : Memory :=
  let out := fun (k : Nat) => !(decide (a ≤ k) && decide (k < a + n))
  { cells := m.cells.filter fun c => out c.1, tags := m.tags.filter fun c => out c.1 }

/-- The memory after a list of writes, oldest first. -/
def applyOps (m : Memory) (ops : List MemOp) : Memory :=
  ops.foldl (fun m o => m.write o.tag o.addr o.bytes) m

/-- What a command does: the engine afterwards, and its writes to stack memory, oldest first. -/
structure Eff where
  eng : Eng
  ops : List MemOp := []
  deriving DecidableEq, Repr

/-- The memory as a command's later reads find it. -/
def Eff.mem (x : Eff) (m : Memory) : Memory := applyOps m x.ops

/-- The effect followed by a change of the engine. -/
def Eff.on (x : Eff) (f : Eng → Eng) : Eff := { x with eng := f x.eng }

/-- The effect followed by a second one, which finds the memory as the first left it. -/
def Eff.andThen (x : Eff) (m : Memory) (f : Memory → Eng → Eff) : Eff :=
  let y := f (x.mem m) x.eng
  { eng := y.eng, ops := x.ops ++ y.ops }

/-! ### How a command acts -/

/-- The answer of a command. -/
abbrev Answer := Host.Outcome State Fault Refusal

/-- A command that writes no stack memory. While AO_RESET_L is low it has no effect (R452, log 4). -/
def onEng (s : State) (f : Memory → Eng → Eng) : Answer :=
  .next (if s.eng.pins.aoResetL then { s with eng := f s.mem s.eng } else s)

/-- A command that may write stack memory. -/
def onMem (s : State) (f : Memory → Eng → Eff) : Answer :=
  .next (if s.eng.pins.aoResetL then
      { s with eng := (f s.mem s.eng).eng, mem := applyOps s.mem (f s.mem s.eng).ops }
    else s)

/-! ### Reading the stacks' memory -/

/-- A tag as a number, for the cipher's wrong-key reads. -/
def Tag.code : Tag → Nat
  | .clear => 0
  | .epoch p e => 1 + 2 * (p.toNat * 16 + e.toNat)
  | .slot n k => 2 + 2 * (n.toNat + 256 * k)

/-- A byte read under a tag: what was written, or what the cipher makes of it with the wrong key (R295). -/
def Memory.byte (m : Memory) (tag : Tag) (a : Nat) : Byte :=
  let b := mapGet Memory.blank m.cells a
  let w := mapGet Tag.clear m.tags a
  if w = tag then b else Config.wrongKey w.code tag.code a b

/-- Bytes from `a`. -/
def Memory.bytes (m : Memory) (tag : Tag) (a n : Nat) : List Byte :=
  (List.range n).map fun i => m.byte tag (a + i)

/-- A little-endian number (R4). -/
def leNat : List Byte → Nat
  | [] => 0
  | b :: bs => b.toNat + 256 * leNat bs

/-- The `n` bytes of a number, least significant first (R4). -/
def leBytes : Nat → Nat → List Byte
  | 0, _ => []
  | n + 1, v => BitVec.ofNat 8 v :: leBytes n (v / 256)

/-- A 64-bit word read in the clear, as Vrelop reads its own structures (R472). -/
def Memory.word (m : Memory) (a : Nat) : Word := BitVec.ofNat 64 (leNat (m.bytes .clear a 8))

/-- `bits` bits from bit `bit` of the byte at `a` on, as a number. -/
def Memory.bitsAt (m : Memory) (tag : Tag) (a bit bits : Nat) : Nat :=
  leNat (m.bytes tag a ((bit + bits + 7) / 8)) / 2 ^ bit % 2 ^ bits

/-- The write that puts `v` into `bits` bits from bit `bit` of the byte at `a` on, and keeps the bits around them. -/
def Memory.putBits (m : Memory) (tag : Tag) (a bit bits v : Nat) : MemOp :=
  let n := (bit + bits + 7) / 8
  let old := leNat (m.bytes tag a n)
  let v' := old % 2 ^ bit + (v % 2 ^ bits) * 2 ^ bit + old / 2 ^ (bit + bits) * 2 ^ (bit + bits)
  ⟨a, tag, leBytes n v'⟩

/-- A byte of host memory as a read returned it. -/
def hostByte (h : HostBytes) (a : Nat) : Byte :=
  match h.find? (fun c => c.1 = a) with
  | some c => c.2
  | none => 0

def hostBytesAt (h : HostBytes) (a n : Nat) : List Byte := (List.range n).map fun i => hostByte h (a + i)

/-- What a list of bytes is as 64-bit words. -/
def wordsOf : Nat → List Byte → List Word
  | 0, _ => []
  | n + 1, bs => BitVec.ofNat 64 (leNat (bs.take 8)) :: wordsOf n (bs.drop 8)

/-! ### TL9's memory map -/

/-- What a part of the map is at one of its addresses. -/
def MapEntry.kindAt (r : MapEntry) (pa : Nat) : MapKind :=
  match r.kind with
  | .stacks block ways => .stack (ways.getD ((pa - r.base) / block % ways.length) 0)
  | k => k

/-- What lies at a TL9 physical address (R17, R110). -/
def Eng.kindAt (e : Eng) (pa : Nat) : Option MapKind :=
  (e.memMap.find? fun r => r.base ≤ pa ∧ pa < r.base + r.size).map (·.kindAt pa)

/-- The stack that serves an address. -/
def Eng.stackAt (e : Eng) (pa : Nat) : Option (BitVec 5) :=
  match e.kindAt pa with
  | some (.stack n) => some n
  | _ => none

/-- The region of a stack's Drover (R17). -/
def stackRegion (n : BitVec 5) : Region := BitVec.ofNat 2 (n.toNat / 5)

/-- The landing buffer gives up every captured line that a Drover write overlaps (R25). -/
def Eng.dropLines (e : Eng) (a n : Nat) : Eng :=
  { e with rfe := { e.rfe with landing := e.rfe.landing.filter fun l => ¬ (l.1 * 128 < a + n ∧ a < l.1 * 128 + 128) } }

/-! ### Bits of registers and records -/

/-- Bits [hi:lo] of a word as a number. -/
def fld (w : Word) (hi lo : Nat) : Nat := w.toNat / 2 ^ lo % 2 ^ (hi + 1 - lo)

def bitOf (w : Word) (i : Nat) : Bool := w.getLsbD i

def ofBit (b : Bool) : Nat := if b then 1 else 0

/-- A register from its fields: (lowest bit, value) pairs, disjoint. -/
def pack (fs : List (Nat × Nat)) : Word := BitVec.ofNat 64 (fs.foldl (fun n f => n + f.2 * 2 ^ f.1) 0)

/-- Whether a write addresses the half that holds bit `i` (R7). -/
def halfCovers (h : Half) (i : Nat) : Bool :=
  match h with
  | .both => true
  | .low => i < 32
  | .high => 32 ≤ i

/-- A field after a write: the written value where the write addresses the field's half, else what it was. A field
that spans both halves is written half by half. -/
def wrField (h : Half) (v : Word) (hi lo : Nat) (old : Nat) : Nat :=
  let m := pack [(lo, old)]
  let mixed : Word := match h with
    | .both => v
    | .low => (m &&& 0xFFFFFFFF00000000) ||| (v &&& 0xFFFFFFFF)
    | .high => (m &&& 0xFFFFFFFF) ||| (v &&& 0xFFFFFFFF00000000)
  fld mixed hi lo

/-- A 1-bit field after a write. -/
def wrBit (h : Half) (v : Word) (i : Nat) (old : Bool) : Bool := if halfCovers h i then bitOf v i else old

/-! ### Tallies -/

/-- The key of tally `t` of subsystem `s` (R469). -/
def tallyKey (s : BitVec 4) (t : Nat) : Nat := 512 * s.toNat + t

/-- A tally (R8). -/
def Eng.tallyOf (e : Eng) (s : BitVec 4) (t : Nat) : Word := mapGet 0 e.tally (tallyKey s t)

/-- A tally advanced; it wraps silently (R8). -/
def Eng.count (e : Eng) (s : BitVec 4) (t n : Nat) : Eng :=
  { e with tally := mapUpd 0 e.tally (tallyKey s t) (· + BitVec.ofNat 64 n) }

/-! ### Drovers and their recent-write tag files (R161) -/

/-- The identity of a writing descriptor (R161); none for a write that belongs to no descriptor. -/
abbrev Writer := Option (DevNum × CtxNum × Idx)

def Eng.modDrover (e : Eng) (n : BitVec 5) (f : Drover → Drover) : Eng := { e with drv := setRow {} 20 e.drv n.toNat (f (e.drv.getD n.toNat {})) }

def Eng.drover (e : Eng) (n : BitVec 5) : Drover := e.drv.getD n.toNat {}

/-- The beats of a write and the bytes it covers in each. -/
def beatsOf (pa n : Nat) : List (Nat × BitVec 64) :=
  (List.range ((pa % 64 + n + 63) / 64)).map fun i =>
    let b := pa / 64 + i
    (b, BitVec.ofNat 64 (((List.range 64).filter fun x => pa ≤ 64 * b + x ∧ 64 * b + x < pa + n).foldl
      (fun m x => m + 2 ^ x) 0))

/-- A write recorded or refreshed; the least recently written of 4,096 entries gives way. -/
def Drover.record (d : Drover) (w : Writer) (beat : Nat) (mask : BitVec 64) : Drover × Nat :=
  match d.tags.find? fun t => t.beat = beat ∧ t.writer = w with
  | some t => ({ d with tags := d.tags.erase t ++ [{ t with mask := t.mask ||| mask }] }, 0)
  | none =>
    let full := 4096 ≤ d.tags.length
    ({ d with tags := (if full then d.tags.drop 1 else d.tags) ++ [⟨beat, mask, w⟩] }, ofBit full)

/-- A write is entered in its Drover's tag file (R161, R174). -/
def Eng.recordWrite (e : Eng) (n : BitVec 5) (pa len : Nat) (w : Writer) : Eng :=
  (beatsOf pa len).foldl (fun e b =>
    let (d, ev) := (e.drover n).record w b.1 b.2
    (e.modDrover n fun _ => d).count subDrv (40 + n.toNat) ev) e

/-- The stack whose Drover presents a write: the one at the address, or the one that holds the context store (R17, R460). -/
def Eng.writeStack (e : Eng) (pa : Nat) : Option (BitVec 5) :=
  match e.kindAt pa with
  | some (.stack n) => some n
  | some (.store n) => some n
  | _ => none

/-- Bytes that a Drover writes: captured lines go (R25). -/
def Eff.store (x : Eff) (o : MemOp) : Eff :=
  { eng := x.eng.dropLines o.addr o.bytes.length, ops := x.ops ++ [o] }

/-- A write that no descriptor's element makes: it enters the Drover's tag file, and the bytes are written (R161). -/
def Eff.put (x : Eff) (o : MemOp) : Eff :=
  (match x.eng.writeStack o.addr with
    | some n => x.on fun e => e.recordWrite n o.addr o.bytes.length none
    | none => x).store o

/-! ### Time -/

/-- The region of a flag's home (R23). -/
def flagRegion (f : BitVec 18) : Region := f.extractLsb' 16 2

/-- The region of a fold's home (R23). -/
def foldRegion (g : BitVec 16) : Region := g.extractLsb' 14 2

/-- Engine cycles that have passed at AO cycle `a` (R9). -/
def Eng.cyclesAt (e : Eng) (a : Nat) : Nat := a * e.pins.engMhz.toNat / 100

/-- Engine cycles in ns at the present clock, rounded up (R11). -/
def Eng.cyclesNs (e : Eng) (n : Nat) : Nat := (n * 1000 + e.pins.engMhz.toNat - 1) / e.pins.engMhz.toNat

/-! ### What leaves the boundary, and fault events -/

/-- Something sent across the boundary (log 9). -/
def Eng.emit (e : Eng) (o : Out) : Eng := { e with out := e.out ++ [o] }

/-- A fault event raised (R357, R361, R364): it has its stamp now and comes to FLT with a FAULT_EVENT. -/
def Eng.raise (e : Eng) (sub : BitVec 4) (inst code : BitVec 6) (ctx : Option CtxNum) (detail : Word) : Eng :=
  { e with flt := { e.flt with events := e.flt.events ++
      [{ stamp := e.now, cycle := e.aoCycle, mode := e.flt.mode, source := sourceOf sub inst code, cls := classOf sub inst code, ctx := ctx, detail := detail }] } }

/-- RFE fetches, dispatches and posts nothing: the Fatal state, or an engine reset (R372, R404). -/
def Eng.halted (e : Eng) : Bool := e.flt.fatal || decide (e.svc.reset.phase ≠ .none)

/-- Units issue no new request: in the Fatal state, and in the settle that follows it (R372, R406). -/
def Eng.mute (e : Eng) : Bool := e.flt.fatal || (e.svc.reset.fatal && decide (e.svc.reset.phase ≠ .none))

/-- The settle that follows a Fatal state: what is issued, and what the walkers had reached, runs to its end (R401, R406). -/
def Eng.draining (e : Eng) : Bool := !e.flt.fatal && e.svc.reset.fatal && decide (e.svc.reset.phase = .settle)

/-- A settle after a request: each walker goes on to its boundary (R406). -/
def Eng.settling (e : Eng) : Bool := decide (e.svc.reset.phase = .settle) && !e.mute

/-- A free value is drawn (log 6). -/
def Eng.draw (e : Eng) : Nat × Eng := (e.freeCount, { e with freeCount := e.freeCount + 1 })

/-! ### Contexts, paddocks, descriptors -/

def Eng.ctx (e : Eng) (c : CtxNum) : Ctx := mapGet {} e.ctxs c.toNat

def Eng.setCtx (e : Eng) (c : CtxNum) (x : Ctx) : Eng := { e with ctxs := mapSet {} e.ctxs c.toNat x }

def Eng.modCtx (e : Eng) (c : CtxNum) (f : Ctx → Ctx) : Eng := e.setCtx c (f (e.ctx c))

def Eng.pdk (e : Eng) (p : PdkNum) : Paddock := mapGet {} e.pdks p.toNat

def Eng.modPdk (e : Eng) (p : PdkNum) (f : Paddock → Paddock) : Eng :=
  { e with pdks := mapUpd {} e.pdks p.toNat f }

/-- The context of a handle (R67). -/
def handleCtx (h : Word) : CtxNum := h.extractLsb' 44 20
def handleGen (h : Word) : BitVec 12 := h.extractLsb' 32 12
def handleSeq (h : Word) : Idx := h.extractLsb' 0 32

/-- The handle of a descriptor (R67). -/
def mkHandle (c : CtxNum) (g : BitVec 12) (s : Idx) : Word := c ++ g ++ s

/-- The context's home region (R22). -/
def homeRegion (c : CtxNum) : Region := c.extractLsb' 0 2

def Eng.job (e : Eng) (h : Word) : Option Job := e.jobs.find? (·.handle = h)

def Eng.modJob (e : Eng) (h : Word) (f : Job → Job) : Eng :=
  { e with jobs := e.jobs.map fun j => if j.handle = h then f j else j }

def Eng.dropJob (e : Eng) (h : Word) : Eng := { e with jobs := e.jobs.filter (·.handle ≠ h) }

/-- Word `i` (offset 8i) of a descriptor. -/
def Job.w (j : Job) (i : Nat) : Word := j.words.getD i 0

/-- OPCODE (R52). -/
def Job.opcode (j : Job) : Nat := fld (j.w 0) 7 0
def Job.ext (j : Job) : Nat := fld (j.w 0) 9 8
def Job.userTag (j : Job) : BitVec 32 := (j.w 0).extractLsb' 32 32
def Job.ctx (j : Job) : CtxNum := handleCtx j.handle
def Job.seq (j : Job) : Idx := handleSeq j.handle

/-- A FLAG_WAIT has been sent to another device's home (R55, R278). -/
def Eng.farWait (e : Eng) (j : Job) : Bool := j.syncSent && decide (fld (j.w 1) 29 18 ≠ e.svc.pod.device.toNat)

/-- Opcodes (R53). -/
def opNop := 0x00
def opCopy := 0x01
def opTransform := 0x02
def opGather := 0x03
def opScatter := 0x04
def opScatterAcc := 0x05
def opReduce := 0x06
def opPutInline := 0x07
def opCompress := 0x08
def opExpand := 0x09
def opFlagSet := 0x10
def opFlagClear := 0x11
def opFlagWait := 0x12
def opFoldArrive := 0x13
def opFence := 0x18
def opInvalidate := 0x19
def opRekeySweep := 0x20
def opScrub := 0x21
def opQuery := 0x28

/-- Modular distance of ring indices (R46). -/
def idxDist (a b : Idx) : Nat := (a - b).toNat

/-- Half-range comparison of ring positions (R422): whether `a` stands before `b`. -/
def idxBefore (a b : Idx) : Bool := a ≠ b && decide ((b - a).toNat < 2 ^ 31)

/-! ### CRC-32C (R61) -/

/-- One bit of the reflected Castagnoli CRC. -/
def crcBit (c : BitVec 32) : BitVec 32 :=
  if c.getLsbD 0 then (c >>> 1) ^^^ 0x82F63B78 else c >>> 1

def crcByte (c : BitVec 32) (b : Byte) : BitVec 32 :=
  let c := c ^^^ b.setWidth 32
  crcBit (crcBit (crcBit (crcBit (crcBit (crcBit (crcBit (crcBit c)))))))

/-- CRC-32C of a list of bytes (R61). -/
def crc32c (bs : List Byte) : BitVec 32 := ~~~ (bs.foldl crcByte 0xFFFFFFFF)

/-! ### The host link -/

/-- The host is unreachable (R78, R416): its link is down, or JRN is HELD. -/
def Eng.hostUp (e : Eng) : Bool := e.pins.hostLinkUp && decide (e.jrn.state ≠ .held)

/-- A write to host memory: sent, or held in order until the host is reachable (R236, R415, R416). -/
def Eng.hostPut (e : Eng) (a : Nat) (bs : List Byte) : Eng :=
  if e.hostUp && e.jrn.heldOut.isEmpty then e.emit (.host ⟨a, bs⟩)
  else { e with jrn := { e.jrn with heldOut := e.jrn.heldOut ++ [⟨a, bs⟩] } }

/-- The writes held for the host leave in their order. -/
def Eng.releaseHeld (e : Eng) : Eng :=
  if e.hostUp then
    { e with out := e.out ++ e.jrn.heldOut.map .host, jrn := { e.jrn with heldOut := [] } }
  else e

end Sys2Proof.Machine
end

