-- ==== Sys2Proof/Machine/Arbiter.lean ====
section
/-! DEFINITION. The LFSR of R183 and the lottery of R324 to R326, R332. -/

namespace Sys2Proof.Machine

/-- One step of the LFSR, in Galois form with a right shift (R183). -/
def lfsrStep (s : BitVec 32) : BitVec 32 :=
  if s.getLsbD 0 then (s >>> 1) ^^^ 0x80200003 else s >>> 1

/-- `n` steps. -/
def lfsrSteps : Nat → BitVec 32 → BitVec 32
  | 0, s => s
  | n + 1, s => lfsrSteps n (lfsrStep s)

/-- A word: the state after 32 further steps (R183). -/
def lfsrWord (s : BitVec 32) : BitVec 32 := lfsrSteps 32 s

/-- The competitor in whose share of the tickets `x` falls (R326). -/
def lotteryPick {α : Type} : List (α × Nat) → Nat → Option α
  | [], _ => none
  | (a, t) :: cs, x => if x < t then some a else lotteryPick cs (x - t)

/-- A draw among eligible competitors with their tickets, in ascending competitor number (R326): the winner, and the LFSR
state afterwards. Without tickets there is no draw and the LFSR does not advance. -/
def lottery {α : Type} (cs : List (α × Nat)) (s : BitVec 32) : Option α × BitVec 32 :=
  let total := (cs.map (·.2)).sum
  if total = 0 then (none, s)
  else
    let w := lfsrWord s
    (lotteryPick cs (w.toNat * total / 2 ^ 32), w)

/-- The oldest starvation stamp first, equal stamps by the lower number (R325, step 2); the list is in ascending number. -/
def oldestStarved {α : Type} : List (α × Option Word) → Option α
  | [] => none
  | cs =>
    (cs.foldl (fun (best : Option (α × Word)) c =>
      match c.2, best with
      | none, b => b
      | some t, none => some (c.1, t)
      | some t, some (b, tb) => if t.toNat < tb.toNat then some (c.1, t) else some (b, tb)) none).map (·.1)

/-- An eligible competitor: who, its number, its tickets, and its starvation stamp (R324, R329). -/
structure Rival (α : Type) where
  who : α
  num : Nat
  tickets : Nat
  starved : Option Word
  deriving DecidableEq, Repr

/-- The competitor after the one that was served last, in ascending number and round again (R325, step 4). -/
def inTurn {α : Type} (last : Option Nat) (cs : List (Rival α)) : Option (Rival α) :=
  match cs.find? fun c => (last.map fun l => decide (l < c.num)).getD true with
  | some c => some c
  | none => cs.head?

/-- Which of the eligible competitors, in ascending number, an arbiter serves: the oldest starved, the draw, or one without tickets in
turn (R325, steps 2 to 4). -/
def Arb.serve {α : Type} (a : Arb) (cs : List (Rival α)) : Option α × Arb :=
  match oldestStarved (cs.map fun c => (c.who, c.starved)) with
  | some c => (some c, a)
  | none =>
    match lottery (cs.map fun c => (c.who, c.tickets)) a.lfsr with
    | (some c, s) => (some c, { a with lfsr := s })
    | (none, s) =>
      match inTurn a.last cs with
      | some c => (some c.who, { lfsr := s, last := some c.num })
      | none => (none, a)

end Sys2Proof.Machine
end

