-- ==== Sys2Proof/Machine/Power.lean ====
section
/-! DEFINITION. Power states, wakes, admission within the budget, lending and rotation (10: R340 to R350; R34, R278, R450). -/

namespace Sys2Proof.Machine

/-! ### Domains -/

def Eng.regionDom (e : Eng) (r : Region) : Dom := e.svc.power.region.getD r.toNat {}

def Eng.domOf (e : Eng) : Domain → Dom
  | .region r => e.regionDom r
  | .engine => e.svc.power.engine

def Eng.modPower (e : Eng) (f : Power → Power) : Eng := { e with svc := { e.svc with power := f e.svc.power } }

def Eng.modRegion (e : Eng) (r : Region) (f : Dom → Dom) : Eng :=
  e.modPower fun p => { p with region := setRow {} 4 p.region r.toNat (f (p.region.getD r.toNat {})) }

def Eng.modDom (e : Eng) (d : Domain) (f : Dom → Dom) : Eng :=
  match d with
  | .region r => e.modRegion r f
  | .engine => e.modPower fun p => { p with engine := f p.engine }

def Eng.regionCtl (e : Eng) (r : Region) : PwrCtl := e.svc.power.ctl.getD r.toNat {}

/-- A region's floor (R344): 3 acts as 2. -/
def Eng.floorOf (e : Eng) : Domain → Nat
  | .region r => min (e.regionCtl r).minState.toNat 2
  | .engine => min e.svc.power.engMin.toNat 2

def Eng.active (e : Eng) (d : Domain) : Bool := decide ((e.domOf d).st = .active)

def regions : List Region := [0, 1, 2, 3]

/-! ### Charges and the budget (R341, R347, R350), in units of 0.1 W -/

/-- The charge of a region; a wake counts as Active from its start. -/
def regionCharge (d : Dom) : Nat :=
  if d.wakeDue.isSome then 500 else match d.st with | .active => 500 | .idle => 60 | .sleep => 4

def engineCharge (d : Dom) : Nat :=
  if d.wakeDue.isSome then 391 else match d.st with | .active => 391 | .idle => 80 | .sleep => 6

/-- The total charge: AO's 0.9 W and each domain's (R347); Dormant, only AO draws (R341). -/
def Power.total (p : Power) : Nat :=
  if p.dormant then 9 else 9 + engineCharge p.engine + (p.region.map regionCharge).sum

/-- LIMIT: the lower of GRANT and CAP; CAP above 0x960 acts as 0x960 (R350). -/
def Power.limit (p : Power) : Nat := min p.grant.toNat (min p.cap.toNat 0x960)

/-- LENT: 49.6 W for every loan not yet returned: those not recalled, and those whose recall is outstanding (R349, R350, R450). -/
def Power.lentAmount (p : Power) : Nat :=
  496 * ((p.region.filter fun d => d.lent && !d.recalled).length + p.recalls.length)

/-! ### Work (R342) -/

def reqInRegion (q : Req) (r : Region) : Bool :=
  match q.dest with
  | .stack n _ => decide (stackRegion n = r)
  | _ => false

def elInRegion (r : Region) (x : Nat × El) : Bool :=
  match x.2 with
  | .fly q _ _ => reqInRegion q r
  | _ => false

def jobInRegion (j : Job) (r : Region) : Bool :=
  decide (j.lead = r) && (decide (j.stage = .queued) || decide (j.stage = .running) || decide (j.stage = .waiting) || j.slot)

def jobAtRegion (j : Job) (r : Region) : Bool :=
  j.idxEl.any (elInRegion r) || j.srcEl.any (elInRegion r) || j.scaleInEl.any (elInRegion r) ||
    j.dstEl.any (elInRegion r) || j.scaleOutEl.any (elInRegion r)

def optReqIn (q : Option Req) (r : Region) : Bool :=
  match q with
  | some q => reqInRegion q r
  | none => false

/-- The region of a self-test target (R376): its row's instances by region; rows of engine-level targets have none. -/
def bistRegion (row inst : Nat) : Option Region :=
  if row = 0 then some (BitVec.ofNat 2 (inst / 5))
  else if row = 1 then some (BitVec.ofNat 2 (inst / 6))
  else if row = 2 then some (BitVec.ofNat 2 (inst / 16))
  else if row < 8 then some (BitVec.ofNat 2 inst)
  else none

/-- The key of a self-test target. -/
def bistKey (row inst : Nat) : Nat := 64 * row + inst

/-- A self-test slice runs in a region, or on an engine-level target (R342, R379). -/
def Eng.slicing (e : Eng) (r : Option Region) : Bool :=
  e.svc.bist.any fun x => x.2.active && decide (bistRegion (x.1 / 64) (x.1 % 64) = r)

/-- A segment runs on a self-test target (R377). -/
def Eng.testing (e : Eng) (row inst : Nat) : Bool := (mapGet {} e.svc.bist (bistKey row inst)).active

/-- No domain is admitted and no state changes: Vrelop is Dormant, or SVC is restarting (R346, R374). -/
def Eng.frozen (e : Eng) : Bool := e.svc.power.dormant || e.svc.restarting

/-- The region that homes the flag or fold of an event. -/
def HomeAct.region : HomeAct → Region
  | .flag f _ => flagRegion f
  | .arrive g _ => foldRegion g
  | .wait w => flagRegion w.flag
  | .child g _ => foldRegion g
  | .release g => foldRegion g
  | .change f _ _ => flagRegion f
  | .expire w => flagRegion w.flag
  | .ends w _ => flagRegion w.flag
  | .owner _ r => r

/-- The ATG slice that serves a peer's request (R111). -/
def peerSlice (q : PeerReq) : Region := BitVec.ofNat 2 (q.va.toNat / 65536)

/-- Whether a region has data work: requests at its Drovers or slice, walks, sweeps and census steps, and events at its homes (R342). A
census visits the slices in every region (R301). -/
def Eng.dataWork (e : Eng) (r : Region) : Bool :=
  e.jobs.any (fun j => jobAtRegion j r)
    || e.npi.serving.any (fun s => optReqIn s.req r)
    || e.opi.serving.any (fun s => optReqIn s.req r)
    || e.npi.serving.any (fun s => s.req.isNone && decide (peerSlice s.q = r))
    || e.opi.serving.any (fun s => s.req.isNone && decide (s.a.die = r))
    || e.syn.events.any (fun v => decide (v.act.region = r))
    || (match e.atg.cmdBusy with | .census _ => true | _ => false)
    || !(e.atg.walks.getD r.toNat []).isEmpty
    || e.svc.sweeps.any fun s => decide (s.phase ≠ .start) && decide ((e.stackAt s.pa).map stackRegion = some r)

/-- Whether a region has work (R342). -/
def Eng.regionWork (e : Eng) (r : Region) : Bool :=
  e.dataWork r || (e.jobs.any fun j => jobInRegion j r) || e.slicing (some r)

/-- A request leads off the stacks: through NPI, OPI or the host link. -/
def Req.leaves (q : Req) : Bool :=
  match q.dest with
  | .stack _ _ => false
  | _ => true

def elLeaves (x : Nat × El) : Bool :=
  match x.2 with
  | .fly q _ _ => q.leaves
  | _ => false

/-- A descriptor keeps the engine domain at work: its completion is due, or a transfer of its through NPI, OPI or the host
link is under way. A FLAG_WAIT that is pending does not. -/
def jobInEngine (j : Job) : Bool :=
  decide (j.stage = .finished) || j.invals ≠ []
    || (j.syncSent && decide (j.stage = .waiting) && decide (j.opcode ≠ opFlagWait))
    || j.idxEl.any elLeaves || j.srcEl.any elLeaves || j.scaleInEl.any elLeaves || j.dstEl.any elLeaves || j.scaleOutEl.any elLeaves

/-- Whether the engine domain has work (R342): a fetch pending, or a completion, journal record, NPI or OPI transfer in progress. -/
def Eng.engineWork (e : Eng) : Bool :=
  e.jobs.any jobInEngine || !e.jrn.waiting.isEmpty || e.jrn.flushTo.isSome || !e.npi.serving.isEmpty || !e.npi.heldSync.isEmpty
    || !e.opi.serving.isEmpty || !e.rfe.caught.isEmpty || !e.rfe.withheld.isEmpty
    || e.ctxs.any fun c => decide (c.2.state = .enabled) && decide (c.2.sqHead ≠ c.2.sqTail)

/-- Whether a domain has what keeps it Active. For the engine domain a region that wakes counts as Active (R347), and so do the engine-level visits of
a cold start (R456; log 96). -/
def Eng.hasWork (e : Eng) : Domain → Bool
  | .region r => e.regionWork r
  | .engine => e.engineWork || (regions.any fun r => e.active (.region r) || (e.regionDom r).wakeDue.isSome)
    || (decide (e.svc.start.phase = 6) && e.slicing none)

/-- A descriptor held by a long wait (R278): one registered here that has become long, or one at a peer's home, long from its
registration there, which comes with its sending (log 72). -/
def Eng.longHeld (e : Eng) (j : Job) : Bool :=
  decide (j.stage = .waiting) && j.answer.isNone
    && (decide (j.opcode = opFlagWait) && e.farWait j || e.syn.waits.any fun w => w.long && decide (w.who = .job j.handle))

/-- A region is waiting in the sense of R278: it has work, and all of it is descriptors held by long waits. -/
def Eng.waitingRegion (e : Eng) (r : Region) : Bool :=
  !e.dataWork r && !e.slicing (some r) && (e.jobs.any fun j => jobInRegion j r) &&
    e.jobs.all fun j => !(jobInRegion j r) || e.longHeld j

/-! ### Wakes and admission -/

/-- A domain enters a state; its work, if any, is frozen in place. When it last left Active is kept. -/
def Eng.enter (e : Eng) (d : Domain) (st : PState) : Eng :=
  e.modDom d fun x => { x with st := st, since := e.now, left := if x.st = .active && decide (st ≠ .active) then e.now else x.left }

/-- The wake cost in engine cycles (R341). -/
def wakeCost : PState → Nat
  | .active => 0 | .idle => 70 | .sleep => 2450

/-- A domain's wake begins (R341, R352); its cost is a number of engine cycles (R11). A region that was lowered for lending is no
longer so. -/
def Eng.beginWake (e : Eng) (d : Domain) : Eng :=
  let x := e.domOf d
  let e := e.modDom d fun x => { x with
    wakeDue := some (e.now + BitVec.ofNat 64 (e.cyclesNs (wakeCost x.st))), wantSince := none, lent := false, recalled := false }
  match d, x.st with
  | .region r, .idle => e.count subSvc (12 + r.toNat) 1
  | .region r, .sleep => e.count subSvc (16 + r.toNat) 1
  | _, _ => e

/-- The total charge with region `r` (if any) and the engine domain counted as Active (R347). -/
def Power.totalWith (p : Power) (r : Option Region) : Nat :=
  9 + 391 + (regions.map fun i => if r = some i then 500 else regionCharge (p.region.getD i.toNat {})).sum

/-- The engine domain starts to wake unless it is Active or waking, when the budget admits it. -/
def Eng.wakeEngine (e : Eng) : Eng :=
  let d := e.svc.power.engine
  if d.st = .active || d.wakeDue.isSome then e
  else if !e.frozen && decide (e.svc.power.totalWith none ≤ e.svc.power.limit) then e.beginWake .engine
  else e.modDom .engine fun x => { x with wantSince := some (x.wantSince.getD e.now) }

/-- Regions in the order in which they became Active, longest first. -/
def Eng.byAge (e : Eng) : List Region :=
  regions.mergeSort fun a b => (e.regionDom a).since.toNat ≤ (e.regionDom b).since.toNat

/-- A region without work is lowered as far as its floor lets it. -/
def Eng.lowerQuiet (e : Eng) (r : Region) : Eng :=
  let d := e.regionDom r
  if e.regionWork r || d.wakeDue.isSome || e.frozen then e
  else if e.floorOf (.region r) = 0 then (if d.st = .sleep then e else e.enter (.region r) .sleep)
  else if e.floorOf (.region r) = 1 then (if d.st = .active then e.enter (.region r) .idle else e)
  else e

/-- Quiet regions are lowered, longest Active first, until `fits` (R348). -/
def Eng.lowerUntil (fits : Eng → Bool) : List Region → Eng → Eng
  | [], e => e
  | r :: rs, e => if fits e then e else Eng.lowerUntil fits rs (e.lowerQuiet r)

/-- Whether region `r` fits the budget as Active (R347). -/
def Eng.admits (e : Eng) (r : Region) : Bool := decide (e.svc.power.totalWith (some r) ≤ e.svc.power.limit)

/-- A waiting region is admitted: its wake and the engine's begin. -/
def Eng.admitRegion (e : Eng) (r : Region) : Eng := e.wakeEngine.beginWake (.region r)

/-- The admission queue: first request first, equal stamps by the lower region (R348). -/
def Eng.admitQueue (e : Eng) : List Region :=
  (regions.filter fun r => (e.regionDom r).wantSince.isSome && (e.regionDom r).wakeDue.isNone
      && !((e.regionDom r).recalled && !e.admits r)).mergeSort
    fun a b => ((e.regionDom a).wantSince.getD 0).toNat ≤ ((e.regionDom b).wantSince.getD 0).toNat

/-- The queue is served in order while its head can be admitted, regions without work being lowered where that helps
(R347, R348). While Vrelop is Dormant or SVC restarts nothing is admitted. -/
def Eng.serveQueue : Nat → Eng → Eng
  | 0, e => e
  | n + 1, e =>
    if e.frozen then e
    else match e.admitQueue with
      | [] => e
      | r :: _ =>
        if e.admits r then Eng.serveQueue n (e.admitRegion r)
        else
          let e' := Eng.lowerUntil (·.admits r) (e.byAge.filter (· ≠ r)) e
          if e'.admits r then Eng.serveQueue n (e'.admitRegion r) else e

/-- An exit from Dormant begins (R346): 105,000 cycles. Before READY the cold start brings Vrelop out (R456). -/
def Eng.beginExit (e : Eng) : Eng :=
  if e.svc.power.dormant && e.svc.start.ready && e.svc.power.dormantExit.isNone then
    e.modPower fun p => { p with dormantExit := some (e.now + BitVec.ofNat 64 (e.cyclesNs 105000)) }
  else e

/-- Work reaches a region (R34, R343, R349): a region that is not Active asks for Active, a lent one recalls its loan, and
the admission queue is served. -/
def Eng.wakeRegion (e : Eng) (r : Region) : Eng :=
  let e := e.modRegion r fun d => { d with busy := true }
  let d := e.regionDom r
  if d.st = .active || d.wakeDue.isSome then e
  else
    let e := if d.lent && !e.svc.restarting && !d.recalled then
        ((e.modPower fun p => { p with recalls := p.recalls ++ [(r, e.now)] }).modRegion r fun d => { d with recalled := true }).emit (.recall r)
      else e
    (e.modRegion r fun d => { d with wantSince := some (d.wantSince.getD e.now) }).serveQueue 4

def Eng.wakeMany (e : Eng) (rs : List Region) : Eng := rs.foldl Eng.wakeRegion e

/-! ### Lowering -/

/-- The total with region `r` in state `st`. -/
def Power.totalAt (p : Power) (r : Region) (st : PState) : Nat :=
  9 + engineCharge p.engine
    + (regions.map fun i => regionCharge (if i = r then { st := st } else p.region.getD i.toNat {})).sum

/-- A region with work is lowered for a smaller LIMIT: to Idle, or to Sleep where only Sleep brings the total within LIMIT
(R348); it joins the queue. -/
def Eng.lowerBusy (e : Eng) (r : Region) : Eng :=
  let p := e.svc.power
  if (decide ((e.regionDom r).st ≠ .active) && (e.regionDom r).wakeDue.isNone) || e.floorOf (.region r) = 2 then e
  else
    let target := if p.totalAt r .idle ≤ p.limit || e.floorOf (.region r) = 1 then PState.idle
      else if p.totalAt r .sleep ≤ p.limit then .sleep else .idle
    (e.enter (.region r) target).modRegion r fun d => { d with wantSince := some e.now, wakeDue := none }

/-- An Idle region goes on to Sleep where the total still exceeds LIMIT. -/
def Eng.lowerFurther (e : Eng) (r : Region) : Eng :=
  if (e.regionDom r).st = .idle && (e.regionDom r).wakeDue.isNone && decide (e.floorOf (.region r) = 0)
  then e.enter (.region r) .sleep else e

/-- `f` is applied to regions, longest Active first, until the total is within LIMIT. -/
def Eng.fitWith (f : Eng → Region → Eng) : List Region → Eng → Eng
  | [], e => e
  | r :: rs, e => if e.svc.power.total ≤ e.svc.power.limit then e else Eng.fitWith f rs (f e r)

/-- LIMIT has changed (R348, R350): the total is brought within it, and the queue is served. -/
def Eng.limitChanged (e : Eng) : Eng :=
  if e.svc.restarting then e else
  let e := Eng.fitWith Eng.lowerQuiet e.byAge e
  let e := Eng.fitWith Eng.lowerBusy e.byAge e
  let e := Eng.fitWith Eng.lowerFurther e.byAge e
  let e := if e.svc.power.engine.wantSince.isSome then e.wakeEngine else e
  e.serveQueue 4

/-- A waiting region is lowered for lending (R349), and the admission queue served with what that frees (R348). -/
def Eng.lendRegion (e : Eng) (r : Region) : Eng :=
  let c := e.regionCtl r
  let d := e.regionDom r
  if !e.frozen && e.waitingRegion r && c.lendEn && d.wakeDue.isNone && decide (d.st ≠ .sleep) then
    if e.floorOf (.region r) = 0 then
      (((e.enter (.region r) .sleep).modRegion r fun d => { d with lent := true, recalled := false, wantSince := none }).count subSvc 25 1).serveQueue 4
    else if e.floorOf (.region r) = 1 && decide (d.st = .active) then (e.enter (.region r) .idle).serveQueue 4
    else e
  else e

/-- What a domain has of work is noted: work has begun, or the time without work counts from here (R342); a region whose only work is
held by long waits is lowered and lent (R278, R349). -/
def Eng.noteWorkOf (e : Eng) (d : Domain) : Eng :=
  if e.hasWork d then
    let e := if (e.domOf d).busy then e else e.modDom d fun x => { x with busy := true }
    match d with
    | .region r => e.lendRegion r
    | .engine => e
  else if (e.domOf d).busy then e.modDom d fun x => { x with busy := false, quiet := e.now }
  else e

/-- The work of every domain is noted. -/
def Eng.noteWork (e : Eng) : Eng :=
  [Domain.region 0, .region 1, .region 2, .region 3, .engine].foldl Eng.noteWorkOf e

/-- A descriptor's region may have lost its work. -/
def Eng.noteQuiet (e : Eng) (r : Region) : Eng := e.noteWorkOf (.region r)

/-- The engine domain never goes below its floor (R342, R345). -/
def Eng.engineFloor (e : Eng) : Eng :=
  let x := e.svc.power.engine.st
  let f := e.floorOf .engine
  if (f = 2 && decide (x ≠ .active)) || (f = 1 && decide (x = .sleep)) then e.wakeEngine else e

/-- A floor was raised above a region's state: it wakes (R344). -/
def Eng.floorRaised (e : Eng) (r : Region) : Eng :=
  let d := e.regionDom r
  let f := e.floorOf (.region r)
  if (f = 2 && decide (d.st ≠ .active)) || (f = 1 && decide (d.st = .sleep)) then e.wakeRegion r else e

end Sys2Proof.Machine
end

