-- ==== Sys2Proof/Machine/Formats.lean ====
section
/-! DEFINITION. Number formats (R86, R175), exact values, and the one rounding of R180 to R187. -/

namespace Sys2Proof.Machine

/-! ### Element types (R86) -/

def dtFp32 := 0x01
def dtBf16 := 0x02
def dtFp16 := 0x03
def dtE4M3 := 0x04
def dtE5M2 := 0x05
def dtInt8 := 0x06
def dtUint8 := 0x07
def dtInt4 := 0x08
def dtInt32 := 0x09
def dtMxE4M3 := 0x0A
def dtMxE5M2 := 0x0B
def dtMxE2M3 := 0x0C
def dtMxE3M2 := 0x0D
def dtMxE2M1 := 0x0E
def dtMxInt8 := 0x0F
def dtByte := 0x10

/-- Width in bits; none for a reserved code (R86). -/
def dtWidth (d : Nat) : Option Nat :=
  if d = 0x01 || d = 0x09 then some 32
  else if d = 0x02 || d = 0x03 then some 16
  else if d = 0x08 || d = 0x0E then some 4
  else if d = 0x0C || d = 0x0D then some 6
  else if (0x04 ≤ d && d ≤ 0x07) || d = 0x0A || d = 0x0B || d = 0x0F || d = 0x10 then some 8
  else none

def dtBits (d : Nat) : Nat := (dtWidth d).getD 8

/-- A microscaled element type. -/
def dtMx (d : Nat) : Bool := 0x0A ≤ d && d ≤ 0x0F

def dtInteger (d : Nat) : Bool := 0x06 ≤ d && d ≤ 0x09

/-! ### Exact values -/

/-- A value: NaN, an infinity, or (-1)^neg m 2^e. -/
inductive Num where
  | nan
  | inf (neg : Bool)
  | fin (neg : Bool) (m : Nat) (e : Int)
  deriving DecidableEq, Repr

/-- What a type encodes besides finite values (R175). -/
inductive Special where
  | ieee | oneNan | none
  deriving DecidableEq, Repr

/-- A floating-point format: exponent bits, mantissa bits, bias, the code of the largest finite magnitude. -/
structure FloatFmt where
  ebits : Nat
  mbits : Nat
  bias : Int
  maxCode : Nat
  special : Special
  deriving DecidableEq, Repr

/-- The floating-point format of a type, if it is one (R175). -/
def floatFmt (d : Nat) : Option FloatFmt :=
  if d = dtFp32 then some ⟨8, 23, 127, 0x7F7FFFFF, .ieee⟩
  else if d = dtBf16 then some ⟨8, 7, 127, 0x7F7F, .ieee⟩
  else if d = dtFp16 then some ⟨5, 10, 15, 0x7BFF, .ieee⟩
  else if d = dtE4M3 || d = dtMxE4M3 then some ⟨4, 3, 7, 0x7E, .oneNan⟩
  else if d = dtE5M2 || d = dtMxE5M2 then some ⟨5, 2, 15, 0x7B, .ieee⟩
  else if d = dtMxE2M3 then some ⟨2, 3, 1, 0x1F, .none⟩
  else if d = dtMxE3M2 then some ⟨3, 2, 3, 0x1F, .none⟩
  else if d = dtMxE2M1 then some ⟨2, 1, 1, 0x7, .none⟩
  else none

/-- The value of a floating-point code. -/
def decodeFloat (f : FloatFmt) (c : Nat) : Num :=
  let mag := c % 2 ^ (f.ebits + f.mbits)
  let neg := c / 2 ^ (f.ebits + f.mbits) % 2 = 1
  let ex := mag / 2 ^ f.mbits
  let man := mag % 2 ^ f.mbits
  if f.maxCode < mag then
    if f.special = .ieee && man = 0 then .inf neg else .nan
  else if ex = 0 then .fin neg man (1 - f.bias - f.mbits)
  else .fin neg (2 ^ f.mbits + man) (ex - f.bias - f.mbits)

/-- A two's-complement number of `w` bits. -/
def signedOf (w c : Nat) : Int :=
  let c := c % 2 ^ w
  if c < 2 ^ (w - 1) then c else (c : Int) - 2 ^ w

def numOfInt (i : Int) (e : Int) : Num := .fin (i < 0) i.natAbs e

/-- The value of an element (R175); a microscaled element without its scale. -/
def decodeElem (d c : Nat) : Num :=
  match floatFmt d with
  | some f => decodeFloat f c
  | none =>
    if d = dtInt8 then numOfInt (signedOf 8 c) 0
    else if d = dtUint8 || d = dtByte then .fin false (c % 256) 0
    else if d = dtInt4 then numOfInt (signedOf 4 c) 0
    else if d = dtInt32 then numOfInt (signedOf 32 c) 0
    else if d = dtMxInt8 then numOfInt (signedOf 8 c) (-6)
    else .nan

/-! ### Rounding (R180 to R183) -/

/-- Rounding modes (R182); a stochastic rounding carries its element's word. -/
inductive Rounding where
  | rne | rtz | stochastic (w : BitVec 32)
  deriving DecidableEq, Repr

/-- The decision of R183. -/
def srUp (f32 : Nat) (r : BitVec 32) : Bool := f32 ≠ 0 && decide (2 ^ 32 ≤ r.toNat + f32)

/-- The magnitude m 2^e in units of 2^q, rounded once. -/
def roundUnits (m : Nat) (e q : Int) (mode : Rounding) : Nat :=
  if q ≤ e then m * 2 ^ (e - q).toNat
  else
    let s := (q - e).toNat
    let n := m / 2 ^ s
    let rem := m % 2 ^ s
    match mode with
    | .rtz => n
    | .rne =>
      if 2 * rem < 2 ^ s then n
      else if 2 ^ s < 2 * rem then n + 1
      else n + n % 2
    | .stochastic w => if srUp (rem * 2 ^ 32 / 2 ^ s) w then n + 1 else n

/-- floor(log2(m 2^e)) of a non-zero magnitude. -/
def ilogb (m : Nat) (e : Int) : Int := Nat.log2 m + e

/-- What a conversion gives: the code, and whether CST_TALLY_SAT or CST_TALLY_NAN counts it (R198). -/
structure Conv where
  code : Nat
  sat : Bool := false
  nan : Bool := false
  deriving DecidableEq, Repr

/-- The canonical NaN (R186). -/
def canonNan (d : Nat) : Nat :=
  if d = dtFp32 then 0x7FC00000 else if d = dtBf16 then 0x7FC0 else if d = dtFp16 then 0x7E00
  else if d = dtE4M3 then 0x7F else if d = dtE5M2 then 0x7E else 0

/-- The code of an infinity, or of what stands for it (R186). -/
def infCode (d : Nat) (f : FloatFmt) (neg : Bool) : Conv :=
  let sg := if neg then 2 ^ (f.ebits + f.mbits) else 0
  if f.special = .ieee then ⟨sg + (f.maxCode / 2 ^ f.mbits + 1) * 2 ^ f.mbits, false, false⟩
  else ⟨canonNan d, false, true⟩

/-- A finite value rounded to a floating-point type (R180, R186, R187). `keepSign`: a zero keeps its sign. -/
def encodeFin (d : Nat) (f : FloatFmt) (mode : Rounding) (saturate keepSign : Bool) (neg : Bool) (m : Nat) (e : Int) : Conv :=
  let sg := if neg then 2 ^ (f.ebits + f.mbits) else 0
  if m = 0 then ⟨if keepSign then sg else 0, false, false⟩
  else
    let q := max (ilogb m e - f.mbits) (1 - f.bias - f.mbits)
    let n := roundUnits m e q mode
    let code := n + (q + f.mbits + f.bias - 1).toNat * 2 ^ f.mbits
    if code ≤ f.maxCode then ⟨sg + code, false, false⟩
    else if saturate || decide (mode = .rtz) || dtMx d then ⟨sg + f.maxCode, true, false⟩
    else infCode d f neg

/-- Bounds of an integer type (R175, R187). -/
def intBounds (d : Nat) : Int × Int :=
  if d = dtInt8 then (-128, 127)
  else if d = dtUint8 then (0, 255)
  else if d = dtInt4 then (-8, 7)
  else if d = dtMxInt8 then (-127, 127)
  else (-2 ^ 31, 2 ^ 31 - 1)

def intCode (d : Nat) (i : Int) : Nat := (i % 2 ^ dtBits d).toNat

/-- A value rounded to an integer type, or to MXINT8 in units of 2^-6. -/
def encodeInt (d : Nat) (mode : Rounding) (x : Num) : Conv :=
  let (lo, hi) := intBounds d
  match x with
  | .nan => ⟨0, false, true⟩
  | .inf neg => ⟨intCode d (if neg then lo else hi), true, false⟩
  | .fin neg m e =>
    let n : Int := roundUnits m e (if d = dtMxInt8 then -6 else 0) mode
    let i := if neg then -n else n
    if i < lo then ⟨intCode d lo, true, false⟩
    else if hi < i then ⟨intCode d hi, true, false⟩
    else ⟨intCode d i, false, false⟩

/-- A value rounded once to type `d`. -/
def encodeElem (d : Nat) (mode : Rounding) (saturate keepSign : Bool) (x : Num) : Conv :=
  match floatFmt d with
  | none => encodeInt d mode x
  | some f =>
    match x with
    | .nan => ⟨canonNan d, false, true⟩
    | .inf neg => infCode d f neg
    | .fin neg m e => encodeFin d f mode saturate keepSign neg m e

/-- A value times 2^k. -/
def Num.scale (x : Num) (k : Int) : Num :=
  match x with
  | .fin neg m e => .fin neg m (e + k)
  | y => y

/-! ### The cast stage (R176 to R192) -/

/-- CAST_CTL (R176). -/
structure CastCtl where
  src : Nat
  dst : Nat
  round : Nat
  saturate : Bool
  expAdj : Int
  deriving DecidableEq, Repr

def castCtl (w : Word) : CastCtl :=
  { src := fld w 4 0, dst := fld w 12 8, round := fld w 17 16, saturate := bitOf w 18, expAdj := signedOf 8 (fld w 31 24) }

/-- The reserved bits of CAST_CTL. -/
def castReserved (w : Word) : Bool := fld w 63 32 ≠ 0 || fld w 23 19 ≠ 0 || fld w 15 13 ≠ 0 || fld w 7 5 ≠ 0

/-- The legal conversion pairs (R178). -/
def castLegal (s d : Nat) : Bool :=
  let plain3 := fun x => x = dtFp32 || x = dtBf16 || x = dtFp16
  let fp8 := fun x => x = dtE4M3 || x = dtE5M2
  if s = d then false
  else if plain3 s then plain3 d || fp8 d || dtMx d || dtInteger d
  else if fp8 s then plain3 d || fp8 d
  else if dtMx s then plain3 d
  else if dtInteger s then plain3 d || dtInteger d
  else false

/-- The rounding of one element, and the LFSR afterwards: with ROUND 2 every element consumes one word (R183). -/
def nextRounding (c : CastCtl) (s : BitVec 32) : Rounding × BitVec 32 :=
  if c.round = 2 then (.stochastic (lfsrWord s), lfsrWord s)
  else if c.round = 1 then (.rtz, s) else (.rne, s)

/-- A cast between types neither of which is microscaled (R180, R181). -/
def castPlain (c : CastCtl) (mode : Rounding) (v : Nat) : Conv :=
  encodeElem c.dst mode c.saturate (floatFmt c.src).isSome ((decodeElem c.src v).scale c.expAdj)

/-- A microscaled element with its scale byte decoded to the target (R192). -/
def castFromMx (c : CastCtl) (mode : Rounding) (scaleByte v : Nat) : Conv :=
  if scaleByte = 0xFF then ⟨canonNan c.dst, false, true⟩
  else encodeElem c.dst mode c.saturate (floatFmt c.src).isSome ((decodeElem c.src v).scale ((scaleByte : Int) - 127))

/-- emax_elem (R189). -/
def emaxElem (d : Nat) : Int :=
  if d = dtMxE4M3 then 8 else if d = dtMxE5M2 then 15 else if d = dtMxE2M3 then 2 else if d = dtMxE3M2 then 4
  else if d = dtMxE2M1 then 2 else 0

/-- Whether one magnitude exceeds another. -/
def magLt (m1 : Nat) (e1 : Int) (m2 : Nat) (e2 : Int) : Bool :=
  let e := min e1 e2
  m1 * 2 ^ (e1 - e).toNat < m2 * 2 ^ (e2 - e).toNat

/-- The largest magnitude of a block, unless it holds a NaN or an infinity. -/
def blockMax : List Num → Option (Nat × Int)
  | [] => some (0, 0)
  | x :: xs =>
    match x, blockMax xs with
    | .fin _ m e, some (m', e') => some (if magLt m' e' m e then (m, e) else (m', e'))
    | _, _ => none

/-- The scale byte of a block (R189, R191). -/
def mxScale (d : Nat) (xs : List Num) : Nat :=
  match blockMax xs with
  | none => 0xFF
  | some (m, e) =>
    if m = 0 then 0x7F
    else (max (-127) (min 127 (ilogb m e - emaxElem d)) + 127).toNat

/-- An element of a block with scale byte `s` (R190, R191). -/
def castToMx (c : CastCtl) (mode : Rounding) (s v : Nat) : Conv :=
  if s = 0xFF then ⟨0, false, false⟩
  else encodeElem c.dst mode c.saturate (floatFmt c.src).isSome ((decodeElem c.src v).scale (127 - (s : Int)))

end Sys2Proof.Machine
end

