-- ==== Sys2Proof/Machine/Views.lean ====
section
/-! DEFINITION. View slots, view records, element order and addresses, bounds, and the injectivity test (02: R54; 03: R85 to R90,
R96, R100). -/

namespace Sys2Proof.Machine

/-! ### Slots (R54) -/

def slotAt (w0 w1 : Word) : Slot :=
  { view := w0.extractLsb' 0 24, device := w0.extractLsb' 24 12, base := w1.extractLsb' 0 48 }

/-- The view slot at word `i` of a descriptor. -/
def Job.slotOf (j : Job) (i : Nat) : Slot := slotAt (j.w i) (j.w (i + 1))

/-- A reserved bit of a slot's first or second word is set (R54). -/
def slotReserved0 (w : Word) : Bool := fld w 63 36 ≠ 0
def slotReserved1 (w : Word) : Bool := fld w 63 48 ≠ 0

/-! ### View records (R85, R87) -/

/-- Bits [hi:lo] of the record's bytes from byte offset `off` on. -/
def recFld (ws : List Word) (off hi lo : Nat) : Nat :=
  let i := off / 8
  let both := (ws.getD i 0).toNat + (ws.getD (i + 1) 0).toNat * 2 ^ 64
  both / 2 ^ (8 * (off % 8) + lo) % 2 ^ (hi + 1 - lo)

def recDim (ws : List Word) (d : Nat) : Dim :=
  { stride := signedOf 40 (recFld ws (0x10 + 8 * d) 39 0)
    extent := recFld ws (0x10 + 8 * d) 63 40
    lo := recFld ws (0x50 + 6 * d) 23 0
    len := recFld ws (0x50 + 6 * d) 47 24 }

def recRank (ws : List Word) : Nat := recFld ws 0 11 8

/-- The view of a record. -/
def viewOf (ws : List Word) : View :=
  { dtype := recFld ws 0 20 16, fill := recFld ws 0 63 32
    dims := (List.range (recRank ws)).map (recDim ws) }

/-- The record passes R87. -/
def viewOk (ws : List Word) : Bool :=
  let dt := recFld ws 0 20 16
  let rank := recRank ws
  recFld ws 0 0 0 = 1 && 1 ≤ rank && rank ≤ 8 && (dtWidth dt).isSome
    && recFld ws 0 7 1 = 0 && recFld ws 0 15 12 = 0 && recFld ws 0 31 21 = 0 && recFld ws 8 63 0 = 0
    && decide (recFld ws 0 63 32 < 2 ^ dtBits dt)
    && (List.range 8).all (fun d =>
      if d < rank then decide (recFld ws (0x10 + 8 * d) 63 40 ≠ 0)
      else recFld ws (0x10 + 8 * d) 63 0 = 0 && recFld ws (0x50 + 6 * d) 47 0 = 0)
    && decide (((viewOf ws).dims.map (·.extent)).prod < 2 ^ 48)

/-- Element width in bits. -/
def View.ebits (v : View) : Nat := dtBits v.dtype

/-- Element count (R88). -/
def View.count (v : View) : Nat := (v.dims.map (·.extent)).prod

def View.rank (v : View) : Nat := v.dims.length

/-! ### Iteration order (R88) -/

/-- The coordinates of stream position `k`, dimension 0 fastest. -/
def coordsOf : List Nat → Nat → List Nat
  | [], _ => []
  | e :: es, k => k % e :: coordsOf es (k / e)

/-- The stream position of coordinates. -/
def positionOf : List Nat → List Nat → Nat
  | [], _ => 0
  | _, [] => 0
  | e :: es, j :: js => j + e * positionOf es js

/-! ### Addresses (R89, R90) -/

/-- What a view gives for an element: out of bounds, an address fault, or a byte address and bit. -/
inductive VAddr where
  | oob
  | fault
  | at (byte bit : Nat)
  deriving DecidableEq, Repr

/-- A dimension holds the coordinate (R89). -/
def Dim.holds (d : Dim) (j : Nat) : Bool := d.lo ≤ j && j < d.lo + d.len

/-- Offset in elements of in-bounds coordinates. -/
def offsetOf : List Dim → List Nat → Int
  | d :: ds, j :: js => ((j : Int) - d.lo) * d.stride + offsetOf ds js
  | _, _ => 0

def inBounds : List Dim → List Nat → Bool
  | d :: ds, j :: js => d.holds j && inBounds ds js
  | [], _ => true
  | _ :: _, [] => false

/-- The address of coordinates for elements of `w` bits (R89, R90, R150). -/
def View.addrW (v : View) (w base : Nat) (js : List Nat) : VAddr :=
  if inBounds v.dims js then
    let bits := offsetOf v.dims js * w
    let a := (base : Int) + bits / 8
    let bit := (bits % 8).toNat
    if a < 0 || 2 ^ 48 ≤ a || 2 ^ 48 < a + (bit + w + 7) / 8 then .fault
    else .at a.toNat bit
  else .oob

/-- The address of coordinates (R89, R90). -/
def View.addr (v : View) (base : Nat) (js : List Nat) : VAddr := v.addrW v.ebits base js

/-- The address at stream position `k` (R88). -/
def View.addrAt (v : View) (base k : Nat) : VAddr := v.addr base (coordsOf (v.dims.map (·.extent)) k)

/-- In-bounds coordinates of a dimension: how many there are within its EXTENT (R96). -/
def Dim.avail (d : Dim) : Nat := min (d.extent - d.lo) d.len

/-- The first in-bounds position in stream order (R22), if any: the coordinates are the LO values. -/
def View.firstIn (v : View) : Option Nat :=
  if v.dims.all fun d => 0 < d.avail then
    some (positionOf (v.dims.map (·.extent)) (v.dims.map (·.lo)))
  else none

/-! ### Injectivity (R96) -/

/-- The spans of the sorted strides do not overlap. -/
def spanOk : Nat → List (Nat × Nat) → Bool
  | _, [] => true
  | span, (s, n) :: r => if s < span then false else spanOk (span + s * (n - 1)) r

/-- The test of R96. -/
def dstInjective (v : View) : Bool :=
  if v.dims.any fun d => d.avail = 0 then true
  else
    let ds := (v.dims.filter fun d => d.avail ≠ 1).map fun d => (d.stride.natAbs, d.avail)
    spanOk 1 (ds.mergeSort fun a b => a.1 ≤ b.1)

/-! ### Runs (R100) -/

/-- Whether an element's address is exactly one element after another's, without crossing a 4 KiB boundary. -/
def follows (ebits : Nat) (a b : VAddr) : Bool :=
  match a, b with
  | .at x p, .at y q => 8 * x + p + ebits = 8 * y + q && (8 * y + q) / 32768 = (8 * x + p) / 32768
      && (8 * y + q + ebits - 1) / 32768 = (8 * x + p) / 32768
  | _, _ => false

end Sys2Proof.Machine
end

