-- ==== Sys2Proof/Machine/Atg.lean ====
section
/-! DEFINITION. Address translation and guard (03: R106 to R114; 09: R290 to R297, R313, R314): page walks, translation and
reach caches, the steps of R106, and the requests they give. -/

namespace Sys2Proof.Machine

/-! ### Page tables (R108, R109) -/

/-- What a walk finds. -/
inductive WalkRes where
  | leaf (va : Nat) (l : Leaf)
  | invalid
  | malformed (level : Nat)
  deriving DecidableEq, Repr

/-- Entries of the level-1 table (R108). -/
def l1Log2 (p : Paddock) : Nat := min p.l1Log2.toNat 18

/-- The paddock's limit (R106, step 5). -/
def pdkLimit (p : Paddock) : Nat := 2 ^ (30 + l1Log2 p)

/-- A table entry is a leaf, well formed for pages of 2^log2 bytes (R109). -/
def leafOk (w : Word) (log2 : Nat) : Bool :=
  fld w 7 5 = 0 && (fld w 63 12 * 4096) % 2 ^ log2 = 0 && (!bitOf w 4 || fld w 11 8 = 0)

def leafOf (w : Word) (log2 : Nat) : Leaf :=
  { log2 := log2, addr := fld w 63 12 * 4096, epoch := w.extractLsb' 8 4, host := bitOf w 4, wr := bitOf w 3, rd := bitOf w 2 }

/-- One level of a walk: the entry's own result, or the next table. -/
def walkEntry (w : Word) (level log2 va : Nat) (next : Nat → WalkRes) : WalkRes :=
  if !bitOf w 0 then .invalid
  else if bitOf w 1 then
    if leafOk w log2 then .leaf (va / 2 ^ log2 * 2 ^ log2) (leafOf w log2) else .malformed level
  else if level = 3 || fld w 7 2 ≠ 0 || (level = 1 && fld w 11 8 ≠ 0) then .malformed level
  else next (fld w 63 8 * 256)

/-- A page walk from a ROOT (R108, R109, R112): each entry is read whole, in the clear. -/
def walkFrom (m : Memory) (root : BitVec 52) (va : Nat) : WalkRes :=
  if root = 0 then .invalid
  else walkEntry (m.word (root.toNat * 4096 + 8 * (va / 2 ^ 30))) 1 30 va fun t2 =>
    walkEntry (m.word (t2 + 8 * (va / 2 ^ 21 % 512))) 2 21 va fun t3 =>
      walkEntry (m.word (t3 + 8 * (va / 2 ^ 16 % 32))) 3 16 va fun _ => .invalid

/-- A walk that begins now. -/
def walk (m : Memory) (p : Paddock) (va : Nat) : WalkRes := walkFrom m p.ptRoot va

/-! ### Caches (R111, R113, R292) -/

def Eng.tlbOf (e : Eng) (r : Region) : List TlbEntry := e.atg.tlb.getD r.toNat []

/-- A translation-cache hit. -/
def Eng.tlbHit (e : Eng) (r : Region) (p : PdkNum) (va : Nat) : Option Leaf :=
  ((e.tlbOf r).find? fun t => t.paddock = p ∧ t.va ≤ va ∧ va < t.va + 2 ^ t.leaf.log2).map (·.leaf)

/-- A leaf enters a slice's cache; a full cache gives up one entry (R111, log 18). -/
def Eng.tlbFill (e : Eng) (r : Region) (p : PdkNum) (va : Nat) (l : Leaf) : Eng :=
  let old := e.tlbOf r
  let (n, e) := if old.length < 8192 then (0, e) else e.draw
  let kept := if old.length < 8192 then old else old.eraseIdx (Config.victim n % old.length)
  { e with atg := { e.atg with tlb := setRow [] 4 e.atg.tlb r.toNat (⟨p, va, l⟩ :: kept) } }

/-- The entry's page overlaps a range. -/
def TlbEntry.overlaps (t : TlbEntry) (a n : Nat) : Bool := t.va < a + n && a < t.va + 2 ^ t.leaf.log2

/-- A paddock may reach a device, judged by one slice's cached byte or the bitmap in memory (R291, R292). An uncorrectable
byte, which its ATG 0x12 event has announced, counts as not reachable and is not cached. -/
def Eng.reaches (e : Eng) (m : Memory) (r : Region) (p : PdkNum) (d : DevNum) : Bool × Eng :=
  let base := (e.pdk p).reachBase.toNat * 512
  let i := d.toNat / 8
  if base = 0 then (false, e)
  else match (e.atg.reach.getD r.toNat []).find? fun c => c.1 = p ∧ c.2.1 = i with
    | some c => (c.2.2.getLsbD (d.toNat % 8), e)
    | none =>
      if e.atg.reachBad.contains (p, i) then
        (false, { e with atg := { e.atg with reachBad := e.atg.reachBad.erase (p, i) } })
      else
        let b := m.byte .clear (base + i)
        (b.getLsbD (d.toNat % 8), { e with atg := { e.atg with reach := setRow [] 4 e.atg.reach r.toNat ((p, i, b) :: e.atg.reach.getD r.toNat []) } })

/-! ### The steps of R106 -/

/-- What ATG makes of an address. `miss`: a page walk is needed. -/
inductive Trans where
  | ok (q : Req)
  | miss
  | fail (st : Status)
  | fresh (epoch : BitVec 4)
  deriving DecidableEq, Repr

/-- What a request wants: a read or a write, and whether only a stack will do (R143, R196, R221). -/
structure Want where
  write : Bool
  stackOnly : Bool := false
  deriving DecidableEq, Repr

/-- The address lies in the weight window (R313). -/
def inWindow (p : Paddock) (va : Nat) : Bool :=
  p.wwinBase.toNat * 2 ^ 21 ≤ va && va < p.wwinLimit.toNat * 2 ^ 21

/-- Steps 7 and 8: epoch, permission, weight key, route, and the die enabled (R106, R110, R297, R314, R464). A leaf with HOST = 0 whose
EPOCH is fresh permits nothing, whatever its RD and WR say. DEDUCED (log 93): a leaf in the weight window that routes to the host or to a
scratchpad carries its EPOCH whatever STATE is. -/
def Eng.permit (e : Eng) (pn : PdkNum) (va bit : Nat) (l : Leaf) (w : Want) : Trans :=
  let p := e.pdk pn
  let pa := l.addr + va % 2 ^ l.log2
  let q : Req := { dest := .host pa, bit := bit, tag := .clear, epoch := some (pn, l.epoch), va := va }
  if !l.host && !p.live.getLsbD l.epoch.toNat then .fresh l.epoch
  else if (w.write && !l.wr) || (!w.write && !l.rd) then .fail stAccessFault
  else if l.host then (if w.stackOnly then .fail stAccessFault else .ok q)
  else match e.kindAt pa with
    | some (.stack n) =>
      if inWindow p va then
        if p.wkeyState ≠ .loaded || p.erasing then .fail stAccessFault
        else .ok { q with dest := .stack n pa, tag := .slot p.slot (mapGet 0 e.atg.slotKeys p.slot.toNat), epoch := none }
      else .ok { q with dest := .stack n pa, tag := .epoch pn l.epoch }
    | some (.aperture d) =>
      if w.stackOnly || !(e.opi.die.getD d.toNat {}).enable then .fail stAccessFault
      else .ok { q with dest := .die d pa }
    | _ => .fail stAccessFault

/-- Steps 4 to 8 of R106 for `n` bytes at `va` in slice `r`. -/
def Eng.translate (e : Eng) (r : Region) (pn : PdkNum) (va bit n : Nat) (w : Want) : Trans :=
  let p := e.pdk pn
  if !p.enable || p.scrubbing then .fail stPaddockFault
  else if pdkLimit p < va + n then .fail stAccessFault
  else match e.tlbHit r pn va with
    | none => .miss
    | some l => e.permit pn va bit l w

/-- A failure of step 2, 4, 5, 6 or 7 is counted (R119); a fresh epoch also has its tally and history entry (R297). -/
def Eng.noteFault (e : Eng) (r : Region) (pn : PdkNum) (ctx : Option CtxNum) (t : Trans) : Eng :=
  match t with
  | .fail _ => e.count subAtg (8 + r.toNat) 1
  | .fresh ep =>
    ((e.count subAtg (8 + r.toNat) 1).count subAtg (12 + r.toNat) 1).raise subAtg (r.setWidth 6) 0x11 ctx
      (pack [(0, pn.toNat), (12, ep.toNat)])
  | _ => e

/-- The status of a failed translation. -/
def Trans.status : Trans → Option Status
  | .fail st => some st
  | .fresh _ => some stAccessFault
  | _ => none

/-- A walk for a page is started in a slice, unless one is under way or all 16 are (R111). DEDUCED (log 67): the page of a leaf is not known
before the walk, so misses share a walk by 64 KiB page. -/
def Eng.startWalk (e : Eng) (r : Region) (pn : PdkNum) (va : Nat) : Eng :=
  let ws := e.atg.walks.getD r.toNat []
  if (ws.any fun w => w.paddock = pn && w.page = va / 2 ^ 16) || 16 ≤ ws.length then e
  else ({ e with atg := { e.atg with
    walks := setRow [] 4 e.atg.walks r.toNat (ws ++ [({ paddock := pn, page := va / 2 ^ 16, root := (e.pdk pn).ptRoot } : Walk)]) } }).count subAtg (4 + r.toNat) 1

/-- The leaf that an address has in a slice's cache, or else in the tables as they stand. -/
def Eng.leafOf (e : Eng) (m : Memory) (r : Region) (pn : PdkNum) (va : Nat) : Option Leaf :=
  match e.tlbHit r pn va with
  | some l => some l
  | none => match walk m (e.pdk pn) va with
    | .leaf _ l => some l
    | _ => none

/-- The request that an address gives, if its leaf permits it. -/
def Eng.routeOf (e : Eng) (m : Memory) (r : Region) (pn : PdkNum) (va bit : Nat) (w : Want) : Option Req :=
  match (e.leafOf m r pn va).map fun l => e.permit pn va bit l w with
  | some (.ok q) => some q
  | _ => none

/-- The malformed or uncorrectable entry that a walk met is recorded (R109). -/
def Eng.noteMalformed (e : Eng) (r : Region) (pn : PdkNum) (va level : Nat) : Eng :=
  e.raise subAtg (r.setWidth 6) 0x10 none (pack [(0, level), (2, pn.toNat), (16, va)])

/-- The regions of requests' stacks. -/
def Req.region (q : Req) : Option Region :=
  match q.dest with
  | .stack n _ => some (stackRegion n)
  | _ => none

/-- A request to a stack wakes its region (R34). -/
def Eng.wakeFor (e : Eng) (q : Req) : Eng :=
  match q.region with
  | some r => e.wakeRegion r
  | none => e

/-- Whether a request's point of coherence can serve it now: a stack's region must be Active (R348), a request to host memory needs a reachable
host (R415, R416), and one at a Drover, NPI or OPI waits for the end of a self-test segment there (R379). -/
def Eng.canServe (e : Eng) (q : Req) : Bool :=
  match q.dest with
  | .stack n _ => e.active (.region (stackRegion n)) && !e.testing 0 n.toNat
  | .host _ => e.hostUp
  | .peer _ _ => !e.testing 10 1
  | .die _ _ => !e.testing 10 2

end Sys2Proof.Machine
end

