-- ==== Sys2Proof/Machine/Accumulate.lean ====
section
/-! DEFINITION. The accumulate arithmetic of the Drovers (05: R164, R165) and ACC_CTL (02: R56). -/

namespace Sys2Proof.Machine

/-- The DTYPE code of R86 that ACC_CTL.DTYPE names (R56). -/
def accDtype (t : BitVec 2) : Nat := if t = 0 then dtFp32 else if t = 1 then dtBf16 else dtInt32

/-- Width in bits of ACC_CTL.DTYPE. -/
def accBits (t : BitVec 2) : Nat := if t = 1 then 16 else 32

/-- A position of a code in the order of its values, +0 above -0; NaNs apart (R164). -/
def accKey (bits c : Nat) : Int :=
  let mag : Nat := c % 2 ^ (bits - 1)
  if c / 2 ^ (bits - 1) % 2 = 1 then -1 - (mag : Int) else mag

/-- The value in an order key. -/
def accOfKey (bits : Nat) (k : Int) : Nat := if k < 0 then 2 ^ (bits - 1) + (-1 - k).toNat else k.toNat

/-- The exact sum of two values (R164): x + (-x) is +0, -0 + -0 is -0, +Inf + -Inf is NaN. -/
def addNum (a b : Num) : Num :=
  match a, b with
  | .nan, _ => .nan
  | _, .nan => .nan
  | .inf s, .inf t => if s = t then .inf s else .nan
  | .inf s, _ => .inf s
  | _, .inf t => .inf t
  | .fin s m e, .fin t n f =>
    let g := min e f
    let x : Int := m * 2 ^ (e - g).toNat
    let y : Int := n * 2 ^ (f - g).toNat
    let z := (if s then -x else x) + (if t then -y else y)
    .fin (if z = 0 then s && t else decide (z < 0)) z.natAbs g

def isNanCode (d c : Nat) : Bool := decide (decodeElem d c = .nan)

/-- A floating-point contribution combined with its destination (R164). -/
def accFloat (d bits : Nat) (op : BitVec 2) (dst v : Nat) : Nat :=
  if op = 0 then (encodeElem d .rne false true (addNum (decodeElem d dst) (decodeElem d v))).code
  else if isNanCode d dst || isNanCode d v then canonNan d
  else if op = 1 then accOfKey bits (max (accKey bits dst) (accKey bits v))
  else accOfKey bits (min (accKey bits dst) (accKey bits v))

/-- A signed 32-bit number as its code. -/
def code32 (i : Int) : Nat := (i % 2 ^ 32).toNat

/-- An int32 contribution combined with its destination (R164). -/
def accInt (op : BitVec 2) (dst v : Nat) : Nat :=
  if op = 0 then (dst + v) % 2 ^ 32
  else if op = 1 then code32 (max (signedOf 32 dst) (signedOf 32 v))
  else code32 (min (signedOf 32 dst) (signedOf 32 v))

/-- The destination element after one contribution (R163, R164). -/
def accCombine (t op : BitVec 2) (dst v : Nat) : Nat :=
  if t = 2 then accInt op dst v
  else accFloat (accDtype t) (accBits t) op dst v

/-- ACC_CTL has a reserved encoding (R56, R163). -/
def accBadEncoding (w : Word) : Bool := fld w 5 4 = 3 || fld w 1 0 = 3

def accReserved (w : Word) : Bool := fld w 63 6 ≠ 0 || fld w 3 2 ≠ 0

end Sys2Proof.Machine
end

