-- ==== Sys2Proof/Machine/Cerhus.lean ====
section
/-! DEFINITION. The Cerhus format (07: R199 to R211, R214, R216, R228): header, tables, prefix codes, the three block modes
decoded and encoded to the bit, and the checks of a block. Images are lists of bytes. -/

namespace Sys2Proof.Machine

/-- Bytes `a` to `a + n - 1` of a list, zero beyond its end. -/
def slice (bs : List Byte) (a n : Nat) : List Byte := (List.range n).map fun i => bs.getD (a + i) 0

def byteNat (bs : List Byte) (a n : Nat) : Nat := leNat (slice bs a n)

/-- The header of an image (R200). -/
structure CHeader where
  dtype : Nat
  mode : Nat
  ntables : Nat
  nblocks : Nat
  nelem : Nat
  imageLen : Nat
  deriving DecidableEq, Repr

def parseHeader (bs : List Byte) : CHeader :=
  let w0 := byteNat bs 0 8
  { dtype := w0 / 2 ^ 40 % 32, mode := w0 / 2 ^ 48 % 4, ntables := w0 / 2 ^ 52 % 32
    nblocks := byteNat bs 8 8 % 2 ^ 23, nelem := byteNat bs 16 8 % 2 ^ 36, imageLen := byteNat bs 24 8 % 2 ^ 40 }

/-- Raw elements of a full block (R203). -/
def blockSize (mode : Nat) : Nat := if mode = 2 then 8192 else 2048

/-- Raw elements of block `i` of an image (R203). -/
def blockElems (mode nelem i : Nat) : Nat := min (blockSize mode) (nelem - blockSize mode * i)

/-- Offset of the directory, and BLOCKS_OFF (R199). -/
def dirOff (ntables : Nat) : Nat := 0x40 + 256 * ntables
def blocksOff (ntables nblocks : Nat) : Nat := 0x40 + 256 * ntables + 16 * ((nblocks + 1) / 2)

/-! ### Tables (R204, R205) -/

/-- The 256 code lengths of a half of 128 bytes. -/
def halfLens (bs : List Byte) : List Nat :=
  bs.flatMap fun b => [b.toNat % 16, b.toNat / 16]

def kraft (lens : List Nat) : Nat := (lens.map fun l => if l = 0 then 0 else 2 ^ (11 - l)).sum

def halfValid (lens : List Nat) : Bool := lens.length = 256 && lens.all (· ≤ 11) && decide (kraft lens ≤ 2048)

/-- A table of an image of the given type and mode is valid (R204). -/
def tableValid (dtype mode : Nat) (t : CodeTable) : Bool :=
  halfValid t.first && halfValid t.second
    && (mode = 2 || t.second.all (· = 0))
    && (dtype ≠ dtFp16 || (t.first.drop 32).all (· = 0))

def parseTable (bs : List Byte) : CodeTable := ⟨halfLens (slice bs 0 128), halfLens (slice bs 128 128)⟩

def halfBytes : List Nat → List Byte
  | a :: b :: r => BitVec.ofNat 8 (a % 16 + 16 * (b % 16)) :: halfBytes r
  | _ => []

def tableBytes (t : CodeTable) : List Byte := halfBytes t.first ++ halfBytes t.second

def parseTables (n : Nat) (bs : List Byte) : List CodeTable :=
  (List.range n).map fun i => parseTable (slice bs (256 * i) 256)

/-- The number of symbols of one length. -/
def lenCount (lens : List Nat) (l : Nat) : Nat := (lens.filter (· = l)).length

/-- The first code of each length (R205). -/
def firstCode (lens : List Nat) : Nat → Nat
  | 0 => 0
  | l + 1 => (firstCode lens l + if l = 0 then 0 else lenCount lens l) * 2

/-- The code of symbol `v`: its length and value; none where it has no code. -/
def codeOf (lens : List Nat) (v : Nat) : Option (Nat × Nat) :=
  let l := lens.getD v 0
  if l = 0 then none else some (l, firstCode lens l + lenCount (lens.take v) l)

/-- The symbol whose code of length `l` has value `c`. -/
def symbolOf (lens : List Nat) (l c : Nat) : Option Nat :=
  (List.range 256).find? fun v => lens.getD v 0 = l && decide (firstCode lens l + lenCount (lens.take v) l = c)

/-- Bits of a byte stream in reading order: bit 0 of the first byte first (R205). -/
def bitsOfBytes (bs : List Byte) : List Bool := bs.flatMap fun b => (List.range 8).map fun i => b.getLsbD i

/-- One symbol read from a bit stream; none where the bits run out or no code fits within 11 bits. -/
def readSymbol (lens : List Nat) : Nat → Nat → Nat → List Bool → Option (Nat × List Bool)
  | 0, _, _, _ => none
  | _, _, _, [] => none
  | n + 1, l, c, b :: bs =>
    let c' := 2 * c + ofBit b
    match symbolOf lens (l + 1) c' with
    | some v => some (v, bs)
    | none => readSymbol lens n (l + 1) c' bs

def nextSymbol (lens : List Nat) (bs : List Bool) : Option (Nat × List Bool) := readSymbol lens 11 0 0 bs

/-- The bits of a symbol's code, most significant first. -/
def symbolBits (lens : List Nat) (v : Nat) : Option (List Bool) :=
  (codeOf lens v).map fun lc => (List.range lc.1).map fun i => decide (lc.2 / 2 ^ (lc.1 - 1 - i) % 2 = 1)

/-- Numbers of `w` bits packed least significant bit first (R195), padded to whole bytes. -/
def packNums (w : Nat) (vs : List Nat) : List Bool :=
  let b := vs.flatMap fun v => (List.range w).map fun i => decide (v / 2 ^ i % 2 = 1)
  b ++ List.replicate ((8 - b.length % 8) % 8) false

def bitsNat : List Bool → Nat
  | [] => 0
  | b :: bs => ofBit b + 2 * bitsNat bs

/-- Bits as bytes, the last padded with zero bits. -/
def bytesOfBits : Nat → List Bool → List Byte
  | 0, _ => []
  | n + 1, bs => BitVec.ofNat 8 (bitsNat (bs.take 8)) :: bytesOfBits n (bs.drop 8)

def unpackNums (w : Nat) : Nat → List Bool → List Nat
  | 0, _ => []
  | n + 1, bs => bitsNat (bs.take w) :: unpackNums w n (bs.drop w)

/-! ### Mode E (R206) -/

def lowWidth (dtype : Nat) : Nat := if dtype = dtFp16 then 11 else 8
def expBits (dtype : Nat) : Nat := if dtype = dtFp16 then 5 else 8

/-- The exponent symbol of an element. -/
def expSymbol (dtype v : Nat) : Nat := v / 2 ^ (lowWidth dtype - 1) % 2 ^ expBits dtype

/-- The low part of an element: sign above the mantissa. -/
def lowPart (dtype v : Nat) : Nat :=
  v % 2 ^ (lowWidth dtype - 1) + v / 2 ^ 15 % 2 * 2 ^ (lowWidth dtype - 1)

/-- An element from its exponent symbol and low part. -/
def joinE (dtype s low : Nat) : Nat :=
  low % 2 ^ (lowWidth dtype - 1) + s % 2 ^ expBits dtype * 2 ^ (lowWidth dtype - 1) + low / 2 ^ (lowWidth dtype - 1) % 2 * 2 ^ 15

/-! ### Mode K (R207 to R209) -/

def mulNum (a b : Num) : Num :=
  match a, b with
  | .nan, _ => .nan
  | _, .nan => .nan
  | .inf s, .inf t => .inf (s != t)
  | .inf s, .fin t m _ => if m = 0 then .nan else .inf (s != t)
  | .fin s m _, .inf t => if m = 0 then .nan else .inf (s != t)
  | .fin s m e, .fin t n f => .fin (s != t) (m * n) (e + f)

def toFp32 (x : Num) : Nat := (encodeElem dtFp32 .rne false true x).code

/-- One step of the prediction's sum: product and sum each rounded to binary32. -/
def predStep (acc u v : Nat) : Nat :=
  toFp32 (addNum (decodeElem dtFp32 acc) (decodeElem dtFp32 (toFp32 (mulNum (decodeElem dtBf16 u) (decodeElem dtBf16 v)))))

/-- P(i, j) (R208). -/
def mkPred (f : Factors) (i j : Nat) : Nat :=
  let acc := (List.range f.rank).foldl (fun a k =>
    predStep a (f.u.getD (i * f.rank + k) 0).toNat (f.v.getD (k * 128 + j) 0).toNat) 0
  (encodeElem dtBf16 .rne false true (decodeElem dtFp32 acc)).code

/-- The exponent-delta symbol of an element against its prediction (R209). -/
def deltaSym (a p : Nat) : Nat := (a / 128 % 256 + 256 - p / 128 % 256) % 256

/-- The low-XOR symbol (R209). -/
def xorSym (a p : Nat) : Nat := ((a / 2 ^ 15 % 2) ^^^ (p / 2 ^ 15 % 2)) * 128 + ((a % 128) ^^^ (p % 128))

/-- An element from its prediction and symbols (R209). -/
def joinK (p d x : Nat) : Nat :=
  ((p / 2 ^ 15 % 2) ^^^ (x / 128 % 2)) * 2 ^ 15 + ((p / 128 % 256 + d) % 256) * 128 + ((p % 128) ^^^ (x % 128))

/-! ### Decoding a block -/

/-- `n` exponent symbols. -/
def readSymbols (lens : List Nat) : Nat → List Bool → Option (List Nat × List Bool)
  | 0, bs => some ([], bs)
  | n + 1, bs =>
    match nextSymbol lens bs with
    | none => none
    | some (v, bs) => (readSymbols lens n bs).map fun r => (v :: r.1, r.2)

/-- The (delta, xor) symbols of `n` elements. -/
def readPairs (t : CodeTable) : Nat → List Bool → Option (List (Nat × Nat) × List Bool)
  | 0, bs => some ([], bs)
  | n + 1, bs =>
    match nextSymbol t.first bs with
    | none => none
    | some (d, bs) =>
      match nextSymbol t.second bs with
      | none => none
      | some (x, bs) => (readPairs t n bs).map fun r => ((d, x) :: r.1, r.2)

/-- A mode E payload of a block (R206, R228). -/
def decodeE (dtype n : Nat) (t : CodeTable) (payload : List Byte) : Option (List Nat) :=
  let lowLen := (n * lowWidth dtype + 7) / 8
  let lowB := bitsOfBytes (payload.take lowLen)
  if payload.length < lowLen || (lowB.drop (n * lowWidth dtype)).any id then none
  else
    match readSymbols t.first n (bitsOfBytes (payload.drop lowLen)) with
    | none => none
    | some (syms, rest) =>
      if rest.any id then none
      else some (List.zipWith (joinE dtype) syms (unpackNums (lowWidth dtype) n lowB))

def readFactors (rank : Nat) (payload : List Byte) : Factors :=
  { rank := rank
    u := (List.range (64 * rank)).map fun i => BitVec.ofNat 16 (byteNat payload (2 * i) 2)
    v := (List.range (128 * rank)).map fun i => BitVec.ofNat 16 (byteNat payload (128 * rank + 2 * i) 2) }

/-- A mode K payload of a block (R207, R228). -/
def decodeK (rank : Nat) (t : CodeTable) (payload : List Byte) : Option (List Nat) :=
  if payload.length < 384 * rank then none
  else
    match readPairs t 8192 (bitsOfBytes (payload.drop (384 * rank))) with
    | none => none
    | some (syms, rest) =>
      if rest.any id then none
      else
        let f := readFactors rank payload
        some (syms.zipIdx.map fun s => joinK (mkPred f (s.2 / 128) (s.2 % 128)) s.1.1 s.1.2)

/-- CLEN of a RAW block (R210). -/
def rawClen (n : Nat) : Nat := 16 + 16 * ((2 * n + 15) / 16)

/-- The block's bytes with the CRC field taken as zero (R211). -/
def blockCrc (bs : List Byte) : Nat := (crc32c (bs.take 8 ++ [0, 0, 0, 0] ++ bs.drop 12)).toNat

/-- The CLEN field of a block header. -/
def clenOf (hdr : List Byte) : Nat := byteNat hdr 8 8 / 2 ^ 32 % 2 ^ 15

/-- CLEN is one that R228 lets the expander read up to, for a block at `off`. -/
def clenOk (h : CHeader) (i off : Nat) (hdr : List Byte) : Bool :=
  let c := clenOf hdr
  c % 16 = 0 && 16 ≤ c && off + c ≤ h.imageLen && c ≤ rawClen (blockElems h.mode h.nelem i)

/-- A directory entry is in order (R228). -/
def dirOk (h : CHeader) (entry : Nat) : Bool :=
  let off := entry % 2 ^ 40
  entry < 2 ^ 40 && off % 16 = 0 && blocksOff h.ntables h.nblocks ≤ off && off < h.imageLen

/-- Block `i` with its `CLEN` bytes: its raw elements, or none where the block is corrupt (R228). -/
def decodeBlock (h : CHeader) (tables : List CodeTable) (i : Nat) (bs : List Byte) : Option (List Nat) :=
  let w0 := byteNat bs 0 8
  let w1 := byteNat bs 8 8
  let bmode := w0 % 16
  let table := w0 / 16 % 16
  let rank := w0 / 256 % 16
  let n := w0 / 2 ^ 16 % 2 ^ 14
  let bseq := w0 / 2 ^ 32 % 2 ^ 22
  let payload := bs.drop 16
  if w0 / 2 ^ 12 % 16 ≠ 0 || w0 / 2 ^ 30 % 4 ≠ 0 || w0 / 2 ^ 54 ≠ 0 || w1 / 2 ^ 47 ≠ 0 then none
  else if 2 < bmode || (bmode ≠ 0 && bmode ≠ h.mode) then none
  else if h.ntables ≤ table || 8 < rank || n ≠ blockElems h.mode h.nelem i || bseq ≠ i then none
  else if w1 % 2 ^ 32 ≠ blockCrc bs then none
  else if bmode = 0 then
    if bs.length ≠ rawClen n || (payload.drop (2 * n)).any (· ≠ 0) then none
    else some ((List.range n).map fun k => byteNat payload (2 * k) 2)
  else
    let t := tables.getD table ⟨[], []⟩
    if bmode = 1 then decodeE h.dtype n t payload else decodeK rank t payload

/-! ### The header's checks -/

/-- HCRC (R200). -/
def headerCrc (hdr tables : List Byte) : Nat := (crc32c (slice hdr 0 0x38 ++ tables)).toNat

/-- NTABLES and the rest of the header are such that the table section can be read. -/
def headerFieldsOk (hdr : List Byte) : Bool :=
  let h := parseHeader hdr
  let w0 := byteNat hdr 0 8
  w0 % 2 ^ 32 = 0x53485243 && w0 / 2 ^ 32 % 256 = 1
    && (h.dtype = dtBf16 || h.dtype = dtFp16) && (h.mode = 1 || h.mode = 2)
    && 1 ≤ h.ntables && h.ntables ≤ 16 && (h.mode ≠ 2 || h.dtype = dtBf16)
    && (if h.mode = 1 then h.nblocks = (h.nelem + 2047) / 2048 else h.nelem % 8192 = 0 && h.nblocks = h.nelem / 8192)
    && w0 / 2 ^ 45 % 8 = 0 && w0 / 2 ^ 50 % 4 = 0 && w0 / 2 ^ 57 = 0
    && byteNat hdr 8 8 / 2 ^ 23 = 0 && byteNat hdr 16 8 / 2 ^ 36 = 0 && byteNat hdr 24 8 / 2 ^ 40 = 0
    && byteNat hdr 0x20 24 = 0 && byteNat hdr 0x3C 4 = 0

/-- The image header with its table section is valid (R200). -/
def headerValid (hdr tables : List Byte) : Bool :=
  let h := parseHeader hdr
  headerFieldsOk hdr && byteNat hdr 0x38 4 = headerCrc hdr tables
    && (parseTables h.ntables tables).all (tableValid h.dtype h.mode)

/-! ### Encoding (R206, R207, R210, R216) -/

/-- A block's bytes from its header fields and payload, padded to a multiple of 16, with its CRC. -/
def sealBlock (bmode table rank n bseq : Nat) (payload : List Byte) : List Byte :=
  let clen := 16 + (payload.length + 15) / 16 * 16
  let w0 := bmode + 16 * table + 256 * rank + 2 ^ 16 * n + 2 ^ 32 * bseq
  let body := payload ++ List.replicate (clen - 16 - payload.length) 0
  let open_ := leBytes 8 w0 ++ leBytes 8 (clen * 2 ^ 32) ++ body
  leBytes 8 w0 ++ leBytes 8 (blockCrc open_ + clen * 2 ^ 32) ++ body

def rawBlock (bseq : Nat) (vs : List Nat) : List Byte :=
  sealBlock 0 0 0 vs.length bseq (vs.flatMap (leBytes 2))

/-- The code bits of a list of symbols; none where one has no code. -/
def codeBits (lens : List Nat) : List Nat → Option (List Bool)
  | [] => some []
  | v :: vs =>
    match symbolBits lens v, codeBits lens vs with
    | some a, some b => some (a ++ b)
    | _, _ => none

/-- A mode E block under table `k` (R206). -/
def encodeE (dtype bseq k : Nat) (t : CodeTable) (vs : List Nat) : Option (List Byte) :=
  (codeBits t.first (vs.map (expSymbol dtype))).map fun cb =>
    let low := packNums (lowWidth dtype) (vs.map (lowPart dtype))
    sealBlock 1 k 0 vs.length bseq
      (bytesOfBits (low.length / 8) low ++ bytesOfBits ((cb.length + 7) / 8) cb)

def pairBits (t : CodeTable) : List (Nat × Nat) → Option (List Bool)
  | [] => some []
  | (d, x) :: r =>
    match symbolBits t.first d, symbolBits t.second x, pairBits t r with
    | some a, some b, some c => some (a ++ b ++ c)
    | _, _, _ => none

/-- A mode K block under table `k` with its tile's factors (R207). -/
def encodeK (bseq k : Nat) (t : CodeTable) (f : Factors) (vs : List Nat) : Option (List Byte) :=
  let syms := vs.zipIdx.map fun v =>
    let p := mkPred f (v.2 / 128) (v.2 % 128)
    (deltaSym v.1 p, xorSym v.1 p)
  (pairBits t syms).map fun cb =>
    sealBlock 2 k f.rank vs.length bseq
      (f.u.flatMap (fun x => leBytes 2 x.toNat) ++ f.v.flatMap (fun x => leBytes 2 x.toNat)
        ++ bytesOfBits ((cb.length + 7) / 8) cb)

/-- The shortest of the candidates: the lowest table number among equals, then RAW; a coded block no shorter than RAW gives
way to it (R216). -/
def shortestBlock (raw : List Byte) : List (Option (List Byte)) → List Byte
  | [] => raw
  | c :: cs =>
    let best := shortestBlock raw cs
    match c with
    | none => best
    | some b => if b.length < raw.length && b.length ≤ best.length then b else best

/-- The block that pass 2 emits (R216). -/
def emitBlock (dtype mode bseq : Nat) (tables : List CodeTable) (f : Factors) (vs : List Nat) : List Byte :=
  shortestBlock (rawBlock bseq vs)
    (tables.zipIdx.map fun t => if mode = 2 then encodeK bseq t.2 t.1 f vs else encodeE dtype bseq t.2 t.1 vs)

/-- A finite bf16 code: the compressor writes only finite factors (R208). -/
def finiteBf16 (x : BitVec 16) : Bool := x.toNat / 128 % 256 ≠ 255

/-- The compressor's choice is one that R204, R207, R208 and R216 allow. -/
def choiceOk (dtype mode maxTables rankMax nblocks : Nat) (c : CompressChoice) : Bool :=
  1 ≤ c.tables.length && c.tables.length ≤ maxTables && c.tables.all (tableValid dtype mode)
    && (mode ≠ 2 || (c.factors.length = nblocks && c.factors.all fun f =>
        f.rank ≤ rankMax && f.u.length = 64 * f.rank && f.v.length = 128 * f.rank
          && f.u.all finiteBf16 && f.v.all finiteBf16))

/-- The header bytes of an image (R200). -/
def headerBytes (h : CHeader) (tables : List Byte) : List Byte :=
  let b := leBytes 8 (0x53485243 + 2 ^ 32 + 2 ^ 40 * h.dtype + 2 ^ 48 * h.mode + 2 ^ 52 * h.ntables)
    ++ leBytes 8 h.nblocks ++ leBytes 8 h.nelem ++ leBytes 8 h.imageLen ++ List.replicate 24 0
  b ++ leBytes 8 (headerCrc b tables)

/-- Blocks of an image. -/
def imageBlocks (mode nelem : Nat) : Nat := (nelem + blockSize mode - 1) / blockSize mode

/-- The bound of R214, for `t` tables. -/
def imageBound (mode nelem t : Nat) : Nat :=
  let nb := imageBlocks mode nelem
  64 + 256 * t + 16 * ((nb + 1) / 2)
    + if nb = 0 then 0
      else (nb - 1) * rawClen (blockSize mode) + rawClen (nelem - (nb - 1) * blockSize mode)

end Sys2Proof.Machine
end

