-- ==== Sys2Proof/Machine/Transform.lean ====
section
/-! DEFINITION. The shapes and positions of a TRANSFORM's stages and of index-driven streams (04: R120 to R141; 05: R149 to
R155; 06: R188, R193): which source element each destination position comes from. -/

namespace Sys2Proof.Machine

/-! ### Index-driven access (R149 to R153) -/

/-- IDX_CTL (R149). -/
structure IdxCtl where
  i64 : Bool
  dim : Nat
  deriving DecidableEq, Repr

def idxCtl (w : Word) : IdxCtl := { i64 := bitOf w 4, dim := fld w 2 0 }

def idxReserved (w : Word) : Bool := fld w 63 5 ≠ 0 || bitOf w 3

/-- The gathered shape (R151). -/
def gatheredShape (tbl idx : View) (d : Nat) : List Nat :=
  let t := tbl.dims.map (·.extent)
  t.take d ++ idx.dims.map (·.extent) ++ t.drop (d + 1)

/-- The coordinate of an index value (R152). -/
def idxCoord (v : Int) (e negMode : Nat) : Option Nat :=
  let v := if v < 0 then (if negMode = 0 then v + e else if negMode = 1 then 0 else -1) else v
  if v < 0 || (e : Int) ≤ v then none else some v.toNat

/-- The index coordinates within gathered coordinates (R151). -/
def idxPart (g : List Nat) (d irank : Nat) : List Nat := (g.drop d).take irank

/-- The table coordinates of gathered coordinates, given the coordinate that the index value selects (R151). -/
def tablePart (g : List Nat) (d irank j : Nat) : List Nat := g.take d ++ [j] ++ g.drop (d + irank)

/-- The value of an index element (R153). -/
def idxValue (i64 : Bool) (v : Nat) : Int := if i64 then signedOf 64 v else signedOf 32 v

/-! ### Windows (R127 to R129) -/

structure WinDim where
  ksize : Nat
  str : Nat
  dil : Nat
  padlo : Nat
  padhi : Nat
  deriving DecidableEq, Repr

def winNsp (w : Word) : Nat := fld w 1 0

def winDim (w : Word) (i : Nat) : WinDim :=
  let f := fld w (23 + 20 * i) (4 + 20 * i)
  { ksize := f % 16 + 1, str := f / 16 % 16 + 1, dil := f / 256 % 16 + 1, padlo := f / 4096 % 16, padhi := f / 65536 % 16 }

def winDims (w : Word) : List WinDim := (List.range (winNsp w)).map (winDim w)

/-- A reserved bit or encoding in WIN_CTL (R122, R127). -/
def winBad (w : Word) : Bool :=
  winNsp w = 0 || fld w 3 2 ≠ 0 || (List.range 3).any fun i => winNsp w ≤ i && fld w (23 + 20 * i) (4 + 20 * i) ≠ 0

/-- Output positions of a spatial dimension (R128); 0 where the count is below 1. -/
def winPositions (d : WinDim) (s : Nat) : Nat :=
  let num : Int := (s : Int) + d.padlo + d.padhi - d.dil * (d.ksize - 1 : Nat) - 1
  if num < 0 then 0 else (num / d.str).toNat + 1

/-- The output shape of a window stage (R128). -/
def winShape (ws : List WinDim) (inp : List Nat) : List Nat :=
  inp.take 1 ++ ws.map (·.ksize) ++ List.zipWith winPositions ws (inp.drop 1) ++ inp.drop (1 + ws.length)

/-- The input coordinate of a spatial dimension (R129); none for padding. -/
def winCoord (d : WinDim) (k o s : Nat) : Option Nat :=
  let x : Int := (o : Int) * d.str + (k : Int) * d.dil - d.padlo
  if x < 0 || (s : Int) ≤ x then none else some x.toNat

/-- The spatial input coordinates; none where one of them is padding. -/
def winSpatial : List WinDim → List Nat → List Nat → List Nat → Option (List Nat)
  | [], _, _, _ => some []
  | d :: ds, k :: ks, o :: os, s :: ss =>
    match winCoord d k o s, winSpatial ds ks os ss with
    | some j, some js => some (j :: js)
    | _, _ => none
  | _ :: _, _, _, _ => none

/-- The source coordinates of a window stage's output coordinates (R129); none for a padding element. -/
def winSource (ws : List WinDim) (inp out : List Nat) : Option (List Nat) :=
  let n := ws.length
  (winSpatial ws ((out.drop 1).take n) ((out.drop (1 + n)).take n) ((inp.drop 1).take n)).map fun js =>
    out.take 1 ++ js ++ out.drop (1 + 2 * n)

/-! ### Layout (R131 to R139) -/

structure LayCtl where
  mode : Nat
  units : Nat
  perm : List Nat
  coldims : Nat
  bsrc : Bool
  deriving DecidableEq, Repr

def layCtl (w : Word) : LayCtl :=
  { mode := fld w 3 0, units := if fld w 7 4 = 0 then 16 else fld w 7 4
    perm := (List.range 8).map fun d => fld w (10 + 3 * d) (8 + 3 * d)
    coldims := fld w 34 32, bsrc := bitOf w 35 }

/-- A reserved bit or encoding in LAY_CTL (R122, R131); a COLDIMS of 0 in a swath mode needs no view record to be judged (R137). -/
def layBad (w : Word) : Bool :=
  fld w 63 36 ≠ 0 || 3 < fld w 3 0 || (bitOf w 35 && fld w 3 0 ≠ 2)
    || (fld w 3 0 = 0 && fld w 34 32 ≠ 0) || (fld w 3 0 ≠ 0 && (fld w 31 8 ≠ 0 || fld w 34 32 = 0))

/-- PERM is a permutation of the used dimensions, and the identity above them (R132). -/
def permOk (perm : List Nat) (rank : Nat) : Bool :=
  (List.range rank).all (fun d => (perm.take rank).contains d)
    && (List.range 8).all fun d => d < rank || perm.getD d 0 = d

/-- COLDIMS against the input rank (R137). -/
def coldimsOk (coldims rank : Nat) : Bool := 1 ≤ coldims && coldims ≤ rank

/-- Bit offset of element (r, c) within one swath image (R138). -/
def swathBit (mode : Nat) (bsrc : Bool) (w r c nrow ncol : Nat) : Nat :=
  if mode = 2 then
    let k := if bsrc then c else r
    let n := if bsrc then r else c
    let nk := if bsrc then ncol else nrow
    let q := 32 / w
    let kg := (nk + q - 1) / q
    (((n / 16) * kg + k / q) * 16 + n % 16) * 32 + (k % q) * w
  else
    let ne := 512 / w
    let ng := (ncol + ne - 1) / ne
    let np := (nrow + 15) / 16
    let blk := if mode = 1 then (r / 16) * ng + c / ne else (c / ne) * np + r / 16
    (blk * 16 + r % 16) * 512 + (c % ne) * w

/-- Bits of a swath image (R138). -/
def swathImageBits (mode : Nat) (bsrc : Bool) (w nrow ncol : Nat) : Nat :=
  if mode = 2 then
    let nn := if bsrc then nrow else ncol
    let nk := if bsrc then ncol else nrow
    let q := 32 / w
    ((nn + 15) / 16) * ((nk + q - 1) / q) * 16 * 32
  else
    let ne := 512 / w
    ((nrow + 15) / 16) * ((ncol + ne - 1) / ne) * 16 * 512

/-- The row and column at element position `k` of an image, padding among them: the inverse of `swathBit`. -/
def swathCell (mode : Nat) (bsrc : Bool) (w k nrow ncol : Nat) : Nat × Nat :=
  let bit := k * w
  if mode = 2 then
    let q := 32 / w
    let nk := if bsrc then ncol else nrow
    let kg := (nk + q - 1) / q
    let beat := bit / 32
    let kk := (beat / 16 % kg) * q + bit % 32 / w
    let n := (beat / 16 / kg) * 16 + beat % 16
    if bsrc then (n, kk) else (kk, n)
  else
    let ne := 512 / w
    let ng := (ncol + ne - 1) / ne
    let np := (nrow + 15) / 16
    let row := bit / 512
    let blk := row / 16
    if mode = 1 then ((blk / ng) * 16 + row % 16, (blk % ng) * ne + bit % 512 / w)
    else ((blk % np) * 16 + row % 16, (blk / np) * ne + bit % 512 / w)

/-- Which matrix element stands at element position `k` of an image; none for padding (R139). -/
def swathAt (mode : Nat) (bsrc : Bool) (w k nrow ncol : Nat) : Option (Nat × Nat) :=
  let rc := swathCell mode bsrc w k nrow ncol
  if rc.1 < nrow && rc.2 < ncol then some rc else none

/-- ncol, nrow and nbatch (R137). -/
def swathCounts (shape : List Nat) (coldims : Nat) : Nat × Nat × Nat :=
  ((shape.take coldims).prod, shape.getD coldims 1, (shape.drop (coldims + 1)).prod)

/-- The output shape of a layout stage (R124, R132, R139). -/
def layShape (l : LayCtl) (w : Nat) (inp : List Nat) : List Nat :=
  if l.mode = 0 then (l.perm.take inp.length).map fun p => inp.getD p 1
  else
    let (ncol, nrow, nbatch) := swathCounts inp l.coldims
    [nbatch * (swathImageBits l.mode l.bsrc w nrow ncol / w)]

/-- The input position of output position `k` of a layout stage; none for a padding position of a swath. -/
def laySource (l : LayCtl) (w : Nat) (inp : List Nat) (k : Nat) : Option Nat :=
  if l.mode = 0 then
    let out := coordsOf (layShape l w inp) k
    let js := (List.range inp.length).map fun d => out.getD ((l.perm.take inp.length).idxOf d) 0
    some (positionOf inp js)
  else
    let (ncol, nrow, _) := swathCounts inp l.coldims
    let per := swathImageBits l.mode l.bsrc w nrow ncol / w
    (swathAt l.mode l.bsrc w (k % per) nrow ncol).map fun rc => (k / per) * (ncol * nrow) + rc.1 * ncol + rc.2

/-- The tile block of output position `k`, named by its first output position: up to 64 rows of input dimension PERM[0], or the rows of
a swath that its first output needs, each with up to 128 B of dimension 0, or of columns (R134, R141, log 68). -/
def layBlock (l : LayCtl) (w : Nat) (inp : List Nat) (k : Nat) : Nat :=
  let v := 1024 / w
  if l.mode = 0 then
    let shape := layShape l w inp
    let d0 := (l.perm.take inp.length).idxOf 0
    positionOf shape ((coordsOf shape k).zipIdx.map fun x => if x.2 = 0 then x.1 / 64 * 64 else if x.2 = d0 then x.1 / v * v else x.1)
  else
    let (ncol, nrow, _) := swathCounts inp l.coldims
    let per := swathImageBits l.mode l.bsrc w nrow ncol / w
    let rc := swathCell l.mode l.bsrc w (k % per) nrow ncol
    let h := if l.mode = 2 && !l.bsrc then 32 / w else 16
    k / per * per + swathBit l.mode l.bsrc w (rc.1 / h * h) (rc.2 / v * v) nrow ncol / w

/-- A layout stage uses the tile (R133, R141). -/
def layTile (l : LayCtl) : Bool := l.mode ≠ 0 || l.perm.getD 0 0 ≠ 0

/-- The width condition of a layout stage (R133, R140). -/
def layWidthOk (l : LayCtl) (w : Nat) : Bool :=
  if l.mode = 3 then w = 32 else if layTile l then w ≠ 6 else true

/-! ### Block scales (R188, R193) -/

/-- Blocks along dimension 0. -/
def scaleNb0 (shape : List Nat) : Nat := (shape.getD 0 1 + 31) / 32

/-- The block of a cast-stage position: its place in the scale array (R193). -/
def scaleBlock (shape : List Nat) (p : Nat) : Nat :=
  let e0 := shape.getD 0 1
  (p % e0) / 32 + scaleNb0 shape * (p / e0)

/-- The cast-stage positions of a block. -/
def blockPositions (shape : List Nat) (b : Nat) : List Nat :=
  let e0 := shape.getD 0 1
  let x := (b % scaleNb0 shape) * 32
  (List.range (min 32 (e0 - x))).map fun i => b / scaleNb0 shape * e0 + x + i

def scaleCount (shape : List Nat) : Nat := scaleNb0 shape * (shape.drop 1).prod

end Sys2Proof.Machine
end

