-- ==== Sys2Proof/Machine/Checks.lean ====
section
/-! DEFINITION. The checks made before execution begins, in the order of R74: malformed bytes (R5, R52, R55, R56, R60, R62,
R122, R131, R149, R150, R177, R212, R213, R221, R240, R303), views (R87), shapes (R57, R125, R150, R151, R163, R213, R221) and
injectivity (R96). -/

namespace Sys2Proof.Machine

/-! ### Fields of descriptors -/

def Job.flag (j : Job) (i : Nat) : Bool := bitOf (j.w 7) i

def Job.transform (j : Job) : Bool := j.opcode = opTransform
def Job.windowEn (j : Job) : Bool := j.transform && j.flag 0
def Job.castEn (j : Job) : Bool := j.transform && j.flag 1
def Job.layoutEn (j : Job) : Bool := j.transform && j.flag 2
def Job.gatherEn (j : Job) : Bool := j.opcode = opGather || (j.transform && j.flag 3)
def Job.scatterEn (j : Job) : Bool := j.opcode = opScatter || j.opcode = opScatterAcc || (j.transform && j.flag 4)
def Job.indexed (j : Job) : Bool := j.gatherEn || j.scatterEn

/-- The descriptor accumulates (R96). -/
def Job.accEn (j : Job) : Bool := j.opcode = opScatterAcc || j.opcode = opReduce || (j.transform && j.flag 5)

def Job.overlapAny (j : Job) : Bool := bitOf (j.w 0) 10
def Job.negMode (j : Job) : Nat := fld (j.w 0) 17 16
def Job.scopeCode (j : Job) : Nat := fld (j.w 0) 19 18

/-- The word of IDX_CTL (R55, R122). -/
def Job.idxWord (j : Job) : Nat := if j.transform then 8 else 7
def Job.idx (j : Job) : IdxCtl := idxCtl (j.w j.idxWord)

/-- The word of ACC_CTL (R55). -/
def Job.accWord (j : Job) : Nat := if j.transform then 11 else if j.opcode = opReduce then 5 else 8
def Job.accOp (j : Job) : BitVec 2 := (j.w j.accWord).extractLsb' 0 2
def Job.accType (j : Job) : BitVec 2 := (j.w j.accWord).extractLsb' 4 2

def Job.cast (j : Job) : CastCtl := castCtl (j.w 9)
def Job.lay (j : Job) : LayCtl := layCtl (j.w 10)
def Job.win (j : Job) : List WinDim := winDims (j.w 8)
def Job.scaleBase (j : Job) : Nat := fld (j.w 12) 47 0

/-- The acceptance-gated opcodes (R27). -/
def Job.gated (j : Job) : Bool :=
  j.accEn || j.opcode = opFlagClear || j.opcode = opFoldArrive || j.opcode = opRekeySweep || j.opcode = opScrub

/-- The idempotence class (R399). -/
def Job.idemClass (j : Job) : IdemClass :=
  if j.opcode = opRekeySweep || j.opcode = opScrub then .n
  else if j.accEn || j.opcode = opFlagClear || j.opcode = opFoldArrive then .a else .i

/-- Words of a descriptor where its view slots begin, in the order SRC, DST, IDX (R55). PUT_INLINE has only DST. -/
def Job.slotWords (j : Job) : List Nat :=
  if j.opcode = opPutInline then [1]
  else if j.opcode = opCopy || j.opcode = opReduce || j.opcode = opCompress || j.opcode = opExpand then [1, 3]
  else if j.opcode = opGather || j.opcode = opScatter || j.opcode = opScatterAcc then [1, 3, 5]
  else if j.transform then (if j.indexed then [1, 3, 5] else [1, 3])
  else []

def Job.srcSlot (j : Job) : Slot := j.slotOf 1
def Job.dstSlot (j : Job) : Slot := if j.opcode = opPutInline then j.slotOf 1 else j.slotOf 3
def Job.idxSlot (j : Job) : Slot := j.slotOf 5

/-- The view records read for the slots, by place in `slotWords`. -/
def Job.viewAt (j : Job) (i : Nat) : Option (List Word) := j.viewWords.getD i none
def Job.viewD (j : Job) (i : Nat) : View := viewOf ((j.viewAt i).getD [])
def Job.srcView (j : Job) : View := j.viewD 0
def Job.dstView (j : Job) : View := if j.opcode = opPutInline then j.viewD 0 else j.viewD 1
def Job.idxView (j : Job) : View := j.viewD 2

/-- The index view as the walker addresses it: 64-bit elements for int64 indices (R150). -/
def Job.idxBits (j : Job) : Nat := if j.idx.i64 then 64 else 32

/-! ### Malformed bytes (orders 1 and 2 of R74) -/

/-- The known opcodes (R53). -/
def knownOpcode (o : Nat) : Bool := o ≤ 9 || (0x10 ≤ o && o ≤ 0x13) || o = 0x18 || o = 0x19 || o = 0x20 || o = 0x21 || o = 0x28

/-- Bits [n-1:0]. -/
def lowMask (n : Nat) : Word := BitVec.ofNat 64 (2 ^ n - 1)

/-- The bits that the opcode names in word `i` of 1 to 14 (R54, R55). -/
def namedBits (o i : Nat) : Word :=
  let slot := fun (s : Nat) => if i = s then some (lowMask 36) else if i = s + 1 then some (lowMask 48) else none
  let all := lowMask 64
  if o = opCopy then ((slot 1) <|> (slot 3)).getD 0
  else if o = opTransform then
    ((slot 1) <|> (slot 3) <|> (slot 5) <|> (if i = 7 then some (lowMask 6) else if 8 ≤ i && i ≤ 11 then some all
      else if i = 12 then some (lowMask 48) else none)).getD 0
  else if o = opGather || o = opScatter then
    ((slot 1) <|> (slot 3) <|> (slot 5) <|> (if i = 7 then some all else none)).getD 0
  else if o = opScatterAcc then
    ((slot 1) <|> (slot 3) <|> (slot 5) <|> (if i = 7 || i = 8 then some all else none)).getD 0
  else if o = opReduce || o = opCompress || o = opExpand then
    ((slot 1) <|> (slot 3) <|> (if i = 5 then some all else none)).getD 0
  else if o = opPutInline then ((slot 1) <|> (if i = 3 then some (lowMask 9) else none)).getD 0
  else if o = opFlagSet || o = opFlagClear then (if i = 1 then lowMask 30 else 0)
  else if o = opFlagWait then (if i = 1 then lowMask 30 else if i = 2 then lowMask 48 else if i = 3 then 1 else 0)
  else if o = opFoldArrive then (if i = 1 then lowMask 28 else if i = 2 then lowMask 8 else 0)
  else if o = opInvalidate then (if i = 1 then lowMask 48 else if i = 2 then lowMask 40 else if i = 3 then lowMask 4 else 0)
  else if o = opRekeySweep then (if i = 1 then 0xFF0FFF else 0)
  else if o = opScrub then (if i = 1 then lowMask 12 else 0)
  else if o = opQuery then (if i = 1 then all else if i = 2 then lowMask 4 else 0)
  else 0

/-- A failure: byte offset and reason (R72). -/
abbrev Bad := Nat × Nat

/-- Reserved bits set in the word at byte offset `off`: reason 1 at the byte of the first of them (log 25). -/
def reservedIn (off : Nat) (w : Word) : List Bad :=
  match (List.range 8).find? fun b => fld w (8 * b + 7) (8 * b) ≠ 0 with
  | some b => [(off + b, 1)]
  | none => []

def badIf (c : Bool) (off reason : Nat) : List Bad := if c then [(off, reason)] else []

/-- Reserved bits and bytes of the descriptor (R5, R52, R62). -/
def Job.badReserved (j : Job) : List Bad :=
  reservedIn 0 (j.w 0 &&& 0x00000000FFF0F800)
    ++ (List.range 14).flatMap (fun i => reservedIn (8 * (i + 1)) (j.w (i + 1) &&& ~~~ namedBits j.opcode (i + 1)))
    ++ reservedIn 0x78 (j.w 15 &&& 0x00000000FFFE0000)

/-- NEG_MODE, SCOPE and EXT (R52, R60, R150). DESIGN CHOICE (log 82): the manual gives EXT's and SCOPE's failures no offset; they are reported at
0x00, as NEG_MODE's is. -/
def Job.badCommon (j : Job) : List Bad :=
  let sync := j.opcode = opFlagSet || j.opcode = opFlagClear || j.opcode = opFlagWait || j.opcode = opFoldArrive
  let len := fld (j.w 3) 8 0
  badIf (j.negMode = 3 || (j.negMode ≠ 0 && !j.indexed)) 0 4
    ++ badIf (j.scopeCode = 3 || (j.scopeCode ≠ 0 && !sync)) 0 4
    ++ (if j.opcode = opPutInline then
          badIf (j.ext ≠ (len + 127) / 128) 0 3 ++ badIf (len = 0 || 256 < len) 0x18 4
            ++ badIf ((j.payload.drop len).any (· ≠ 0)) 0x18 1
        else badIf (j.ext ≠ 0) 0 3)

/-- The stage words of a TRANSFORM (R122, R177). -/
def Job.badTransform (j : Job) : List Bad :=
  let g := j.flag 3
  let s := j.flag 4
  let c := j.cast
  let mx := dtMx c.src || dtMx c.dst
  badIf (g && s) 0x38 4 ++ badIf (j.windowEn && (g || s)) 0x38 4
    ++ badIf (j.w 8 ≠ 0 && !j.windowEn && !g && !s) 0x40 4
    ++ badIf (j.w 9 ≠ 0 && !j.castEn) 0x48 4
    ++ badIf (j.w 10 ≠ 0 && !j.layoutEn) 0x50 4
    ++ badIf (j.w 11 ≠ 0 && !j.flag 5) 0x58 4
    ++ badIf ((j.w 5 ≠ 0 || j.w 6 ≠ 0) && !g && !s) 0x28 4
    ++ badIf (j.windowEn && !g && !s && winBad (j.w 8)) 0x40 4
    ++ badIf (j.layoutEn && layBad (j.w 10)) 0x50 4
    ++ badIf (j.flag 5 && (accBadEncoding (j.w 11) || accReserved (j.w 11))) 0x58 4
    ++ (if j.castEn then
          badIf (castReserved (j.w 9)) 0x48 1
            ++ badIf ((dtWidth c.src).isNone || (dtWidth c.dst).isNone || !castLegal c.src c.dst) 0x48 4
            ++ badIf (c.round = 3) 0x48 4
            ++ badIf (c.expAdj ≠ 0 && mx) 0x48 4
            ++ badIf (dtMx c.src && (j.windowEn || g)) 0x48 4
            ++ badIf (dtMx c.dst && s) 0x48 4
            ++ badIf (mx && j.scaleBase = 0) 0x60 4
            ++ badIf (!mx && j.scaleBase ≠ 0) 0x60 4
        else badIf (j.scaleBase ≠ 0) 0x60 4)

/-- Conditions of the index control word and slot that need no record (R150). -/
def Job.badIndex (j : Job) (dev : DevNum) : List Bad :=
  if j.indexed then
    badIf (idxReserved (j.w j.idxWord)) (8 * j.idxWord) 1
      ++ badIf (j.idxSlot.device ≠ dev) 0x2B 4
      ++ badIf (j.idx.i64 && j.idxSlot.base.toNat % 8 ≠ 0) 0x30 4
  else []

/-- Conditions of the other opcodes' words (R55, R163, R212, R213, R221, R240, R247, R303). -/
def Job.badOther (j : Job) (dev : DevNum) (pk : Paddock) : List Bad :=
  let o := j.opcode
  let cdc := j.w 5
  (if o = opScatterAcc || o = opReduce then
      badIf (accReserved (j.w j.accWord)) (8 * j.accWord) 1 ++ badIf (accBadEncoding (j.w j.accWord)) (8 * j.accWord) 4
    else [])
  ++ (if o = opCompress || o = opExpand then
      badIf (fld cdc 63 60 ≠ 0 || fld cdc 15 12 ≠ 0 || fld cdc 3 2 ≠ 0) 0x28 1
        ++ badIf (j.dstSlot.device ≠ dev) 0x1B 4
    else [])
  ++ (if o = opCompress then
      badIf (fld cdc 1 0 = 0 || fld cdc 1 0 = 3 || 8 < fld cdc 11 8 || (fld cdc 11 8 ≠ 0 && fld cdc 1 0 = 1)
          || fld cdc 59 16 ≠ 0) 0x28 4
        ++ badIf (j.dstSlot.base.toNat % 64 ≠ 0) 0x20 4
    else [])
  ++ (if o = opExpand then
      badIf (fld cdc 1 0 ≠ 0 || fld cdc 11 4 ≠ 0) 0x28 4 ++ badIf (j.srcSlot.base.toNat % 64 ≠ 0) 0x10 4
    else [])
  ++ (if o = opFoldArrive then
      badIf (fld (j.w 2) 7 0 = 0) 0x10 4 ++ badIf (fld (j.w 1) 27 16 ≠ dev.toNat && j.scopeCode ≠ 2) 0 4
    else [])
  ++ (if o = opFlagSet || o = opFlagClear || o = opFlagWait then
      badIf (fld (j.w 1) 29 18 ≠ dev.toNat && j.scopeCode ≠ 2) 0 4
    else [])
  ++ (if o = opInvalidate then
      badIf (fld (j.w 2) 39 0 = 0) 0x10 4 ++ badIf (fld (j.w 3) 3 0 = 0) 0x18 4
        ++ badIf (2 ^ 48 < fld (j.w 1) 47 0 + fld (j.w 2) 39 0) 0x08 4
    else [])
  ++ (if o = opRekeySweep then 
      badIf (fld (j.w 1) 19 16 = fld (j.w 1) 23 20 || fld (j.w 1) 23 20 ≠ pk.writeEpoch.toNat
        || !pk.live.getLsbD (fld (j.w 1) 19 16)) 0x08 4
    else [])
  ++ (if o = opQuery then badIf (1 < fld (j.w 2) 3 0) 0x10 4 else [])

/-- Records read and passing R87, by place in `slotWords`. -/
def Job.viewGood (j : Job) (i : Nat) : Bool :=
  match j.viewAt i with
  | some ws => viewOk ws
  | none => false

/-- The rank of the input of the layout stage (R74, R124). -/
def Job.layoutRank (j : Job) : Nat :=
  let r := if j.gatherEn then j.srcView.rank - 1 + j.idxView.rank else j.srcView.rank
  min 8 (if j.windowEn then r + winNsp (j.w 8) else r)

/-- Conditions that depend on view records, each judged only where its records pass R87 (R74, R87, R132, R137, R150). -/
def Job.badRecord (j : Job) : List Bad :=
  let base := j.slotWords.zipIdx.flatMap fun s =>
    let v := j.viewD s.2
    badIf (j.viewGood s.2 && 8 ≤ v.ebits && (j.slotOf s.1).base.toNat % (v.ebits / 8) ≠ 0) (8 * (s.1 + 1)) 4
  let tbl := if j.gatherEn then 0 else 1
  let dim := badIf (j.indexed && j.viewGood tbl && (j.viewD tbl).rank ≤ j.idx.dim) (8 * j.idxWord) 4
  let lay := badIf (j.layoutEn && j.viewGood 0 && (!j.gatherEn || j.viewGood 2)
      && (if j.lay.mode = 0 then !permOk j.lay.perm j.layoutRank else !coldimsOk j.lay.coldims j.layoutRank)) 0x50 4
  base ++ dim ++ lay

/-- The failure reported: the lowest offset, at one offset the lowest reason (R74). -/
def firstBad : List Bad → Option Bad
  | [] => none
  | b :: bs =>
    match firstBad bs with
    | none => some b
    | some c => if c.1 < b.1 || (c.1 = b.1 && c.2 < b.2) then some c else some b

/-- Every BAD_DESCRIPTOR condition of a known opcode (order 2 of R74). -/
def Job.bads (j : Job) (dev : DevNum) (pk : Paddock) : List Bad :=
  j.badReserved ++ j.badCommon ++ (if j.transform then j.badTransform else []) ++ j.badIndex dev ++ j.badOther dev pk ++ j.badRecord

/-- DETAIL of BAD_DESCRIPTOR (R72). -/
def badDetail (b : Bad) : Word := BitVec.ofNat 64 (b.1 + 256 * b.2)

/-- Orders 1 and 2 of R74; `pk` is the paddock that a REKEY_SWEEP names, `more` the conditions that depend on what is attached
(R240). -/
def Job.checkBytes (j : Job) (dev : DevNum) (pk : Paddock) (more : List Bad) : Option (Status × Word) :=
  if !knownOpcode j.opcode then some (stBadDescriptor, badDetail (0, 2))
  else (firstBad (j.bads dev pk ++ more)).map fun b => (stBadDescriptor, badDetail b)

/-! ### Views, shapes, injectivity (orders 5 to 7 of R74) -/

/-- The first failing view record, in slot order (order 5). -/
def Job.checkViews (j : Job) : Option (Status × Word) :=
  (j.slotWords.zipIdx.find? fun s => !j.viewGood s.2).map fun s =>
    (stBadView, (j.slotOf s.1).view.setWidth 64)

/-- The shape that leaves the source stage and a window stage: the cast stage's shape (R124). -/
def Job.stageShape (j : Job) : List Nat :=
  let src := if j.gatherEn then gatheredShape j.srcView j.idxView j.idx.dim else j.srcView.dims.map (·.extent)
  if j.windowEn then winShape j.win src else src

/-- The type that leaves the cast stage. -/
def Job.stageType (j : Job) : Nat := if j.castEn then j.cast.dst else j.srcView.dtype

/-- The final stage's shape (R124). -/
def Job.finalShape (j : Job) : List Nat :=
  if j.layoutEn then layShape j.lay (dtBits j.stageType) j.stageShape else j.stageShape

/-- The element count that the destination stream has (R57, R125, R151). -/
def Job.dstCount (j : Job) : Nat :=
  if j.scatterEn then (gatheredShape j.dstView j.idxView j.idx.dim).prod else j.dstView.count

/-- Index conditions of order 6 (R150). -/
def Job.indexShapeBad (j : Job) : Bool :=
  let tbl := if j.gatherEn then j.srcView else j.dstView
  j.indexed && (j.idxView.dtype ≠ dtInt32 || 8 < tbl.rank - 1 + j.idxView.rank)

/-- The shape conditions of a TRANSFORM with stages (R125, R177). -/
def Job.transformShapeBad (j : Job) : Bool :=
  (j.windowEn && (j.srcView.rank < winNsp (j.w 8) + 1 || 8 < j.srcView.rank + winNsp (j.w 8)
      || (j.stageShape).any (· = 0)))
    || (j.castEn && j.srcView.dtype ≠ j.cast.src)
    || (j.layoutEn && !layWidthOk j.lay (dtBits j.stageType))
    || j.dstView.dtype ≠ j.stageType
    || (j.accEn && j.stageType ≠ accDtype j.accType)
    || j.dstCount ≠ j.finalShape.prod

/-- A view that can hold an image's bytes (R213, R221). -/
def imageView (v : View) : Bool :=
  match v.dims with
  | [d] => v.dtype = dtByte && d.stride = 1 && d.lo = 0 && d.extent ≤ d.len
  | _ => false

def codedType (d : Nat) : Bool := d = dtBf16 || d = dtFp16

/-- The shape conditions of a COMPRESS (R213). -/
def Job.compressShapeBad (j : Job) : Bool :=
  let mode := fld (j.w 5) 1 0
  let n := j.srcView.count
  !codedType j.srcView.dtype || (mode = 2 && (j.srcView.dtype = dtFp16 || n % 8192 ≠ 0))
    || 2 ^ 22 < imageBlocks mode n || !imageView j.dstView
    || j.dstView.count < imageBound mode n (fld (j.w 5) 7 4 + 1)

/-- Order 6 of R74: SHAPE_MISMATCH. -/
def Job.shapeBad (j : Job) : Bool :=
  let o := j.opcode
  if o = opPutInline then j.dstView.count ≠ fld (j.w 3) 8 0 || j.dstView.ebits ≠ 8
  else if o = opCompress then j.compressShapeBad
  else if o = opExpand then !imageView j.srcView || !codedType j.dstView.dtype
  else if o = opCopy || (j.transform && fld (j.w 7) 5 0 = 0) then
    j.srcView.count ≠ j.dstView.count || j.srcView.ebits ≠ j.dstView.ebits
  else if o = opReduce then
    j.srcView.count ≠ j.dstView.count || j.srcView.dtype ≠ accDtype j.accType || j.dstView.dtype ≠ accDtype j.accType
  else if o = opGather || o = opScatter || o = opScatterAcc then
    j.indexShapeBad || j.srcView.dtype ≠ j.dstView.dtype
      || (if o = opGather then j.dstView.count ≠ j.stageShape.prod else j.srcView.count ≠ j.dstCount)
      || (o = opScatterAcc && j.srcView.dtype ≠ accDtype j.accType)
  else if o = opTransform then j.indexShapeBad || j.transformShapeBad
  else false

/-- Order 7 of R74: ALIAS_REJECTED (R96). -/
def Job.aliasBad (j : Job) : Bool := !j.accEn && !j.overlapAny && !dstInjective j.dstView

/-- Orders 5 to 7 of R74, for the opcodes that name views. -/
def Job.checkData (j : Job) : Option (Status × Word) :=
  match j.checkViews with
  | some x => some x
  | none =>
    if j.shapeBad then some (stShape, 0)
    else if j.aliasBad then some (stAlias, 0)
    else none

end Sys2Proof.Machine
end

