-- ==== Sys2Proof/Machine/Journal.lean ====
section
/-! DEFINITION. The acceptance journal's operations (12: R390 to R398): records and their bytes, writing, flushes, what is
live, carry-forward, and the space that stops acceptance. -/

namespace Sys2Proof.Machine

def JKind.code : JKind → Nat
  | .accept => 1 | .retire => 2 | .applied => 3 | .progress => 4 | .cursor => 5 | .attach => 6

def JKind.ofCode (n : Nat) : Option JKind :=
  if n = 1 then some .accept else if n = 2 then some .retire else if n = 3 then some .applied
  else if n = 4 then some .progress else if n = 5 then some .cursor else if n = 6 then some .attach else none

/-- The 32 bytes of a record (R393). -/
def JRec.bytes (r : JRec) : List Byte :=
  let w3 := r.kind.code + 16 * ofBit r.carried + 32 * ofBit r.adopted + 64 * ofBit r.doubt + 256 * r.kspec.toNat
  let b := leBytes 8 r.jseq ++ leBytes 8 r.word1.toNat ++ leBytes 8 r.word2.toNat ++ leBytes 4 w3
  b ++ leBytes 4 (crc32c b).toNat

/-- A record read at position `pos` of a journal of 2^size records, if it is valid (R394). -/
def readRec (size pos : Nat) (bs : List Byte) : Option JRec :=
  let w3 := leNat ((bs.drop 24).take 4)
  match JKind.ofCode (w3 % 16) with
  | none => none
  | some k =>
    let q := leNat (bs.take 8)
    if q % 2 ^ size ≠ pos || leNat ((bs.drop 28).take 4) ≠ (crc32c (bs.take 28)).toNat then none
    else some { jseq := q, word1 := BitVec.ofNat 64 (leNat ((bs.drop 8).take 8))
                word2 := BitVec.ofNat 64 (leNat ((bs.drop 16).take 8)), kind := k
                carried := w3 / 16 % 2 = 1, adopted := w3 / 32 % 2 = 1, doubt := w3 / 64 % 2 = 1
                kspec := BitVec.ofNat 24 (w3 / 256) }

def Eng.modJrn (e : Eng) (f : Jrn → Jrn) : Eng := { e with jrn := f e.jrn }

def Jrn.size (j : Jrn) : Nat := 2 ^ j.sizeLog2.toNat

/-- Free records: those not between the oldest live record and the tail. -/
def Jrn.free (j : Jrn) : Nat := j.size - (j.tailSeq - j.headSeq)

/-- JRN_STAT.FULL (R398). Records that wait to be written have their places. -/
def Jrn.full (j : Jrn) : Bool := j.state ≠ .detached && decide ((j.free - j.waiting.length) * 8 < j.size)

/-- The oldest live JSEQ (R392). -/
def Jrn.oldest (j : Jrn) : Nat := j.recs.foldl (fun n r => min n r.jseq) j.tailSeq

/-- The host address of record `q` (R393). -/
def Jrn.addr (j : Jrn) (q : Nat) : Nat := j.base.toNat * 4096 + 32 * (q % j.size)

/-- JRN may write to the journal: attached, the host reachable, and Vrelop not in the Fatal state (R372, R415, R416). -/
def Eng.jOpen (e : Eng) : Bool := !e.flt.fatal && e.hostUp && (decide (e.jrn.state = .attached) || decide (e.jrn.state = .adopting))

/-- A flush is issued when records are not durable and none is outstanding (R395). -/
def Eng.jFlush (e : Eng) : Eng :=
  if e.jOpen && e.jrn.flushTo.isNone && decide (e.jrn.durableSeq < e.jrn.tailSeq) then
    (e.emit .flush).modJrn fun j => { j with flushTo := some j.tailSeq }
  else e

/-- One record written at the tail (R393, R395, R423). -/
def Eng.jWrite (e : Eng) (r : JRec) : Eng :=
  let r := { r with jseq := e.jrn.tailSeq }
  ((e.hostPut (e.jrn.addr r.jseq) r.bytes).modJrn fun j =>
    { j with tailSeq := j.tailSeq + 1, recs := j.recs ++ [r] }).count subJrn 0 1

/-- A newer CURSOR, PROGRESS or ATTACH record takes a record's place (R397, R401). -/
def jReplaced (rs : List JRec) (r : JRec) : Bool :=
  (decide (r.kind = .cursor) || decide (r.kind = .progress) || decide (r.kind = .attach)) && rs.any fun q =>
    decide (r.jseq < q.jseq) && decide (q.kind = r.kind) && (decide (r.kind = .attach) || decide (q.word1 = r.word1))

/-- The live records among the oldest eighth are copied to the tail with CARRIED set, and HEAD advances past the originals
(R397). One that a newer record replaces is not copied; it stays until that record is durable. -/
def Eng.jCarry (e : Eng) : Eng :=
  if e.jrn.free * 4 < e.jrn.size then
    let lim := e.jrn.headSeq + e.jrn.size / 8
    let old := e.jrn.recs.filter fun r => decide (r.jseq < lim) && decide (r.jseq < e.jrn.durableSeq) && !jReplaced e.jrn.recs r
    let e := old.foldl (fun e r => (e.jWrite { r with carried := true }).count subJrn 2 1) e
    e.modJrn fun j =>
      let j := { j with recs := j.recs.filter fun r => !(old.any fun o => o.jseq = r.jseq) }
      { j with headSeq := j.oldest }
  else e

/-- Waiting records are written in their order while there is room, and a flush follows (R395, R398, R415). -/
def Eng.jPump (e : Eng) : Eng :=
  if e.jOpen then
    let n := e.jrn.free
    let go := e.jrn.waiting.take n
    let e := e.modJrn fun j => { j with waiting := j.waiting.drop n }
    ((go.foldl Eng.jWrite e).jCarry).jFlush
  else e

/-- JRN takes a record to write. -/
def Eng.jAppend (e : Eng) (r : JRec) : Eng := (e.modJrn fun j => { j with waiting := j.waiting ++ [r] }).jPump

/-- The record of a durable RETIRE ends the life of the descriptor's earlier records; a newer CURSOR, ATTACH or PROGRESS that
is durable ends an older one's (R397, R401). -/
def jSuperseded (durable : Nat) (rs : List JRec) (r : JRec) : Bool :=
  rs.any fun q => (decide (r.jseq < q.jseq) || (r.carried && decide (q.kind = .retire))) && decide (q.jseq < durable) &&
    (match q.kind with
    | .retire => decide (q.word1 = r.word1) && decide (r.kind ≠ .attach) && decide (r.kind ≠ .retire)
    | .cursor => decide (r.kind = .cursor) && decide (q.word1 = r.word1)
    | .progress => decide (r.kind = .progress) && decide (q.word1 = r.word1)
    | .attach => decide (r.kind = .attach)
    | _ => false)

/-- Only live records, and those not yet durable, are kept. -/
def Eng.jPrune (e : Eng) : Eng :=
  e.modJrn fun j =>
    let d := j.durableSeq
    let recs := j.recs.filter fun r => !(decide (r.jseq < d) && (decide (r.kind = .retire) || jSuperseded d j.recs r))
    let j := { j with recs := recs }
    { j with headSeq := j.oldest }

/-- Every record that is not durable is written again with the same JSEQ and content (R395). -/
def Eng.jRewrite (e : Eng) : Eng :=
  (e.jrn.recs.filter fun r => decide (e.jrn.durableSeq ≤ r.jseq)).foldl
    (fun e r => e.hostPut (e.jrn.addr r.jseq) r.bytes) e

/-- The ACCEPT record of a descriptor (R394). -/
def Job.acceptRec (j : Job) : JRec :=
  { jseq := 0, kind := .accept, word1 := j.handle
    word2 := j.postIndex ++ j.userTag
    kspec := BitVec.ofNat 24 (j.opcode + 2 ^ 8 * (match j.cls with | .i => 0 | .a => 1 | .n => 2)
      + 2 ^ 10 * j.ext + 2 ^ 12 * j.paddock.toNat) }

/-- A RETIRE record (R394): the status and DETAIL of the posted completion. -/
def retireRec (h detail : Word) (st : Status) : JRec :=
  { jseq := 0, kind := .retire, word1 := h, word2 := detail, kspec := st ++ (0 : BitVec 8) }

/-- An APPLIED record (R394). -/
def appliedRec (h : Word) (first count : Nat) (home : Option Status) : JRec :=
  { jseq := 0, kind := .applied, word1 := h, word2 := BitVec.ofNat 64 (first + 2 ^ 40 * count)
    kspec := match home with | some st => st ++ (0 : BitVec 8) | none => 0 }

/-- A PROGRESS record (R394). -/
def progressRec (h : Word) (p : Nat) (doubt : Bool) : JRec :=
  { jseq := 0, kind := .progress, word1 := h, word2 := BitVec.ofNat 64 (p % 2 ^ 48), doubt := doubt }

/-- A CURSOR record (R394). -/
def cursorRec (h : Word) (va : Nat) (f : BitVec 4) (copied scratchB scrub : Bool) : JRec :=
  { jseq := 0, kind := .cursor, word1 := h, word2 := BitVec.ofNat 64 (va / 2 ^ 16 % 2 ^ 32)
    kspec := BitVec.ofNat 24 (f.toNat + 16 * ofBit copied + 32 * ofBit scratchB + 64 * ofBit scrub) }

/-- IDENT: bits [31:0] of the SHA-384 digest of the device identity public key (R394). -/
def deviceIdent (digest : List Byte) : BitVec 32 := BitVec.ofNat 32 (leNat (digest.take 4))

/-- An ATTACH record (R394). -/
def attachRec (dev : DevNum) (ident : BitVec 32) (stamp : Word) : JRec :=
  { jseq := 0, kind := .attach, word1 := ident ++ (0 : BitVec 20) ++ dev, word2 := stamp }

end Sys2Proof.Machine
end

