-- ==== Sys2Proof/Machine/Store.lean ====
section
/-! DEFINITION. The context record (02: R42) and the context store that backs it (01: R16; 09: R472; 12: R407; 14: R460). -/

namespace Sys2Proof.Machine

/-- RFE_CTX_CTL.STATE (R39). -/
def CtxState.num : CtxState → Nat
  | .disabled => 0 | .enabled => 1 | .parked => 2 | .closing => 3

/-- RFE_PARK.CAUSE (R42). -/
def ParkCause.num : ParkCause → Nat
  | .none => 0 | .stall => 1 | .tailRange => 2 | .operator => 3 | .ringFault => 4

/-- The context window at a record offset (R42). -/
def Ctx.reg (x : Ctx) (off : Nat) : Word :=
  match off with
  | 0x00 => pack [(52, x.gen.toNat), (40, x.paddock.toNat), (32, x.state.num), (8, x.tickets.toNat), (5, ofBit x.operator), (4, ofBit x.dieDb)]
  | 0x08 => pack [(12, x.sqBase.toNat), (0, ofBit x.sqInHost)]
  | 0x10 => pack [(32, x.sqTail.toNat), (0, x.sqHead.toNat)]
  | 0x18 => pack [(48, x.retryBudget.toNat), (40, x.sqLog2.toNat), (32, x.cqLog2.toNat), (16, ofBit x.notify), (0, x.vector.toNat)]
  | 0x20 => pack [(12, x.cqBase.toNat), (0, ofBit x.cqInHost)]
  | 0x28 => pack [(32, x.cqTail.toNat), (0, x.cqHead.toNat)]
  | 0x30 => pack [(19, x.spoolBase.toNat)]
  | 0x38 => pack [(32, x.outstanding), (0, x.spooled)]
  | 0x40 => pack [(32, x.parkIndex.toNat), (8, x.parkRetries.toNat), (0, x.parkCause.num)]
  | 0x48 => x.tallyAccept
  | 0x50 => x.tallyPost
  | 0x58 => x.tallyRefetch
  | _ => 0

/-- The address of a context's record in the backing store (R460). -/
def Eng.storeAddr (e : Eng) (c : CtxNum) : Nat := e.cxs.storeBase.toNat * 2 ^ 28 + 256 * c.toNat

/-- A context's record of 256 bytes: the words of R42, and working state whose layout the manual does not give, a free value (log 17). -/
def Ctx.record (x : Ctx) (draw : Nat) : List Byte :=
  ((List.range 12).flatMap fun i => leBytes 8 (x.reg (8 * i)).toNat) ++ (List.range 160).map (Config.slack draw)

/-- A context with one word of its window as its record gives it. -/
def Ctx.load (x : Ctx) (off : Nat) (w : Word) : Ctx :=
  match off with
  | 0x00 => { x with
      gen := w.extractLsb' 52 12, paddock := w.extractLsb' 40 12
      state := (match (w.extractLsb' 32 2 : BitVec 2).toNat with | 0 => .disabled | 1 => .enabled | 2 => .parked | _ => .closing)
      tickets := w.extractLsb' 8 8, operator := w.getLsbD 5, dieDb := w.getLsbD 4 }
  | 0x08 => { x with sqBase := w.extractLsb' 12 52, sqInHost := w.getLsbD 0 }
  | 0x10 => { x with sqTail := w.extractLsb' 32 32, sqHead := w.extractLsb' 0 32 }
  | 0x18 => { x with
      retryBudget := w.extractLsb' 48 8, sqLog2 := w.extractLsb' 40 5, cqLog2 := w.extractLsb' 32 5, notify := w.getLsbD 16
      vector := w.extractLsb' 0 11 }
  | 0x20 => { x with cqBase := w.extractLsb' 12 52, cqInHost := w.getLsbD 0 }
  | 0x28 => { x with cqTail := w.extractLsb' 32 32, cqHead := w.extractLsb' 0 32 }
  | 0x30 => { x with spoolBase := w.extractLsb' 19 45 }
  | 0x38 => { x with outstanding := (w.extractLsb' 32 32 : BitVec 32).toNat, spooled := (w.extractLsb' 0 32 : BitVec 32).toNat }
  | 0x40 => { x with
      parkIndex := w.extractLsb' 32 32, parkRetries := w.extractLsb' 8 8
      parkCause := (match (w.extractLsb' 0 3 : BitVec 3).toNat with | 1 => .stall | 2 => .tailRange | 3 => .operator | 4 => .ringFault | _ => .none) }
  | 0x48 => { x with tallyAccept := w }
  | 0x50 => { x with tallyPost := w }
  | 0x58 => { x with tallyRefetch := w }
  | _ => x

/-- The words of R42, in the record's order. -/
def Ctx.storeWords (x : Ctx) : List Word := (List.range 12).map fun i => x.reg (8 * i)

/-- A context leaves the on-die cache, and its record goes to the backing store in the clear (R472, log 17). -/
def Eng.evictCtx (e : Eng) (c : CtxNum) : Eff :=
  let (n, e) := e.draw
  (Eff.mk { e with cxs := { e.cxs with cache := e.cxs.cache.erase c, away := mapSet [] e.cxs.away c.toNat (e.ctx c).storeWords } } []).put
    ⟨e.storeAddr c, .clear, (e.ctx c).record n⟩

/-- HEAD and the completion TAIL go through to the backing store (R407). -/
def Eff.storeIdx (x : Eff) (c : CtxNum) : Eff :=
  let r := x.eng.ctx c
  ((x.put ⟨x.eng.storeAddr c + 0x10, .clear, leBytes 8 (r.reg 0x10).toNat⟩).put
    ⟨x.eng.storeAddr c + 0x28, .clear, leBytes 8 (r.reg 0x28).toNat⟩).on fun e => { e with cxs := { e.cxs with
      away := mapUpd [] e.cxs.away c.toNat fun ws => (ws.set 2 (r.reg 0x10)).set 5 (r.reg 0x28) } }

/-- A context's record is read from the backing store in the clear (R472): a word that stands there otherwise than Vrelop wrote it is the context's now
(log 17). -/
def Eng.loadCtx (e : Eng) (m : Memory) (c : CtxNum) : Eng :=
  match mapGet [] e.cxs.away c.toNat with
  | [] => e
  | ws =>
    let found := (List.range 12).map fun i => m.word (e.storeAddr c + 8 * i)
    let e : Eng := { e with cxs := { e.cxs with away := mapSet [] e.cxs.away c.toNat [] } }
    if found = ws then e
    else e.modCtx c fun x => ((found.zip ws).zipIdx.filter fun w => w.1.1 ≠ w.1.2).foldl (fun x w => x.load (8 * w.2) w.1.1) x

/-- A context is used: it enters the on-die cache, read from the backing store where it has been there, and a full cache gives up another (R16, log 17). -/
def Eng.touchCtx (e : Eng) (m : Memory) (c : CtxNum) : Eff :=
  if e.cxs.cache.contains c then ⟨e, []⟩
  else
    let e := e.loadCtx m c
    if e.cxs.cache.length < 32768 then ⟨{ e with cxs := { e.cxs with cache := c :: e.cxs.cache } }, []⟩
    else
      let (n, e) := e.draw
      (e.evictCtx (e.cxs.cache.getD (Config.victim n % e.cxs.cache.length) 0)).on fun e =>
        { e with cxs := { e.cxs with cache := c :: e.cxs.cache } }

end Sys2Proof.Machine
end

