-- ==== Sys2Proof/Machine/Rings.lean ====
section
/-! DEFINITION. Shared operations of rings, doorbells, fetch and completions (02: R39 to R78; 01: R25; 12: R386, R394, R396). -/

namespace Sys2Proof.Machine

/-! ### Parking and stalls (R42, R64, R66) -/

/-- A ring parks. -/
def Eng.parkRing (e : Eng) (c : CtxNum) (cause : ParkCause) (index : Idx) (retries : Nat) : Eng :=
  e.modCtx c fun x => { x with
    state := .parked, parkCause := cause, parkIndex := index, parkRetries := BitVec.ofNat 8 retries, refetch := none }

/-- RFE asks the host port to signal the context's vector (R75). -/
def Eng.signal (e : Eng) (c : CtxNum) : Eng :=
  let x := e.ctx c
  if x.notify then e.emit (.msi x.vector) else e

/-- RING_STALL (R64): park, history entry, signal, tally. -/
def Eng.ringStallNow (e : Eng) (c : CtxNum) : Eng :=
  let x := e.ctx c
  ((((e.parkRing c .stall x.sqHead x.retryBudget.toNat).raise subRfe 0 0x10 (some c) (x.sqHead.setWidth 64)).signal c).count
    subRfe 1 1)

/-! ### Doorbells (R48 to R51) -/

/-- A doorbell is ignored and counted (R39, R48). -/
def Eng.dbIgnored (e : Eng) : Eng := e.count subRfe 0 1

/-- A valid submission doorbell in ENABLED or PARKED (R49). A ring that waits on a mismatched descriptor refetches at once
(R63). -/
def Eng.takeTail (e : Eng) (c : CtxNum) (n : Idx) : Eng :=
  let x := e.ctx c
  let h := x.sqHead
  if 2 ^ x.sqLog2.toNat < idxDist n h then e.parkRing c .tailRange h 0
  else if idxDist n h < idxDist x.sqTail h then e.dbIgnored
  else e.modCtx c fun x => { x with
    sqTail := n, refetch := x.refetch.map fun r => { r with urgent := true, stallAt := none } }

/-- A submission doorbell, by the state of its context (R39, R49, R51, R65). -/
def Eng.ringSq (e : Eng) (c : CtxNum) (v : Word) : Eng :=
  if v.extractLsb' 32 32 ≠ (0 : BitVec 32) then e.dbIgnored
  else match (e.ctx c).state with
    | .enabled =>
      let late := match (e.ctx c).refetch with
        | some r => (match r.stallAt with | some t => decide (t.toNat < e.now.toNat) | none => false)
        | none => false
      if late then (e.ringStallNow c).takeTail c (v.extractLsb' 0 32) else e.takeTail c (v.extractLsb' 0 32)
    | .parked => e.takeTail c (v.extractLsb' 0 32)
    | _ => e.dbIgnored

/-- A completion doorbell (R50). -/
def Eng.ringCq (e : Eng) (c : CtxNum) (v : Word) : Eng :=
  let x := e.ctx c
  let n : Idx := v.extractLsb' 0 32
  if v.extractLsb' 32 32 ≠ (0 : BitVec 32) then e.dbIgnored
  else match x.state with
    | .enabled | .parked =>
      if idxDist x.cqTail n ≤ idxDist x.cqTail x.cqHead then e.modCtx c fun x => { x with cqHead := n } else e.dbIgnored
    | _ => e.dbIgnored

/-- The engine domain's clock runs. -/
def Eng.engineRuns (e : Eng) : Bool := e.active .engine && !e.svc.power.dormant

/-- The always-on catcher records a doorbell, or withholds credit when 256 contexts are recorded, and starts the engine
domain and the context's home region (R51, R343). -/
def Eng.catchDoorbell (e : Eng) (c : CtxNum) (cq : Bool) (v : Word) : Eng :=
  let set := fun (k : Caught) => if cq then { k with cq := some v } else { k with sq := some v }
  let r := e.rfe
  let r := if r.caught.any (·.ctx = c) then
      { r with caught := r.caught.map fun k => if k.ctx = c then set k else k }
    else if r.caught.length < 256 then { r with caught := r.caught ++ [set { ctx := c }] }
    else { r with withheld := r.withheld ++ [(c, cq, v)] }
  (({ e with rfe := r }).wakeRegion (homeRegion c)).wakeEngine

/-- A doorbell reaches RFE, or the catcher where the engine domain is stopped (R51). -/
def Eng.doorbell (e : Eng) (c : CtxNum) (cq : Bool) (v : Word) : Eng :=
  if e.engineRuns then (if cq then e.ringCq c v else e.ringSq c v).noteWorkOf .engine else e.catchDoorbell c cq v

/-- The 64-bit word of a host doorbell write: a 32-bit write of the low half writes zero to the high half; a write of another kind is none (R48). -/
def doorbellWord (h : DbWrite) (v : Word) : Option Word :=
  match h with
  | .both => some v
  | .low => some (v &&& 0xFFFFFFFF)
  | .high | .other => none

/-! ### Fetch (R61 to R66) -/

/-- The address of entry `i` of a ring of `size`-byte entries (R46). -/
def ringAddr (base : BitVec 52) (log2 : BitVec 5) (i : Idx) (size : Nat) : Nat :=
  base.toNat * 4096 + i.toNat % 2 ^ log2.toNat * size

/-- Fetching stops on this context without using budget (R66, R76, R398, R470). -/
def Eng.fetchStopped (e : Eng) (c : CtxNum) : Bool :=
  let x := e.ctx c
  decide (16384 ≤ x.outstanding) || e.jrn.full || decide (e.jrn.state ≠ .attached) || (x.sqInHost && !e.hostUp)
    || e.halted

/-- The context has an entry that RFE may fetch now: one not waited on, or one whose immediate refetch is owed. -/
def Eng.fetchReady (e : Eng) (c : CtxNum) : Bool :=
  let x := e.ctx c
  decide (x.state = .enabled) && decide (x.sqHead ≠ x.sqTail) && !e.fetchStopped c &&
    match x.refetch with
    | none => true
    | some r => r.stallAt.isNone && (r.urgent || r.suspended)

/-- Whether a ring entry stands in the landing buffer (R25). -/
def Eng.landed (e : Eng) (a : Nat) : Option (List Byte) := (e.rfe.landing.find? (·.1 = a / 128)).map (·.2)

/-- The 128 bytes of a submission entry: from the landing buffer, the stack, or host memory (R25). -/
def Eng.readEntry (e : Eng) (m : Memory) (c : CtxNum) (i : Idx) (h : HostBytes) : List Byte :=
  let x := e.ctx c
  let a := ringAddr x.sqBase x.sqLog2 i 128
  if x.sqInHost then hostBytesAt h a 128
  else match e.landed a with
    | some bs => bs
    | none => m.bytes .clear a 128

/-- A fetch of an entry with `ext` slots reads the ring's memory, so that an error can be reported (R66). -/
def Eng.readsMemory (e : Eng) (c : CtxNum) (ext : Nat) : Bool :=
  let x := e.ctx c
  x.sqInHost || (List.range (1 + ext)).any fun i =>
    (e.landed (ringAddr x.sqBase x.sqLog2 (x.sqHead + BitVec.ofNat 32 i) 128)).isNone

/-- Landing-buffer lines that a fetch takes become the most recently used (R25). -/
def Eng.useLines (e : Eng) (c : CtxNum) (ext : Nat) : Eng :=
  let x := e.ctx c
  if x.sqInHost then e
  else (List.range (1 + ext)).foldl (fun e i =>
    let line := ringAddr x.sqBase x.sqLog2 (x.sqHead + BitVec.ofNat 32 i) 128 / 128
    let l := e.rfe.landing
    { e with rfe := { e.rfe with landing := l.filter (·.1 ≠ line) ++ l.filter (·.1 = line) } }) e

/-- EXT of an entry (R52). -/
def entryExt (d : List Byte) : Nat := leNat (d.take 2) / 256 % 4

/-- The descriptor is visible (R61, R63): SEQ, PHASE and XCHECK match, and its slots lie before TAIL. -/
def entryVisible (x : Ctx) (d slots : List Byte) : Bool :=
  let s := x.sqHead
  let v := leNat ((d.drop 0x78).take 8)
  let ext := entryExt d
  v % 2 ^ 16 = s.toNat % 2 ^ 16 && v / 2 ^ 16 % 2 = 1 - s.toNat / 2 ^ x.sqLog2.toNat % 2
    && ext ≤ 2 && 1 + ext ≤ idxDist x.sqTail s
    && v / 2 ^ 32 = (if ext = 0 then 0 else (crc32c slots).toNat)

/-- The mismatched descriptor's next refetch, or its stall when the budget is spent (R63, R64). `timed`: this was a timed
refetch. -/
def Eng.mismatch (e : Eng) (c : CtxNum) (timed : Bool) : Eng :=
  e.modCtx c fun x =>
    let used := (match x.refetch with | some r => r.retries | none => 0) + ofBit timed
    { x with refetch := some { retries := used, due := e.now + 1000, urgent := false, suspended := false
                               stallAt := if x.retryBudget.toNat ≤ used then some e.now else none } }

/-- A new descriptor in work (R67, R76, R394). -/
def newJob (x : Ctx) (c : CtxNum) (d slots : List Byte) : Job :=
  let j : Job := { handle := mkHandle c x.gen x.sqHead, words := wordsOf 16 d, payload := slots, paddock := x.paddock
                   tickets := x.tickets, postIndex := x.cqTail + BitVec.ofNat 32 x.outstanding, lead := homeRegion c }
  { j with cls := j.idemClass }

/-- The fetch step of one ring, whose context is on die (R63, R66, R67, R396). -/
def Eng.fetchEntry (e : Eng) (m : Memory) (c : CtxNum) (reply : FetchReply) (timed : Bool) : Eng :=
  let x := e.ctx c
  let e := if x.refetch.isSome then e.modCtx c fun x => { x with tallyRefetch := x.tallyRefetch + 1 } else e
  let d := e.readEntry m c x.sqHead reply.host
  if reply.error && e.readsMemory c (entryExt d) then
    (e.parkRing c .ringFault x.sqHead 0).raise subRfe 0 0x11 (some c) (x.sqHead.setWidth 64)
  else
    let slots := (List.range (entryExt d)).flatMap fun i => e.readEntry m c (x.sqHead + BitVec.ofNat 32 (i + 1)) reply.host
    let e := e.useLines c (entryExt d)
    if entryVisible x d slots then
      let j := newJob x c d slots
      let e := e.modCtx c fun x => { x with
        sqHead := x.sqHead + BitVec.ofNat 32 (1 + entryExt d), outstanding := x.outstanding + 1, refetch := none }
      ({ e with jobs := e.jobs ++ [j] }).jAppend j.acceptRec
    else e.mismatch c timed

/-- The context is brought on die where it is not, and its ring has its fetch step (R41, R63). -/
def Eng.fetchOne (e : Eng) (m : Memory) (c : CtxNum) (reply : FetchReply) (timed : Bool) : Eff :=
  (e.touchCtx m c).andThen m fun m e => ⟨(e.fetchEntry m c reply timed).noteWork, []⟩

/-- The contexts that compete at the fetch arbiter, in ascending number (R324, R337). -/
def Eng.fetchers (e : Eng) : List (Rival CtxNum) :=
  (e.ctxs.filter fun c => e.fetchReady (BitVec.ofNat 20 c.1)).map fun c =>
    { who := BitVec.ofNat 20 c.1, num := c.1, tickets := c.2.tickets.toNat
      starved := (e.rfe.starvedCtx.find? (·.1 = BitVec.ofNat 20 c.1)).map (·.2) }

/-! ### Completions (R69 to R77) -/

/-- A completion record at completion-ring index `i` (R69). -/
def completionBytes (h : Word) (tag : BitVec 32) (st : Status) (detail stamp : Word) (phase : Nat) : List Byte :=
  leBytes 8 h.toNat ++ leBytes 8 (tag.toNat + 2 ^ 32 * st.toNat + 2 ^ 48 * phase) ++ leBytes 8 detail.toNat
    ++ leBytes 8 stamp.toNat

/-- PHASE of a record at index `i`: the inverse of bit CQ_LOG2 (R69). -/
def cqPhase (log2 : BitVec 5) (i : Idx) : Nat := 1 - i.toNat / 2 ^ log2.toNat % 2

/-- The completion ring can take a record (R71, R77). -/
def Eng.cqRoom (e : Eng) (c : CtxNum) : Bool :=
  let x := e.ctx c
  decide (idxDist x.cqTail x.cqHead < 2 ^ x.cqLog2.toNat) && (!x.cqInHost || e.hostUp)

/-- The oldest of a context's descriptors whose completion is in neither ring nor spool. -/
def Eng.nextJob (e : Eng) (c : CtxNum) : Option Job :=
  e.jobs.find? fun j => j.ctx = c && j.stage ≠ .spooled

/-- The oldest of a context's descriptors whose completion is not in the completion ring, where its record is in the spool: completions are
written in submission order (R71, R387). -/
def Eng.oldestSpooled (e : Eng) (c : CtxNum) : Option Job :=
  (e.jobs.find? fun j => j.ctx = c).filter fun j => j.stage = .spooled

/-- Its completion may be posted (R29): finished, and accepted. -/
def Job.postable (j : Job) : Bool := j.stage = .finished && (j.accepted || j.adopted)

/-- A record of the completion ring is written: to the stack in the clear, or to host memory (R46, R70). -/
def Eff.putRing (x : Eff) (a : Nat) (host : Bool) (bs : List Byte) : Eff :=
  if host then x.on fun e => e.hostPut a bs else x.put ⟨a, .clear, bs⟩

/-- HEAD and the completion TAIL go through to the backing store when nothing is outstanding (R407). -/
def writeThrough (x : Ctx) : Ctx :=
  if x.outstanding = 0 then { x with savedHead := x.sqHead, savedCqTail := x.cqTail } else x

/-- HEAD and TAIL of a context whose OUTSTANDING has returned to zero are stored (R407). -/
def Eff.storeIdle (x : Eff) (c : CtxNum) : Eff := if (x.eng.ctx c).outstanding = 0 then x.storeIdx c else x

/-- A completion record enters the completion ring, with the stamp at which it became ready; its RETIRE record follows (R71,
R76, R396). -/
def Eng.postRecord (e : Eng) (c : CtxNum) (j : Job) : Eff :=
  let x := e.ctx c
  let bs := completionBytes j.handle j.userTag j.status j.detail (j.ready.getD e.now) (cqPhase x.cqLog2 x.cqTail)
  (((Eff.mk e []).putRing (ringAddr x.cqBase x.cqLog2 x.cqTail 32) x.cqInHost bs).on fun e =>
    let e := e.modCtx c fun x => writeThrough { x with
      cqTail := x.cqTail + 1, outstanding := x.outstanding - 1, tallyPost := x.tallyPost + 1
      spooled := if j.stage = .spooled then x.spooled - 1 else x.spooled }
    let e := if j.status = stAbandoned then e.count subRfe 3 1 else e
    (e.dropJob j.handle).jAppend (retireRec j.handle j.detail j.status)).storeIdle c

/-- The spool slot of POST_INDEX `p` (R406). -/
def spoolAddr (x : Ctx) (p : Idx) : Nat := x.spoolBase.toNat * 2 ^ 19 + 32 * (p.toNat % 16384)

/-- A completion record goes to the spool (R77); its PHASE is set when it is written into the completion ring. -/
def Eng.spoolRecord (e : Eng) (c : CtxNum) (j : Job) : Eff :=
  let x := e.ctx c
  ((Eff.mk e []).put ⟨spoolAddr x j.postIndex, .clear,
      completionBytes j.handle j.userTag j.status j.detail (j.ready.getD e.now) 0⟩).on fun e =>
    (e.modCtx c fun x => { x with spooled := x.spooled + 1 }).modJob j.handle fun j => { j with stage := .spooled }

/-- More records of the ring are ready to post at once (R75). -/
def Eng.runGoesOn (e : Eng) (c : CtxNum) : Bool :=
  e.cqRoom c && ((e.oldestSpooled c).isSome || decide ((e.ctx c).spooled = 0) &&
    match e.nextJob c with
    | some j => j.postable
    | none => false)

/-- The signal that ends a posting run (R75). -/
def Eng.endRun (e : Eng) (c : CtxNum) : Eng := if e.runGoesOn c then e else e.signal c

/-- A holder that was asked to yield gives its resource back: the waiter that won it comes next (R332). -/
def Eng.handOver (e : Eng) (j : Job) : Eng :=
  match j.yieldAt, j.yieldTo with
  | some _, some w => e.modJob w fun k => { k with yieldTo := some w }
  | _, _ => e

/-- A descriptor's walker, layout units and compressor are given back (R331). -/
def Eng.release (e : Eng) (h : Word) : Eng :=
  match e.job h with
  | none => e
  | some j => (e.modJob h fun j => { j with walker := none, units := 0, compressor := false, starved := none,
                                             yieldAt := none, yieldTo := none, slot := false }).handOver j

/-- A descriptor's status is known: its completion is ready to post (R69). Its region may have no work left (R342). -/
def Eng.finish (e : Eng) (h : Word) (st : Status) (detail : Word) : Eng :=
  ((e.release h).modJob h fun j => { j with stage := .finished, status := st, detail := detail, ready := some e.now }).noteQuiet
    (((e.job h).map (·.lead)).getD 0)

/-- A descriptor has not begun execution (R44, R68). -/
def Job.begun (j : Job) : Bool := j.stage = .running || j.stage = .waiting || (j.stage = .queued && j.slot)

/-- An earlier descriptor of the ring holds back execution: a FENCE or a FLAG_WAIT that has not completed (R59, R66, R248). -/
def Eng.heldBack (e : Eng) (j : Job) : Bool :=
  e.jobs.any fun k => k.ctx = j.ctx && idxBefore k.seq j.seq && !k.adopted
    && (k.opcode = opFence || k.opcode = opFlagWait) && k.stage ≠ .finished && k.stage ≠ .spooled

/-- A descriptor may begin execution (R27, R59, R248). -/
def Eng.mayBegin (e : Eng) (j : Job) : Bool := (!j.gated || j.accepted) && !e.heldBack j

end Sys2Proof.Machine
end

