-- ==== Sys2Proof/Machine/Dispatching.lean ====
section
/-! DEFINITION. The choice of a descriptor's lead region (01: R22; 12: R414), view records (03: R79, R82), and the walker
queue's draw (10: R324 to R334; 04: R136). -/

namespace Sys2Proof.Machine

def Eng.device (e : Eng) : DevNum := e.svc.pod.device

/-! ### View records (R79, R82) -/

/-- The address of a view record, if the index is in the table (R79). -/
def viewAddr (p : Paddock) (v : BitVec 24) : Option Nat :=
  if p.vtBase = 0 || 24 < p.vtLog2.toNat || 2 ^ p.vtLog2.toNat ≤ v.toNat then none
  else some (p.vtBase.toNat * 4096 + 128 * v.toNat)

def Eng.viewCached (e : Eng) (r : Region) (p : PdkNum) (v : BitVec 24) : Option (List Word) :=
  ((e.wlk.cache.getD r.toNat []).find? fun c => c.paddock = p ∧ c.view = v).map (·.words)

/-- A view record as region `r`'s cache or the view table gives it, for the choice of a lead region. DESIGN CHOICE (log 66): the choice fills
no cache, and an uncorrectable read is not recorded here; the descriptor's own read follows. -/
def Eng.viewPeek (e : Eng) (m : Memory) (r : Region) (p : PdkNum) (v : BitVec 24) : Option (List Word) :=
  match viewAddr (e.pdk p) v with
  | none => none
  | some a => match e.viewCached r p v with
    | some ws => some ws
    | none => some ((List.range 16).map fun i => m.word (a + 8 * i))

/-- A view record is read for a descriptor: from the cache, or from the table into the cache; an uncorrectable read is
recorded and counts as failing (R82). -/
def Eng.viewRead (e : Eng) (m : Memory) (r : Region) (p : PdkNum) (c : CtxNum) (w : BitVec 5) (bad : List (BitVec 24))
    (v : BitVec 24) :
    Option (List Word) × Eng :=
  match viewAddr (e.pdk p) v with
  | none => (none, e)
  | some a =>
    match e.viewCached r p v with
    | some ws => (some ws, e)
    | none =>
      if bad.contains v then
        (none, e.raise subWlk (w.setWidth 6) 0x10 (some c) (pack [(0, v.toNat), (24, p.toNat)]))
      else
        let ws := (List.range 16).map fun i => m.word (a + 8 * i)
        let old := e.wlk.cache.getD r.toNat []
        let (n, e) := if old.length < 1024 then (0, e) else e.draw
        let kept := if old.length < 1024 then old else old.eraseIdx (Config.victim n % old.length)
        (some ws, { e with wlk := { e.wlk with cache := setRow [] 4 e.wlk.cache r.toNat (⟨p, v, ws⟩ :: kept) } })

/-- The view records of all of a descriptor's slots, in slot order. -/
def Eng.readViews (e : Eng) (m : Memory) (r : Region) (j : Job) (wk : BitVec 5) (bad : List (BitVec 24)) :
    List Nat → List (Option (List Word)) × Eng
  | [] => ([], e)
  | s :: ss =>
    let (w, e) := e.viewRead m r j.paddock j.ctx wk bad (j.slotOf s).view
    let (ws, e) := Eng.readViews e m r j wk bad ss
    (w :: ws, e)

/-! ### The lead region (R22) -/

/-- A region that has been fenced (R414). -/
def Eng.regionFenced (e : Eng) (r : Region) : Bool := e.syn.lostRegions.contains r

/-- The leaf that one translation in slice `r` finds: steps 4 to 6 of R106 (log 62). A miss walks the page tables and fills the
cache; `bad` is the level of a table read that the memory controller reports uncorrectable (R109, R111). -/
def Eng.probe (e : Eng) (m : Memory) (r : Region) (pn : PdkNum) (a : Nat) (bad : Option (BitVec 2)) : Option Leaf × Eng :=
  let p := e.pdk pn
  let e := e.count subAtg r.toNat 1
  if !p.enable || p.scrubbing || decide (pdkLimit p ≤ a) then (none, e)
  else match e.tlbHit r pn a with
    | some l => (some l, e)
    | none =>
      let e := e.count subAtg (4 + r.toNat) 1
      match (match bad with | some l => WalkRes.malformed l.toNat | none => walk m p a) with
      | .leaf va l => (some l, e.tlbFill r pn va l)
      | .malformed level => (none, e.noteMalformed r pn a level)
      | .invalid => (none, e)

/-- The region of the stack that a slot's first element lies in, by one translation of the home region's slice; none where
the choice passes to the next rule (R22). DEDUCED (log 66): a view record that fails R87, or an index outside the table, passes it on
too. -/
def Eng.firstRegion (e : Eng) (m : Memory) (home : Region) (j : Job) (slotWord : Nat) (table : Bool) (bad : Option (BitVec 2)) :
    Option Region × Eng :=
  let s := j.slotOf slotWord
  if s.device ≠ e.device then (none, e)
  else
    let va := if table then some s.base.toNat
      else match e.viewPeek m home j.paddock s.view with
        | none => none
        | some ws =>
          if !viewOk ws then none
          else match (viewOf ws).firstIn with
            | none => none
            | some k => match (viewOf ws).addrAt s.base.toNat k with
              | .at a _ => some a
              | _ => none
    match va with
    | none => (none, e)
    | some a =>
      let (leaf, e) := e.probe m home j.paddock a bad
      let r := match leaf with
        | some l => if l.host then none else (e.stackAt (l.addr + a % 2 ^ l.log2)).map stackRegion
        | none => none
      (match r with
        | some r => if e.regionFenced r then none else some r
        | none => none, e)

/-- Rule 3: the context's home region, or the next unfenced region upwards (R22, R414). -/
def Eng.homeOf (e : Eng) (c : CtxNum) : Region :=
  let h := homeRegion c
  ([h, h + 1, h + 2, h + 3].find? fun r => !e.regionFenced r).getD h

/-- The lead region of a data descriptor (R22). -/
def Eng.leadRegion (e : Eng) (m : Memory) (j : Job) (bad : ProbeBad) : Region × Eng :=
  let home := homeRegion j.ctx
  let dstWord := if j.opcode = opPutInline then 1 else 3
  match e.firstRegion m home j dstWord j.scatterEn bad.dst with
  | (some r, e) => (r, e)
  | (none, e) =>
    if j.opcode = opPutInline then (e.homeOf j.ctx, e)
    else match e.firstRegion m home j 1 j.gatherEn bad.src with
      | (some r, e) => (r, e)
      | (none, e) => (e.homeOf j.ctx, e)

/-- The opcodes that take a walker (R30): those with view operands. -/
def Job.usesWalker (j : Job) : Bool := j.opcode ≠ opNop && j.opcode ≤ opExpand

/-! ### Walkers and layout units (R33, R136, R331 to R334) -/

/-- Walker numbers of a region (R17). -/
def walkersOf (r : Region) : List (BitVec 5) := (List.range 6).map fun i => BitVec.ofNat 5 (6 * r.toNat + i)

def Eng.walkerBusy (e : Eng) (w : BitVec 5) : Bool := e.jobs.any fun j => j.walker = some w

/-- A self-test segment holds a unit by its arbiter's grant (R380). A unit under a slice counts as free (R379). -/
def Eng.testHolds (e : Eng) (row inst : Nat) : Bool := e.testing row inst && (mapGet {} e.svc.bist (bistKey row inst)).granted

/-- A free walker that is not fenced. -/
def Eng.freeWalker (e : Eng) (r : Region) : Option (BitVec 5) :=
  (walkersOf r).find? fun w => !e.walkerBusy w && !e.wlk.fenced.contains w && !e.testHolds 1 w.toNat

/-- The layout units of a region that are not fenced and that no self-test segment holds. -/
def Eng.unitsOf (e : Eng) (r : Region) : List Nat :=
  ((List.range 16).map fun i => 16 * r.toNat + i).filter fun i => !e.lay.fenced.contains (BitVec.ofNat 6 i) && !e.testHolds 2 i

/-- Layout units of a region that are neither held nor fenced. -/
def Eng.freeUnits (e : Eng) (r : Region) : Nat := (e.unitsOf r).length - ((e.jobs.filter fun j => j.lead = r).map (·.units)).sum

/-- The descriptor that holds a layout unit: the region's holders take its units in ascending number (log 44). -/
def Eng.unitHolder (e : Eng) (u : Nat) : Option Job :=
  let js := (e.jobs.filter fun j => decide (j.lead.toNat = u / 16)).flatMap fun j => List.replicate j.units j
  js[(e.unitsOf (BitVec.ofNat 2 (u / 16))).idxOf u]?

/-- A COMPRESS holds the region's compressor (R218), or it is fenced or held by a self-test segment. -/
def Eng.compressorBusy (e : Eng) (r : Region) : Bool :=
  (e.jobs.any fun j => j.lead = r && j.compressor) || e.cdc.fenced.contains r || e.testHolds 4 r.toNat

/-- A descriptor's work waits for the end of a self-test segment on its walker, a layout unit, its cast unit, its compressor or its region's ATG
slice (R379). -/
def Eng.jobTested (e : Eng) (j : Job) : Bool :=
  e.svc.bist.any fun x => x.2.active &&
    (let i := x.1 % 64
     match x.1 / 64 with
     | 1 => decide (j.walker = some (BitVec.ofNat 5 i))
     | 2 => decide ((e.unitHolder i).map (·.handle) = some j.handle)
     | 3 => decide (j.lead.toNat = i) && j.castEn
     | 4 => decide (j.lead.toNat = i) && j.compressor
     | 5 => decide (j.lead.toNat = i)
     | _ => false)

/-- A descriptor's lead region serves it: the region is Active, and no self-test segment holds up its units. -/
def Eng.serves (e : Eng) (j : Job) : Bool := e.active (.region j.lead) && !e.jobTested j

/-- RFE can take new work: the engine runs, and no self-test segment is under way on RFE or a shared engine structure (R379). -/
def Eng.accepts (e : Eng) : Bool := e.engineRuns && !e.testing 8 0 && (List.range 5).all fun i => !e.testing 10 i

/-- The descriptor has a tile-using layout stage (R133, R141). -/
def Job.tile (j : Job) : Bool := j.layoutEn && layTile j.lay

/-- A queued descriptor has a request at its region's arbiters: it may begin, and its context is not parked unless it is accepted (R44, R324,
log 27). -/
def Eng.eligible (e : Eng) (j : Job) : Bool :=
  decide (j.stage = .queued) && e.mayBegin j && (decide ((e.ctx j.ctx).state ≠ .parked) || j.accepted)

/-- A queued descriptor may be granted a walker now: units for a tile stage, and the compressor held by a COMPRESS (R136, R218). -/
def Eng.grantable (e : Eng) (r : Region) (j : Job) : Bool :=
  e.eligible j && decide (j.lead = r) && (!j.tile || decide (0 < e.freeUnits r)) && (j.opcode ≠ opCompress || j.compressor)

/-- Who competes for a walker or a compressor: a descriptor, or an overdue self-test target by its key (R324, R380). -/
inductive Claimant where
  | job (j : Job)
  | test (k : Nat)
  deriving DecidableEq, Repr

/-- A descriptor as a competitor (R324). -/
def Job.rival (j : Job) : Rival Claimant :=
  { who := .job j, num := j.handle.toNat, tickets := j.tickets.toNat, starved := j.starved }

/-- The domain in which a self-test target lies. -/
def testDomain (row inst : Nat) : Domain :=
  match bistRegion row inst with
  | some r => .region r
  | none => .engine

/-- The level of the arbiter at which an overdue target competes (R337): Drovers, cast units, compressors, ATG slices and homes at the unit level,
walkers, layout units and region services at the region level, and the engine's structures at the engine level. -/
def testLevel (row : Nat) : Nat := if row = 1 || row = 2 || row = 6 then 2 else if row < 8 then 1 else 3

/-- An overdue target requests its unit for one segment (R380). -/
def Bist.wants (b : Bist) : Bool := b.overdue && !b.active && !b.fenced

/-- The unit of a target that an arbiter grants is free: a walker, a layout unit or a compressor. -/
def Eng.testUnitFree (e : Eng) (k : Nat) : Bool :=
  let i := k % 64
  match k / 64 with
  | 1 => !e.walkerBusy (BitVec.ofNat 5 i) && !e.wlk.fenced.contains (BitVec.ofNat 5 i)
  | 2 => (e.unitHolder i).isNone && !e.lay.fenced.contains (BitVec.ofNat 6 i)
  | 4 => !e.compressorBusy (BitVec.ofNat 2 i)
  | _ => false

/-- The rows of R376 whose units the arbiter of a level grants: compressors at 1, walkers and layout units at 2 (R337). -/
def testRow (l row : Nat) : Bool := if l = 1 then decide (row = 4) else decide (row = 1) || decide (row = 2)

/-- An overdue target as a competitor, with OVERDUE_TICKETS (R378, R380); its number lies above every descriptor's. -/
def Eng.testRival (e : Eng) (k : Nat) : Rival Claimant :=
  { who := .test k, num := 2 ^ 64 + k, tickets := e.svc.bistTickets.toNat, starved := (mapGet {} e.svc.bist k).starved }

/-- The overdue targets of a region that compete at one of its arbiters for a unit that is free. -/
def Eng.testQueue (e : Eng) (r : Region) (l : Nat) : List Nat :=
  (e.svc.bist.filter fun x => x.2.wants && testRow l (x.1 / 64) && decide (bistRegion (x.1 / 64) (x.1 % 64) = some r) && e.testUnitFree x.1).map
    (·.1)

/-- A target's segment begins by its arbiter's grant, which holds the unit for that segment. -/
def Eng.grantTest (e : Eng) (k : Nat) : Eng :=
  { e with svc := { e.svc with bist := mapUpd {} e.svc.bist k fun b => { b with
      active := true, granted := true, won := false, waited := 0, starved := none } } }

/-- Descriptors in ascending context number and ring order. -/
def inOrder (js : List Job) : List Job := js.mergeSort fun a b => a.handle.toNat ≤ b.handle.toNat

/-- Whom an arbiter serves among descriptors and overdue targets: one that won a yield, or as R325 says (R332). -/
def Eng.serveUnit (e : Eng) (a : Arb) (q : List Job) (ts : List Nat) : Option Claimant × Arb :=
  match q.find? fun j => j.yieldTo = some j.handle with
  | some j => (some (.job j), a)
  | none => match ts.find? fun k => (mapGet {} e.svc.bist k).won with
    | some k => (some (.test k), a)
    | none => a.serve (q.map Job.rival ++ ts.map e.testRival)

/-- The COMPRESS descriptors that wait at a region's compressor. -/
def Eng.compressQueue (e : Eng) (r : Region) : List Job :=
  inOrder (e.jobs.filter fun j => e.eligible j && j.lead = r && j.opcode = opCompress && !j.compressor)

/-- A free compressor is granted by its own arbiter (R218, R337). -/
def Eng.grantCompressor (e : Eng) (r : Region) : Eng :=
  if e.compressorBusy r then e
  else
    let (w, a) := e.serveUnit (e.cdc.arb.getD r.toNat {}) (e.compressQueue r) (e.testQueue r 1)
    match w with
    | none => e
    | some (.test k) => ({ e with cdc := { e.cdc with arb := setRow {} 4 e.cdc.arb r.toNat a } } : Eng).grantTest k
    | some (.job j) =>
      ({ e with cdc := { e.cdc with arb := setRow {} 4 e.cdc.arb r.toNat a } } : Eng).modJob j.handle fun j => { j with
        compressor := true, compStamp := e.now, compQuantum := e.now, starved := none, waited := 0, yieldTo := none }

/-- The queued descriptors of a region that compete for a walker. -/
def Eng.queueOf (e : Eng) (r : Region) : List Job := inOrder (e.jobs.filter fun j => e.grantable r j)

/-- The descriptor that the region arbiter gives a walker next, after a free compressor has been granted; or none, where an overdue target is
granted its unit instead (R380). -/
def Eng.drawWalker (e : Eng) (r : Region) : Option Job × Eng :=
  let e := e.grantCompressor r
  let (w, a) := e.serveUnit (e.wlk.queue.getD r.toNat {}) (e.queueOf r) (e.testQueue r 2)
  let e : Eng := { e with wlk := { e.wlk with queue := setRow {} 4 e.wlk.queue r.toNat a } }
  match w with
  | some (.job j) => (some j, e)
  | some (.test k) => (none, e.grantTest k)
  | none => (none, e)

/-! ### Output ports of the crossbars (R324, R328, R337) -/

/-- The output port at which a request is refused: a region link (0 to 3), NPI, OPI or the host link of the engine crossbar, or, in a region that is
Active, the port of the region crossbar to the Drover (7 and up). -/
def Eng.portOf (e : Eng) (q : Req) : Nat :=
  match q.dest with
  | .stack n _ => if e.active (.region (stackRegion n)) then 7 + n.toNat else (stackRegion n).toNat
  | .peer _ _ => 4
  | .die _ _ => 5
  | .host _ => 6

/-- The level of a port: 3 in the engine crossbar, 2 in a region's (R337). -/
def portLevel (port : Nat) : Level := if port < 7 then 3 else 2

/-- The clock of a port's crossbar runs. -/
def Eng.portRuns (e : Eng) (port : Nat) : Bool :=
  if port < 7 then e.engineRuns else e.active (.region (stackRegion (BitVec.ofNat 5 (port - 7))))

/-- The tickets of a request stream: its descriptor's, or REMOTE_TICKETS for a peer's (R324). DESIGN CHOICE (log 98): a die's stream holds
REMOTE_TICKETS of the level, too. -/
def Eng.portTickets (e : Eng) (p : PortWait) : Nat :=
  match p.who with
  | .job h => ((e.job h).map fun j => j.tickets.toNat).getD 0
  | _ => (e.svc.arb.getD p.level.toNat {}).remote.toNat

/-- Source numbers at a crossbar port (R326). DESIGN CHOICE (log 99): descriptors by handle, then peers, then dies. -/
def PortUser.num : Sys2Proof.PortUser → Nat
  | .job h => h.toNat
  | .peer id => 2 ^ 64 + 2 * id
  | .die d id => 2 ^ 64 + 2 * (4 * id + d.toNat) + 1

/-- A destination refuses the grant of a request stream: the grant is parked, unless eight are parked at the port already; the stream
then competes again (R328). The parking counts at the port's level (R352). -/
def Eng.park (e : Eng) (q : Req) (who : PortUser) : Eng :=
  let port := e.portOf q
  if e.svc.ports.any fun p => p.port = port && p.who = who then e
  else
    let full := 8 ≤ (e.svc.ports.filter fun p => p.port = port && p.parked.isSome).length
    let x : PortWait := { level := portLevel port, port := port, who := who, parked := if full then none else some e.now
                          behind := e.jrn.heldOut.length }
    let e : Eng := { e with svc := { e.svc with ports := e.svc.ports ++ [x] } }
    if full then e else e.count subSvc (8 + (portLevel port).toNat) 1

/-- The order in which the streams that wait at a port are served once it accepts (R325): parked grants, oldest first; then as an
arbiter serves its competitors. -/
def portOrder : Nat → Arb → List (PortWait × Nat) → List PortUser × Arb
  | 0, a, _ => ([], a)
  | n + 1, a, ps =>
    match a.serve (ps.map fun p => { who := p.1, num := PortUser.num p.1.who, tickets := p.2, starved := p.1.starved }) with
    | (none, a) => ([], a)
    | (some p, a) =>
      let (us, a) := portOrder n a (ps.filter fun x => x.1 ≠ p)
      (p.who :: us, a)

/-- A port accepts again: who is served, in order, and the engine with none left waiting there. -/
def Eng.openPort (e : Eng) (port : Nat) : List PortUser × Eng :=
  let here := e.svc.ports.filter fun p => p.port = port
  let parked := (here.filter fun p => p.parked.isSome).mergeSort fun a b =>
    decide ((a.parked.getD 0).toNat < (b.parked.getD 0).toNat)
      || (decide ((a.parked.getD 0).toNat = (b.parked.getD 0).toNat) && decide (PortUser.num a.who ≤ PortUser.num b.who))
  let free := (here.filter fun p => p.parked.isNone).mergeSort fun a b => PortUser.num a.who ≤ PortUser.num b.who
  let (us, a) := portOrder free.length (e.svc.portArb.getD port {}) (free.map fun p => (p, e.portTickets p))
  (parked.map (·.who) ++ us, { e with svc := { e.svc with
    ports := e.svc.ports.filter fun p => p.port ≠ port, portArb := setRow {} 27 e.svc.portArb port a } })

end Sys2Proof.Machine
end

