-- ==== Sys2Proof/Machine/Stored.lean ====
section
/-! DEFINITION. What the structures that carry the word code hold (11: R353), as words that change when the structure is written, and what an
armed injection makes of the first write (11: R375). -/

namespace Sys2Proof.Machine

/-- What each element of a stream holds, by its position. -/
def elWords (els : SMap El) : List Nat :=
  els.flatMap fun x => match x.2 with
    | .got v _ => [x.1, 0, v]
    | .fly _ v _ => [x.1, 1, v]
    | .ask v _ => [x.1, 2, v]
    | .done => [x.1, 3]
    | _ => [x.1, 4]

/-- The stream state of a descriptor's walker. -/
def Job.walkWords (j : Job) : List Nat := [j.handle.toNat, j.emitted, j.castNext, j.idxEl.length, j.srcEl.length, j.dstEl.length]

/-- The elements on their way to or from a Drover. -/
def Job.drvWords (j : Job) (n : BitVec 5) : List Nat :=
  (j.idxEl ++ j.srcEl ++ j.scaleInEl ++ j.dstEl ++ j.scaleOutEl).flatMap fun x => match x.2 with
    | .fly q v _ => (match q.dest with | .stack d _ => if d = n then [j.handle.toNat, x.1, v] else [] | _ => [])
    | _ => []

/-- A context's ring and fetch state. -/
def Ctx.ringWords (c : Ctx) : List Nat := [c.sqHead.toNat, c.sqTail.toNat, c.cqHead.toNat, c.cqTail.toNat, c.outstanding, c.spooled]

/-- The rest of a context's record. -/
def Ctx.recordWords (c : Ctx) : List Nat :=
  [c.gen.toNat, c.paddock.toNat, c.tickets.toNat, c.sqBase.toNat, c.cqBase.toNat, c.spoolBase.toNat, c.parkIndex.toNat, c.tallyAccept.toNat,
    c.tallyPost.toNat, c.tallyRefetch.toNat] ++ c.ringWords

/-- Entries in the words of a structure: each entry's contents stand in the word of its number. -/
def perEntry (ls : List (List Nat)) : List (Nat × Nat) := ls.zipIdx.flatMap fun x => x.1.map fun v => (x.2, v)

/-- The words of SYN's stores at one home: flags, 64 to a word, folds or wait records. -/
def Syn.words (s : Syn) (r : Region) (st : Byte) : List (Nat × Nat) :=
  if st = 1 then (s.flags.filter fun x => flagRegion (BitVec.ofNat 18 x.1) = r).flatMap fun x =>
    [x.1, ofBit x.2.owned, x.2.paddock.toNat, x.2.owner.toNat, ofBit x.2.value, x.2.lastDev.toNat, x.2.lastSrc.toNat].map fun v =>
      (x.1 % 65536 / 64, v)
  else if st = 2 then (s.folds.filter fun x => foldRegion (BitVec.ofNat 16 x.1) = r).flatMap fun x =>
    [x.1, ofBit x.2.enable, x.2.paddock.toNat, x.2.expect.toNat, x.2.episode.toNat, x.2.count, x.2.children.length].map fun v =>
      (x.1 % 16384, v)
  else if st = 3 then perEntry ((s.waits.filter fun w => flagRegion w.flag = r).map fun w => [w.id, w.flag.toNat, w.start.toNat])
  else []

/-- The structures that State holds word by word; of any other the model knows no places (log 83). -/
def heldWords (sub : BitVec 4) (inst : BitVec 6) (st : Byte) : Bool :=
  (sub = subRfe && inst = 0 && (st = 1 || st = 2)) || (sub = subCxs && (st = 1 || st = 2)) || (sub = subJrn && st = 1)
    || (sub = subWlk && decide (24 ≤ inst.toNat) && (st = 2 || st = 4)) || (sub = subAtg && (st = 1 || st = 2 || st = 3))
    || (sub = subLay && (st = 1 || st = 2)) || (sub = subDrv && decide (1 ≤ st.toNat))
    || (sub = subOpi && st = 1) || (sub = subSyn && decide (inst.toNat < 4) && decide (1 ≤ st.toNat)) || (sub = subFlt && st = 1)

/-- The words that a structure holds, with their numbers (R353): where State holds them, their contents, and else what moves with each write to it; for
data-path lanes, what has left by them (log 83). -/
def Eng.stored (e : Eng) (sub : BitVec 4) (inst : BitVec 6) (st : Byte) : List (Nat × Nat) :=
  let i := inst.toNat
  let r : Region := BitVec.ofNat 2 (i % 4)
  let sent := [e.out.length, e.freeCount, (e.jobs.map (·.emitted)).sum].map fun v => (0, v)
  if sub = subRfe then
    if i = 0 && st = 1 then e.rfe.landing.zipIdx.flatMap fun l => (wordsOf 16 l.1.2).zipIdx.map fun w => (16 * l.2 + w.2, w.1.toNat)
    else if i = 0 && st = 2 then perEntry (e.ctxs.map fun c => c.2.ringWords)
    else sent
  else if sub = subCxs then perEntry (if st = 1 then e.ctxs.map fun c => c.1 :: c.2.recordWords else e.cxs.cache.map fun c => [c.toNat])
  else if sub = subJrn then perEntry (if st = 1 then (e.jrn.recs ++ e.jrn.waiting).map fun x => [x.jseq] else [[e.jrn.tailSeq, e.jrn.durableSeq]])
  else if sub = subWlk then
    if i < 24 then perEntry ((e.jobs.filter fun j => j.walker = some (BitVec.ofNat 5 i)).map Job.walkWords)
    else if st = 2 then perEntry ((e.wlk.cache.getD r.toNat []).map fun c => c.paddock.toNat :: c.view.toNat :: c.words.map (·.toNat))
    else if st = 3 then perEntry ((e.jobs.filter fun j => j.lead = r && j.slot).map Job.walkWords)
    else if st = 4 then perEntry ((e.jobs.filter fun j => j.lead = r && j.stage = .queued).map fun j => [j.handle.toNat])
    else perEntry ((e.jobs.filter fun j => j.lead = r).map Job.walkWords)
  else if sub = subAtg then
    perEntry (if st = 1 then (e.atg.tlb.getD i []).map fun t => [t.paddock.toNat, t.va, t.leaf.addr, t.leaf.epoch.toNat]
      else if st = 2 then (e.atg.walks.getD i []).map fun w => [w.paddock.toNat, w.page]
      else (e.atg.reach.getD i []).map fun x => [x.1.toNat, x.2.1, x.2.2.toNat])
  else if sub = subLay then
    match e.unitHolder i with
    | some j => perEntry [j.handle.toNat :: elWords j.srcEl]
    | none => []
  else if sub = subCst then
    perEntry ((e.jobs.filter fun j => j.lead.toNat = i && j.castEn).map fun j =>
      [j.handle.toNat, j.castNext, j.castVal.length, j.srcEl.length])
  else if sub = subDrv then
    let d := e.drv.getD i {}
    perEntry (if st = 2 then d.tags.map fun t => [t.beat, t.mask.toNat]
      else if st = 3 then d.sets.map fun x => [x.toNat]
      else e.jobs.map fun j => j.drvWords (BitVec.ofNat 5 i))
  else if sub = subCdc then
    perEntry ((e.jobs.filter fun j => j.compressor && decide (j.lead.toNat = i)).map fun j => [j.handle.toNat, j.pass, j.emitted, j.coded.length])
  else if sub = subNpi then (if st = 0 then sent else perEntry [e.npi.nextReq :: e.npi.serving.map (·.id)])
  else if sub = subOpi then (if st = 0 then sent else perEntry (e.opi.serving.map fun s => [s.a.va.toNat]))
  else if sub = subSyn then (if i < 4 then e.syn.words r st else sent)
  else if sub = subSvc then perEntry [[e.svc.restarts, e.svc.sweeps.length, e.svc.bistAt.toNat, e.svc.kick.toNat]]
  else if sub = subFlt then
    (0, e.flt.lost) :: e.flt.hist.zipIdx.flatMap fun h => [h.1.source.toNat, h.1.stamp.toNat, h.1.count].zipIdx.map fun x => (3 * h.2 + x.2, x.1)
  else []

/-- The word in which what a structure holds differs from what it held: one that was written, else one that was cleared. -/
def writtenWord (was now : List (Nat × Nat)) : Nat × Nat :=
  ((now.filter fun x => !was.contains x) ++ was.filter fun x => !now.contains x).headD (0, 0)

/-- The first functional write to the structure that an armed injection names inverts data bits of its codeword, and ARMED becomes 0 (R375).
A self-test's writes are none. The write shows in what the structure holds (log 83). -/
def Eng.injectSeen (e : Eng) : Eng :=
  let i := e.flt.inject
  let now := e.stored i.sub i.inst i.structId
  if i.armed && decide (now ≠ i.snap) then
    let w := writtenWord i.snap now
    { e with flt := { e.flt with inject := { i with
        armed := false, plants := ⟨i.sub, i.inst, i.structId, i.bits, w.1, w.2⟩ :: i.plants } } }
  else e

/-- A plant is what stands in a structure's word `word`: it is there still, or has come there with what the word holds. Once the word has been written
anew it is gone. Of a structure whose words State does not hold any word may be the one (log 83). -/
def Plant.standsAt (p : Plant) (e : Eng) (word : Nat) : Bool :=
  let now := e.stored p.sub p.inst p.structId
  !heldWords p.sub p.inst p.structId
    || (if now.contains (p.word, p.content) then decide (word = p.word) else now.contains (word, p.content))

/-- An injection is disarmed; one that has been applied stands (R375). -/
def Eng.disarm (e : Eng) : Eng :=
  let e := e.injectSeen
  { e with flt := { e.flt with inject := { e.flt.inject with armed := false } } }

/-- The pin ENG_ALERT_L changes where a change of it is due by AO cycle `c` (R371), and its assertions are counted (R385). -/
def Eng.alertTick (e : Eng) (c : Nat) : Eng :=
  match e.flt.alert.due with
  | some (low, t) =>
    if t ≤ c then
      let e : Eng := { e with flt := { e.flt with alert := { e.flt.alert with active := low, due := none } } }
      if low then e.count subFlt 28 1 else e
    else e
  | none => e

end Sys2Proof.Machine
end

