-- ==== Sys2Proof/Machine/Time.lean ====
section
/-! DEFINITION. What passing time does (00: R9 to R11; 13: R434, R435): the stamp, and what is counted in cycles (02: R66; 07: R234; 08: R288;
10: R329, R334, R352; 12: R423); an injection applied and the pin ENG_ALERT_L as time passes (11: R371, R375); and time moved forward to an event that falls due (log 3). -/

namespace Sys2Proof.Machine

/-- The correction that slews the time base: a worker's only (R10, R435). -/
def Eng.slewNs (e : Eng) : Int := if e.svc.pod.role = 1 then e.flt.time.pendingNs else 0

/-- The engine cycles in the next `n` AO cycles. -/
def Eng.cyclesIn (e : Eng) (n : Nat) : Nat := e.cyclesAt (e.aoCycle + n) - e.cyclesAt e.aoCycle

/-- Cycles without a grant are counted for the competitors that hold tickets and are eligible: descriptors in the walker queues of
regions whose clock runs, contexts at the fetch arbiter, request streams at crossbar ports that are not parked, and the segments of overdue
self-test targets (R328, R329, R380). -/
def Eng.countWaits (e : Eng) (cycles : Nat) : Eng :=
  let queued := fun (j : Job) => decide (0 < j.tickets) && e.eligible j && e.active (.region j.lead)
  let rfe := if e.engineRuns then e.fetchers.foldl (fun (w : SMap Nat) c =>
      if 0 < c.tickets then mapUpd 0 w c.num (· + cycles) else w) e.rfe.waited else e.rfe.waited
  { e with
    jobs := e.jobs.map fun j => if queued j then { j with waited := j.waited + cycles } else j
    rfe := { e.rfe with waited := rfe }
    svc := { e.svc with
      ports := e.svc.ports.map fun p =>
        if p.parked.isNone && e.portRuns p.port && decide (0 < e.portTickets p) then { p with waited := p.waited + cycles } else p
      bist := e.svc.bist.map fun x =>
        if x.2.wants && decide (0 < e.svc.bistTickets) && e.active (testDomain (x.1 / 64) (x.1 % 64)) then
          (x.1, { x.2 with waited := x.2.waited + cycles }) else x } }

/-- A ring that waits on a mismatched descriptor while its fetching is stopped has its interval suspended (R66). -/
def Eng.suspendStopped (e : Eng) : Eng :=
  { e with ctxs := e.ctxs.map fun c => match c.2.refetch with
      | some r => if r.stallAt.isNone && e.fetchStopped (BitVec.ofNat 20 c.1) then
          (c.1, { c.2 with refetch := some { r with suspended := true } }) else c
      | none => c }

/-- The tallies that count cycles advance: acceptance stopped (R423); per region a wait held for a record (R288), the pre-emption store
full (R334), the region waiting for admission (R352); and per Drover a block that waits for a table set (R234). -/
def Eng.tallyCycles (e : Eng) (cycles : Nat) : Eng :=
  let x := if e.jrn.full then e.count subJrn 3 cycles else e
  let x := [(0 : Region), 1, 2, 3].foldl (fun x r =>
    let x := if e.syn.held.any (fun w => flagRegion w.flag = r) then x.count subSyn (44 + r.toNat) cycles else x
    let x := if 32 ≤ (e.jobs.filter fun j => j.lead = r && j.slot).length then x.count subWlk (16 + r.toNat) cycles else x
    if (e.svc.power.region.getD r.toNat {}).wantSince.isSome then x.count subSvc (20 + r.toNat) cycles else x) x
  (List.range 20).foldl (fun x n =>
    if e.jobs.any (fun j => j.setWaits.contains (BitVec.ofNat 5 n)) then x.count subDrv (140 + n) cycles else x) x

/-- `n` AO cycles pass: the stamp moves 10 ns in each, or 11 or 9 ns while a worker's correction is pending (R435). -/
def Eng.elapse (e : Eng) (n : Nat) : Eng :=
  let p := e.slewNs
  let k : Int := min (n : Int) p.natAbs
  let step : Int := if p < 0 then -k else k
  let x := if n = 0 then e
    else ((((e.countWaits (e.cyclesIn n)).tallyCycles (e.cyclesIn n)).suspendStopped).injectSeen).alertTick (e.aoCycle + n)
  { x with
    now := e.now + BitVec.ofInt 64 (10 * (n : Int) + step)
    aoCycle := e.aoCycle + n
    flt := { x.flt with time := { x.flt.time with pendingNs := x.flt.time.pendingNs - step } } }

/-- The AO cycles until the stamp is `d` ns later. -/
def Eng.cyclesFor (e : Eng) (d : Nat) : Nat :=
  let p := e.slewNs
  let a := p.natAbs
  let r := if p < 0 then 9 else 11
  if p = 0 then (d + 9) / 10
  else if d ≤ r * a then (d + r - 1) / r
  else a + (d - r * a + 9) / 10

/-- Time moves forward to stamp `t`, if it has not passed (log 3). -/
def Eng.advanceTo (e : Eng) (t : Word) : Eng :=
  if e.now.toNat < t.toNat then e.elapse (e.cyclesFor (t - e.now).toNat) else e

/-- Time moves forward to AO cycle `c`. -/
def Eng.advanceCycles (e : Eng) (c : Nat) : Eng :=
  if e.aoCycle < c then e.elapse (c - e.aoCycle) else e

/-- Time moves forward to `n` engine cycles after a stamp. -/
def Eng.advanceFrom (e : Eng) (t : Word) (n : Nat) : Eng := e.advanceTo (t + BitVec.ofNat 64 (e.cyclesNs n))

/-- `n` engine cycles pass. -/
def Eng.passCycles (e : Eng) (n : Nat) : Eng := e.advanceFrom e.now n

end Sys2Proof.Machine
end

