-- ==== Sys2Proof/Machine/Access.lean ====
section
/-! DEFINITION. Which register pages answer (14: R467), the seeds of the LFSRs (14: R459, R461, R462), and the return from Dormant
(10: R346). -/

namespace Sys2Proof.Machine

/-- Seed `k` of R459. -/
def seedOf (k : Nat) : BitVec 32 :=
  let text : List Byte := [0x56, 0x52, 0x45, 0x4C, 0x4F, 0x50, 0x2D, 0x53, 0x45, 0x45, 0x44]
  let d := BitVec.ofNat 32 (leNat ((sha384 (Config.identityKey ++ text ++ leBytes 4 k)).take 4))
  if d = 0 then 1 else d

/-- The arbiters whose draws the model makes: fetch, four walker queues, four compressors, seven output ports of the engine crossbar and twenty of the
region crossbars, and the arbiters of 43 other units. -/
def arbCount : Nat := 79

/-- The `k` of arbiter `i`'s seed (R459): from 4 upwards, in an order that the manual does not publish, no two alike (R326). -/
def arbK (i : Nat) : Nat :=
  4 + Config.arbSeed i + ((List.range arbCount).filter fun j =>
    Config.arbSeed j < Config.arbSeed i || (Config.arbSeed j = Config.arbSeed i && j < i)).length

/-- An arbiter with its seed loaded. -/
def Arb.seeded (i : Nat) (a : Arb) : Arb := { a with lfsr := seedOf (arbK i) }

/-- The held seeds are loaded into every LFSR (R459): cast units, the fetch arbiter, the walker queues, the compressors, the crossbar
ports and the other units. -/
def Eng.loadSeeds (e : Eng) : Eng :=
  { e with
    cst := { e.cst with lfsr := e.cst.seeds }
    rfe := { e.rfe with arb := e.rfe.arb.seeded 0 }
    wlk := { e.wlk with queue := (List.range 4).map fun i => (e.wlk.queue.getD i {}).seeded (1 + i) }
    cdc := { e.cdc with arb := (List.range 4).map fun i => (e.cdc.arb.getD i {}).seeded (5 + i) }
    svc := { e.svc with
      portArb := (List.range 27).map fun i => (e.svc.portArb.getD i {}).seeded (9 + i)
      unitArb := (List.range 43).map fun i => (e.svc.unitArb.getD i {}).seeded (36 + i) } }

/-- Every cache, the landing buffer and the recent-write tags are empty (R346, R402). -/
def Eng.coldCaches (e : Eng) : Eng :=
  { e with
    rfe := { e.rfe with landing := [] }
    cxs := { e.cxs with cache := [] }
    wlk := { e.wlk with cache := [[], [], [], []] }
    atg := { e.atg with tlb := [[], [], [], []], walks := [[], [], [], []], reach := [[], [], [], []] }
    drv := e.drv.map fun d => { d with tags := [], sets := [] } }

/-- Bytes of the save area (R346). -/
def saveSize : Nat := 8388608

/-- SVC reads the save area in the clear and restores the homes (R346, R472). Bytes that stand there as the entry wrote them restore the homes as they
were; others give homes whose form the manual does not say, free values (log 26). -/
def Eng.restoreHomes (e : Eng) (m : Memory) : Eng :=
  match e.svc.power.savedAs with
  | none => e
  | some (base, n) =>
    let image := (Config.saveImage n).take saveSize
    let found := m.bytes .clear base image.length
    if found = image then e
    else { e with syn := { e.syn with
      flags := (Config.restoredFlags found).foldl (fun t x => mapSet {} t x.1.toNat x.2) []
      folds := (Config.restoredFolds found).foldl (fun t x => mapSet {} t x.1.toNat x.2) []
      waits := e.syn.waits.filter fun w => Config.restoresWait found w.id } }

/-- Vrelop returns from Dormant with every domain in Sleep (R346, R462); overdue times of self-test start again (R380). -/
def Eng.exitDormant (e : Eng) (m : Memory) : Eng :=
  let e := ((e.restoreHomes m).coldCaches.loadSeeds).modPower fun p => { p with dormant := false, dormantExit := none, savedAs := none }
  let e := (regions.foldl (fun e r => e.enter (.region r) .sleep) e).enter .engine .sleep
  let e : Eng := { e with svc := { e.svc with
    bistSince := e.now
    bist := (e.svc.bist.map fun b => (b.1, { b.2 with overdue := false, won := false, waited := 0, starved := none })).filter (·.2 ≠ {}) } }
  ((if e.svc.power.engine.wantSince.isSome then e.wakeEngine else e).engineFloor).serveQueue 4

/-- The pages in the AO domain, which answer before READY and while Dormant (R346, R467). DESIGN CHOICE (log 102): SVC's page counts as AO as a whole,
its set-up registers outside the power manager too. -/
def aoPage (sub : BitVec 4) : Bool := sub = subJrn || sub = subSvc || sub = subFlt

/-- A subsystem's pages answer (R467). -/
def Eng.answers (e : Eng) (sub : BitVec 4) : Bool := aoPage sub || (e.svc.start.ready && !e.svc.start.failed)

/-- What ends Dormant is held until the exit has ended (R346): a register access, or an arrival at NPI or OPI. Before READY there is no
exit, and nothing is held. -/
def Eng.ended (e : Eng) (m : Memory) : Eng :=
  if e.svc.power.dormant && e.svc.start.ready then
    let e := e.beginExit
    (e.advanceTo (e.svc.power.dormantExit.getD e.now)).exitDormant m
  else e

/-- A register access outside the AO domain while Vrelop is Dormant waits for the exit (R346). -/
def Eng.reach (e : Eng) (m : Memory) (sub : BitVec 4) : Eng := if aoPage sub then e else e.ended m

/-- A register write made through the host port: where the subsystem's page answers, `f` acts (R346, R467). -/
def Eng.access (e : Eng) (m : Memory) (sub : BitVec 4) (f : Eng → Eng) : Eng :=
  if e.answers sub then f (e.reach m sub) else e

end Sys2Proof.Machine
end

