-- ==== Sys2Proof/Machine/Completions.lean ====
section
/-! DEFINITION. Completions and the spool (02: R69 to R77) and the commands of CXS_CTX_CMD (02: R41, R44, R45; 12: R420); RESET stands with the flags' waits. -/

namespace Sys2Proof.Machine

/-- POST_COMPLETION (R29, R71, R77): the oldest unposted completion of a context goes to the completion ring, or to the spool
where the ring is full, the host is unreachable, or the spool holds records. It waits for the end of a self-test segment on RFE (R379). -/
def execPostCompletion (c : CtxNum) (s : State) : Answer :=
  onMem s fun _ e =>
    match e.nextJob c with
    | none => ⟨e, []⟩
    | some j =>
      if !j.postable || e.halted || e.testing 8 0 then ⟨e, []⟩
      else if e.cqRoom c && decide ((e.ctx c).spooled = 0) then (e.postRecord c j).on fun e => (e.endRun c).noteWork
      else (e.spoolRecord c j).on Eng.noteWork

/-- SPOOL_DRAIN (R77): the oldest record of the spool moves into the completion ring as space appears, unless the completion of an earlier
descriptor is still to come (R71, R387). -/
def execSpoolDrain (c : CtxNum) (s : State) : Answer :=
  onMem s fun _ e =>
    match e.oldestSpooled c with
    | none => ⟨e, []⟩
    | some j =>
      if e.cqRoom c && !e.halted && !e.testing 8 0 then (e.postRecord c j).on fun e => (e.endRun c).noteWork
      else ⟨e, []⟩

/-! ### CXS_CTX_CMD -/

def Eng.ctxResult (e : Eng) (r : BitVec 4) : Eng := { e with cxs := { e.cxs with result := r } }

/-- A command on the selected context, unless one is in progress (R41): BAD_STATE from a state not listed for it. -/
def Eng.ctxCommand (e : Eng) (m : Memory) (legal : CtxState → Bool) (f : CtxNum → Ctx → Eng → Eng) : Eng :=
  e.access m subCxs fun e =>
    if e.cxs.busy ≠ .idle then e
    else
      let x := e.ctx e.cxs.sel
      if legal x.state then f e.cxs.sel x (e.ctxResult 0) else e.ctxResult 1

/-- The configuration check of ENABLE (R45). -/
def Eng.ctxConfigOk (e : Eng) (x : Ctx) : Bool :=
  let ok := fun (n : BitVec 5) => 4 ≤ n.toNat && n.toNat ≤ 16
  ok x.sqLog2 && ok x.cqLog2 && x.sqBase ≠ 0 && x.cqBase ≠ 0 && x.spoolBase ≠ 0 && (e.pdk x.paddock).enable

/-- An owed completion as the context's `k`th first completion (R420). -/
def owedJob (now : Word) (k : Nat) (o : Word × BitVec 32) : Job :=
  { handle := o.1, words := [o.2 ++ (0 : BitVec 32)], postIndex := BitVec.ofNat 32 k, adopted := true
    accepted := true, stage := .finished, status := stAbandoned, ready := some now }

/-- ENABLE (R44, R45, R420). -/
def execEnable (s : State) : Answer :=
  onEng s fun m e => e.ctxCommand m (fun st => decide (st = .disabled)) fun c x e =>
    if e.ctxConfigOk x then
      let e := e.modCtx c fun x => { x with
        sqTail := 0, sqHead := 0, cqTail := 0, cqHead := 0, spooled := 0, outstanding := x.owed.length
        state := .enabled, refetch := none, owed := [], savedHead := 0, savedCqTail := 0 }
      { e with jobs := e.jobs ++ x.owed.zipIdx.map fun o => owedJob e.now o.2 o.1 }
    else e.ctxResult 2

/-- The context starts closing (R44). -/
def Eng.close (e : Eng) (c : CtxNum) (k : Closing) : Eng :=
  { (e.modCtx c fun x => { x with state := .closing, closing := some k, refetch := none }) with
    cxs := { e.cxs with busy := .closing c, result := 0 } }

/-- DISABLE (R44). -/
def execDisable (s : State) : Answer :=
  onEng s fun m e => e.ctxCommand m (fun st => decide (st = .enabled) || decide (st = .parked)) fun c _ e => e.close c .byDisable

/-- The descriptors of a context that have not begun complete with CANCELLED (R44). -/
def Eng.cancelUnbegun (e : Eng) (c : CtxNum) : Eng :=
  (e.jobs.filter fun j => j.ctx = c && (j.stage = .fetched || j.stage = .queued) && !j.begun).foldl
    (fun e j => e.finish j.handle stCancelled 0) e

/-- PARK (R44). -/
def execPark (s : State) : Answer :=
  onEng s fun m e => e.ctxCommand m (fun st => decide (st = .enabled)) fun c x e => e.parkRing c .operator x.sqHead 0

/-- RESUME (R44). -/
def execResume (s : State) : Answer :=
  onEng s fun m e => e.ctxCommand m (fun st => decide (st = .parked)) fun c _ e =>
    e.modCtx c fun x => { x with state := .enabled, parkCause := .none, refetch := none }

end Sys2Proof.Machine
end

