-- ==== Sys2Proof/Machine/Window.lean ====
section
/-! DEFINITION. The windows that a sweep keeps at the Drovers (09: R305 to R307): under which tag a request of the swept paddock
is served, and when it is held. -/

namespace Sys2Proof.Machine

/-- A granule is 64 KiB. -/
def granule : Nat := 65536

/-- The physical base of the leaf page a sweep works on. -/
def Sweep.leafPa (s : Sweep) : Nat := s.pa - (s.va - s.page)

/-- The sweep's window is in place. -/
def Sweep.windowed (s : Sweep) : Bool :=
  !s.scrub && (match s.phase with
    | .copying | .recorded | .writing | .closing | .leaf | .leafWait | .leafClose => true
    | _ => false)

/-- The sweep whose leaf window covers a physical address, for requests of paddock `p`. -/
def Eng.sweepAt (e : Eng) (p : PdkNum) (pa : Nat) : Option Sweep :=
  e.svc.sweeps.find? fun s => s.windowed && s.paddock = p && s.leafPa ≤ pa && pa < s.leafPa + 2 ^ s.log2

/-- How a Drover serves a request in a window: under a tag; under a tag with the copy of the cursor granule, or of the one
after it, abandoned; or held. -/
inductive Serve where
  | tag (t : Tag)
  | abandon (t : Tag) (next : Bool)
  | hold
  deriving DecidableEq, Repr

/-- A granule that is being copied (R306): reads and writes are served under FROM_EPOCH; a write abandons the copy, and after
the eighth abandon it is held. -/
def serveCopying (fromTag : Tag) (write : Bool) (abandons : Nat) (next : Bool) : Serve :=
  if !write then .tag fromTag else if abandons < 8 then .abandon fromTag next else .hold

/-- The phases at the end of a leaf: its last granule is in CLOSING until the record with the cursor after the leaf is durable (R305, R308). -/
def Sweep.atLeaf (s : Sweep) : Bool :=
  match s.phase with
  | .leaf | .leafWait | .leafClose => true
  | _ => false

/-- The table of R306; once its record is issued the granule after the cursor is locked too (R305). `d` is the granule's distance from the cursor. -/
def Sweep.serve (s : Sweep) (write : Bool) (d : Int) : Serve :=
  let f := Tag.epoch s.paddock s.fromE
  let t := Tag.epoch s.paddock s.toE
  if d < 0 then .tag t
  else if s.atLeaf then (if d = 0 && write then .hold else .tag t)
  else if d = 0 then
    match s.phase with
    | .copying => serveCopying f write s.abandons false
    | .recorded => if write then .hold else .tag f
    | .writing => .hold
    | .closing => if write then .hold else .tag t
    | _ => .tag f
  else if d = 1 && s.phase = .closing && s.nextCopy = some true then (if write then .hold else .tag f)
  else if d = 1 && s.nextCopy.isSome then serveCopying f write s.nextAbandons true
  else .tag f

/-- How a request is served at its Drover (R306). A request tagged with a weight-key slot meets no window. Once the leaf's steps are done the
window replaces no tag, and only the lock on the last granule stands (R305, R308). -/
def Eng.serveTag (e : Eng) (q : Req) (write : Bool) : Serve :=
  match q.dest, q.tag with
  | .stack _ pa, .epoch p _ =>
    match e.sweepAt p pa with
    | none => .tag q.tag
    | some s =>
      let v := s.serve write ((pa / granule : Nat) - (s.pa / granule : Nat))
      if s.phase = .leafClose && v ≠ .hold then .tag q.tag else v
  | _, t => .tag t

def Eng.modSweep (e : Eng) (h : Word) (f : Sweep → Sweep) : Eng :=
  { e with svc := { e.svc with sweeps := e.svc.sweeps.map fun s => if s.handle = h then f s else s } }

/-- A copy-in is abandoned and starts again (R306). -/
def Eng.abandonCopy (e : Eng) (q : Req) (next : Bool) : Eng :=
  match q.dest, q.tag with
  | .stack _ pa, .epoch p _ =>
    match e.sweepAt p pa with
    | none => e
    | some s =>
      (e.modSweep s.handle fun s =>
        if next then { s with nextCopy := some false, nextAbandons := s.nextAbandons + 1 }
        else { s with abandons := s.abandons + 1 }).count subSvc 1 1
  | _, _ => e

end Sys2Proof.Machine
end

