-- ==== Sys2Proof/Machine/Streams.lean ====
section
/-! DEFINITION. The streams of a descriptor (03: R88 to R101; 04: R120 to R141; 05: R149 to R156; 06: R193, R194): the address
of each element, the value that reaches a destination position, and the cast on its way. -/

namespace Sys2Proof.Machine

/-! ### Elements by stream -/

def Job.els (j : Job) : StreamId → SMap El
  | .idx => j.idxEl
  | .src => j.srcEl
  | .scaleIn => j.scaleInEl
  | .dst => j.dstEl
  | .scaleOut => j.scaleOutEl

def Job.el (j : Job) (st : StreamId) (k : Nat) : El := mapGet .idle (j.els st) k

def Job.setEl (j : Job) (st : StreamId) (k : Nat) (x : El) : Job :=
  match st with
  | .idx => { j with idxEl := mapSet .idle j.idxEl k x }
  | .src => { j with srcEl := mapSet .idle j.srcEl k x }
  | .scaleIn => { j with scaleInEl := mapSet .idle j.scaleInEl k x }
  | .dst => { j with dstEl := mapSet .idle j.dstEl k x }
  | .scaleOut => { j with scaleOutEl := mapSet .idle j.scaleOutEl k x }

/-- An element that has not been reached is now. -/
def Job.reach (j : Job) (st : StreamId) (k : Nat) : Job := if j.el st k = .idle then j.setEl st k .todo else j

/-- Element width of a stream (R89, R150, R193). -/
def Job.width (j : Job) : StreamId → Nat
  | .idx => j.idxBits
  | .src => j.srcView.ebits
  | .dst => j.dstView.ebits
  | _ => 8

/-- The device a stream lies on (R54, R193). A COMPRESS reads back through its `scaleIn` stream what it has put into its destination
(R215, R218). -/
def Job.device (j : Job) : StreamId → DevNum
  | .idx => j.idxSlot.device
  | .src => j.srcSlot.device
  | .scaleIn => if j.opcode = opCompress then j.dstSlot.device else j.srcSlot.device
  | .dst | .scaleOut => j.dstSlot.device

/-! ### Addresses -/

/-- Where an element of a stream stands: an index value is still awaited; it has no address (fill or drop); its address
faults; or it has one. `bad` marks an address that comes from a poisoned index word. -/
inductive Where where
  | wait
  | fill (bad : Bool)
  | fault (st : Status) (dev : DevNum)
  | at (byte bit : Nat) (bad : Bool)
  deriving DecidableEq, Repr

def whereOf (bad : Bool) : VAddr → Where
  | .oob => .fill bad
  | .fault => .fault stAccessFault 0
  | .at a b => .at a b bad

/-- What is known of a value: awaited, prevented by a fault, or here. -/
inductive Input where
  | wait
  | fail (st : Status) (dev : DevNum)
  | ok (v : Nat) (bad : Bool)
  deriving DecidableEq, Repr

/-- The value of an element, with what an out-of-bounds one reads as (R93). -/
def inputOf (fill : Nat) : El → Input
  | .got v bad => .ok v bad
  | .oob => .ok fill false
  | .failed st d => .fail st d
  | _ => .wait

/-- Several inputs at once: the first failure, else a wait, else whether any is bad. -/
def allInputs : List Input → Input
  | [] => .ok 0 false
  | x :: xs =>
    match x, allInputs xs with
    | .fail st d, _ => .fail st d
    | _, .fail st d => .fail st d
    | .wait, _ => .wait
    | _, .wait => .wait
    | .ok v b, .ok _ b' => .ok v (b || b')

/-- The index element of a position of the gathered shape (R151). -/
def Job.idxPos (j : Job) (g : List Nat) : Nat :=
  positionOf (j.idxView.dims.map (·.extent)) (idxPart g j.idx.dim j.idxView.rank)

/-- The table element of gathered coordinates (R151 to R155). -/
def Job.tableWhere (j : Job) (tbl : View) (base : Nat) (g : List Nat) : Where :=
  let go := fun (v : Int) (bad : Bool) =>
    match idxCoord v ((tbl.dims.map (·.extent)).getD j.idx.dim 0) j.negMode with
    | none => Where.fill bad
    | some c => whereOf bad (tbl.addr base (tablePart g j.idx.dim j.idxView.rank c))
  match j.el .idx (j.idxPos g) with
  | .got v bad => go (idxValue j.idx.i64 v) bad
  | .oob => go (signedOf 32 j.idxView.fill) false
  | .failed st d => .fault st d
  | _ => .wait

def Job.idxWhere (j : Job) (b : Nat) : Where :=
  whereOf false (j.idxView.addrW j.idxBits j.idxSlot.base.toNat (coordsOf (j.idxView.dims.map (·.extent)) b))

/-- The address of position `p` of what leaves the source and window stages (R88, R129, R151). An EXPAND reads byte `p` of its image at its
place, whether or not SRC's EXTENT reaches it (R222, log 73). -/
def Job.srcWhere (j : Job) (p : Nat) : Where :=
  let base := j.srcSlot.base.toNat
  if j.opcode = opExpand then (if base + p < 2 ^ 48 then .at (base + p) 0 false else .fault stAccessFault 0) else
  if j.gatherEn then j.tableWhere j.srcView base (coordsOf j.stageShape p)
  else if j.windowEn then
    match winSource j.win (j.srcView.dims.map (·.extent)) (coordsOf j.stageShape p) with
    | none => .fill false
    | some js => whereOf false (j.srcView.addr base js)
  else whereOf false (j.srcView.addrAt base p)

/-- The values' shape of a scatter (R151). -/
def Job.scatterShape (j : Job) : List Nat := gatheredShape j.dstView j.idxView j.idx.dim

/-- The address of destination position `k` (R88, R159). -/
def Job.dstWhere (j : Job) (k : Nat) : Where :=
  let base := j.dstSlot.base.toNat
  if j.scatterEn then j.tableWhere j.dstView base (coordsOf j.scatterShape k)
  else whereOf false (j.dstView.addrAt base k)

/-- The address of scale byte `b` (R193). -/
def Job.scaleWhere (j : Job) (b : Nat) : Where :=
  if j.scaleBase + b < 2 ^ 48 then .at (j.scaleBase + b) 0 false else .fault stAccessFault 0

/-- Whether an element has an address, or faults on it: it is in bounds. -/
def Where.inside : Where → Bool
  | .fill _ => false
  | _ => true

/-- Scale byte `b` of a source: none is read for a block of which no element is in bounds (R194). -/
def Job.scaleInWhere (j : Job) (b : Nat) : Where :=
  if (blockPositions j.stageShape b).any fun p => (j.srcWhere p).inside then j.scaleWhere b else .fill false

/-- The address of an element of a stream. -/
def Job.whereAt (j : Job) : StreamId → Nat → Where
  | .idx, k => j.idxWhere k
  | .src, k => j.srcWhere k
  | .scaleIn, k => if j.opcode = opCompress then j.dstWhere k else j.scaleInWhere k
  | .dst, k => j.dstWhere k
  | .scaleOut, k => j.scaleWhere k

/-- What an out-of-bounds element of a stream reads as (R93, R153, R194). -/
def Job.fillOf (j : Job) : StreamId → Nat
  | .src => j.srcView.fill
  | .scaleIn => 0x7F
  | _ => 0

/-! ### The order of the walker (R101, R133 to R136, R141) -/

/-- The cast-stage position of destination position `k`; none for a swath's padding (R132, R139). -/
def Job.sourceOf (j : Job) (k : Nat) : Option Nat :=
  if j.layoutEn then laySource j.lay (dtBits j.stageType) j.stageShape k else some k

/-- The destination position of cast-stage position `p`. -/
def Job.targetOf (j : Job) (p : Nat) : Nat :=
  if !j.layoutEn then p
  else
    let inp := j.stageShape
    let w := dtBits j.stageType
    if j.lay.mode = 0 then
      let js := coordsOf inp p
      positionOf (layShape j.lay w inp) ((j.lay.perm.take inp.length).map fun d => js.getD d 0)
    else
      let (ncol, nrow, _) := swathCounts inp j.lay.coldims
      let per := swathImageBits j.lay.mode j.lay.bsrc w nrow ncol / w
      p / (ncol * nrow) * per + swathBit j.lay.mode j.lay.bsrc w (p / ncol % nrow) (p % ncol) nrow ncol / w

/-- Positions of the destination stream. -/
def Job.total (j : Job) : Nat := if j.opcode = opCompress || j.opcode = opExpand then j.dstView.count else j.dstCount

/-- The tile block of a destination position. -/
def Job.blockId (j : Job) (k : Nat) : Nat := layBlock j.lay (dtBits j.stageType) j.stageShape k

/-- The destination positions in the order in which a walker reaches them through tiles (log 68): tile blocks by their first position; within
a block its rows as they are read, padding last. -/
def Job.tileOrder (j : Job) : List Nat :=
  let key := fun (k : Nat) => (j.blockId k, (j.sourceOf k).getD j.stageShape.prod, k)
  (List.range j.total).mergeSort fun a b =>
    let x := key a
    let y := key b
    decide (x.1 < y.1) || (decide (x.1 = y.1) && (decide (x.2.1 < y.2.1) || (decide (x.2.1 = y.2.1) && decide (x.2.2 ≤ y.2.2))))

/-- The destination position that the walker reaches as number `t`. -/
def Job.walkAt (j : Job) (t : Nat) : Nat := if j.tile then j.tileOrder.getD t t else t

/-- The number of a destination position in the walker's order. -/
def Job.rank (j : Job) (k : Nat) : Nat := if j.tile then j.tileOrder.idxOf k else k

/-- The source position that the walker reads as number `t`; none for a swath's padding. -/
def Job.streamPos (j : Job) (t : Nat) : Option Nat := if j.layoutEn then j.sourceOf (j.walkAt t) else some t

/-- The first destination position that the walker has not reached (R401). -/
def Job.unreached (j : Job) : Nat :=
  if j.tile then ((List.range j.total).find? fun k => decide (j.el .dst k = .idle)).getD j.total else j.emitted

/-- A destination position has been reached. -/
def Job.reached (j : Job) (k : Nat) : Bool := decide (j.el .dst k ≠ .idle)

/-! ### Runs (R100), advances (R101), lookups (R102), and reads that repeat (R126, R156) -/

/-- One address stands exactly one element of `w` bits after another, in the same 4 KiB (R100). -/
def Where.follows (w : Nat) (a b : Where) : Bool :=
  match a, b with
  | .at x p _, .at y q _ => Sys2Proof.Machine.follows w (VAddr.at x p) (VAddr.at y q)
  | _, _ => false

def Where.same (a b : Where) : Bool :=
  match a, b with
  | .at x p _, .at y q _ => x = y && p = q
  | _, _ => false

/-- The first position of the run that holds position `k`, looking back at most `fuel` positions; `c x`: position `x + 1` continues the run
of position `x`. -/
def runStart (c : Nat → Bool) : Nat → Nat → Nat
  | _, 0 => 0
  | 0, k => k
  | n + 1, k + 1 => if c k then runStart c n k else k + 1

/-- The last position of the run that holds position `k`, below `count`. -/
def runEnd (c : Nat → Bool) (count : Nat) : Nat → Nat → Nat
  | 0, k => k
  | n + 1, k => if k + 1 < count && c k then runEnd c count n (k + 1) else k

/-- A run holds at most 4 KiB: at most 8,192 elements. -/
def runFuel : Nat := 8192

/-- The source stream in the order in which the walker reads it: through tiles, row by row. A swath's padding is no part of it (R133, R134,
R139). -/
def Job.srcOrder (j : Job) : List Nat := (if j.tile then j.tileOrder else List.range j.total).filterMap j.sourceOf

/-- The cast-stage position that the walker reads as number `u` of the source stream. -/
def Job.srcPos (j : Job) (u : Nat) : Nat := if j.layoutEn then j.srcOrder.getD u 0 else u

/-- The number of a cast-stage position in the source stream. -/
def Job.srcNum (j : Job) (p : Nat) : Nat := if j.layoutEn then j.srcOrder.idxOf p else p

/-- A stream in the order of its walker: its positions by number, the number of a position, and its length. -/
structure Order where
  pos : Nat → Nat
  num : Nat → Nat
  len : Nat

def Job.order (j : Job) (st : StreamId) : Order :=
  match st with
  | .src => { pos := j.srcPos, num := j.srcNum, len := if j.layoutEn then j.srcOrder.length else j.stageShape.prod }
  | .dst => { pos := id, num := id, len := j.total }
  | .idx => { pos := id, num := id, len := j.idxView.count }
  | .scaleIn => { pos := id, num := id, len := if j.opcode = opCompress then j.total else (j.stageShape.drop 1).prod * scaleNb0 j.stageShape }
  | .scaleOut => { pos := id, num := id, len := (j.stageShape.drop 1).prod * scaleNb0 j.stageShape }

/-- The index element that a position of a table stream takes its address from; none where the stream is no table's. -/
def Job.rowOf (j : Job) (st : StreamId) (k : Nat) : Option Nat :=
  match st with
  | .src => if j.gatherEn then some (j.idxPos (coordsOf j.stageShape k)) else none
  | .dst => if j.scatterEn then some (j.idxPos (coordsOf j.scatterShape k)) else none
  | _ => none

/-- Number `t + 1` of a stream continues the run of number `t` (R100). In a table stream each index value begins a new run, and with DIM 0
every element is a run of its own (R156, log 89). -/
def Job.continues (j : Job) (st : StreamId) (t : Nat) : Bool :=
  let o := j.order st
  let a := o.pos t
  let b := o.pos (t + 1)
  (j.whereAt st a).follows (j.width st) (j.whereAt st b)
    && (match j.rowOf st a, j.rowOf st b with
      | some x, some y => decide (x = y) && decide (j.idx.dim ≠ 0)
      | _, _ => true)

/-- First and last number of the run that holds number `t` of a stream. -/
def Job.runOf (j : Job) (st : StreamId) (t : Nat) : Nat × Nat :=
  (runStart (j.continues st) runFuel t, runEnd (j.continues st) (j.order st).len runFuel t)

/-- How far one advance carries a stream from its number `t`: one run, of addresses or out of bounds, or 16 elements (R101). -/
def Job.advanceOf (j : Job) (st : StreamId) (t : Nat) : Nat :=
  let o := j.order st
  let oob := fun (x : Nat) => match j.whereAt st (o.pos x) with | .fill _ => true | _ => false
  let n := if oob t then ((List.range (o.len - t)).takeWhile fun i => oob (t + i)).length
    else runEnd (j.continues st) o.len runFuel t + 1 - t
  max 16 n

/-- Block scales are read or written beside the elements (R193, R194). -/
def Job.mxSource (j : Job) : Bool := j.castEn && dtMx j.cast.src
def Job.mxTarget (j : Job) : Bool := j.castEn && dtMx j.cast.dst

/-- The elements from number `t` on whose block scales lie within one advance of the scale stream (R101, R194). -/
def Job.scaleAdvance (j : Job) (st : StreamId) (t : Nat) : Nat :=
  let b := scaleBlock j.stageShape (j.srcPos t)
  let n := j.advanceOf st b
  ((List.range ((j.order .src).len - t)).takeWhile fun i =>
    let x := scaleBlock j.stageShape (j.srcPos (t + i))
    decide (b ≤ x) && decide (x < b + n)).length

/-- The positions from number `t` on that the walker covers in one advance, its streams together, or in one tile block (R101, R194, R333). -/
def Job.advanceLen (j : Job) (t : Nat) : Nat :=
  if j.tile then
    ((j.tileOrder.drop t).takeWhile fun k => decide (j.blockId k = j.blockId (j.walkAt t))).length
  else
    let d := j.advanceOf .dst t
    if j.opcode = opPutInline then d
    else
      let d := min d (j.advanceOf .src t)
      let d := if j.mxSource then min d (j.scaleAdvance .scaleIn t) else d
      if j.mxTarget then min d (j.scaleAdvance .scaleOut t) else d

/-- Elements of one table row: dimensions below DIM. -/
def Job.rowLen (j : Job) : Nat := ((j.srcView.dims.take j.idx.dim).map (·.extent)).prod

/-- The earlier position whose read position `p` shares, and whether `p` begins the repeated run: a run that exactly repeats the one before in
the walker's order (R126). From one table row to the next, a row that is a single run (R156). -/
def Job.mergeOf (j : Job) (p : Nat) : Option (Nat × Bool) :=
  let o := j.order .src
  let t := o.num p
  let (s, z) := j.runOf .src t
  let len := z + 1 - s
  let at_ := fun (u : Nat) => j.srcWhere (o.pos u)
  if 1 ≤ s && runStart (j.continues .src) runFuel (s - 1) + len = s && (at_ s).same (at_ (s - len))
      && (decide (j.rowOf .src (o.pos s) = j.rowOf .src (o.pos (s - 1))) || decide (len = j.rowLen))
  then some (o.pos (t - len), decide (t = s)) else none

/-- The start of the advance that holds number `t` of a stream that advances by itself. -/
def Job.ownStart (j : Job) (st : StreamId) (t : Nat) : Nat → Nat → Nat
  | 0, b => b
  | fuel + 1, b => if b + j.advanceOf st b ≤ t then j.ownStart st t fuel (b + j.advanceOf st b) else b

/-- The start of the advance in which number `t` of a stream lies: the walker's own advances; the stream's where it advances by itself; through
tiles, 16 elements from the stream's start on (log 69). -/
def Job.advStart (j : Job) (st : StreamId) (t : Nat) : Nat :=
  if j.opcode = opCompress || j.opcode = opExpand || !(st = .src || st = .dst) then j.ownStart st t (t + 1) 0
  else if j.tile then t / 16 * 16
  else (j.bounds.find? fun b => decide (b ≤ t)).getD 0

/-- The lookup that an element with an address belongs to (R102): its run of 16 elements or more, or the 64 KiB block it lies in within the 16
elements of its advance (log 69). -/
def Job.lookupKey (j : Job) (st : StreamId) (k : Nat) : Nat × Nat :=
  let t := (j.order st).num k
  let (s, z) := j.runOf st t
  if 16 ≤ z + 1 - s then (s, 0)
  else (j.advStart st t, match j.whereAt st k with | .at a _ _ => a / 65536 + 1 | _ => 0)

/-! ### What reaches a destination position -/

/-- The source element at cast-stage position `p`; a PUT_INLINE takes the payload's byte (R60). -/
def Job.srcInput (j : Job) (p : Nat) : Input :=
  if j.opcode = opPutInline then .ok (j.payload.getD p 0).toNat false else inputOf j.srcView.fill (j.el .src p)

/-- The inputs of destination position `k`: its source element, the elements of its block for a microscaled target (R185), and
its block's scale byte for a microscaled source (R194). -/
def Job.inputAt (j : Job) (k : Nat) : Input :=
  match j.sourceOf k with
  | none => .ok 0 false
  | some p =>
    let b := scaleBlock j.stageShape p
    allInputs (j.srcInput p ::
      ((if j.mxTarget then (blockPositions j.stageShape b).map j.srcInput else [])
        ++ (if j.mxSource then [inputOf 0x7F (j.el .scaleIn b)] else [])))

/-- The scale byte of block `b` of a microscaled target (R189, R191). -/
def Job.blockScale (j : Job) (b : Nat) : Nat :=
  mxScale j.cast.dst ((blockPositions j.stageShape b).map fun p =>
    match j.srcInput p with
    | .ok v _ => decodeElem j.cast.src v
    | _ => .fin false 0 0)

/-- The cast of one element (R180 to R192), with its tallies (R198). DESIGN CHOICE (log 70): a byte that 4-bit or 6-bit inputs share counts
with the element that ends it, by cast-stage position. -/
def Eng.castElem (e : Eng) (j : Job) (p v : Nat) : Nat × Eng :=
  if !j.castEn then (v, e)
  else
    let c := j.cast
    let r := j.lead.toNat
    let w := dtBits c.src
    let (mode, s) := nextRounding c (e.cst.lfsr.getD r 1)
    let b := scaleBlock j.stageShape p
    let x := if dtMx c.dst then castToMx c mode (j.blockScale b) v
      else if dtMx c.src then
        castFromMx c mode (match inputOf 0x7F (j.el .scaleIn b) with | .ok s _ => s | _ => 0x7F) v
      else castPlain c mode v
    let e := { e with cst := { e.cst with lfsr := setRow 1 4 e.cst.lfsr r s } }
    (x.code, (((e.count subCst r ((p + 1) * w / 8 - p * w / 8)).count subCst (4 + r) (ofBit x.sat)).count subCst
      (8 + r) (ofBit x.nan)).count subCst (16 + r) (ofBit (c.round = 2)))

/-- A chunk of destination position `k` (R400). -/
def Job.chunkOf (j : Job) (k : Nat) : Nat := k * j.dstView.ebits / 32768

/-- A replay has already applied position `k` (R409). -/
def Job.skips (j : Job) (k : Nat) : Bool :=
  decide (k < j.skipBelow) || j.marked.any fun r => decide (r.1 ≤ j.chunkOf k) && decide (j.chunkOf k < r.1 + r.2)

/-- The index elements that destination position `k` needs. -/
def Job.indexOf (j : Job) (k : Nat) : List Nat :=
  (if j.scatterEn then [j.idxPos (coordsOf j.scatterShape k)] else [])
    ++ (if j.gatherEn && decide (j.opcode ≠ opPutInline) then match j.sourceOf k with
      | none => []
      | some p => (if j.mxTarget then blockPositions j.stageShape (scaleBlock j.stageShape p) else [p]).map fun p =>
          j.idxPos (coordsOf j.stageShape p)
      else [])

/-- The walker reaches destination position `k`: the elements it needs are reached in every stream (R101, R194). -/
def Job.emit1 (j : Job) (k : Nat) : Job :=
  let j := (j.indexOf k).foldl (fun j i => j.reach .idx i) (j.reach .dst k)
  if j.opcode = opPutInline then j
  else match j.sourceOf k with
    | none => j
    | some p =>
      let b := scaleBlock j.stageShape p
      let j := (if j.mxTarget then blockPositions j.stageShape b else [p]).foldl (fun j p => j.reach .src p) j
      let j := if j.mxSource then j.reach .scaleIn b else j
      if j.mxTarget then j.reach .scaleOut b else j

/-- An element has yet to be issued (R331): not presented to the next stage, or not accepted there. -/
def El.unissued : El → Bool
  | .todo | .ask _ _ | .half _ _ => true
  | .fly q _ _ => q.waiting
  | _ => false

/-- Positions of a stream whose elements wait to be issued. -/
def Job.open (j : Job) (st : StreamId) : List Nat :=
  (j.els st).filterMap fun x => if x.2.unissued then some x.1 else none

/-- Index values that no reached element needs any more are let go: those of table elements whose address has been used, and in a scatter
whose write has been acknowledged. Of the rest, the value before `i` and `ahead` values from there on stay (R157). -/
def Job.freeIndex (j : Job) (i ahead : Nat) : Job :=
  let uses := ((j.open .src).map fun p => j.idxPos (coordsOf j.stageShape p)).filter fun _ => j.gatherEn
  let inWork := j.dstEl.filterMap fun x => match x.2 with
    | .todo | .ask _ _ | .half _ _ | .fly _ _ _ => some x.1
    | _ => none
  let uses := uses ++ (inWork.map fun k => j.idxPos (coordsOf j.scatterShape k)).filter fun _ => j.scatterEn
  { j with idxEl := j.idxEl.filter fun x => x.2.unissued || (match x.2 with | .fly _ _ _ | .failed _ _ => true | _ => false)
      || uses.contains x.1 || (decide (i ≤ x.1 + 1) && decide (x.1 < i + ahead)) }

/-- The index values of position `k` fit among the 1,024 that the walker holds (R157). -/
def Job.indexRoom (j : Job) (k : Nat) : Bool :=
  let new := ((j.indexOf k).filter fun i => decide (j.el .idx i = .idle)).dedup
  decide (new = []) || decide (j.idxEl.length + new.length ≤ 1024) || decide (j.idxEl = [])

/-- The element has been read out of its tile: issued, or held only for elements that share its bytes. -/
def El.readOut : El → Bool
  | .half _ _ => true
  | x => !x.unissued

/-- A layout unit may begin the tile block of the walker's number `t`: the last column of the block that stood in its tile has been read out.
Blocks are dealt to the units in turn, and each has two tiles (R134 to R136). -/
def Job.tileRoom (j : Job) (t : Nat) : Bool :=
  if j.tile then
    let bs := (j.tileOrder.map j.blockId).dedup
    let i := bs.idxOf (j.blockId (j.walkAt t))
    let n := 2 * max 1 j.units
    decide (i < n) || j.dstEl.all fun x => decide (j.blockId x.1 ≠ bs.getD (i - n) 0) || x.2.readOut
  else true

/-- A fault, or poison in the descriptor's own state, has ended the issue of addresses (R118, R353). -/
def Job.over (j : Job) : Bool := j.fault.isSome || j.poisoned

/-- The walker may go on to its number `t`: no fault (R118), no boundary at which it yields (R333), and a tile for it. -/
def Job.mayGo (j : Job) (t : Nat) : Bool :=
  decide (t < j.total) && !j.over && (j.yieldAt.isNone || decide (t < j.nextBound)) && j.tileRoom t

/-- The walker may reach its number `t`: it may go on, and there is room for the index values (R157). -/
def Job.mayReach (j : Job) (t : Nat) : Bool := j.mayGo t && j.indexRoom (j.walkAt t)

/-- The value of an index element is known. -/
def Job.indexKnown (j : Job) (i : Nat) : Bool :=
  match j.el .idx i with
  | .got _ _ | .oob | .failed _ _ => true
  | _ => false

/-- The first run of the index stream has returned, or lies out of bounds (R157). -/
def Job.firstIndexBack (j : Job) : Bool :=
  match j.idxWhere 0 with
  | .at _ _ _ => (List.range ((j.runOf .idx 0).2 + 1)).all j.indexKnown
  | .fault _ _ => j.indexKnown 0
  | _ => true

/-- The walker reads the index stream ahead of a table stream (R157): what position `k` needs, and the following values, as long as it has room
for them. -/
def Job.readAhead (j : Job) (k : Nat) : Job :=
  let need := j.indexOf k
  match need with
  | [] => j
  | i :: _ =>
    let j := if j.idxEl.length < 1024 then j else j.freeIndex i 1023
    let j := if j.indexRoom k then j else j.freeIndex i 1
    if !j.indexRoom k then j
    else
      let j := need.foldl (fun j i => j.reach .idx i) j
      let next := ((List.range (min 1022 (j.idxView.count - (i + 1)))).map (i + 1 + ·)).filter fun x => decide (j.el .idx x = .idle)
      let j := (next.take (1024 - j.idxEl.length)).foldl (fun j i => j.reach .idx i) j
      { j with indexBack := j.indexBack || j.firstIndexBack }

/-- The addresses of position `k` can be formed: the first index run has returned, and the index values that `k` needs are known (R157). -/
def Job.addressable (j : Job) (k : Nat) : Bool :=
  decide (j.indexOf k = []) || (j.indexBack && (j.indexOf k).all j.indexKnown)

/-- A new advance begins where the walker stands at a boundary (R333). -/
def Job.beginAdvance (j : Job) : Job :=
  if j.nextBound ≤ j.emitted then
    { j with lastBound := j.emitted, nextBound := j.emitted + max 1 (j.advanceLen j.emitted), bounds := j.emitted :: j.bounds }
  else j

/-- The walker reaches its next position, if it may. -/
def Job.emitStep (j : Job) : Job :=
  let k := j.walkAt j.emitted
  if !j.mayGo j.emitted then j
  else
    let j := j.readAhead k
    if j.indexRoom k && j.addressable k then { j.beginAdvance.emit1 k with emitted := j.emitted + 1 } else j

/-- The walker goes on towards the position that its commands have let it come to. -/
def Job.emitAsked (j : Job) : Job := (List.range (min j.asked j.total - j.emitted)).foldl (fun j _ => j.emitStep) j

/-- The walker is to reach up to `n` further positions. -/
def Job.emitNext (j : Job) (n : Nat) : Job := { j with asked := min j.total (j.emitted + n) }.emitAsked

/-! ### Grants of the cast unit (R146, R184) -/

/-- The number at which a grant of `n` elements from the walker's number `t` ends. -/
def Job.grantEnd (j : Job) : Nat → Nat → Nat → Nat
  | 0, t, _ => t
  | _, t, 0 => t
  | fuel + 1, t, n + 1 =>
    if j.total ≤ t then t
    else if (j.streamPos t).isSome then j.grantEnd fuel (t + 1) n else j.grantEnd fuel (t + 1) (n + 1)

/-- The end of the next grant: 1,024 B of input, or what the walker has reached where it is held. -/
def Job.castEnd (j : Job) : Nat :=
  let e := j.grantEnd j.total j.castNext (max 1 (8192 / dtBits j.cast.src))
  if j.mayReach j.emitted then e else min e j.emitted

/-- All inputs of the next grant are known. -/
def Job.castReady (j : Job) : Bool :=
  decide (j.castNext < j.castEnd) && decide (j.castEnd ≤ j.emitted)
    && (List.range (j.castEnd - j.castNext)).all fun i => decide (j.inputAt (j.walkAt (j.castNext + i)) ≠ .wait)

/-- The element behind destination position `k` has left the cast stage. -/
def Job.castDone (j : Job) (k : Nat) : Bool := !j.castEn || decide (j.rank k < j.castNext)

/-- What stands at destination position `k` once its inputs are known: padding, the cast's result, or the source's value. -/
def Job.valueAt (j : Job) (k : Nat) : Nat :=
  match j.sourceOf k with
  | none => 0
  | some p => if j.castEn then mapGet 0 j.castVal p else match j.srcInput p with | .ok v _ => v | _ => 0

/-- The unit of a region casts one grant, in stream order. -/
def Eng.castGrant (e : Eng) (j : Job) : Eng × Job :=
  let (e, vs) := (List.range (j.castEnd - j.castNext)).foldl (fun (x : Eng × SMap Nat) i =>
    let k := j.walkAt (j.castNext + i)
    match j.sourceOf k, j.inputAt k with
    | some p, .ok _ _ =>
      let (v, e) := x.1.castElem j p (match j.srcInput p with | .ok v _ => v | _ => 0)
      (e, mapSet 0 x.2 p v)
    | _, _ => x) (e, j.castVal)
  (e, { j with castNext := j.castEnd, castVal := vs })

/-- The grants that can be made now. -/
def Eng.castAll : Nat → Eng → Job → Eng × Job
  | 0, e, j => (e, j)
  | n + 1, e, j => if j.castEn && j.castReady then let (e, j) := e.castGrant j; Eng.castAll n e j else (e, j)

end Sys2Proof.Machine
end

