-- ==== Sys2Proof/Machine/Issue.lean ====
section
/-! DEFINITION. How a descriptor's addresses become requests (03: R106, R107, R110 to R119; 04: R142, R143; 05: R161 to R171;
06: R194 to R196; 12: R399 to R401) and how it ends (02: R72, R73). -/

namespace Sys2Proof.Machine

/-- A request just issued: stream, number in the stream's order, whether it continues the run of the number before, request, value written. -/
structure Shot where
  st : StreamId
  num : Nat
  cont : Bool
  q : Req
  v : Nat
  bad : Bool
  deriving DecidableEq, Repr

/-- A descriptor being advanced: the engine, the descriptor, and the requests issued. -/
structure Pump where
  e : Eng
  j : Job
  shots : List Shot := []
  deriving DecidableEq, Repr

def Pump.put (p : Pump) (st : StreamId) (k : Nat) (x : El) : Pump := { p with j := p.j.setEl st k x }

/-- The stream writes. -/
def StreamId.isWrite (st : Sys2Proof.StreamId) : Bool := st = .dst || st = .scaleOut

/-- What a stream's requests want (R143, R171, R221). -/
def Job.wantOf (j : Job) (st : StreamId) : Want :=
  { write := StreamId.isWrite st, stackOnly := st = .dst && (j.accEn || j.opcode = opExpand) }

/-- A lookup in the lead region's slice is counted once for its run, or its block of a 16-element advance (R102, R119, R157). DESIGN CHOICE
(log 90): it counts also where step 4 or 5 of R106 ends the request before the cache is asked. -/
def Pump.look (p : Pump) (st : StreamId) (k : Nat) : Pump :=
  let key := (st, p.j.lookupKey st k)
  if p.j.looked.contains key then p
  else { p with e := p.e.count subAtg p.j.lead.toNat 1, j := { p.j with looked := key :: p.j.looked } }

/-- The request of a stream's position. -/
def Job.shot (j : Job) (st : StreamId) (k : Nat) (q : Req) (v : Nat) (bad : Bool) : Shot :=
  let t := (j.order st).num k
  { st := st, num := t, cont := decide (0 < t) && j.continues st (t - 1), q := q, v := v, bad := bad }

/-- Every request of a stream is for stack `n`. -/
def Eng.streamIn (e : Eng) (m : Memory) (j : Job) (st : StreamId) (n : BitVec 5) : Bool :=
  (List.range j.total).all fun k => match j.whereAt st k with
    | .at a b _ => j.device st = e.device && (match e.routeOf m j.lead j.paddock a b (j.wantOf st) with
      | some q => (match q.dest with | .stack d _ => decide (d = n) | _ => false)
      | none => false)
    | _ => true

/-- A COPY within one stack, which that stack's Drover executes itself: no request of it crosses a crossbar (R31). -/
def Eng.withinStack (e : Eng) (m : Memory) (j : Job) (q : Req) : Bool :=
  match q.dest with
  | .stack n _ => j.opcode = opCopy && e.streamIn m j .src n && e.streamIn m j .dst n
  | _ => false

/-- The next stage accepts a request. -/
def Pump.accept (p : Pump) (st : StreamId) (k : Nat) (q : Req) (v : Nat) (bad : Bool) : Pump :=
  let q := { q with waiting := false }
  { e := p.e.wakeFor q, j := p.j.setEl st k (.fly q v bad), shots := p.shots ++ [p.j.shot st k q v bad] }

/-- A request is presented to the next stage: accepted, or its grant is parked and the walker holds it back (R328, R331). One that a Drover makes itself
waits there (R31). -/
def Pump.send (p : Pump) (m : Memory) (st : StreamId) (k : Nat) (q : Req) (v : Nat) (bad : Bool) : Pump :=
  if p.e.canServe q then p.accept st k q v bad
  else
    let e := p.e.wakeFor q
    { p with
      e := if e.withinStack m p.j q then e else e.park q (.job p.j.handle)
      j := p.j.setEl st k (.fly { q with waiting := true } v bad) }

/-- A request that was held back is presented again. -/
def Pump.resend (p : Pump) (st : StreamId) (k : Nat) (q : Req) (v : Nat) (bad : Bool) : Pump :=
  if q.waiting && p.e.canServe q then p.accept st k q v bad else p

/-- A request for element `k` is issued: steps 2 and 3 of R106 for a peer, steps 4 to 8 here (R107). -/
def Pump.fire (p : Pump) (m : Memory) (st : StreamId) (k va bit v : Nat) (bad : Bool) : Pump :=
  let j := p.j
  let d := j.device st
  let w := j.wantOf st
  if d = p.e.device then
    let p := p.look st k
    match p.e.translate j.lead j.paddock va bit ((bit + j.width st + 7) / 8) w with
    | .ok q => p.send m st k q v bad
    | .miss => { p with e := p.e.startWalk j.lead j.paddock va, j := p.j.setEl st k (.ask v bad) }
    | t => { p with e := p.e.noteFault j.lead j.paddock (some j.ctx) t, j := p.j.setEl st k (.failed (t.status.getD 0) 0) }
  else
    let (ok, e) := p.e.reaches m j.lead j.paddock d
    if !(e.pdk j.paddock).enable || (e.pdk j.paddock).scrubbing || !ok then
      { p with e := e.noteFault j.lead j.paddock (some j.ctx) (.fail stPaddockFault), j := j.setEl st k (.failed stPaddockFault 0) }
    else if e.npi.lost.contains d then { p with e := e, j := j.setEl st k (.failed stUnreachable d) }
    else { p with e := e }.send m st k { dest := .peer d va, bit := bit, tag := .clear, va := va } v bad

/-- A read shared with an earlier one is counted at the Drover that would have made it, once a run (R156, R174). DESIGN CHOICE (log 91): one
whose table lies on a peer, or off the stacks, counts at no Drover. -/
def Eng.noteMerge (e : Eng) (m : Memory) (j : Job) (a b : Nat) : Eng :=
  if !j.gatherEn || j.device .src ≠ e.device then e
  else match e.routeOf m j.lead j.paddock a b { write := false } with
    | some q => (match q.dest with
      | .stack n _ => e.count subDrv (60 + n.toNat) 1
      | _ => e)
    | none => e

/-- The position whose read position `p0` itself shares. -/
def Job.readBy (j : Job) (p0 : Nat) : Nat :=
  match j.el .src p0 with
  | .same r => r
  | _ => p0

/-- One element of a read stream that the walker has reached. -/
def Pump.tryRead (m : Memory) (st : StreamId) (p : Pump) (k : Nat) : Pump :=
  match p.j.el st k with
  | .fly q v bad => p.resend st k q v bad
  | _ =>
    match p.j.whereAt st k with
    | .wait => p
    | .fault s d => p.put st k (.failed s d)
    | .fill bad =>
      let p := if st = .src then { p with e := p.e.count subWlk (4 + p.j.lead.toNat) 1 } else p
      p.put st k (if bad then .got (p.j.fillOf st) true else if st = .src then .oob
        else if st = .idx then .oob else .got (p.j.fillOf st) false)
    | .at a b bad =>
      let shared := if st = .src && p.j.el st k = .todo && !bad then
          match p.j.mergeOf k with
          | some (p0, first) => if p.j.el .src p0 = .idle then none else some (p.j.readBy p0, first)
          | none => none
        else none
      match shared with
      | some (p0, first) =>
        { p with
          e := if first then p.e.noteMerge m p.j a b else p.e
          j := p.j.setEl .src k (match p.j.el .src p0 with
            | .got v b => .got v b
            | .failed s d => .failed s d
            | _ => .same p0) }
      | none => p.fire m st k a b 0 bad

/-- Positions that share an earlier position's read take what it brought, or its failure (R126). -/
def Job.shareReads (j : Job) : Job :=
  j.srcEl.foldl (fun j x => match x.2 with
    | .same p0 => match j.el .src p0 with
      | .got v b => j.setEl .src x.1 (.got v b)
      | .failed s d => j.setEl .src x.1 (.failed s d)
      | .same r => j.setEl .src x.1 (.same r)
      | .idle => j.setEl .src x.1 .todo
      | _ => j
    | _ => j) j

/-! ### Writes -/

/-- The tile block of a destination position is in the tile: its rows have been read and cast (R134). After a fault the rows that were
reached count. -/
def Job.blockIn (j : Job) (k : Nat) : Bool :=
  !j.tile || (j.tileOrder.filter fun i => j.blockId i = j.blockId k).all fun i =>
    if j.reached i then decide (j.inputAt i ≠ .wait) && j.castDone i else j.over

/-- What is known of a destination element's value: it waits for its inputs, its cast or its tile, it fails, or it is here, with FILL in place
of a poisoned value. One that waits for its translation or for the elements that share its bytes holds its value. -/
def Job.outValue (j : Job) (k : Nat) : Input :=
  let whole := fun (_ : Unit) =>
    match j.inputAt k with
    | .ok _ bad =>
      if !j.castDone k then .wait
      else match j.dstWhere k with
        | .at _ _ ibad => .ok (if bad || ibad then j.dstView.fill else j.valueAt k) (bad || ibad)
        | .fault st d => .fail st d
        | .fill _ => .ok 0 false
        | .wait => .wait
    | x => x
  match j.el .dst k with
  | .half v bad | .ask v bad => .ok v bad
  | .todo => if j.blockIn k then whole () else .wait
  | .done => whole ()
  | .failed st d => .fail st d
  | _ => .wait

/-- Where a destination element of a sub-byte type begins within its byte. -/
def Job.bitAt (j : Job) (k : Nat) : Nat :=
  match j.dstWhere k with
  | .at _ b _ => b
  | _ => 0

/-- The elements of its run that share bytes with a destination element, itself among them (R195, R196). -/
def Job.byteMates (j : Job) (k : Nat) : List Nat :=
  let w := j.dstView.ebits
  let (s, z) := j.runOf .dst k
  let lo := (((List.range 4).map (k - ·)).find? fun i => decide (i ≤ s) || decide (j.bitAt i = 0)).getD k
  let hi := (((List.range 4).map (k + ·)).find? fun i => decide (z ≤ i) || decide ((j.bitAt i + w) % 8 = 0)).getD k
  (List.range (min hi z + 1 - max lo s)).map (max lo s + ·)

/-- Whether a destination element may be written: yes, with the elements that share its bytes; it waits for those; never, since one of them
fails, or is not reached after poison has stopped the descriptor; or its run does not begin and end on whole bytes. -/
inductive Gate where
  | go
  | hold
  | fail (st : Status) (dev : DevNum)
  | drop
  | clash
  deriving DecidableEq, Repr

/-- What leaves for host memory, a die or a peer leaves in whole bytes: an element is written together with those that share its bytes (R196).
DESIGN CHOICE (log 92): where one of them fails, the element fails too, with that status at its own position. -/
def Job.mateGate (j : Job) (k : Nat) : Gate :=
  let unknown := (j.byteMates k).any fun i => decide (j.outValue i = .wait) && j.reached i
  let gone := (j.byteMates k).any fun i => !j.reached i
  match allInputs (((j.byteMates k).filter j.reached).map j.outValue) with
  | .fail st d => .fail st d
  | _ =>
    if gone then
      match j.fault with
      | some (_, st, d) => .fail st d
      | none => if j.poisoned then .drop else .hold
    else if unknown then .hold else .go

/-- A sub-byte element to host memory or to a die must lie in a run that begins and ends on whole bytes (R196); the run of one to a peer is
judged there. -/
def Job.byteGate (j : Job) (e : Eng) (k a b : Nat) : Gate :=
  let w := j.dstView.ebits
  if w % 8 = 0 then .go
  else if j.dstSlot.device ≠ e.device then j.mateGate k
  else match e.translate j.lead j.paddock a b ((b + w + 7) / 8) (j.wantOf .dst) with
    | .ok q => match q.dest with
      | .host _ | .die _ _ =>
        let (s, z) := j.runOf .dst k
        if z + 1 < j.total && j.dstWhere (z + 1) = .wait then .hold
        else if j.bitAt s ≠ 0 || (j.bitAt z + w) % 8 ≠ 0 then .clash
        else j.mateGate k
      | _ => .go
    | _ => .go

/-- What leaves for a peer as one request a run waits for the run: a contribution (R170), and elements of a sub-byte type, of which the
peer judges where the run begins and ends (R196). A walker that is held sends what it has. -/
def Job.runGate (j : Job) (e : Eng) (k : Nat) : Bool :=
  let w := j.dstView.ebits
  (j.accEn || decide (w % 8 ≠ 0)) && j.dstSlot.device ≠ e.device &&
    (let (s, z) := j.runOf .dst k
     (List.range (z + 1 - s)).any fun i =>
       if j.el .dst (s + i) = .todo then decide (j.outValue (s + i) = .wait)
       else !j.reached (s + i) && j.mayReach j.emitted)

/-- A destination element is issued; one that a replay has applied is not. An element that was written before and shares its bytes goes once
more with it, since what leaves is whole bytes (R196, R335). -/
def Pump.fireDst (m : Memory) (p : Pump) (k : Nat) : Pump :=
  let go := fun (p : Pump) (i : Nat) => match p.j.outValue i, p.j.dstWhere i with
    | .ok v bad, .at a b _ => if p.j.skips i then p.put .dst i .done else p.fire m .dst i a b v bad
    | _, _ => p
  let whole := decide (p.j.dstView.ebits % 8 ≠ 0) && (decide (p.j.dstSlot.device ≠ p.e.device) ||
    (match p.j.dstWhere k with
      | .at a b _ => (match p.e.translate p.j.lead p.j.paddock a b ((b + p.j.dstView.ebits + 7) / 8) (p.j.wantOf .dst) with
        | .ok q => q.region.isNone
        | _ => false)
      | _ => false))
  if whole then (p.j.byteMates k).foldl go p else go p k

/-- One destination element that the walker has reached. -/
def Pump.tryDst (m : Memory) (p : Pump) (k : Nat) : Pump :=
  let gated := fun (v : Nat) (bad : Bool) =>
    match p.j.dstWhere k with
    | .at a b _ =>
      (match p.j.byteGate p.e k a b with
        | .hold => p.put .dst k (.half v bad)
        | .clash =>
          let p := p.look .dst k
          { p with e := p.e.noteFault p.j.lead p.j.paddock (some p.j.ctx) (.fail stAccessFault) }.put .dst k (.failed stAccessFault 0)
        | .fail st d => p.put .dst k (.failed st d)
        | .drop => p.put .dst k .idle
        | .go => p.fireDst m k)
    | _ => p
  match p.j.el .dst k with
  | .fly q v bad => p.resend .dst k q v bad
  | .ask v bad | .half v bad => gated v bad
  | .todo =>
    if !p.j.blockIn k then p
    else match p.j.inputAt k with
      | .wait => p
      | .fail st d => p.put .dst k (.failed st d)
      | .ok _ _ =>
        match p.j.dstWhere k, p.j.outValue k with
        | .fault st d, .fail _ _ => p.put .dst k (.failed st d)
        | .fill _, .ok _ _ => { p with e := p.e.count subWlk p.j.lead.toNat 1, j := { p.j with oob := p.j.oob + 1 } }.put .dst k .oob
        | .at _ _ _, .ok v bad => if p.j.runGate p.e k then p else gated v bad
        | _, _ => p
  | _ => p

/-- One scale byte of a microscaled target (R189, R194). Where an element of its block was poisoned, the manual states no scale:
a free value (log 28). -/
def Pump.tryScaleOut (m : Memory) (p : Pump) (b : Nat) : Pump :=
  let go := fun (p : Pump) (v : Nat) => match p.j.scaleWhere b with
    | .at a _ _ => p.fire m .scaleOut b a 0 v false
    | _ => p.put .scaleOut b (.failed stAccessFault 0)
  match p.j.el .scaleOut b with
  | .fly q v bad => p.resend .scaleOut b q v bad
  | .ask v _ => go p v
  | .todo =>
    match allInputs ((blockPositions p.j.stageShape b).map p.j.srcInput) with
    | .wait => p
    | .fail st d => p.put .scaleOut b (.failed st d)
    | .ok _ bad =>
      let (n, e) := if bad then p.e.draw else (0, p.e)
      let v := if bad then (Config.slack n b).toNat else p.j.blockScale b
      go { p with e := if v = 0xFF then e.count subCst (12 + p.j.lead.toNat) 1 else e } v
  | _ => p

/-! ### What is sent (R32, R100, R142, R170) -/

/-- Two consecutive requests of one run to one destination. -/
def Shot.joins (w : Nat) (a b : Shot) : Bool :=
  decide (b.st = a.st) && decide (b.num = a.num + 1) && b.cont
    && (match a.q.dest, b.q.dest with
      | .host x, .host y => decide ((8 * x + a.q.bit + w) = 8 * y + b.q.bit)
      | .die d x, .die d' y => decide (d = d') && decide ((8 * x + a.q.bit + w) = 8 * y + b.q.bit)
      | .peer d _, .peer d' _ => decide (d = d')
      | _, _ => false)

/-- The requests as runs. -/
def runsOf (w : StreamId → Nat) : List Shot → List (List Shot)
  | [] => []
  | s :: ss =>
    match runsOf w ss with
    | [] => [[s]]
    | [] :: rs => [s] :: rs
    | (t :: r) :: rs => if s.joins (w s.st) t then (s :: t :: r) :: rs else [s] :: (t :: r) :: rs

/-- The values of a run packed from its first bit on (R195). -/
def packRun (w : Nat) : List Shot → Nat
  | [] => 0
  | s :: ss => s.v % 2 ^ w + 2 ^ w * packRun w ss

/-- A die's assigned ports, ascending (R142, R463). -/
def Eng.portsOf (e : Eng) (d : DieNum) : List (BitVec 3) :=
  ((List.range 8).filter fun i => (e.opi.die.getD d.toNat {}).portMask.getLsbD i).map (BitVec.ofNat 3)

/-- The port that serves an offset (R142, R241). -/
def Eng.portFor (e : Eng) (d : DieNum) (a : Nat) : BitVec 3 :=
  let ps := e.portsOf d
  ps.getD (a / 1024 % ps.length) 0

/-- Offset of a physical address in its aperture. -/
def Eng.apertureOffset (e : Eng) (pa : Nat) : Nat :=
  match e.memMap.find? fun r => r.base ≤ pa ∧ pa < r.base + r.size with
  | some r => pa - r.base
  | none => 0

/-- An access of `n` bytes split at 1 KiB boundaries: (offset from its start, length). -/
def splitKiB : Nat → Nat → Nat → Nat → List (Nat × Nat)
  | 0, _, _, _ => []
  | fuel + 1, a, o, n =>
    if n = 0 then []
    else
      let len := min n (1024 - (a + o) % 1024)
      (o, len) :: splitKiB fuel a (o + len) (n - len)

/-- An access to a scratchpad leaves OPI, split at 1 KiB boundaries of the aperture (R142). -/
def Eng.sendDie (e : Eng) (d : DieNum) (pa bit bits : Nat) (write : Option Nat) : Eng :=
  let a := e.apertureOffset pa
  let n := (bit + bits + 7) / 8
  (splitKiB (n + 1) a 0 n).foldl (fun e x =>
    let first := if x.1 = 0 then bit else 0
    let lastBits := min (8 * x.2 - first) (bit + bits - 8 * x.1 - first)
    e.emit (.die d (match write with
      | some v => .write (e.portFor d (a + x.1)) (pa + x.1) lastBits (v * 2 ^ bit / 2 ^ (8 * x.1 + first) % 2 ^ lastBits)
      | none => .read (e.portFor d (a + x.1)) (pa + x.1) lastBits))) e

/-- The request of a run to a peer (R32, R170). -/
def Eng.peerReq (e : Eng) (j : Job) (q : Req) (w n : Nat) : PeerReq :=
  { dev := e.device, ctx := j.ctx, seq := j.seq, id := e.npi.nextReq, paddock := j.paddock
    va := BitVec.ofNat 48 q.va, bit := BitVec.ofNat 3 q.bit, bits := w * n, ebits := w, stamp := e.now }

/-- A message to a peer that carries a request number. -/
def Eng.sendNpi (e : Eng) (d : DevNum) (msg : NpiMsg) : Eng :=
  { (e.emit (.npi d msg)) with npi := { e.npi with
      nextReq := e.npi.nextReq + 1, pairs := if e.npi.pairs.contains d then e.npi.pairs else d :: e.npi.pairs } }

/-- A run is sent to its point of coherence; a Drover of this device takes it without a message. -/
def Eng.sendRun (e : Eng) (j : Job) (run : List Shot) : Eng :=
  match run with
  | [] => e
  | s :: _ =>
    let w := j.width s.st
    let n := run.length
    let v := packRun w run
    let bytes := leBytes ((s.q.bit + w * n + 7) / 8) (v * 2 ^ s.q.bit)
    match s.q.dest with
    | .stack _ _ => e
    | .host a => if StreamId.isWrite s.st then e.hostPut a bytes else e.emit (.hostRead a (w * n))
    | .die d pa => e.sendDie d pa s.q.bit (w * n) (if StreamId.isWrite s.st then some v else none)
    | .peer d _ =>
      let q := e.peerReq j s.q w n
      if !StreamId.isWrite s.st then e.sendNpi d (.get q)
      else if s.st = .dst && j.accEn then
        (e.sendNpi d (.acc q j.accOp j.accType bytes (BitVec.ofNat 32 j.dstView.fill)
          ((run.zipIdx.filter fun x => x.1.bad).map (·.2)))).count subNpi 1 1
      else e.sendNpi d (.put q bytes (s.st = .dst && j.scatterEn && !j.overlapAny))

/-! ### Advancing a descriptor -/

/-- Of faults by position the one at the lowest, among equals the first (R117). -/
def lowest (xs : List (Nat × Status × DevNum)) : Option (Nat × Status × DevNum) :=
  xs.foldl (fun best x => match best with
    | none => some x
    | some y => if x.1 < y.1 then some x else some y) none

/-- The faults of destination elements, by position. -/
def Job.dstFaults (j : Job) : List (Nat × Status × DevNum) :=
  j.dstEl.filterMap fun x => match x.2 with | .failed st d => some (x.1, st, d) | _ => none

/-- The first fault in destination order (R115, R117, R194). -/
def Job.firstFault (j : Job) : Option (Nat × Status × DevNum) :=
  lowest (j.dstFaults ++ j.scaleOutEl.filterMap fun x => match x.2 with
    | .failed st d => some ((((blockPositions j.stageShape x.1).map j.targetOf).min?).getD 0, st, d)
    | _ => none)

/-- The first fault is noted (R117, R118). -/
def Job.noteFirst (j : Job) : Job := { j with fault := j.firstFault }

/-- The open positions of a stream in the order of its walker (R133). -/
def Job.openIn (j : Job) (st : StreamId) : List Nat :=
  if st = .src && j.layoutEn then
    let n := j.srcOrder
    (j.open st).mergeSort fun a b => n.idxOf a ≤ n.idxOf b
  else j.open st

/-- A walker that its descriptor holds goes on, unless RFE is halted (R372, R404). -/
def Pump.walkOn (p : Pump) : Pump :=
  if p.j.checked && p.j.walker.isSome && (!p.e.halted || p.e.settling) then { p with j := p.j.emitAsked } else p

/-- One pass over a descriptor: the walker goes on; reads, the grants of the cast unit, writes. -/
def Pump.pass (m : Memory) (p : Pump) : Pump :=
  let p := p.walkOn
  let p := (p.j.open .idx).foldl (Pump.tryRead m .idx) p
  let p := (p.j.open .scaleIn).foldl (Pump.tryRead m .scaleIn) p
  let p := (p.j.openIn .src).foldl (Pump.tryRead m .src) p
  let (e, j) := Eng.castAll (p.j.total + 1) p.e p.j.shareReads
  let p : Pump := { p with e := e, j := j }
  let p := (p.j.open .dst).foldl (Pump.tryDst m) p
  let p := (p.j.open .scaleOut).foldl (Pump.tryScaleOut m) p
  { p with j := p.j.noteFirst }

/-- The elements that a descriptor has reached are issued as far as their inputs allow; the requests are sent as runs. A pass may let
more elements go on: a fault noted, a tile free. While the lead region is not Active nothing moves. -/
def Eng.pumpJob (e : Eng) (m : Memory) (h : Word) : Eng :=
  match e.job h with
  | none => e
  | some j =>
    if j.stage ≠ .running || (e.mute && !(e.draining && decide (j.cls = .a))) || !e.serves j then e
    else
      let p := (List.range 3).foldl (fun p _ => Pump.pass m p) ({ e := e, j := j } : Pump)
      ((runsOf p.j.width p.shots).foldl (fun e r => e.sendRun p.j r) p.e).modJob h fun _ => p.j

/-! ### Progress records (R400, R401) -/

/-- Contiguous ranges of at most 256 complete chunks, from a list of chunks in rising order with the stamps at which they completed: first
chunk, count, and the oldest stamp (R394, R400). -/
def rangesOf : List (Nat × Word) → List (Nat × Nat × Word)
  | [] => []
  | (c, t) :: cs =>
    match rangesOf cs with
    | [] => [(c, 1, t)]
    | (d, n, u) :: rs =>
      if d = c + 1 && n < 256 then (c, n + 1, if t.toNat ≤ u.toNat then t else u) :: rs else (c, 1, t) :: (d, n, u) :: rs

/-- The destination positions of chunk `c` (R400). -/
def Job.chunkPositions (j : Job) (c : Nat) : List Nat :=
  let w := j.dstView.ebits
  let lo := (32768 * c + w - 1) / w
  let hi := min j.total ((32768 * (c + 1) + w - 1) / w)
  (List.range (hi - lo)).map (lo + ·)

/-- A chunk is complete: emitted, and every contribution acknowledged. -/
def Job.chunkDone (j : Job) (c : Nat) : Bool :=
  (j.chunkPositions c).all fun k => j.el .dst k = .done || j.el .dst k = .oob

/-- APPLIED records of some ranges are written (R400). -/
def Eng.writeApplied (e : Eng) (h : Word) (pick : Nat × Nat × Word → Bool) : Eng :=
  match e.job h with
  | none => e
  | some j =>
    let rs := (rangesOf j.doneChunks).filter pick
    let left := j.doneChunks.filter fun c => !(rs.any fun r => decide (r.1 ≤ c.1) && decide (c.1 < r.1 + r.2.1))
    let e := e.modJob h fun j => { j with doneChunks := left, marked := j.marked ++ rs.map fun r => (r.1, r.2.1) }
    rs.foldl (fun e r => e.jAppend (appliedRec h r.1 r.2.1 j.homeStatus)) e

/-- Every complete chunk that is not marked is (descriptor finishes or yields, the engine settles). -/
def Eng.writeAllApplied (e : Eng) (h : Word) : Eng := e.writeApplied h fun _ => true

/-- The chunks that have just been completed are noted; a range of 256 is written at once (R400). -/
def Eng.noteChunks (e : Eng) (h : Word) (cs : List Nat) : Eng :=
  match e.job h with
  | none => e
  | some j =>
    if j.cls ≠ .a then e
    else
      let new := cs.dedup.filter fun c => j.chunkDone c && !(j.doneChunks.any (·.1 = c))
        && !(j.marked.any fun r => decide (r.1 ≤ c) && decide (c < r.1 + r.2))
      if new = [] then e
      else
        (e.modJob h fun j => { j with
          doneChunks := (j.doneChunks ++ new.map fun c => (c, e.now)).mergeSort (·.1 ≤ ·.1) }).writeApplied h
          fun r => decide (256 ≤ r.2.1)

/-- Chunks that a position without a write has completed are noted: one out of bounds, or one that a replay skips. -/
def Eng.noteDropped (e : Eng) (h : Word) : Eng :=
  match e.job h with
  | none => e
  | some j => e.noteChunks h (j.dstEl.filterMap fun x => if x.2 = .oob || x.2 = .done then some (j.chunkOf x.1) else none)

/-! ### The end of a descriptor -/

def El.settled : El → Bool
  | .got _ _ | .oob | .done | .failed _ _ => true
  | _ => false

def Job.allSettled (j : Job) : Bool :=
  [StreamId.idx, .src, .scaleIn, .dst, .scaleOut].all fun st => (j.els st).all fun x => x.2.settled

/-- Source words replaced by fill: this device's, and those of the acknowledgements (R21, R32). -/
def Job.replacedWords (j : Job) : Nat := j.badWords.length + j.replWords.length + j.replaced

/-- DETAIL of a Partial status (R72). -/
def partialDetail (k : Nat) (st : Status) (d : DevNum) : Word :=
  pack [(0, min k (2 ^ 48 - 1)), (48, if st = stUnreachable then d.toNat else 0)]

/-- DETAIL of a descriptor that ends early (R72): the progress count is the first destination position that has not been and will not be
written. A walker that goes through tiles may stop before it has reached a lower position than that of the fault (R116, R118, log 68). -/
def Job.faultDetail (j : Job) (k : Nat) (st : Status) (d : DevNum) : Word :=
  if st = stUncorrected then pack [(0, min j.replacedWords (2 ^ 32 - 1))] else partialDetail (if j.tile then min k j.unreached else k) st d

/-- The status of a data descriptor (R72, R73, R229, R230). Poison that stopped the descriptor yields to a fault and to a corrupt
block. -/
def Job.outcome (j : Job) : Status × Word :=
  let sat := fun (n : Nat) => min n (2 ^ 32 - 1)
  let poison := (stUncorrected, pack [(0, sat j.replacedWords)])
  match j.fault with
  | some (k, st, d) => (st, j.faultDetail k st d)
  | none =>
    if j.badImage && j.replacedWords = 0 then (stCorruptBlock, 0xFFFFFFFF)
    else if j.corrupt ≠ [] then
      (stCorruptBlock, pack [(0, ((j.corrupt.map (·.1)).min?).getD 0), (32, j.corrupt.length)])
    else if j.poisoned || 0 < j.replacedWords then poison
    else if 0 < j.oob then (stOkOob, pack [(0, sat j.oob), (32, sat j.collisions)])
    else (stOk, pack [(32, sat j.collisions)])

/-- All of a descriptor's addresses have been issued: the walker is free (R331). -/
def Job.allIssued (j : Job) : Bool :=
  (decide (j.emitted = j.total) || j.over)
    && [StreamId.idx, .src, .scaleIn, .dst, .scaleOut].all fun st => (j.open st).isEmpty

/-- The walker and layout units are given back; a waiter that won them comes next (R331, R332). -/
def Eng.freeWalkerOf (e : Eng) (h : Word) : Eng :=
  match e.job h with
  | none => e
  | some j =>
    ((e.modJob h fun j => { j with walker := none, units := 0, yieldAt := none, yieldTo := none }).handOver j).noteQuiet j.lead

/-- The walker is released, and the descriptor ends, when that is due (R29, R118, R331, R400). -/
def Eng.checkEnd (e : Eng) (h : Word) : Eng :=
  match e.job h with
  | none => e
  | some j =>
    if j.stage ≠ .running || !j.checked || j.opcode = opCompress || j.opcode = opExpand then e
    else
      let e := if j.allIssued && j.walker.isSome then e.freeWalkerOf h else e
      if (decide (j.emitted = j.total) || j.over) && j.allSettled then
        let e := if j.cls = .a then e.writeAllApplied h else e
        e.finish h j.outcome.1 j.outcome.2
      else e

/-- A descriptor advances after something has changed. -/
def Eng.advanceJob (e : Eng) (m : Memory) (h : Word) : Eng := ((e.pumpJob m h).noteDropped h).checkEnd h

/-! ### The next step of a data opcode -/

/-- Die `d` is attached: a port is up with it as its link partner (R463). -/
def Eng.dieAttached (e : Eng) (d : Nat) : Bool := e.opi.ports.any fun p => p = some (BitVec.ofNat 2 d)

/-- Orders 1 and 2 of R74, with the attachment of the dies an INVALIDATE names (R240). -/
def Eng.failedBytes (e : Eng) (j : Job) : Option (Status × Word) :=
  j.checkBytes e.device (e.pdk ((j.w 1).extractLsb' 0 12))
    (badIf (j.opcode = opInvalidate && (List.range 4).any fun d => bitOf (j.w 3) d && !e.dieAttached d) 0x18 4)

/-- Orders 1, 2 and 5 to 7 of R74: the status a failing descriptor completes with. -/
def Eng.failedChecks (e : Eng) (j : Job) : Option (Status × Word) :=
  match e.failedBytes j with
  | some x => some x
  | none => j.checkData

/-- A data descriptor of the given opcode that holds a walker is checked, and then reaches its next `n` destination
positions. -/
def Eng.dataStep (e : Eng) (m : Memory) (h : Word) (n : Nat) (op : Nat) : Eng :=
  match e.job h with
  | none => e
  | some j =>
    if j.opcode ≠ op || j.stage ≠ .running || j.walker.isNone || !e.serves j || (e.halted && !e.settling) then e
    else match (if j.checked then none else e.failedChecks j) with
      | some (st, d) => e.finish h st d
      | none => ((e.modJob h fun j => { j with checked := true }.emitNext n)).advanceJob m h

end Sys2Proof.Machine
end

