-- ==== Sys2Proof/Machine/Drover.lean ====
section
/-! DEFINITION. What a Drover does with a request (01: R21, R25; 05: R160 to R171; 09: R306; 12: R414): reads, plain writes,
accumulates, the recent-write tag file, and the loss of a stack. -/

namespace Sys2Proof.Machine

/-! ### Collisions (R161) -/

/-- The Drover finds an earlier write of the same writer to a byte of the element (R161). -/
def Eng.collides (e : Eng) (n : BitVec 5) (pa len : Nat) (w : Writer) : Bool :=
  (beatsOf pa len).any fun b => (e.drover n).tags.any fun t => t.beat = b.1 && t.writer = w && t.mask &&& b.2 ≠ 0

/-! ### Serving a request -/

/-- What a Drover makes of a request now. `wait`: its region is not Active, or a locked granule holds it. -/
inductive Served where
  | wait
  | lost
  | tag (t : Tag) (abandon : Option Bool)
  deriving DecidableEq, Repr

/-- A request at a stack (R306, R348, R414). -/
def Eng.atDrover (e : Eng) (q : Req) (n : BitVec 5) (write : Bool) : Served :=
  if !e.active (.region (stackRegion n)) || e.testing 0 n.toNat then .wait
  else if (e.drover n).fenced then .lost
  else match e.serveTag q write with
    | .tag t => .tag t none
    | .abandon t next => .tag t (some next)
    | .hold => .wait

/-- A read is held on a granule that is being written back (R307). -/
def Eng.heldByLock (e : Eng) (q : Req) (n : BitVec 5) : Bool :=
  e.active (.region (stackRegion n)) && !e.testing 0 n.toNat && !(e.drover n).fenced && decide (e.serveTag q false = .hold)

/-- A word that the memory controller reports uncorrectable has its history entry (R21, R362). -/
def Eng.noteUncorr (e : Eng) (n : BitVec 5) (ctx : Option CtxNum) (pa : Nat) : Eng :=
  e.raise subDrv (n.setWidth 6) 0x10 ctx (BitVec.ofNat 64 (pa / 8 * 8 % 2 ^ 48))

/-- A destination's accumulate (R163, R167). -/
structure AccSpec where
  op : BitVec 2
  dtype : BitVec 2
  fill : Nat
  deriving DecidableEq, Repr

/-- One element of a write at a Drover: address, bit, width and value; an accumulate or a plain write, and whether it is the first
contribution of its run in its beat; the writer, and whether the tag file is asked for a collision. -/
structure DrvWrite where
  n : BitVec 5
  pa : Nat
  bit : Nat
  bits : Nat
  v : Nat
  acc : Option AccSpec
  opStart : Bool
  writer : Writer
  scatter : Bool
  ctx : Option CtxNum
  deriving DecidableEq, Repr

/-- What a Drover's element writes leave: the effect, the collisions, and the words replaced (R162, R167). -/
structure DrvResult where
  x : Eff
  collisions : Nat := 0
  words : List Nat := []
  deriving DecidableEq, Repr

/-- A Drover writes one element under a tag (R161, R163 to R168, R196). `bad`: the destination word is reported uncorrectable
during an accumulate's read. A beat operation applies what one run contributes to one beat, and counts with the run's first contribution there (R168). -/
def DrvResult.write (r : DrvResult) (m : Memory) (t : Tag) (o : DrvWrite) (bad : Bool) : DrvResult :=
  let mem := r.x.mem m
  let len := (o.bit + o.bits + 7) / 8
  let hit := o.scatter && r.x.eng.collides o.n o.pa len o.writer
  let (v, words, e) := match o.acc with
    | none => (o.v, r.words, r.x.eng)
    | some a =>
      let e := if o.opStart then r.x.eng.count subDrv o.n.toNat 1 else r.x.eng
      if bad then
        (a.fill, if r.words.contains (o.pa / 8) then r.words else r.words ++ [o.pa / 8],
          if r.words.contains (o.pa / 8) then e else e.noteUncorr o.n o.ctx o.pa)
      else (accCombine a.dtype a.op (mem.bitsAt t o.pa o.bit o.bits) o.v, r.words, e)
  let e := e.recordWrite o.n o.pa len o.writer
  let e := if hit then e.count subDrv (20 + o.n.toNat) 1 else e
  { x := (Eff.mk e r.x.ops).store (mem.putBits t o.pa o.bit o.bits v)
    collisions := r.collisions + ofBit hit, words := words }

end Sys2Proof.Machine
end

