-- ==== Sys2Proof/Machine/Acks.lean ====
section
/-! DEFINITION. Reads that return and writes that are acknowledged, for descriptors (01: R21; 08: R235 to R237; 05: R160 to R167;
12: R400). -/

namespace Sys2Proof.Machine

/-- An element's value within what a read brought back: the elements packed one after another from the first one's bit. -/
def replyValue (bs : List Byte) (bit0 w i : Nat) : Nat := leNat bs / 2 ^ (bit0 + i * w) % 2 ^ w

/-- A word of a source is poisoned or uncorrectable: it counts once (R21). -/
def Job.noteBad (j : Job) (d : DevNum) (word : Nat) : Job :=
  if j.badWords.contains (d, word) then j else { j with badWords := j.badWords ++ [(d, word)] }

/-- The 64-bit words that `bits` bits of a request touch, by paddock-virtual address. -/
def Req.words (q : Req) (bits : Nat) : List Nat :=
  (List.range ((q.va + (q.bit + bits + 7) / 8 - 1) / 8 + 1 - q.va / 8)).map (q.va / 8 + ·)

/-- The words in which the elements named, counted from `pos` on, stand. -/
def Job.wordsOf (j : Job) (st : StreamId) (pos : Nat) (is : List Nat) : List Nat :=
  (is.flatMap fun i => match j.el st (pos + i) with
    | .fly q _ _ => [q.va / 8]
    | _ => []).dedup

/-- A read of one element returns; `badIn` are the words that were uncorrectable or poisoned. -/
def readOne (m : Memory) (st : StreamId) (reply : ReadReply) (badIn : List Nat) (bit0 : Nat) (p : Pump) (k i : Nat) : Pump :=
  let j := p.j
  let w := j.width st
  match j.el st k with
  | .fly q _ bad =>
    let bw := (q.words w).filter badIn.contains
    if q.waiting then p
    else match q.dest with
      | .stack n pa =>
        let word := fun (x : Nat) => pa / 8 + x - q.va / 8
        match p.e.atDrover q n false with
        | .lost => { p with j := (j.noteBad p.e.device (pa / 8)).setEl st k (.got 0 true) }
        | .tag t _ =>
          let x := m.bitsAt t pa q.bit w
          bw.foldl (fun p b => { p with
            e := if p.j.badWords.contains (p.e.device, word b) then p.e else p.e.noteUncorr n (some j.ctx) (8 * word b)
            j := p.j.noteBad p.e.device (word b) }) { p with j := j.setEl st k (.got x (bad || decide (bw ≠ []))) }
        | .wait => if p.e.heldByLock q n then p else { p with e := p.e.wakeFor q }
      | _ =>
        if !p.e.canServe q then p
        else if reply.status ≠ 0 then { p with j := j.setEl st k (.failed reply.status (j.device st)) }
        else
          let x := replyValue reply.bytes bit0 w i
          { p with j := (bw.foldl (fun j b => j.noteBad (j.device st) b) j).setEl st k (.got x (bad || decide (bw ≠ []))) }
  | _ => p

/-- The Drover at which a locked granule holds an element that it has not held before (R307). -/
def Eng.newlyHeld (e : Eng) (x : El) : Option (BitVec 5) :=
  match x with
  | .fly q _ _ => match q.dest with
    | .stack n _ => if !q.waiting && q.held.isNone && e.heldByLock q n then some n else none
    | _ => none
  | _ => none

/-- A read of elements that a locked granule holds: it is held from now on, and counts once (R307, R321). -/
def Eng.holdReads (e : Eng) (h : Word) (st : StreamId) (pos n : Nat) : Eng :=
  match e.job h with
  | none => e
  | some j =>
    let ks := ((List.range n).map (pos + ·)).filter fun k => (e.newlyHeld (j.el st k)).isSome
    match ks.head?.bind fun k => e.newlyHeld (j.el st k) with
    | none => e
    | some d => (e.count subDrv (160 + d.toNat) 1).modJob h fun j => ks.foldl (fun j k => match j.el st k with
        | .fly q v bad => j.setEl st k (.fly { q with held := some e.now } v bad)
        | _ => j) j

/-- The bit at which a batch of reads begins. -/
def Job.firstBit (j : Job) (st : StreamId) (k : Nat) : Nat :=
  match j.el st k with
  | .fly q _ _ => q.bit
  | _ => 0

/-- Reads of a descriptor's stream return; a stream that is written has none. -/
def Eng.jobRead (e : Eng) (m : Memory) (h : Word) (st : StreamId) (pos n : Nat) (reply : ReadReply) : Eng :=
  match e.job h with
  | none => e
  | some j =>
    if StreamId.isWrite st then e else
    let p := (List.range n).foldl (fun p i => readOne m st reply (j.wordsOf st pos reply.bad) (j.firstBit st pos) p (pos + i) i)
      { e := e, j := j }
    (p.e.modJob h fun _ => p.j.shareReads).holdReads h st pos n

/-- The beat operation that a contribution belongs to: its run, by its first position, and the 64 B beat (R168). -/
def Job.beatOp (j : Job) (k : Nat) (q : Req) : Nat × Nat := ((j.runOf .dst k).1, (8 * q.va + q.bit) / 512)

/-- What an element of a destination stream writes at its Drover. -/
def Job.drvWrite (j : Job) (dev : DevNum) (st : StreamId) (k : Nat) (n : BitVec 5) (pa : Nat) (q : Req) (v : Nat) (bad : Bool) : DrvWrite :=
  let acc := st = .dst && j.accEn && !bad
  { n := n, pa := pa, bit := q.bit, bits := j.width st, v := v
    acc := if acc then some ⟨j.accOp, j.accType, j.dstView.fill⟩ else none
    opStart := acc && !j.ops.contains (j.beatOp k q)
    writer := some (dev, j.ctx, j.seq), scatter := st = .dst && j.scatterEn && !j.accEn && !j.overlapAny, ctx := some j.ctx }

/-- The acknowledgements of one batch: what the Drovers did, the descriptor, and the granules whose copy this write has abandoned, each
with the tag it is served under (R306). -/
structure AckState where
  r : DrvResult
  j : Job
  dropped : List (Nat × Tag) := []
  deriving DecidableEq, Repr

/-- A position has been written: to be written once more where a cut-off has rewound the descriptor past it (R335). -/
def Job.written (j : Job) (st : StreamId) (k : Nat) : Job :=
  if st = .dst && j.again.contains k then
    { j with again := j.again.erase k }.setEl st k (if j.rank k < j.emitted then .todo else .idle)
  else j.setEl st k .done

/-- A contribution has been applied at a Drover: its beat operation has been counted. -/
def Job.applied (j : Job) (st : StreamId) (k : Nat) (q : Req) (bad : Bool) : Job :=
  if st = .dst && j.accEn && !bad && !j.ops.contains (j.beatOp k q) then { j with ops := j.beatOp k q :: j.ops } else j

/-- An acknowledgement of one element; `badIn` are the destination words reported uncorrectable. -/
def ackOne (m : Memory) (st : StreamId) (reply : AckReply) (badIn : List Nat) (x : AckState) (k : Nat) : AckState :=
  let j := x.j
  let e := x.r.x.eng
  match j.el st k with
  | .fly q v bad =>
    if q.waiting then x
    else match q.dest with
      | .stack n pa =>
        let write := fun (r : DrvResult) (t : Tag) =>
          r.write m t (j.drvWrite e.device st k n pa q v bad) ((q.words (j.width st)).any badIn.contains)
        match x.dropped.find? (·.1 = pa / granule), e.atDrover q n true with
        | _, .lost => { x with j := j.setEl st k (.failed stAccessFault 0) }
        | some (_, t), _ => { x with r := write x.r t, j := (j.applied st k q bad).written st k }
        | none, .wait => { x with r := { x.r with x := x.r.x.on fun e => e.wakeFor q } }
        | none, .tag t none => { x with r := write x.r t, j := (j.applied st k q bad).written st k }
        | none, .tag t (some next) =>
          { r := write { x.r with x := x.r.x.on fun e => e.abandonCopy q next } t, j := (j.applied st k q bad).written st k
            dropped := (pa / granule, t) :: x.dropped }
      | _ =>
        if !e.canServe q then x
        else if reply.status ≠ 0 then { x with j := j.setEl st k (.failed reply.status (j.device st)) }
        else { x with j := j.written st k }
  | _ => x

/-- Elements of the batch that were on their way to a peer. -/
def Job.anyPeer (j : Job) (st : StreamId) (pos n : Nat) : Bool :=
  (List.range n).any fun i => match j.el st (pos + i) with
    | .fly q _ _ => (match q.dest with | .peer _ _ => true | _ => false)
    | _ => false

/-- The elements of a descriptor's destination view that touch the 64-bit word at paddock-virtual word address `w`, with their places. -/
def Job.inWord (j : Job) (w : Nat) : List (Nat × Nat) :=
  (List.range j.dstView.count).filterMap fun k => match j.dstView.addrAt j.dstSlot.base.toNat k with
    | .at a b => if a / 8 ≤ w && w ≤ (a + (b + j.dstView.ebits + 7) / 8 - 1) / 8 then some (a, b) else none
    | _ => none

/-- The requests of a batch whose word at their stack was replaced, one for each word. -/
def Job.replacedAt (j : Job) (pos n : Nat) (words : List Nat) : List (BitVec 5 × Nat × Req) :=
  ((List.range n).filterMap fun i => match j.el .dst (pos + i) with
    | .fly q _ _ => (match q.dest with
      | .stack d pa => if !q.waiting && words.contains (pa / 8) then some (d, pa, q) else none
      | _ => none)
    | _ => none).pwFilter fun a b => a.2.1 / 8 ≠ b.2.1 / 8

/-- Every destination element in a replaced word is overwritten with FILL, whether or not its contribution has come; one that comes later is
applied to FILL (R167). `j` is the descriptor as the batch found it. -/
def DrvResult.fillMates (r : DrvResult) (m : Memory) (j : Job) (pos n : Nat) : DrvResult :=
  (j.replacedAt pos n r.words).foldl (fun r x => (j.inWord (x.2.2.va / 8)).foldl (fun r y =>
    let pa := x.2.1 + y.1 - x.2.2.va
    let q := { x.2.2 with dest := .stack x.1 pa, bit := y.2, va := y.1 }
    match r.x.eng.atDrover q x.1 true with
    | .tag t _ => r.write m t { j.drvWrite r.x.eng.device .dst 0 x.1 pa q j.dstView.fill true with scatter := false } false
    | _ => r) r) r

/-- Writes of a descriptor's stream are acknowledged (R162, R167, R400); a stream that is read has none. -/
def Eng.jobAck (e : Eng) (m : Memory) (h : Word) (st : StreamId) (pos n : Nat) (reply : AckReply) : Eff :=
  match e.job h with
  | none => ⟨e, []⟩
  | some j =>
    if !StreamId.isWrite st then ⟨e, []⟩ else
    let peer := j.anyPeer st pos n
    let x := (List.range n).foldl (fun x i => ackOne m st reply (j.wordsOf st pos reply.bad) x (pos + i))
      ({ r := { x := ⟨e, []⟩ }, j := j } : AckState)
    let r := if st = .dst then x.r.fillMates m j pos n else x.r
    let j := { x.j with
      collisions := x.j.collisions + r.collisions + (if peer then reply.collisions else 0)
      replWords := x.j.replWords ++ r.words.filter fun w => !x.j.replWords.contains w
      replaced := x.j.replaced + (if peer then reply.replaced else 0) }
    r.x.on fun e =>
      let e := e.modJob h fun _ => j
      if st = .dst then e.noteChunks h ((List.range n).map fun i => j.chunkOf (pos + i)) else e

end Sys2Proof.Machine
end

