-- ==== Sys2Proof/Machine/Serving.lean ====
section
/-! DEFINITION. Data requests that arrive from peers and from compute dies (01: R32; 03: R111; 05: R171; 08: R246; 09: R291,
R293; 12: R412, R414; 14: R464). -/

namespace Sys2Proof.Machine

/-- A message from a device shows that a route to it exists (log 13). It ends Dormant, and is held until the exit has ended (R346); it starts
the engine domain. -/
def Eng.heard (e : Eng) (m : Memory) (d : DevNum) : Eng :=
  let npi : Npi := { e.npi with
    lost := e.npi.lost.filter (· ≠ d), pairs := if e.npi.pairs.contains d then e.npi.pairs else d :: e.npi.pairs }
  (({ e with npi := npi } : Eng).ended m).wakeEngine

/-- NPI refuses new peer requests during quiesce and settle (R404, R412), and until the reset phase ends (log 41). -/
def Eng.refusing (e : Eng) : Bool :=
  decide (e.svc.reset.phase = .settle) || decide (e.svc.reset.phase = .wait) || decide (e.svc.reset.phase = .resetting)

/-! ### Compute dies (R293, R464) -/

def Eng.dieCfg (e : Eng) (d : DieNum) : DieCfg := e.opi.die.getD d.toNat {}

/-- A request on its way to a die. -/
def Req.toDie (q : Req) (d : DieNum) : Bool :=
  match q.dest with
  | .die x _ => x = d
  | _ => false

def El.toDie (x : El) (d : DieNum) : Bool :=
  match x with
  | .fly q _ _ => q.toDie d
  | _ => false

/-- A peer's request that is sent on to a die (R464). -/
def PeerServe.toDie (s : PeerServe) (d : DieNum) : Bool := s.req.any (·.toDie d)

/-- The streams of a descriptor that hold requests. -/
def allStreams : List StreamId := [.idx, .src, .scaleIn, .dst, .scaleOut]

/-- Accesses to or from a die are in flight (R464). -/
def Eng.dieBusy (e : Eng) (d : DieNum) : Bool :=
  (e.jobs.any fun j => allStreams.any fun st => (j.els st).any fun x => x.2.toDie d)
    || (e.opi.serving.any fun s => s.a.die = d) || e.npi.serving.any fun s => s.toDie d

/-- A write of 0 to ENABLE takes effect once no access to or from its die is in flight (R464). -/
def Eng.endDisables (e : Eng) : Eng :=
  { e with opi := { e.opi with die := e.opi.die.zipIdx.map fun x =>
      if x.1.disabling && !e.dieBusy (BitVec.ofNat 2 x.2) then { x.1 with enable := false, disabling := false } else x.1 } }

/-! ### Peers -/

/-- A peer's request answered: an acknowledgement, or the data of a get. -/
def Eng.answerPeer (e : Eng) (s : PeerServe) (st : Status) (bad : List Nat) (bs : List Byte) (col rep : Nat) : Eng :=
  let held : List HeldSync := e.npi.heldSync.map fun x => { x with behind := x.behind.filter (· ≠ s.id) }
  let e : Eng := { e with npi := { e.npi with serving := e.npi.serving.filter (·.id ≠ s.id), heldSync := held } }
  match s.op with
  | .get => e.emit (.npi s.q.dev (.data s.q.id st bad bs))
  | _ => e.emit (.npi s.q.dev (.ack s.q.id st col rep))

def PeerServe.want (s : PeerServe) : Want :=
  match s.op with
  | .get => { write := false }
  | .put _ => { write := true }
  | .acc _ _ _ _ => { write := true, stackOnly := true }

def Eng.modServe (e : Eng) (s : PeerServe) : Eng :=
  { e with npi := { e.npi with serving := e.npi.serving.map fun x => if x.id = s.id then s else x } }

/-- A peer's request leaves for its point of coherence: a Drover takes it without a message. -/
def Eng.sendPeerOn (e : Eng) (s : PeerServe) (x : Req) : Eng :=
  let q := s.q
  let e := e.modServe { s with req := some { x with waiting := false } }
  match x.dest with
  | .stack _ _ => e.wakeFor x
  | .host a => if s.want.write then e.hostPut a s.bytes else e.emit (.hostRead a q.bits)
  | .die d pa => e.sendDie d pa q.bit.toNat q.bits (if s.want.write then some (leNat s.bytes / 2 ^ q.bit.toNat) else none)
  | .peer _ _ => e

/-- A request of a peer is translated (R107, R111, R171, R291) once its slice's region is Active (R343) and no self-test segment holds it up (R379), and sent on; one that the next stage
refuses waits there (R328). -/
def Eng.startPeer (e : Eng) (m : Memory) (s : PeerServe) : Eng :=
  let q := s.q
  let r := peerSlice q
  let n := (q.bit.toNat + q.bits + 7) / 8
  if e.flt.fatal then e
  else match s.req with
    | some x => if x.waiting && e.canServe x then e.sendPeerOn s x else e
    | none =>
      if !e.active (.region r) || e.testing 5 r.toNat then e.wakeRegion r
      else
        let (ok, e) := e.reaches m r q.paddock q.dev
        match (if !ok then Trans.fail stPaddockFault else e.translate r q.paddock q.va.toNat q.bit.toNat n s.want) with
        | .ok x =>
          let part := decide (s.want.write) && (decide (q.bit.toNat ≠ 0) || decide ((q.bit.toNat + q.bits) % 8 ≠ 0))
          if part && (match x.dest with | .host _ | .die _ _ => true | _ => false) then
            (e.noteFault r q.paddock none (.fail stAccessFault)).answerPeer s stAccessFault [] [] 0 0
          else if e.canServe x then e.sendPeerOn s x
          else ((e.modServe { s with req := some { x with waiting := true } }).wakeFor x).park x (.peer s.id)
        | .miss => e.startWalk r q.paddock q.va.toNat
        | f => (e.noteFault r q.paddock none f).answerPeer s (f.status.getD 0) [] [] 0 0

/-- A peer's data request arrives. -/
def Eng.peerArrives (e : Eng) (m : Memory) (q : PeerReq) (op : PeerOp) (bs : List Byte) : Eng :=
  let e := e.heard m q.dev
  if e.refusing then e.emit (.npi q.dev (.refused q.id))
  else
    let s : PeerServe := { id := e.npi.nextReq, q := q, op := op, bytes := bs, req := none }
    let e := { e with npi := { e.npi with nextReq := e.npi.nextReq + 1, serving := e.npi.serving ++ [s] } }
    (e.count subAtg (peerSlice q).toNat 1).startPeer m s

/-- Elements `i` and `k` of a peer's request lie in one 64 B beat. -/
def PeerServe.sameBeat (s : PeerServe) (i k : Nat) : Bool :=
  let a := 8 * s.q.va.toNat + s.q.bit.toNat
  decide ((a + i * s.q.ebits) / 512 = (a + k * s.q.ebits) / 512)

/-- Element `i` of a peer's write, as its Drover takes it (R166 to R171). -/
def PeerServe.drvWrite (s : PeerServe) (n : BitVec 5) (pa i : Nat) : DrvWrite :=
  let q := s.q
  let bit := q.bit.toNat + i * q.ebits
  let v := leNat s.bytes / 2 ^ bit % 2 ^ q.ebits
  let base : DrvWrite := { n := n, pa := pa + bit / 8, bit := bit % 8, bits := q.ebits, v := v, acc := none, opStart := false
                           writer := some (q.dev, q.ctx, q.seq), scatter := false, ctx := none }
  match s.op with
  | .put sc => { base with scatter := sc }
  | .get => base
  | .acc op dt fill poisoned =>
    if poisoned.contains i then { base with v := fill.toNat }
    else { base with acc := some ⟨op, dt, fill.toNat⟩, opStart := !(List.range i).any fun k => !poisoned.contains k && s.sameBeat k i }

/-- Elements of a peer's request. -/
def PeerServe.count (s : PeerServe) : Nat := s.q.bits / s.q.ebits

/-- The 64-bit words, by paddock-virtual address, that element `i` of a peer's request touches. -/
def PeerServe.wordsAt (s : PeerServe) (i : Nat) : List Nat :=
  let a := 8 * s.q.va.toNat + s.q.bit.toNat + i * s.q.ebits
  (List.range ((a + s.q.ebits - 1) / 64 + 1 - a / 64)).map (a / 64 + ·)

/-- The words in which the elements named begin. -/
def PeerServe.badWords (s : PeerServe) (is : List Nat) : List Nat := (is.flatMap fun i => (s.wordsAt i).take 1).dedup

/-- The elements that touch one of some words. -/
def PeerServe.spoiled (s : PeerServe) (ws : List Nat) : List Nat :=
  (List.range s.count).filter fun i => (s.wordsAt i).any ws.contains

/-- What other accumulate requests of the same descriptor bring to a replaced word is overwritten with FILL too; it is applied to that when they
are served (R167). -/
def DrvResult.fillPeers (r : DrvResult) (m : Memory) (s : PeerServe) (t : Tag) : DrvResult :=
  (r.x.eng.npi.serving.filter fun o => decide (o.id ≠ s.id) && decide (o.q.dev = s.q.dev ∧ o.q.ctx = s.q.ctx ∧ o.q.seq = s.q.seq)).foldl
    (fun r o => match o.op, o.req with
      | .acc _ _ fill _, some x => (match x.dest with
        | .stack n pa => (List.range o.count).foldl (fun r i =>
            let w := o.drvWrite n pa i
            if r.words.contains (w.pa / 8) then r.write m t { w with v := fill.toNat, acc := none, opStart := false } false else r) r
        | _ => r)
      | _, _ => r) r

/-- A peer's put or accumulate is presented, or acknowledged off the stacks (R32, R171, R235). -/
def Eng.peerAck (e : Eng) (m : Memory) (id : Nat) (reply : AckReply) : Eff :=
  match e.npi.serving.find? (·.id = id) with
  | none => ⟨e, []⟩
  | some s =>
    match s.req with
    | none => ⟨e, []⟩
    | some x =>
      if s.op = .get || x.waiting then ⟨e, []⟩
      else match x.dest with
        | .stack n pa =>
          match e.atDrover x n true with
          | .wait => ⟨e.wakeFor x, []⟩
          | .lost => ⟨e.answerPeer s stAccessFault [] [] 0 0, []⟩
          | .tag t ab =>
            let e := match ab with | some next => e.abandonCopy x next | none => e
            let bad := s.spoiled (s.badWords reply.bad)
            let r := (List.range s.count).foldl
              (fun r i => r.write m t (s.drvWrite n pa i) (bad.contains i)) ({ x := ⟨e, []⟩ } : DrvResult)
            let r := r.fillPeers m s t
            r.x.on fun e => e.answerPeer s stOk [] [] r.collisions (s.replaced + r.words.length)
        | _ => if e.canServe x then ⟨(e.answerPeer s reply.status [] [] 0 0).endDisables, []⟩ else ⟨e, []⟩

/-- The data of a get: elements of a poisoned word are named as such, and their bytes do not leave: free values stand in their place (R356,
log 71). -/
def Eng.answerGet (e : Eng) (s : PeerServe) (st : Status) (ws : List Nat) (bs : List Byte) : Eng :=
  if ws = [] then e.answerPeer s st [] bs 0 0
  else
    let (n, e) := e.draw
    e.answerPeer s st (s.spoiled ws)
      (bs.zipIdx.map fun b => if ws.contains ((s.q.va.toNat + b.2) / 8) then Config.slack n b.2 else b.1) 0 0

/-- The data of a peer's get return (R32). -/
def Eng.peerRead (e : Eng) (m : Memory) (id : Nat) (reply : ReadReply) : Eng :=
  match e.npi.serving.find? (·.id = id) with
  | none => e
  | some s =>
    match s.req with
    | none => e
    | some x =>
      if s.op ≠ .get || x.waiting then e
      else
        let ws := (s.badWords reply.bad ++ s.badWords s.spoilt).dedup
        let len := (s.q.bit.toNat + s.q.bits + 7) / 8
        match x.dest with
        | .stack n pa =>
          match e.atDrover x n false with
          | .wait =>
            if e.heldByLock x n then
              if x.held.isSome then e
              else (e.count subDrv (160 + n.toNat) 1).modServe { s with req := some { x with held := some e.now } }
            else e.wakeFor x
          | .lost => e.answerGet s stOk ((List.range s.count).flatMap s.wordsAt) (List.replicate len 0)
          | .tag t _ =>
            ((s.badWords reply.bad).foldl (fun e w => e.noteUncorr n none (8 * (pa / 8 + w - s.q.va.toNat / 8))) e).answerGet s stOk ws (m.bytes t pa len)
        | _ => if e.canServe x then (e.answerGet s reply.status ws reply.bytes).endDisables else e

/-! ### Compute dies' accesses (R293, R464) -/

/-- A die's access answered. -/
def Eng.answerDie (e : Eng) (s : DieServe) (st : Status) (bs : List Byte) : Eng :=
  (({ e with opi := { e.opi with serving := e.opi.serving.erase s } } : Eng).endDisables).emit (.die s.a.die (.answer s.a.id st bs))

def Eng.modDieServe (e : Eng) (s t : DieServe) : Eng :=
  { e with opi := { e.opi with serving := e.opi.serving.map fun y => if y = s then t else y } }

/-- A die's access is translated in slice d (R291, R293) once that region is Active (R343) and no self-test segment holds the slice up (R379). Only stack memory answers it (log 29). One that
its stack's region refuses waits there (R328). -/
def Eng.startDie (e : Eng) (s : DieServe) : Eng :=
  let a := s.a
  let p := e.pdk a.paddock
  if e.flt.fatal then e
  else match s.req with
    | some x => if x.waiting && e.canServe x then (e.modDieServe s { s with req := some { x with waiting := false } }).wakeFor x else e
    | none =>
      if !e.active (.region a.die) || e.testing 5 a.die.toNat then e.wakeRegion a.die
      else
        match (if !p.dieMask.getLsbD a.die.toNat then Trans.fail stPaddockFault
          else e.translate a.die a.paddock a.va.toNat 0 a.len { write := a.write, stackOnly := true }) with
        | .ok x =>
          if e.canServe x then (e.modDieServe s { s with req := some x }).wakeFor x
          else ((e.modDieServe s { s with req := some { x with waiting := true } }).wakeFor x).park x (.die a.die a.id)
        | .miss => e.startWalk a.die a.paddock a.va.toNat
        | f => (e.noteFault a.die a.paddock none f).answerDie s (f.status.getD 0) []

/-- A die's write reaches its Drover (R239, R293). -/
def Eng.dieAck (e : Eng) (id : Nat) : Eff :=
  match e.opi.serving.find? fun s => s.a.id = id && s.a.write with
  | none => ⟨e, []⟩
  | some s =>
    match s.req with
    | none => ⟨e, []⟩
    | some x =>
      if x.waiting then ⟨e, []⟩
      else match x.dest with
      | .stack n pa =>
        match e.atDrover x n true with
        | .wait => ⟨e.wakeFor x, []⟩
        | .lost => ⟨e.answerDie s stAccessFault [], []⟩
        | .tag t ab =>
          let e := match ab with | some next => e.abandonCopy x next | none => e
          ((Eff.mk (e.recordWrite n pa s.a.len none) []).store ⟨pa, t, s.a.bytes⟩).on fun e => e.answerDie s (if s.spoilt then stUncorrected else stOk) []
      | _ => ⟨e, []⟩

/-- A die's read returns. A word reported uncorrectable has its history entry, and the bytes are answered poisoned: with the
status DATA_UNCORRECTED (log 29). -/
def Eng.dieRead (e : Eng) (m : Memory) (id : Nat) (reply : ReadReply) : Eng :=
  match e.opi.serving.find? fun s => s.a.id = id && !s.a.write with
  | none => e
  | some s =>
    match s.req with
    | none => e
    | some x =>
      if x.waiting then e
      else match x.dest with
      | .stack n pa =>
        match e.atDrover x n false with
        | .wait =>
          if e.heldByLock x n then
            if x.held.isSome then e
            else (e.count subDrv (160 + n.toNat) 1).modDieServe s { s with req := some { x with held := some e.now } }
          else e.wakeFor x
        | .lost => e.answerDie s stUncorrected []
        | .tag t _ =>
          if reply.bad ≠ [] then (e.noteUncorr n none pa).answerDie s stUncorrected []
          else if s.spoilt then e.answerDie s stUncorrected []
          else e.answerDie s stOk (m.bytes t pa s.a.len)
      | _ => e

/-- Requests of a slice that wait for a translation, or for their region, go on. -/
def Eng.retryOthers (e : Eng) (m : Memory) (r : Region) : Eng :=
  let e := (e.npi.serving.filter fun s => peerSlice s.q = r && s.req.isNone).foldl (fun e s => e.startPeer m s) e
  (e.opi.serving.filter fun s => s.a.die = r && s.req.isNone).foldl (fun e s => e.startDie s) e

/-- A peer's or a die's request that waited at a port goes on (R325). -/
def Eng.resumeOther (e : Eng) (m : Memory) (u : PortUser) : Eng :=
  match u with
  | .peer id => (match e.npi.serving.find? (·.id = id) with | some s => e.startPeer m s | none => e)
  | .die d id => (match e.opi.serving.find? fun s => s.a.die = d && s.a.id = id with | some s => e.startDie s | none => e)
  | .job _ => e

end Sys2Proof.Machine
end

