-- ==== Sys2Proof/Machine/Yield.lean ====
section
/-! DEFINITION. Requests for a yield (10: R329, R332, R334, R335, R380): the pre-emption store, the boundary to which a cut-off would go back, and
the starved waiters that ask. -/

namespace Sys2Proof.Machine

def Job.cMode (j : Job) : Nat := fld (j.w 5) 1 0

/-- The slots of a region's pre-emption store that are full, or will be once the holders asked to yield have been saved (R334). -/
def Eng.slotsTaken (e : Eng) (r : Region) : Nat :=
  (e.jobs.filter fun j => j.lead = r && (j.slot || j.yieldAt.isSome)).length

/-- The region's pre-emption store has no slot for another holder (R334). -/
def Eng.storeFull (e : Eng) (r : Region) : Bool := decide (32 ≤ e.slotsTaken r)

/-- A queued descriptor waits at the compressor, or at the walker queue (R218, R337). -/
def Job.waitsAt (j : Job) (l : Nat) : Bool :=
  if l = 1 then decide (j.opcode = opCompress) && !j.compressor else decide (j.opcode ≠ opCompress) || j.compressor

/-- The boundary to which a cut-off would rewind a holder (R335): the last that it reached before it is asked to yield. For a tile stage, the
end of the last tile block that has been written out. -/
def Job.lastReached (j : Job) : Nat :=
  if j.opcode = opCompress then j.emitted / blockSize j.cMode * blockSize j.cMode
  else if j.tile then
    ((List.range j.emitted).find? fun t => (j.el .dst (j.walkAt t)).unissued).elim j.emitted fun t =>
      ((List.range j.emitted).find? fun u => decide (j.blockId (j.walkAt u) = j.blockId (j.walkAt t))).getD t
  else if j.opcode ≠ opExpand && decide (j.nextBound ≤ j.emitted) then j.emitted
  else j.lastBound

/-- A holder is asked to yield to a waiter, which receives what it releases, unless the pre-emption store is full (R332, R334). -/
def Eng.askYield (e : Eng) (holder : Job) (waiter : Claimant) (l : Nat) : Eng :=
  if e.storeFull holder.lead then e
  else
    let (next, e) : Option Word × Eng := match waiter with
      | .job k => (some k.handle, e)
      | .test k => (none, { e with svc := { e.svc with bist := mapUpd {} e.svc.bist k fun b => { b with won := true } } })
    e.modJob holder.handle fun j => { j with yieldAt := some e.now, yieldTo := next, yieldLevel := l, cutTo := j.lastReached }

/-- The overdue targets that wait for a unit which a holder has: its walker or layout units, or its compressor (R380). -/
def Eng.testersOf (e : Eng) (holder : Job) (l : Nat) : List Nat :=
  (e.svc.bist.filter fun x => x.2.wants && testRow l (x.1 / 64) &&
    (let i := x.1 % 64
     match x.1 / 64 with
     | 1 => decide (holder.walker = some (BitVec.ofNat 5 i))
     | 2 => decide ((e.unitHolder i).map (·.handle) = some holder.handle)
     | _ => holder.compressor && decide (holder.lead.toNat = i))).map (·.1)

/-- The holder with the longest current hold that has not been asked to yield: the earlier grant stamp, then the lower source number
(R332). -/
def Eng.longestHolder (e : Eng) (r : Region) (l : Nat) : Option Job :=
  let stamp := fun (j : Job) => (if l = 1 then j.compStamp else j.grantStamp).toNat
  let hs := e.jobs.filter fun j => j.lead = r && (if l = 1 then j.compressor else j.walker.isSome) && j.yieldAt.isNone
  hs.foldl (fun (best : Option Job) x => match best with
    | none => some x
    | some b =>
      if stamp x < stamp b || (decide (stamp x = stamp b) && decide (x.handle.toNat < b.handle.toNat)) then some x else some b) none

/-- Somebody yields to a descriptor, or it has won what is released next. -/
def Eng.yieldedTo (e : Eng) (h : Word) : Bool := e.jobs.any fun j => decide (j.yieldTo = some h)

/-- The starved descriptors of a region that wait at a resource of a level and to which nobody yields, the oldest first. -/
def Eng.starvedAt (e : Eng) (r : Region) (l : Nat) : List Job :=
  (inOrder (e.jobs.filter fun j => e.eligible j && j.lead = r && j.waitsAt l && j.starved.isSome && !e.yieldedTo j.handle)).mergeSort
    fun a b => (a.starved.getD 0).toNat ≤ (b.starved.getD 0).toNat

/-- The starved segments of overdue targets in a region to which nobody yields. -/
def Eng.starvedTests (e : Eng) (r : Region) : List Nat :=
  (e.svc.bist.filter fun x => x.2.wants && x.2.starved.isSome && !x.2.won && decide (bistRegion (x.1 / 64) (x.1 % 64) = some r)).map (·.1)

/-- A starved waiter asks at once for a yield: of the holder with the longest hold that has not been asked, or, for a self-test segment, of the
holder of its unit (R332, R380). One that finds the store full, or no holder to ask, asks again when that changes. -/
def Eng.askStarved (e : Eng) (r : Region) : Eng :=
  let e := [1, 2].foldl (fun e l => (e.starvedAt r l).foldl (fun e j => match e.longestHolder r l with
    | some k => e.askYield k (.job j) l
    | none => e) e) e
  (e.starvedTests r).foldl (fun e k =>
    let l := if k / 64 = 4 then 1 else 2
    match e.jobs.find? fun j => j.yieldAt.isNone && (e.testersOf j l).contains k with
    | some j => e.askYield j (.test k) l
    | none => e) e

end Sys2Proof.Machine
end

