-- ==== Sys2Proof/Machine/CerhusOps.lean ====
section
/-! DEFINITION. How EXPAND and COMPRESS run (07: R212 to R234; 02: R73; 01: R21): the bytes and elements they ask for, table
sets, block arrival, the two passes, and how they end. -/

namespace Sys2Proof.Machine

/-! ### Destination bytes and elements that hold their value -/

/-- A destination element whose value is given: it is written, dropped, or faults. -/
def Pump.tryGiven (m : Memory) (p : Pump) (k : Nat) : Pump :=
  let go := fun (v : Nat) (bad : Bool) => match p.j.dstWhere k with
    | .at a b _ => p.fire m .dst k a b v bad
    | .fault st d => p.put .dst k (.failed st d)
    | .fill _ => { p with e := p.e.count subWlk p.j.lead.toNat 1, j := { p.j with oob := p.j.oob + 1 } }.put .dst k .oob
    | .wait => p
  match p.j.el .dst k with
  | .got v bad => go v bad
  | .ask v bad => go v bad
  | .fly q v bad => p.resend .dst k q v bad
  | _ => p

/-- Destination positions whose value waits to be written. -/
def Job.given (j : Job) : List Nat :=
  j.dstEl.filterMap fun x => match x.2 with
    | .got _ _ => some x.1
    | y => if y.unissued then some x.1 else none

/-- Reads and given writes are issued as far as they can be. -/
def Eng.pumpCerhus (e : Eng) (m : Memory) (h : Word) : Eng :=
  match e.job h with
  | none => e
  | some j =>
    if j.stage ≠ .running || e.mute || !e.serves j then e
    else
      let p : Pump := { e := e, j := j }
      let p := (p.j.open .src).foldl (Pump.tryRead m .src) p
      let p := (p.j.open .scaleIn).foldl (Pump.tryRead m .scaleIn) { p with j := p.j.shareReads }
      let p := p.j.given.foldl (Pump.tryGiven m) p
      ((runsOf p.j.width p.shots).foldl (fun e r => e.sendRun p.j r) p.e).modJob h fun _ => p.j

/-- Values are given to destination positions from `k` on. -/
def Job.give (j : Job) (k : Nat) (vs : List Nat) (bad : Bool) : Job :=
  vs.zipIdx.foldl (fun j x => j.setEl .dst (k + x.2) (.got x.1 bad)) j

/-- Every write issued so far has been acknowledged or has failed. -/
def Job.dstSettled (j : Job) : Bool :=
  j.dstEl.all fun x => match x.2 with
    | .done | .oob | .failed _ _ => true
    | _ => false

def Job.srcSettled (j : Job) : Bool := j.srcEl.all fun x => x.2.settled

/-! ### EXPAND -/

/-- What is known of source bytes `a` to `a + n - 1`. -/
def Job.bytesInput (j : Job) (a n : Nat) : Input := allInputs ((List.range n).map fun i => j.srcInput (a + i))

/-- Those bytes. -/
def Job.bytesAt (j : Job) (a n : Nat) : List Byte :=
  (List.range n).map fun i => match j.srcInput (a + i) with
    | .ok v _ => BitVec.ofNat 8 v
    | _ => 0

def Job.header (j : Job) : CHeader := parseHeader (j.bytesAt 0 64)

/-- FIRST_BLOCK and NBLOCKS of CDC_CTL (R212). -/
def Job.firstBlock (j : Job) : Nat := fld (j.w 5) 37 16
def Job.blockCount (j : Job) : Nat :=
  let n := fld (j.w 5) 59 38
  if n = 0 then j.header.nblocks - j.firstBlock else n

/-- The selected blocks, by image index. -/
def Job.selected (j : Job) : List Nat := (List.range j.blockCount).map (j.firstBlock + ·)

/-- The destination positions of a block. -/
def Job.blockStart (j : Job) (i : Nat) : Nat := (i - j.firstBlock) * blockSize j.header.mode
def Job.blockLen (j : Job) (i : Nat) : Nat := blockElems j.header.mode j.header.nelem i

/-- The first in-bounds destination position of a block (R223). -/
def Job.firstInside (j : Job) (i : Nat) : Option Nat :=
  ((List.range (j.blockLen i)).map (j.blockStart i + ·)).find? fun k => (j.dstWhere k).inside

/-- SHAPE_MISMATCH after the header is known (R222). -/
def Job.expandMismatch (j : Job) : Bool :=
  let h := j.header
  decide (j.srcView.count < h.imageLen) || decide (j.dstView.dtype ≠ h.dtype) || decide (h.nblocks ≤ j.firstBlock)
    || decide (h.nblocks < j.firstBlock + fld (j.w 5) 59 38)
    || decide (j.dstView.count ≠ (j.selected.map j.blockLen).sum)

/-- Offset of block `i`'s directory entry. -/
def Job.entryAt (j : Job) (i : Nat) : Nat := dirOff j.header.ntables + 8 * i

def Job.blockOff (j : Job) (i : Nat) : Nat := leNat (j.bytesAt (j.entryAt i) 8) % 2 ^ 40

/-- What is known of a block before its bytes: waiting, poisoned, corrupt, faulting, or its CLEN and whether it is coded. -/
inductive BlockHead where
  | wait (need : Nat × Nat)
  | poison
  | corrupt
  | fault (st : Status) (dev : DevNum)
  | ok (off clen : Nat) (coded : Bool)
  deriving DecidableEq, Repr

/-- A block's directory entry and header (R228). -/
def Job.blockHead (j : Job) (i : Nat) : BlockHead :=
  match j.bytesInput (j.entryAt i) 8 with
  | .wait => .wait (j.entryAt i, 8)
  | .fail st d => .fault st d
  | .ok _ true => .poison
  | .ok _ false =>
    if !dirOk j.header (leNat (j.bytesAt (j.entryAt i) 8)) then .corrupt
    else
      let off := j.blockOff i
      match j.bytesInput off 16 with
      | .wait => .wait (off, 16)
      | .fail st d => .fault st d
      | .ok _ true => .poison
      | .ok _ false =>
        let hdr := j.bytesAt off 16
        if !clenOk j.header i off hdr then .corrupt
        else .ok off (clenOf hdr) (decide (byteNat hdr 0 1 % 16 ≠ 0))

/-- Blocks below the first fault, still to be expanded (R116, R118). -/
def Job.blocksLeft (j : Job) : List Nat :=
  let lim := match j.fault with
    | some (k, _, _) => j.firstBlock + k / blockSize j.header.mode
    | none => j.firstBlock + j.blockCount
  j.selected.filter fun i => i < lim && !j.blocksDone.contains i

/-- The Drover that expands a block: that of its first in-bounds destination element (R223); where that element's address
faults, the lead region's first Drover stands for it. -/
def Eng.expanderNum (e : Eng) (m : Memory) (j : Job) (i : Nat) : BitVec 5 :=
  let none' := BitVec.ofNat 5 (5 * j.lead.toNat)
  match j.firstInside i with
  | none => none'
  | some k => match j.dstWhere k with
    | .at a b _ =>
      (match e.routeOf m j.lead j.paddock a b (j.wantOf .dst) with
        | some q => (match q.dest with | .stack n _ => n | _ => none')
        | none => none')
    | _ => none'

/-- A table set is taken for a coded block whose header is known, or it waits for one at its Drover (R224, R234). -/
def Eng.takeSet (e : Eng) (m : Memory) (h : Word) (i : Nat) : Eng :=
  match e.job h with
  | none => e
  | some j =>
    match j.blockHead i with
    | .ok _ _ true =>
      let n := e.expanderNum m j i
      let d := e.drover n
      if j.sending.any (·.1 = i) then e
      else if d.sets.contains h || d.sets.length < 4 then
        (e.modDrover n fun d => { d with sets := if d.sets.contains h then d.sets else d.sets ++ [h] }).modJob h
          fun j => { j with sending := j.sending ++ [(i, n)] }
      else e.modJob h fun j => { j with setWaits := j.setWaits ++ [n] }
    | _ => e

/-- The table sets that a descriptor's blocks need are taken as far as they are free (R224). -/
def Eng.takeSets (e : Eng) (m : Memory) (h : Word) : Eng :=
  match e.job h with
  | none => e
  | some j => j.blocksLeft.foldl (fun e i => e.takeSet m h i) (e.modJob h fun j => { j with setWaits := [] })

/-- A Drover has a free set: no block waits for one there any more. -/
def Eng.setFree (e : Eng) (n : BitVec 5) : Eng :=
  { e with jobs := e.jobs.map fun j => { j with setWaits := j.setWaits.filter (· ≠ n) } }

/-- A table set is given back once no block of the descriptor is in progress at its Drover (R224). -/
def Eng.giveSet (e : Eng) (h : Word) (i : Nat) : Eng :=
  match e.job h with
  | none => e
  | some j => match j.sending.find? (·.1 = i) with
    | none => e
    | some (_, n) =>
      let left := j.sending.filter (·.1 ≠ i)
      let e := e.modJob h fun j => { j with sending := left }
      if left.any (·.2 = n) then e else (e.modDrover n fun d => { d with sets := d.sets.erase h }).setFree n

/-- All table sets of a descriptor are given back. -/
def Eng.giveSets (e : Eng) (h : Word) : Eng :=
  let ns := (List.range 20).map (BitVec.ofNat 5)
  let e : Eng := ns.foldl (fun e n => if (e.drover n).sets.contains h then e.setFree n else e) e
  { (e.modJob h fun j => { j with sending := [], setWaits := [] }) with drv := e.drv.map fun d => { d with sets := d.sets.erase h } }

/-- The source bytes that an EXPAND needs next, in order (R222, R224, R228). -/
def Job.expandNeeds (j : Job) : List Nat :=
  let seg := fun (a n : Nat) => (List.range n).map (a + ·)
  if j.pass = 0 then
    seg 0 64 ++ (match j.bytesInput 0 64 with
      | .ok _ false => if headerFieldsOk (j.bytesAt 0 64) then seg 64 (256 * j.header.ntables) else []
      | _ => [])
  else j.blocksLeft.flatMap fun i => match j.blockHead i with
    | .wait (a, n) => seg a n
    | .ok off clen coded => if !coded || j.sending.any (·.1 = i) then seg off clen else []
    | _ => []

/-- The header and the table section are known, valid or not (R222, R230); the selected blocks follow. -/
def Eng.expandHeader (e : Eng) (h : Word) : Eng :=
  match e.job h with
  | none => e
  | some j =>
    if j.pass ≠ 0 || j.badImage || j.fault.isSome then e
    else
      let spoil := e.modJob h fun j => { j.give 0 (List.replicate j.dstView.count j.dstView.fill) true with badImage := true }
      match j.bytesInput 0 64 with
      | .wait => e
      | .fail st d => e.modJob h fun j => { j with fault := some (0, st, d) }
      | .ok _ true => spoil
      | .ok _ false =>
        if !headerFieldsOk (j.bytesAt 0 64) then spoil
        else
          let n := j.header.ntables
          match j.bytesInput 64 (256 * n) with
          | .wait => e
          | .fail st d => e.modJob h fun j => { j with fault := some (0, st, d) }
          | .ok _ true => spoil
          | .ok _ false =>
            if !headerValid (j.bytesAt 0 64) (j.bytesAt 64 (256 * n)) then spoil
            else if j.expandMismatch then e.finish h stShape 0
            else
              let empty := j.selected.filter fun i => (j.firstInside i).isNone
              let j' := empty.foldl (fun j i => (List.range (j.blockLen i)).foldl
                (fun j k => { j with oob := j.oob + 1 }.setEl .dst (j.blockStart i + k) .oob) j) j
              (e.count subWlk j.lead.toNat (j'.oob - j.oob)).modJob h fun _ =>
                { j' with pass := 1, blocksDone := empty }

/-- The end of an EXPAND (R29, R115 to R117, R222, R229 to R232): its count is a whole number of blocks. The event of an image that is not valid names no block: its DETAIL is
0xFFFFFFFF (DESIGN CHOICE, log 74). -/
def Eng.endExpand (e : Eng) (h : Word) : Eng :=
  match e.job h with
  | none => e
  | some j =>
    if j.stage ≠ .running || j.opcode ≠ opExpand then e
    else
      let ff := lowest (j.fault.toList ++ j.dstFaults)
      let e := e.modJob h fun j => { j with fault := ff }
      let j := { j with fault := ff }
      let all := j.badImage || j.poisoned || (j.pass = 0 && ff.isSome) || (j.pass = 1 && j.blocksLeft = [])
      let issued := all && (j.open .src).isEmpty && j.given.isEmpty
      let e := if issued && j.walker.isSome then e.freeWalkerOf h else e
      if all && j.srcSettled && j.dstSettled then
        let whole := fun (k : Nat) => k / blockSize j.header.mode * blockSize j.header.mode
        let o := { j with fault := ff.map fun (x : Nat × Status × DevNum) => (whole x.1, x.2) }.outcome
        let e := e.giveSets h
        let e := if o.1 = stCorruptBlock then
            (if j.badImage then e.raise subDrv (BitVec.ofNat 6 (5 * j.lead.toNat)) 0x11 (some j.ctx) 0xFFFFFFFF
            else match j.corrupt.find? fun c => some c.1 = (j.corrupt.map (·.1)).min? with
              | some c => e.raise subDrv (c.2.setWidth 6) 0x11 (some j.ctx) (BitVec.ofNat 64 c.1)
              | none => e)
          else e
        e.finish h o.1 o.2
      else e

/-- An EXPAND goes on after something has changed. -/
def Eng.advanceExpand (e : Eng) (m : Memory) (h : Word) : Eng :=
  (((e.pumpCerhus m h).expandHeader h).pumpCerhus m h).endExpand h

/-- A block has arrived whole, or is known to be corrupt, poisoned or unreadable: it is checked and decoded, and its raw elements
are written (R21, R223, R225, R228, R229, R231). -/
def Eng.blockArrives (e : Eng) (m : Memory) (h : Word) (i : Nat) : Eng :=
  match e.job h with
  | none => e
  | some j =>
    if j.opcode ≠ opExpand || j.stage ≠ .running || j.pass ≠ 1 || !j.blocksLeft.contains i then e
    else
      let k := j.blockStart i
      let n := j.blockLen i
      let fill := List.replicate n j.dstView.fill
      let close := fun (e : Eng) (f : Job → Job) =>
        ((e.modJob h fun j => { f j with blocksDone := i :: j.blocksDone }).giveSet h i).advanceExpand m h
      let drv := e.expanderNum m j i
      let spoiled := fun (_ : Unit) =>
        close (e.count subDrv (120 + drv.toNat) 1) fun j => { j.give k fill true with corrupt := j.corrupt ++ [(i, drv)] }
      let fails := fun (st : Status) (d : DevNum) =>
        close e fun j => (List.range n).foldl (fun j x => j.setEl .dst (k + x) (.failed st d)) j
      match j.blockHead i with
      | .wait _ => e
      | .poison => close e fun j => j.give k fill true
      | .corrupt => spoiled ()
      | .fault st d => fails st d
      | .ok off clen _ =>
        match j.bytesInput off clen with
        | .wait => e
        | .fail st d => fails st d
        | .ok _ true => close e fun j => j.give k fill true
        | .ok _ false =>
          match decodeBlock j.header (parseTables j.header.ntables (j.bytesAt 64 (256 * j.header.ntables))) i
              (j.bytesAt off clen) with
          | none => spoiled ()
          | some vs =>
            close ((e.count subDrv (80 + drv.toNat) 1).count subDrv (100 + drv.toNat) (2 * n)) fun j => j.give k vs false

/-- The walker reaches source byte `k` of an EXPAND, in its current advance or in a new one that lasts one run or 16 bytes (R101). -/
def Job.reachByte (j : Job) (k : Nat) : Job :=
  let j := if j.lastBound ≤ k && k < j.nextBound then j
    else { j with lastBound := k, nextBound := k + max 16 (4096 - (j.srcSlot.base.toNat + k) % 4096) }
  j.reach .src k

/-- The next source bytes that an EXPAND may reach: a holder that yields goes no further than its current advance (R333). -/
def Job.nextBytes (j : Job) (n : Nat) : List Nat :=
  ((j.expandNeeds.filter fun k => decide (j.el .src k = .idle)
    && (j.yieldAt.isNone || (decide (j.lastBound ≤ k) && decide (k < j.nextBound)))).take n)

/-- The next step of an EXPAND that holds a walker: it is checked, takes table sets, and reaches the next `n` source bytes it
needs. -/
def Eng.expandStep (e : Eng) (m : Memory) (h : Word) (n : Nat) : Eng :=
  match e.job h with
  | none => e
  | some j =>
    if j.opcode ≠ opExpand || j.stage ≠ .running || j.walker.isNone || !e.serves j
        || (e.halted && !e.settling) then e
    else match (if j.checked then none else e.failedChecks j) with
      | some (st, d) => e.finish h st d
      | none =>
        if j.poisoned then e
        else
          let e := (e.modJob h fun j => { j with checked := true }).takeSets m h
          (e.modJob h fun j => (j.nextBytes n).foldl Job.reachByte j).advanceExpand m h

/-! ### COMPRESS -/

def Job.maxTables (j : Job) : Nat := fld (j.w 5) 7 4 + 1
def Job.rankMax (j : Job) : Nat := fld (j.w 5) 11 8
def Job.rawCount (j : Job) : Nat := j.srcView.count
def Job.imageBlockCount (j : Job) : Nat := imageBlocks j.cMode j.rawCount

/-- A source value as the compressor takes it: a poisoned one is replaced by the source's FILL (R21). -/
def Job.rawValue (j : Job) (p : Nat) : Option Nat :=
  match j.srcInput p with
  | .ok v bad => some (if bad then j.srcView.fill else v)
  | _ => none

/-- The values of block `i`, once all are read. -/
def Job.rawBlockOf (j : Job) (i : Nat) : Option (List Nat) :=
  ((List.range (blockElems j.cMode j.rawCount i)).map fun x => j.rawValue (i * blockSize j.cMode + x)).foldr
    (fun x acc => match x, acc with | some v, some vs => some (v :: vs) | _, _ => none) (some [])

/-- Offset of block `i` in the image being written. -/
def Job.codedOff (j : Job) (i : Nat) : Nat :=
  blocksOff j.choice.tables.length j.imageBlockCount + ((j.coded.take i).map List.length).sum

/-! ### What mode K stages in the destination (R214, R215, R218) -/

def Job.bound (j : Job) : Nat := imageBound j.cMode j.rawCount j.maxTables

/-- Where the factors of tile `i` are staged: 3,072 bytes a tile at the top of the bound (log 73). -/
def Job.stageAt (j : Job) (i : Nat) : Nat := j.bound - 3072 * j.imageBlockCount + 3072 * i

def Job.rankOf (j : Job) (i : Nat) : Nat := (j.choice.factors.getD i ⟨0, [], []⟩).rank

/-- The factors of every tile are given to their places. -/
def Job.stageFactors (j : Job) : Job :=
  if j.cMode ≠ 2 then j
  else j.choice.factors.zipIdx.foldl (fun j f =>
    j.give (j.stageAt f.2) ((f.1.u ++ f.1.v).flatMap fun x => (leBytes 2 x.toNat).map BitVec.toNat) false) j

/-- What is known of bytes that a COMPRESS reads back from its destination. -/
def Job.backInput (j : Job) (a n : Nat) : Input := allInputs ((List.range n).map fun i => inputOf 0 (j.el .scaleIn (a + i)))

def Job.backAt (j : Job) (a n : Nat) : List Byte :=
  (List.range n).map fun i => match j.el .scaleIn (a + i) with
    | .got v _ => BitVec.ofNat 8 v
    | _ => 0

/-- The bytes that pass 2 reads back next: the tables after a pre-emption, and the staged factors of the blocks whose elements are
reached, once they have been written. -/
def Job.backNeeds (j : Job) : List Nat :=
  if j.pass ≠ 2 || j.over then []
  else
    let seg := fun (a n : Nat) => (List.range n).map (a + ·)
    let tables := if j.reread then seg 64 (256 * j.choice.tables.length) else []
    let tiles := if j.cMode = 2 then
        ((List.range (min j.imageBlockCount ((j.emitted + 8191) / 8192))).drop j.coded.length).flatMap fun i =>
          seg (j.stageAt i) (384 * j.rankOf i)
      else []
    (tables ++ tiles).filter fun k => decide (j.el .scaleIn k = .idle) && decide (j.el .dst k = .done)

def Job.reachBack (j : Job) : Job := j.backNeeds.foldl (fun j k => j.reach .scaleIn k) j

/-- The tables that a pre-empted COMPRESS finds in its destination take the place of those it had (R218). -/
def Job.takeTables (j : Job) : Job :=
  let n := j.choice.tables.length
  if j.pass = 2 && j.reread then
    match j.backInput 64 (256 * n) with
    | .ok _ _ => { j with reread := false, choice := { j.choice with tables := parseTables n (j.backAt 64 (256 * n)) } }
    | _ => j
  else j

/-- The factors of tile `i` as they are read back; none is used where a word of them was poisoned (log 73). -/
def Job.factorsOf (j : Job) (i : Nat) : Input × Factors :=
  let r := j.rankOf i
  if j.cMode ≠ 2 then (.ok 0 false, ⟨0, [], []⟩)
  else (j.backInput (j.stageAt i) (384 * r), readFactors r (j.backAt (j.stageAt i) (384 * r)))

/-- Pass 2 codes the next blocks whose values and factors are all read: the block's bytes and its directory entry are written (R215,
R216). -/
def Eng.codeBlocks (e : Eng) (h : Word) : Nat → Eng
  | 0 => e
  | fuel + 1 =>
    match e.job h with
    | none => e
    | some j =>
      let i := j.coded.length
      if j.pass ≠ 2 || j.imageBlockCount ≤ i || j.reread || j.over then e
      else match j.rawBlockOf i, j.factorsOf i with
        | some vs, (.ok _ bad, f) =>
          let b := emitBlock j.srcView.dtype j.cMode i (if bad then [] else j.choice.tables) f vs
          let off := j.codedOff i
          let raw := byteNat b 0 1 % 16 = 0
          let e := if raw then e.count subCdc (8 + j.lead.toNat) 1 else e
          let nb := j.imageBlockCount
          let pad := if i + 1 = nb && nb % 2 = 1 then List.replicate 8 (0 : Byte) else []
          let e := (e.count subCdc (4 + j.lead.toNat) (b.length + 8 + pad.length)).modJob h fun j =>
            { (j.give off (b.map BitVec.toNat) false).give (dirOff j.choice.tables.length + 8 * i)
                ((leBytes 8 off ++ pad).map BitVec.toNat) false with coded := j.coded ++ [b] }
          Eng.codeBlocks e h fuel
        | _, _ => e

/-- Raw elements of the blocks fully written (R115, R220). -/
def Job.writtenRaw (j : Job) : Nat :=
  let whole := fun i => (List.range ((j.coded.getD i []).length)).all fun x => decide (j.el .dst (j.codedOff i + x) = .done)
  let n := ((List.range j.coded.length).takeWhile whole).length
  min j.rawCount (n * blockSize j.cMode)

/-- The length of the image written (R200). -/
def Job.imageLen (j : Job) : Nat := j.codedOff j.coded.length

/-- Bytes that the manual leaves unspecified get free values, where they lie in stack memory (R214, R220, log 6). -/
def Eng.scribble (e : Eng) (m : Memory) (j : Job) (lo hi : Nat) : Eff :=
  let (n, e) := e.draw
  (List.range (hi - lo)).foldl (fun x i =>
    match j.dstWhere (lo + i) with
    | .at a _ _ =>
      (match x.eng.routeOf (x.mem m) j.lead j.paddock a 0 { write := true } with
        | some q => (match q.dest, x.eng.serveTag q true with
          | .stack d pa, .tag t =>
            if (x.eng.drover d).fenced then x
            else (x.on fun e => e.recordWrite d pa 1 (some (e.device, j.ctx, j.seq))).store ⟨pa, t, [Config.slack n (lo + i)]⟩
          | _, _ => x)
        | none => x)
    | _ => x) ⟨e, []⟩

/-- The raw position of the block that byte `k` of the image, or of what is staged beyond it, belongs to: its directory entry, its bytes, or its
tile's factors; 0 for the header and the tables. -/
def Job.rawAt (j : Job) (k : Nat) : Nat :=
  let nb := j.imageBlockCount
  let n := j.choice.tables.length
  let i := if k < dirOff n then 0
    else if k < blocksOff n nb then (k - dirOff n) / 8
    else if j.cMode = 2 && decide (j.stageAt 0 ≤ k) then (k - j.stageAt 0) / 3072
    else (((List.range j.coded.length).find? fun i => decide (k < j.codedOff i + (j.coded.getD i []).length)).getD j.coded.length)
  i * blockSize j.cMode

/-- The faults of a COMPRESS by raw position: source elements, then bytes of its destination (R115, R117). -/
def Job.codeFaults (j : Job) : List (Nat × Status × DevNum) :=
  let failed := fun (f : Nat → Nat) (x : Nat × El) => match x.2 with
    | .failed st d => some (f x.1, st, d)
    | _ => none
  j.srcEl.filterMap (failed fun p => p / blockSize j.cMode * blockSize j.cMode)
    ++ j.scaleInEl.filterMap (failed j.rawAt) ++ j.dstEl.filterMap (failed j.rawAt)

/-- The end of a COMPRESS (R214, R215, R220, R353). -/
def Eng.endCompress (e : Eng) (m : Memory) (h : Word) : Eff :=
  match e.job h with
  | none => ⟨e, []⟩
  | some j =>
    if j.stage ≠ .running || j.opcode ≠ opCompress then ⟨e, []⟩
    else
      let ff := lowest (j.fault.toList ++ j.codeFaults)
      let e := e.modJob h fun j => { j with fault := ff }
      let j := { j with fault := ff }
      let ended := j.pass = 3 || j.over
      let e := if ended && (j.open .src).isEmpty && (j.open .scaleIn).isEmpty && j.given.isEmpty && j.walker.isSome then e.freeWalkerOf h
        else e
      if ended && j.srcSettled && j.dstSettled && j.scaleInEl.all fun x => x.2.settled then
        match ff with
        | some (_, st, d) => (e.scribble m j 64 j.bound).on fun e => e.finish h st (j.faultDetail j.writtenRaw st d)
        | none => (e.scribble m j (if j.poisoned then 64 else j.imageLen) j.bound).on fun e => e.finish h j.outcome.1 j.outcome.2
      else ⟨e, []⟩

/-- A COMPRESS goes on after something has changed. -/
def Eng.advanceCompress (e : Eng) (m : Memory) (h : Word) : Eff :=
  let e := (e.modJob h Job.reachBack).pumpCerhus m h
  let e := (e.modJob h Job.takeTables).codeBlocks h (((e.job h).map Job.imageBlockCount).getD 0)
  ((e.modJob h Job.reachBack).pumpCerhus m h).endCompress m h

/-- The end of the block in which the compressor stands (R333). -/
def Job.blockEnd (j : Job) : Nat :=
  let b := blockSize j.cMode
  min j.rawCount ((j.emitted + b - 1) / b * b)

/-- The next step of a COMPRESS that holds a walker and its compressor: it is checked, zeroes the image header, and reaches the
next `n` source elements of its pass (R215), up to the end of its block where it is to yield (R333). -/
def Eng.compressStep (e : Eng) (m : Memory) (h : Word) (n : Nat) : Eff :=
  match e.job h with
  | none => ⟨e, []⟩
  | some j =>
    if j.opcode ≠ opCompress || j.stage ≠ .running || j.walker.isNone || !e.serves j
        || (e.halted && !e.settling) then ⟨e, []⟩
    else match (if j.checked then none else e.failedChecks j) with
      | some (st, d) => ⟨e.finish h st d, []⟩
      | none =>
        if j.over then ⟨e, []⟩
        else
          let j := if j.pass = 0 then { j.give 0 (List.replicate 64 0) false with pass := 1, checked := true } else j
          let k := if j.pass = 3 then 0 else min n ((if j.yieldAt.isSome then j.blockEnd else j.rawCount) - j.emitted)
          let e := e.count subCdc j.lead.toNat (2 * k)
          let j' := (List.range k).foldl (fun j' i => j'.reach .src (j.emitted + i)) j
          (e.modJob h fun _ => { j' with emitted := j.emitted + k }).advanceCompress m h

/-- The end of a pass (R215, R216, R218): pass 1 gives the table section and stages the factors of mode K; pass 2, with every block and the
directory written, gives the header. `choice` is what the compressor built in pass 1; one that the manual does not allow has no effect. -/
def Eng.passEnd (e : Eng) (m : Memory) (h : Word) (choice : CompressChoice) : Eff :=
  match e.job h with
  | none => ⟨e, []⟩
  | some j =>
    if j.opcode ≠ opCompress || j.stage ≠ .running || j.over then ⟨e, []⟩
    else if j.pass = 1 then
      if j.emitted = j.rawCount && j.srcSettled
          && choiceOk j.srcView.dtype j.cMode j.maxTables j.rankMax j.imageBlockCount choice then
        ((e.count subCdc (4 + j.lead.toNat) (256 * choice.tables.length)).modJob h fun j =>
          { ({ j with choice := choice }.stageFactors).give 64 ((choice.tables.flatMap tableBytes).map BitVec.toNat) false with
            pass := 2, srcEl := [], emitted := 0, looked := j.looked.filter (·.1 ≠ .src) }).advanceCompress m h
      else ⟨e, []⟩
    else if j.pass = 2 && j.coded.length = j.imageBlockCount && j.dstSettled then
      let nb := j.imageBlockCount
      let hd : CHeader := { dtype := j.srcView.dtype, mode := j.cMode, ntables := j.choice.tables.length, nblocks := nb
                            nelem := j.rawCount, imageLen := j.imageLen }
      let bytes := headerBytes hd (j.choice.tables.flatMap tableBytes)
      let e := e.count subCdc (4 + j.lead.toNat) 64
      (e.modJob h fun j => { j.give 0 (bytes.map BitVec.toNat) false with pass := 3 }).advanceCompress m h
    else ⟨e, []⟩

end Sys2Proof.Machine
end

