-- ==== Sys2Proof/Machine/DataPath.lean ====
section
/-! DEFINITION. The data opcodes (04, 05, 06, 07), translations that arrive (03: R111, R112), reads that return and writes that
are acknowledged (08: R235, R237), and APPLIED records by time (12: R400). -/

namespace Sys2Proof.Machine

/-! ### The data opcodes: one step of a descriptor that holds a walker -/

/-- COPY (R31, R57, R88). -/
def execCopy (h : Word) (n : Nat) (s : State) : Answer := onEng s fun m e => e.dataStep m h n opCopy

/-- TRANSFORM (R120 to R148). -/
def execTransform (h : Word) (n : Nat) (s : State) : Answer := onEng s fun m e => e.dataStep m h n opTransform

/-- GATHER (R149 to R157). -/
def execGather (h : Word) (n : Nat) (s : State) : Answer := onEng s fun m e => e.dataStep m h n opGather

/-- SCATTER (R159 to R162). -/
def execScatter (h : Word) (n : Nat) (s : State) : Answer := onEng s fun m e => e.dataStep m h n opScatter

/-- SCATTER_ACC (R163 to R171). -/
def execScatterAcc (h : Word) (n : Nat) (s : State) : Answer := onEng s fun m e => e.dataStep m h n opScatterAcc

/-- REDUCE (R172). -/
def execReduce (h : Word) (n : Nat) (s : State) : Answer := onEng s fun m e => e.dataStep m h n opReduce

/-- PUT_INLINE (R60). -/
def execPutInline (h : Word) (n : Nat) (s : State) : Answer := onEng s fun m e => e.dataStep m h n opPutInline

/-- COMPRESS (R212 to R220). -/
def execCompress (h : Word) (n : Nat) (s : State) : Answer := onMem s fun m e => e.compressStep m h n

/-- COMPRESS_PASS_END (R215, R216). -/
def execCompressPassEnd (h : Word) (choice : CompressChoice) (s : State) : Answer := onMem s fun m e => e.passEnd m h choice

/-- EXPAND (R221 to R224). -/
def execExpand (h : Word) (n : Nat) (s : State) : Answer := onEng s fun m e => e.expandStep m h n

/-- EXPAND_BLOCK_ARRIVAL (R225, R228, R229). -/
def execExpandBlockArrival (h : Word) (i : Nat) (s : State) : Answer := onEng s fun m e => e.blockArrives m h i

/-! ### INVALIDATE (R240 to R243) -/

/-- Every read and write of the earlier descriptors of the ring has ended (R241). -/
def Eng.earlierDataDone (e : Eng) (j : Job) : Bool :=
  e.jobs.all fun k => !(k.ctx = j.ctx && idxBefore k.seq j.seq && !k.adopted)
    || k.stage = .finished || k.stage = .spooled
    || !(k.usesWalker || k.opcode = opRekeySweep || k.opcode = opScrub)

/-- The range is translated page by page, and each run's messages are sent (R241, R242). -/
def Eng.invalidateRuns (e : Eng) (h : Word) : Nat → Eng
  | 0 => e
  | fuel + 1 =>
    match e.job h with
    | none => e
    | some j =>
      let va := fld (j.w 1) 47 0 + j.emitted
      let left := fld (j.w 2) 39 0 - j.emitted
      if left = 0 || j.fault.isSome || e.mute then e
      else
        let page := match e.tlbHit j.lead j.paddock va with
          | some l => 2 ^ l.log2
          | none => 65536
        let n := min left (page - va % page)
        let key := (StreamId.src, j.emitted, 0)
        let e := if j.looked.contains key then e
          else (e.count subAtg j.lead.toNat 1).modJob h fun j => { j with looked := key :: j.looked }
        match e.translate j.lead j.paddock va 0 n { write := false, stackOnly := true } with
        | .ok q =>
          let pa := match q.dest with | .stack _ pa => pa | _ => 0
          let dies := ((List.range 4).filter fun d => bitOf (j.w 3) d).map (BitVec.ofNat 2)
          let e := dies.foldl (fun e d => (e.emit (.die d (.invalidate (e.portFor d pa) pa n))).count subOpi 0 1) e
          (e.modJob h fun j => { j with emitted := j.emitted + n, invals := j.invals ++ dies }).invalidateRuns h fuel
        | .miss => e.startWalk j.lead j.paddock va
        | t =>
          (e.noteFault j.lead j.paddock (some j.ctx) t).modJob h fun j =>
            { j with fault := some (j.emitted, t.status.getD 0, 0) }

/-- An INVALIDATE ends once every message has been acknowledged (R241, R242). -/
def Eng.endInvalidate (e : Eng) (h : Word) : Eng :=
  match e.job h with
  | none => e
  | some j =>
    if j.stage ≠ .running || !j.checked || j.invals ≠ [] then e
    else match j.fault with
      | some (k, st, d) => e.finish h st (partialDetail k st d)
      | none => if j.emitted = fld (j.w 2) 39 0 then e.finish h stOk 0 else e

def Eng.advanceInvalidate (e : Eng) (h : Word) : Eng :=
  match e.job h with
  | none => e
  | some j => (e.invalidateRuns h (fld (j.w 2) 39 0 / 65536 + 2)).endInvalidate h

/-- INVALIDATE (R240 to R242). -/
def execInvalidate (h : Word) (s : State) : Answer :=
  onEng s fun _ e =>
    match e.job h with
    | none => e
    | some j =>
      if j.opcode ≠ opInvalidate || j.stage ≠ .running || !e.serves j then e
      else match (if j.checked then none else e.failedBytes j) with
        | some (st, d) => e.finish h st d
        | none => if e.earlierDataDone j then (e.modJob h fun j => { j with checked := true }).advanceInvalidate h else e

/-- INVALIDATE_ACK (R241): a die acknowledges one of its messages. -/
def execInvalidateAck (h : Word) (d : DieNum) (s : State) : Answer :=
  onEng s fun _ e => (e.modJob h fun j => { j with invals := j.invals.erase d }).endInvalidate h

/-! ### What comes back -/

/-- A descriptor of any opcode goes on after something has changed, while its lead region is Active. -/
def Eng.goOn (e : Eng) (m : Memory) (h : Word) : Eff :=
  match e.job h with
  | none => ⟨e, []⟩
  | some j =>
    if !e.serves j then ⟨e, []⟩
    else if j.opcode = opCompress then e.advanceCompress m h
    else if j.opcode = opExpand then ⟨e.advanceExpand m h, []⟩
    else if j.opcode = opInvalidate then ⟨if j.checked && j.stage = .running then e.advanceInvalidate h else e, []⟩
    else ⟨e.advanceJob m h, []⟩

/-- An element waits for the page of a walk. -/
def Job.waitsFor (j : Job) (st : StreamId) (page : Nat) (x : Nat × El) : Bool :=
  match x.2 with
  | .ask _ _ => (match j.whereAt st x.1 with
    | .at a _ _ => a / 65536 = page
    | _ => false)
  | _ => false

/-- The elements of a descriptor that waited for a walk which found no well-formed leaf fail (R106, step 6). -/
def Eng.failPage (e : Eng) (r : Region) (p : PdkNum) (page : Nat) (h : Word) : Eng :=
  match e.job h with
  | none => e
  | some j =>
    if j.opcode = opInvalidate then
      if j.checked && (fld (j.w 1) 47 0 + j.emitted) / 65536 = page && j.fault.isNone then
        (e.noteFault r p (some j.ctx) (.fail stPageFault)).modJob h fun j => { j with fault := some (j.emitted, stPageFault, 0) }
      else e
    else
      [StreamId.idx, .src, .scaleIn, .dst, .scaleOut].foldl (fun e st =>
        ((j.els st).filter (j.waitsFor st page)).foldl (fun e x =>
          (e.noteFault r p (some j.ctx) (.fail stPageFault)).modJob h fun j =>
            j.setEl st x.1 (.failed stPageFault 0)) e) e

/-- Requests of peers and dies that waited for the page fail. -/
def Eng.failOthers (e : Eng) (r : Region) (p : PdkNum) (page : Nat) : Eng :=
  let e := (e.npi.serving.filter fun s => s.req.isNone && peerSlice s.q = r && s.q.paddock = p && s.q.va.toNat / 65536 = page).foldl
    (fun e s => (e.noteFault r p none (.fail stPageFault)).answerPeer s stPageFault [] [] 0 0) e
  (e.opi.serving.filter fun s => s.req.isNone && s.a.die = r && s.a.paddock = p && s.a.va.toNat / 65536 = page).foldl
    (fun e s => (e.noteFault r p none (.fail stPageFault)).answerDie s stPageFault []) e

/-- The descriptors of a slice's region go on, oldest first. -/
def Eng.goOnRegion (e : Eng) (m : Memory) (r : Region) : Eff :=
  (e.jobs.filter fun j => j.lead = r && j.stage = .running).foldl
    (fun x j => x.andThen m fun m e => e.goOn m j.handle) ⟨e, []⟩

/-- What waits in a region goes on: its descriptors, and the requests of peers and dies at its slice. -/
def Eng.resumeRegion (e : Eng) (m : Memory) (r : Region) : Eff := (e.goOnRegion m r).on fun e => e.retryOthers m r

/-- A walk ends: its leaf enters the cache, or what waited for its page fails (R106, step 6). -/
def Eng.endWalk (e : Eng) (m : Memory) (r : Region) (w : Walk) (va : Nat) (bad : Option (BitVec 2)) : Eng :=
  let e : Eng := { e with atg := { e.atg with walks := setRow [] 4 e.atg.walks r.toNat ((e.atg.walks.getD r.toNat []).erase w) } }
  match (match bad with | some l => WalkRes.malformed l.toNat | none => walkFrom m w.root va) with
  | .leaf a l => e.tlbFill r w.paddock a l
  | f =>
    let e : Eng := match f with | .malformed l => e.noteMalformed r w.paddock va l | _ => e
    let e : Eng := (e.jobs.filter fun j => j.lead = r && j.paddock = w.paddock).foldl
      (fun e j => e.failPage r w.paddock w.page j.handle) e
    e.failOthers r w.paddock w.page

/-- PAGE_WALK_DONE (R109, R111, R112): a walk ends, in a leaf or in a page fault; what waited for it goes on. `bad` names the
level whose read the memory controller reports uncorrectable. -/
def execPageWalkDone (r : Region) (p : PdkNum) (va : BitVec 48) (bad : Option (BitVec 2)) (s : State) : Answer :=
  onMem s fun m e =>
    match (e.atg.walks.getD r.toNat []).find? fun w => w.paddock = p && w.page = va.toNat / 65536 with
    | none => ⟨e, []⟩
    | some w => ((e.endWalk m r w va.toNat bad).resumeRegion m r).on Eng.noteWork

/-- READ_RETURN (R21, R32, R237, R293). -/
def execReadReturn (t : ReadTarget) (reply : ReadReply) (s : State) : Answer :=
  onMem s fun m e => match t with
    | .job h st pos n => (((e.jobRead m h st pos n reply).endDisables).goOn m h).on Eng.noteWork
    | .peer id => ⟨(e.peerRead m id reply).noteWork, []⟩
    | .die id => ⟨(e.dieRead m id reply).noteWork, []⟩

/-- The stamp from which the 100 µs of a descriptor's oldest range count. -/
def Job.openSince (j : Job) : Option Word :=
  (rangesOf j.doneChunks).foldl (fun t r => match t with
    | none => some r.2.2
    | some t => some (if r.2.2.toNat < t.toNat then r.2.2 else t)) none

/-- APPLIED_TIMER (R400): 100 µs after a range's first chunk completed its APPLIED record is written. -/
def execAppliedTimer (h : Word) (s : State) : Answer :=
  onEng s fun _ e =>
    match e.job h with
    | none => e
    | some j => match j.openSince with
      | none => e
      | some t =>
        let e := e.advanceTo (t + 100000)
        e.writeApplied h fun r => decide (r.2.2.toNat + 100000 ≤ e.now.toNat)

end Sys2Proof.Machine
end

