-- ==== Sys2Proof/Machine/Syn.lean ====
section
/-! DEFINITION. Flags, waits and folds at their homes (08: R249 to R274, R278), the pod checks of POD-scope operations (13:
R424, R430, R438 to R441), and the condition of a release (08: R244 to R246). -/

namespace Sys2Proof.Machine

/-! ### Pod states (R424, R426, R430, R436) -/

def Eng.bellwether (e : Eng) : Bool := decide (e.svc.pod.role = 2)
def Eng.worker (e : Eng) : Bool := decide (e.svc.pod.role = 1)

/-- The device's own state (R426, R430): 0 ABSENT, 1 MISMATCHED, 2 UNSYNCED, 3 MEMBER. -/
def Eng.selfState (e : Eng) : BitVec 2 := if e.bellwether then 3 else if e.worker then e.svc.pod.self else 0

/-- A device's state in the vector held here (R424, R430). -/
def Eng.peerState (e : Eng) (d : DevNum) : BitVec 2 :=
  if d = e.device then e.selfState
  else if e.bellwether || e.worker then (mapGet {} e.npi.peers d.toNat).state
  else 0

/-- ABSENT or MISMATCHED. -/
def badPeer (st : BitVec 2) : Bool := st = 0 || st = 1

/-- The device is in its own Unsynced state (R436); a Bellwether never is. -/
def Eng.ownUnsynced (e : Eng) : Bool := e.flt.time.unsynced && !e.bellwether

/-- The checks of R438 at the issuing device, on an object of device `d`. -/
def Eng.issuerCheck (e : Eng) (d : DevNum) (wait : Bool) : Option (Status × DevNum) :=
  if badPeer e.selfState then some (stPodMismatch, e.device)
  else if badPeer (e.peerState d) then some (stPodMismatch, d)
  else if wait && e.ownUnsynced then some (stUnsynced, e.device)
  else if wait && decide (e.peerState d = 2) then some (stUnsynced, d)
  else none

/-- The checks of R438 at the home, for an operation of device `d`. -/
def Eng.homeCheck (e : Eng) (d : DevNum) (wait : Bool) : Option (Status × DevNum) :=
  if badPeer (e.peerState d) then some (stPodMismatch, d)
  else if wait && e.ownUnsynced then some (stUnsynced, e.device)
  else if wait && decide (e.peerState d = 2) then some (stUnsynced, d)
  else none

/-- An operation ends under R438 or R439 (R445). -/
def Eng.podRefused (e : Eng) : Eng := e.count subNpi 4 1

/-- DETAIL of a status that names a device (R72). -/
def devDetail (d : DevNum) : Word := d.setWidth 64

/-! ### Flags (R251 to R258) -/

/-- Codes of scopes (R244). -/
def Scope.num : Sys2Proof.Scope → Nat
  | .context => 0 | .device => 1 | .pod => 2

def scopeOf (n : Nat) : Scope := if n = 0 then .context else if n = 1 then .device else .pod

/-- The narrower of two scopes. -/
def narrower (a b : Scope) : Scope := if Scope.num a ≤ Scope.num b then a else b

def Eng.flag (e : Eng) (f : BitVec 18) : Flag := mapGet {} e.syn.flags f.toNat
def Eng.modSyn (e : Eng) (g : Syn → Syn) : Eng := { e with syn := g e.syn }
def Eng.setFlag (e : Eng) (f : BitVec 18) (x : Flag) : Eng := e.modSyn fun s => { s with flags := mapSet {} s.flags f.toNat x }
def Eng.fold (e : Eng) (g : BitVec 16) : Fold := mapGet {} e.syn.folds g.toNat
def Eng.setFold (e : Eng) (g : BitVec 16) (x : Fold) : Eng := e.modSyn fun s => { s with folds := mapSet {} s.folds g.toNat x }

/-- Source numbers (R265). -/
def ctxSrc (c : CtxNum) : BitVec 24 := c.setWidth 24
def dieSrc (d : DieNum) : BitVec 24 := 0x800000 + d.setWidth 24
def foldSrc (g : BitVec 16) : BitVec 24 := 0xC00000 + g.setWidth 24

/-- DETAIL that names a flag and its device (R72). -/
def flagDetail (dev : DevNum) (f : BitVec 18) : Word := pack [(0, f.toNat), (18, dev.toNat)]

/-- The source of a waiter's own changes. -/
def Eng.waiterSrc (e : Eng) : Waiter → DevNum × BitVec 24
  | .job h => (e.device, ctxSrc (handleCtx h))
  | .peer d c _ => (d, ctxSrc c)
  | .die d _ => (e.device, dieSrc d)

/-- The effective scope of an acquire (R249); a flag that has never changed widens nothing. -/
def Eng.acquireScope (e : Eng) (w : Wait) (f : Flag) : Nat :=
  let (d, s) := e.waiterSrc w.who
  max (Scope.num w.scope) (if !f.changed then 0 else if f.lastDev ≠ d then 2 else if f.lastSrc ≠ s then 1 else 0)

/-- How a wait whose condition holds completes (R249). -/
def Eng.acquire (e : Eng) (w : Wait) (f : Flag) : Status × Word :=
  if Scope.num f.scope < e.acquireScope w f then (stNarrow, BitVec.ofNat 64 (Scope.num f.scope)) else (stOk, 0)

/-- The deadline of a wait (R256). -/
def Wait.deadline (w : Wait) : Option Nat := w.timeout.map (w.start.toNat + ·)

/-- A FLAG_WAIT's result reaches its descriptor: it completes, or, where its lead region is lowered, completes once that region has woken
(R277, R279). Only the first result counts (R439). -/
def Eng.waitEnds (e : Eng) (h : Word) (st : Status) (det ready : Word) : Eng :=
  match e.job h with
  | none => e
  | some j =>
    if j.stage ≠ .waiting || j.answer.isSome then e
    else if e.active (.region j.lead) then (e.finish h st det).modJob h fun j => { j with ready := some ready }
    else (e.modJob h fun j => { j with answer := some (st, det, ready) }).wakeRegion j.lead

/-- A wait ends, here or at its home, with its completion ready at `ready`: a FLAG_WAIT completes, a peer has its result, a die
its WAKE (R256, R259, R274). -/
def Eng.answerWait (e : Eng) (w : Wait) (st : Status) (det ready : Word) : Eng :=
  let e := if st = stUnsynced || st = stPodMismatch then e.podRefused else e
  match w.who with
  | .job h => e.waitEnds h st det ready
  | .peer d c id => e.emit (.npi d (.result c id st det))
  | .die d tok => e.emit (.die d (.wake tok st (if st = stNarrow then det.extractLsb' 0 2 else 0)))

/-- The tally of a wait's status (R288). -/
def Eng.tallyWait (e : Eng) (r : Region) (st : Status) : Eng :=
  if st = stTimeout then e.count subSyn (12 + r.toNat) 1
  else if st = stOrphaned then e.count subSyn (16 + r.toNat) 1
  else if st = stNarrow then e.count subSyn (20 + r.toNat) 1
  else e

/-- The wait that an event registers or ends. -/
def HomeAct.waitOf : HomeAct → Option Wait
  | .wait w => some w
  | .expire w => some w
  | .ends w _ => some w
  | _ => none

/-- The wait that an event registers. -/
def HomeAct.registers : HomeAct → Option Wait
  | .wait w => some w
  | _ => none

/-- The waits registered here, and those on their way to their home. -/
def Eng.homeWaits (e : Eng) : List Wait := e.syn.waits ++ e.syn.events.filterMap fun v => v.act.registers

/-- The waits that `p` picks are freed, registered, held or on their way to their home (R257, R439). -/
def Eng.dropWaits (e : Eng) (p : Wait → Bool) : Eng :=
  e.modSyn fun s => { s with
    waits := s.waits.filter fun w => !p w, held := s.held.filter fun w => !p w
    events := s.events.filter fun v => !(v.act.waitOf.map p).getD false }

/-- A wait's record is freed (R257). -/
def Eng.freeWait (e : Eng) (id : Nat) : Eng := e.dropWaits fun w => w.id = id

def Eng.endWait (e : Eng) (w : Wait) (st : Status) (det ready : Word) : Eng :=
  ((e.freeWait w.id).tallyWait (flagRegion w.flag) st).answerWait w st det ready

/-- When a timeout's completion is ready (R271): 10 to 20 ns after the deadline, or, where the home's region was not Active then, once it
is. -/
def Eng.timeoutReady (e : Eng) (w : Wait) : Word :=
  let t := w.deadline.getD e.now.toNat
  let since := (e.regionDom (flagRegion w.flag)).since.toNat
  BitVec.ofNat 64 (max (t + 10) (min e.now.toNat (max (t + 20) since)))

/-- A wait ends with WAIT_TIMEOUT (R256, R271). -/
def Eng.timeoutWait (e : Eng) (w : Wait) : Eng := e.endWait w stTimeout (flagDetail e.device w.flag) (e.timeoutReady w)

/-- The deadline of a wait has fired by stamp `t`: in the first AO cycle that begins after it (R271). -/
def Wait.firedBy (w : Wait) (t : Word) : Bool := (w.deadline.map fun d => decide (d < t.toNat)).getD false

/-- A wait is freed, with what its waiter is told, if anything. -/
def Eng.dropWait (e : Eng) (w : Wait) : Option (Status × Word) → Eng
  | none => e.freeWait w.id
  | some (st, det) => e.endWait w st det e.now

/-- A registered wait ends before its condition holds, by an event of stamp `t`: as `how` says, or, its deadline having fired first, with
WAIT_TIMEOUT (R271). -/
def Eng.endEarly (e : Eng) (t : Word) (w : Wait) (how : Option (Status × Word)) : Eng :=
  if w.firedBy t then e.timeoutWait w else e.dropWait w how

/-- ORPHANED, with its DETAIL (R72). -/
def Eng.orphaned (e : Eng) (w : Wait) : Option (Status × Word) := some (stOrphaned, flagDetail e.device w.flag)

/-- A registered wait ends with ORPHANED, by an event of stamp `t`. -/
def Eng.orphanWait (e : Eng) (t : Word) (w : Wait) : Eng := e.endEarly t w (e.orphaned w)

/-- The waits held for a record that `p` picks end with ORPHANED. -/
def Eng.orphanHeld (e : Eng) (p : Wait → Bool) : Eng := (e.syn.held.filter p).foldl (fun e w => e.dropWait w (e.orphaned w)) e

/-- Every registered wait that `p` picks ends with ORPHANED, by an event of stamp `t`. -/
def Eng.orphanAll (e : Eng) (t : Word) (p : Wait → Bool) : Eng := (e.syn.waits.filter p).foldl (fun e w => e.orphanWait t w) e

/-- A change releases a wait, or comes after its deadline: by the change's stamp while the deadline has not fired, and whatever the stamp
once it has (R258, R271). -/
def Eng.releaseWait (e : Eng) (fl : Flag) (stamp : Word) (w : Wait) : Eng :=
  if w.firedBy e.now || w.firedBy stamp then e.timeoutWait w
  else e.endWait w (e.acquire w fl).1 (e.acquire w fl).2 e.now

/-- A change of a flag: value, held scope and last source, and the waits it releases (R252, R254, R258). DESIGN CHOICE (log 75): R258 leaves
the order of release open; they are released in the order of their registration. -/
def Eng.applyChange (e : Eng) (f : BitVec 18) (v : Bool) (scope : Scope) (dev : DevNum) (src : BitVec 24) (stamp : Word) : Eng :=
  let fl : Flag := { e.flag f with value := v, scope := scope, lastDev := dev, lastSrc := src, changed := true }
  let e := (e.setFlag f fl).count subSyn ((if v then 0 else 4) + (flagRegion f).toNat) 1
  (e.syn.waits.filter fun w => w.flag = f && w.forClear = !v).foldl (fun e w => e.releaseWait fl stamp w) e

/-- A flag may be operated on by a requester of a paddock (R253, R414). -/
def Eng.flagOpen (e : Eng) (f : BitVec 18) (pk : PdkNum) : Bool :=
  !e.regionFenced (flagRegion f) && (e.flag f).owned && (e.flag f).paddock = pk

/-- A set or a clear at its home (R253 to R255). -/
def Eng.flagOp (e : Eng) (f : BitVec 18) (v : Bool) (x : SyncSrc) : Status × Eng :=
  let r := flagRegion f
  if !e.flagOpen f x.pk then (stNotPermitted, e)
  else if !v && !(e.flag f).value then
    (stUnderflow, (e.count subSyn (24 + r.toNat) 1).raise subSyn (r.setWidth 6) 0x10 x.ctx (f.setWidth 64))
  else (stOk, e.applyChange f v x.scope x.dev x.src x.stamp)

/-! ### Waits (R256, R257, R278) -/

/-- Wait records in use at a region's flag home. -/
def Eng.waitRecords (e : Eng) (r : Region) : Nat := (e.syn.waits.filter fun w => flagRegion w.flag = r).length

/-- A region that waits is lowered, and lent where that applies (R278, R349). -/
def Eng.lendFor (e : Eng) (w : Wait) : Eng :=
  match w.who with
  | .job h => match e.job h with
    | some j => e.lendRegion j.lead
    | none => e
  | _ => e

/-- A wait becomes long (R278, R288). -/
def Eng.makeLong (e : Eng) (w : Wait) : Eng :=
  ((e.modSyn fun s => { s with waits := s.waits.map fun x => if x.id = w.id then { x with long := true } else x }).count
    subSyn (40 + (flagRegion w.flag).toNat) 1).lendFor w

/-- A wait of the RACK or POD class (R275, R278). -/
def Wait.far (w : Wait) : Bool := decide (w.dist = .rack) || decide (w.dist = .pod)

/-- The class of a peer by the route in use: at most one switch tier is RACK (R275). The transport's tier count is a free value
(log 78). -/
def Eng.routeTo (e : Eng) (d : DevNum) : Distance × Eng :=
  let (n, e) := e.draw
  (if Config.routeTiers n d.toNat ≤ 1 then .rack else .pod, e)

/-- A wait with a record begins (R256): it is judged at once where its condition holds or it tests once, and stands
registered otherwise. A wait of the RACK or POD class is long from its registration (R278). -/
def Eng.beginWait (e : Eng) (w : Wait) : Eng :=
  let r := flagRegion w.flag
  let w : Wait := { w with start := e.now, long := w.far }
  let e := e.count subSyn (8 + r.toNat) 1
  let e := if w.far then e.count subSyn (40 + r.toNat) 1 else e
  let fl := e.flag w.flag
  if fl.value = !w.forClear then e.endWait w (e.acquire w fl).1 (e.acquire w fl).2 e.now
  else if w.timeout = some 0 then e.timeoutWait w
  else e.modSyn fun s => { s with waits := s.waits ++ [w] }

/-- A wait arrives at its flag's home (R253, R257). A peer's wait that finds no record is refused, and its sender retries. -/
def Eng.arriveWait (e : Eng) (w : Wait) (pk : PdkNum) : Eng :=
  let r := flagRegion w.flag
  let e := e.modSyn fun s => { s with held := s.held.filter (·.id ≠ w.id) }
  if !e.flagOpen w.flag pk then e.answerWait w stNotPermitted 0 e.now
  else if e.waitRecords r < 16384 then e.beginWait w
  else match w.who with
    | .peer d c id =>
      let e := if e.syn.held.any (fun x => flagRegion x.flag = r) then e else e.count subSyn (44 + r.toNat) 1
      e.emit (.npi d (.noRecord c id))
    | _ => e.modSyn fun s => { s with held := s.held ++ [w] }

/-- A new wait's number. -/
def Eng.nextWaitId (e : Eng) : Nat × Eng := (e.syn.nextWait, e.modSyn fun s => { s with nextWait := s.nextWait + 1 })

/-- The paddock of a held wait's requester (R253). -/
def Eng.waiterPaddock (e : Eng) : Waiter → PdkNum
  | .job h => ((e.job h).map (·.paddock)).getD 0
  | .peer _ c _ => (e.ctx c).paddock
  | .die d _ => (e.ctx (e.dieCfg d).syncCtx).paddock

/-! ### Folds (R263 to R269, R441) -/

/-- A fold passes its release to the children it recorded (step 3 of R268); to those on other devices unless no request may leave (R372, R441).
What goes to homes of this device comes back. -/
def Eng.releaseKids (e : Eng) (x : SyncSrc) (kids : List (DevNum × BitVec 16)) : Eng × List HomeEvent :=
  let near := kids.filter fun c => c.1 = e.device
  let far := if e.mute then [] else kids.filter fun c => c.1 ≠ e.device && !badPeer (e.peerState c.1)
  (far.foldl (fun e c => e.emit (.npi c.1 (.release c.2 x.scope))) e,
    near.map fun c => { act := .release c.2, src := { x with stamp := e.now } })

/-- A fold releases, step by step (R268): it resets; its release flag's home makes the change, and then its recorded children are released.
DEDUCED (log 76): the change bears no stamp of its own in the rules; deadlines are judged by the stamp at which the fold releases. -/
def Eng.foldReleases (e : Eng) (g : BitVec 16) (scope : Scope) : Eng × List HomeEvent :=
  let fo := e.fold g
  let v := !fo.rflagAlt || decide (fo.episode.toNat % 2 = 0)
  let x : SyncSrc := ⟨e.device, foldSrc g, fo.paddock, scope, e.now, none⟩
  let e := (e.setFold g { fo with count := 0, children := [], episode := fo.episode + 1, state := .counting }).count
    subSyn (32 + (foldRegion g).toNat) 1
  if fo.rflagEn then (e, [{ act := .change fo.releaseFlag v fo.children, src := x }]) else e.releaseKids x fo.children

/-- An accepted arrival is added; a complete fold forwards or releases (R267, R268). In the Fatal state nothing leaves for a peer
(R372). -/
def Eng.foldAccepts (e : Eng) (g : BitVec 16) (n : Nat) (scope : Scope) (child : Option (DevNum × BitVec 16)) :
    Eng × List HomeEvent :=
  let fo := e.fold g
  let fo : Fold := { fo with
    count := fo.count + n, scopeMin := if fo.count = 0 then scope else narrower fo.scopeMin scope
    children := fo.children ++ child.toList }
  let e := (e.setFold g fo).count subSyn (28 + (foldRegion g).toNat) 1
  if fo.count ≠ fo.expect.toNat then (e, [])
  else if fo.root then e.foldReleases g fo.scopeMin
  else
    let e := e.setFold g { fo with state := .forwarded }
    if fo.parentDev = e.device then
      (e, [{ act := .child fo.parentFold g, src := ⟨e.device, foldSrc g, fo.paddock, fo.scopeMin, e.now, none⟩ }])
    else if e.mute then (e, [])
    else
      let m : PeerSync := { dev := e.device, src := foldSrc g, ctx := 0, id := e.npi.nextReq, paddock := fo.paddock
                            scope := fo.scopeMin, stamp := e.now }
      (e.sendNpi fo.parentDev (.forwarded m fo.parentFold g), [])

/-- An arrival at a fold of `n` would overflow it (R267). -/
def Fold.overflows (fo : Fold) (n : Nat) (child : Bool) : Bool :=
  decide (fo.expect.toNat < fo.count + n) || decide (fo.state = .forwarded) || (child && decide (16 ≤ fo.children.length))

/-- The fold accepts arrivals from a paddock (R267, R414). -/
def Eng.foldOpen (e : Eng) (g : BitVec 16) (pk : PdkNum) : Bool :=
  !e.regionFenced (foldRegion g) && decide ((e.fold g).state ≠ .disabled) && decide ((e.fold g).paddock = pk)

/-- A rejected child arrival is recorded (R269). -/
def Eng.rejectChild (e : Eng) (g child : BitVec 16) (d : DevNum) : Eng :=
  e.raise subSyn ((foldRegion g).setWidth 6) 0x12 none (pack [(0, child.toNat), (16, d.toNat)])

/-- A child's forwarded arrival reaches its parent (R267, R269, R441): accepted, or rejected and recorded. -/
def Eng.childArrives (e : Eng) (g child : BitVec 16) (x : SyncSrc) : Eng × List HomeEvent :=
  let fo := e.fold g
  let barred := (x.dev ≠ e.device && fo.root && !e.bellwether) || !e.foldOpen g x.pk
  if barred then (e.rejectChild g child x.dev, [])
  else if fo.overflows 1 true then ((e.count subSyn (36 + (foldRegion g).toNat) 1).rejectChild g child x.dev, [])
  else e.foldAccepts g 1 x.scope (some (x.dev, child))

/-- A release reaches a fold: applied only where it is FORWARDED (R268). -/
def Eng.releaseArrives (e : Eng) (g : BitVec 16) (scope : Scope) : Eng × List HomeEvent :=
  if (e.fold g).state = .forwarded && !e.regionFenced (foldRegion g) then e.foldReleases g scope else (e, [])

/-- A FOLD_ARRIVE at its fold's home (R267, R269). -/
def Eng.foldOp (e : Eng) (g : BitVec 16) (n : Nat) (x : SyncSrc) : Status × Eng × List HomeEvent :=
  let r := foldRegion g
  if !e.foldOpen g x.pk then (stNotPermitted, e, [])
  else if (e.fold g).overflows n false then
    (stFoldOverflow, (e.count subSyn (36 + r.toNat) 1).raise subSyn (r.setWidth 6) 0x11 x.ctx (g.setWidth 64), [])
  else (stOk, e.foldAccepts g n x.scope none)

/-! ### Descriptors of flags and folds -/

/-- The device that a flag or fold descriptor names (R55). -/
def Job.syncDev (j : Job) : DevNum :=
  BitVec.ofNat 12 (if j.opcode = opFoldArrive then fld (j.w 1) 27 16 else fld (j.w 1) 29 18)

/-- The flag or fold operation of a descriptor (R55). -/
def Job.syncOp (j : Job) : SyncOp :=
  if j.opcode = opFlagSet then .set ((j.w 1).extractLsb' 0 18)
  else if j.opcode = opFlagClear then .clear ((j.w 1).extractLsb' 0 18)
  else .arrive ((j.w 1).extractLsb' 0 16) ((j.w 2).extractLsb' 0 8)

/-- DETAIL of a flag or fold operation's status (R72). -/
def Job.syncDetail (j : Job) (dev : DevNum) (st : Status) : Word :=
  if st = stUnderflow || st = stTimeout || st = stOrphaned then BitVec.ofNat 64 (fld (j.w 1) 29 0)
  else if st = stFoldOverflow then BitVec.ofNat 64 (fld (j.w 1) 27 0)
  else if st = stPodMismatch then devDetail dev
  else if isPartial st then partialDetail 0 st j.syncDev
  else 0

/-- The home has answered a flag or fold operation: its one chunk is complete, and the descriptor completes (R254, R269,
R400). -/
def Eng.homeAnswered (e : Eng) (h : Word) (st : Status) : Eng :=
  match e.job h with
  | none => e
  | some j =>
    let e := if j.cls = .a then
        (e.modJob h fun j => { j with homeStatus := some st, doneChunks := [(0, e.now)] }).writeAllApplied h
      else e
    e.finish h st (j.syncDetail e.device st)

/-! ### Homes and their events (R34, R270, R277) -/

/-- What a set, a clear or an arrival is at its home. -/
def SyncOp.act : SyncOp → HomeAct
  | .set f => .flag f true
  | .clear f => .flag f false
  | .arrive g n => .arrive g n

/-- An event has its result (R254, R259, R269). -/
def Eng.replyTo (e : Eng) (y : SyncReply) (st : Status) : Eng :=
  match y with
  | .none => e
  | .job h => e.homeAnswered h st
  | .peer d id => e.emit (.npi d (.ack id st 0 0))
  | .die d f => e.emit (.die d (.dieAck f st))

/-- The pod checks that the home makes of a peer's operation or a peer's child arrival, before every other (R253, R438, R441). -/
def Eng.homeRefuses (e : Eng) (v : HomeEvent) : Option (Status × DevNum) :=
  match v.act, v.reply with
  | .wait w, _ => (match w.who with | .peer d _ _ => e.homeCheck d true | _ => none)
  | .child _ _, _ => if v.src.dev = e.device then none else e.homeCheck v.src.dev false
  | _, .peer d _ => e.homeCheck d false
  | _, _ => none

/-- An event that the pod checks refuse. DESIGN CHOICE (log 105): it counts in NPI_TALLY_POD_REFUSED of its home's device, and not of its sender's. -/
def Eng.refuseEvent (e : Eng) (v : HomeEvent) (st : Status) (d : DevNum) : Eng :=
  match v.act with
  | .wait w => e.answerWait w st (devDetail d) e.now
  | .child g c => e.rejectChild g c d
  | _ => e.podRefused.replyTo v.reply st

/-- The event has reached its home: the states held now judge it (R431). -/
def Eng.ruled (e : Eng) (v : HomeEvent) : HomeEvent := { v with ruling := some (v.ruling.getD (e.homeRefuses v)) }

/-- A home applies an event; what that sends to homes of this device comes back. -/
def Eng.applyEvent (e : Eng) (v : HomeEvent) : Eng × List HomeEvent :=
  match v.ruling.getD (e.homeRefuses v) with
  | some (st, d) => (e.refuseEvent v st d, [])
  | none =>
    let x := v.src
    match v.act with
    | .flag f b => let y := e.flagOp f b x; (y.2.replyTo v.reply y.1, [])
    | .arrive g n => let y := e.foldOp g n.toNat x; (y.2.1.replyTo v.reply y.1, y.2.2)
    | .wait w => (e.arriveWait w x.pk, [])
    | .child g c => e.childArrives g c x
    | .release g => e.releaseArrives g x.scope
    | .change f b kids =>
      (if e.regionFenced (flagRegion f) then e else e.applyChange f b x.scope x.dev x.src x.stamp).releaseKids x kids
    | .expire w => (e.timeoutWait w, [])
    | .ends w how => (if e.syn.waits.any (·.id = w.id) then e.endEarly x.stamp w how else e, [])
    | .owner c r =>
      (e.orphanAll x.stamp fun w => flagRegion w.flag = r && (e.flag w.flag).owned && decide ((e.flag w.flag).owner = c), [])

/-- A home applies events while its region is Active. That of a fenced region applies nothing: its operations are refused (R414). -/
def Eng.homeRuns (e : Eng) (r : Region) : Bool := e.active (.region r) || e.regionFenced r

/-- Events reach their homes, and what they send to homes of this device follows, in the order it is sent. A home whose region is not Active
keeps the event and is woken (R34, R277). -/
def Eng.homeRun : Nat → List HomeEvent → Eng → Eng
  | 0, _, e => e
  | _, [], e => e
  | n + 1, v :: vs, e =>
    let e := e.wakeRegion v.act.region
    if e.homeRuns v.act.region then
      let y := e.applyEvent v
      Eng.homeRun n (vs ++ y.2) (y.1.noteWorkOf (.region v.act.region))
    else Eng.homeRun n vs (e.modSyn fun s => { s with events := s.events ++ [e.ruled v] })

/-- Events to run: each fold forwards at most once and releases at most once, to a flag and sixteen children. -/
def Eng.homeFuel (e : Eng) : Nat := 4 + 20 * e.syn.folds.length + e.syn.events.length

/-- An event reaches its home. -/
def Eng.homeGo (e : Eng) (v : HomeEvent) : Eng := Eng.homeRun e.homeFuel [v] e

/-- The waits that `p` picks end, each at its home, as `how` says (R439): one that is on its way there ends once it has registered, and one that is
held for a record at the SYN distributor (R257) ends at once. -/
def Eng.endWaits (e : Eng) (p : Wait → Bool) (how : Option (Status × Word)) : Eng :=
  let mine := e.homeWaits.filter p
  let late := fun (w : Wait) => (e.syn.events.filter fun v => v.act.registers = some w).foldl (fun t v =>
    if t.toNat < v.src.stamp.toNat then v.src.stamp else t) e.now
  let e := (e.syn.held.filter p).foldl (fun e w => e.dropWait w how) e
  mine.foldl (fun e w => e.homeGo { act := .ends w how, src := ⟨e.device, 0, 0, .context, late w, none⟩ }) e

/-- The reset of an owner comes first among what has reached a home: it ends the waits that stood before any of it (R260, R273). -/
def HomeAct.isOwner : HomeAct → Bool
  | .owner _ _ => true
  | _ => false

/-- A region is Active again: its homes apply what has reached them, by ascending stamp and then by source number (R265, R270). DEDUCED
(log 77): the events that a wake has held back reach the home in one cycle; a vector received meanwhile comes after those that were there
before it (R431). -/
def Eng.homeWakes (e : Eng) (r : Region) : Eng :=
  let key := fun (v : HomeEvent) => (v.src.stamp.toNat, v.src.dev.toNat * 2 ^ 24 + v.src.src.toNat)
  let mine := (e.syn.events.filter fun v => v.act.region = r).mergeSort fun a b =>
    decide ((key a).1 < (key b).1) || (decide ((key a).1 = (key b).1) && decide ((key a).2 ≤ (key b).2))
  Eng.homeRun e.homeFuel (mine.filter (·.act.isOwner) ++ mine.filter fun v => !v.act.isOwner) (e.modSyn fun s => { s with events := s.events.filter fun v => v.act.region ≠ r })

/-- The FLAG_WAITs whose result has waited for their lead region complete (R279). -/
def Eng.answersWake (e : Eng) (r : Region) : Eng :=
  (e.jobs.filter fun j => j.lead = r && j.stage = .waiting).foldl (fun e j =>
    match j.answer with
    | some (st, det, ready) =>
      (e.finish j.handle st det).modJob j.handle fun j => { j with ready := some (if ready.toNat < e.now.toNat then e.now else ready), answer := none }
    | none => e) e

/-! ### The condition of a release (R244 to R246) -/

/-- An effect at `at_` is awaited at this device by a release of a scope whose object's home is `home` (R244, R246). -/
def awaited (dev at_ home : DevNum) (scope : Nat) : Bool :=
  if at_ = dev then decide (1 ≤ scope) else decide (2 ≤ scope) && decide (at_ ≠ home)

/-- The effects of an earlier descriptor are completed at a scope, for a release whose home is `home` (R244, R246). -/
def Eng.effectsDone (e : Eng) (scope : Nat) (home : DevNum) (k : Job) : Bool :=
  decide (k.stage = .finished) || decide (k.stage = .spooled) || decide (k.opcode = opNop) || decide (k.opcode = opQuery) ||
    (if k.usesWalker then
      decide (k.stage = .running) && k.checked && k.walker.isNone &&
        [StreamId.idx, .src, .scaleIn, .dst, .scaleOut].all fun st =>
          !awaited e.device (k.device st) home scope || (k.els st).all fun x => x.2.settled
    else if k.opcode = opInvalidate then
      k.checked && (decide (k.emitted = fld (k.w 2) 39 0) || k.fault.isSome)
        && (!awaited e.device e.device home scope || decide (k.invals = []))
    else k.syncSent && !awaited e.device k.syncDev home scope)

/-- Every earlier descriptor of the ring has completed its effects at the scope (R245). -/
def Eng.releaseReady (e : Eng) (j : Job) (scope : Nat) (home : DevNum) : Bool :=
  e.jobs.all fun k => !(k.ctx = j.ctx && idxBefore k.seq j.seq && !k.adopted) || e.effectsDone scope home k

end Sys2Proof.Machine
end

