-- ==== Sys2Proof/Machine/Simple.lean ====
section
/-! DEFINITION. NOP, FENCE and QUERY (02: R55, R59, R68). -/

namespace Sys2Proof.Machine

/-- A descriptor of an opcode that takes no walker begins: its bytes are checked (R74), and then `go` acts. -/
def Eng.beginSimple (e : Eng) (h : Word) (op : Nat) (go : Job → Eng → Eng) : Eng :=
  match e.job h with
  | none => e
  | some j =>
    if j.opcode ≠ op || j.stage ≠ .running || !e.active (.region j.lead) || e.halted then e
    else match e.failedBytes j with
      | some (st, d) => e.finish h st d
      | none => go j e

/-- NOP (R55). -/
def execNop (h : Word) (s : State) : Answer := onEng s fun _ e => e.beginSimple h opNop fun _ e => e.finish h stOk 0

/-- FENCE (R59): it waits; FENCE_DONE completes it. -/
def execFence (h : Word) (s : State) : Answer :=
  onEng s fun _ e => e.beginSimple h opFence fun _ e => e.modJob h fun j => { j with stage := .waiting }

/-- FENCE_DONE (R59): every effect of the earlier descriptors of the ring has completed, awaited at this device. -/
def execFenceDone (h : Word) (s : State) : Answer :=
  onEng s fun _ e =>
    match e.job h with
    | none => e
    | some j =>
      if j.opcode = opFence && j.stage = .waiting && e.releaseReady j 2 e.device then e.finish h stOk 0 else e

/-- The STATE of a handle, with the status that is pending (R68). DEDUCED (log 79): a descriptor that is fetched and not yet accepted, and has
not begun, stands as 1, the state before execution. -/
def Eng.handleState (e : Eng) (x : Word) : Nat × Nat :=
  let d := idxDist (e.ctx (handleCtx x)).sqHead (handleSeq x)
  if d = 0 || 2 ^ 31 ≤ d then (0, 0)
  else match e.job x with
    | none => (4, 0)
    | some k =>
      if k.stage = .finished || k.stage = .spooled then (3, k.status.toNat)
      else if k.begun then (2, 0) else (1, 0)

/-- A QUERY's answer (R68). -/
def Eng.answerQuery (e : Eng) (j : Job) : Status × Word :=
  if fld (j.w 2) 3 0 = 1 then (stOk, pack [(0, e.device.toNat), (32, e.svc.pod.epoch.toNat)])
  else
    let x := j.w 1
    let c := e.ctx (handleCtx x)
    if c.paddock ≠ j.paddock then (stNotPermitted, 0)
    else if handleGen x ≠ c.gen then (stStale, 0)
    else (stOk, pack [(0, (e.handleState x).1), (16, (e.handleState x).2)])

/-- QUERY (R68). -/
def execQuery (h : Word) (s : State) : Answer :=
  onEng s fun _ e => e.beginSimple h opQuery fun j e => e.finish h (e.answerQuery j).1 (e.answerQuery j).2

end Sys2Proof.Machine
end

