-- ==== Sys2Proof/Machine/Sync.lean ====
section
/-! DEFINITION. Flag and fold descriptors and messages (08: R244 to R274, R278; 12: R412, R413; 13: R438 to R441), the data
requests of peers and dies (01: R32; 09: R293), acknowledgements (08: R235), and CONTEXT_CLOSED (02: R44; 08: R260). -/

namespace Sys2Proof.Machine

/-! ### Descriptors -/

/-- The checks before a flag or fold descriptor acts: its bytes, the pod checks of an operation on a peer's object, and the
route to the peer (R74, R438, R274, R106). No pod check applies to a local object (13, before R438). -/
def Eng.beginSync (e : Eng) (h : Word) (op : Nat) (go : Job → Eng → Eng) : Eng :=
  e.beginSimple h op fun j e =>
    if j.cls = .a && j.marked ≠ [] then e.finish h (j.homeStatus.getD stOk) (j.syncDetail e.device (j.homeStatus.getD stOk))
    else match (if j.syncDev ≠ e.device then e.issuerCheck j.syncDev (decide (op = opFlagWait)) else none) with
      | some (st, d) => e.podRefused.finish h st (devDetail d)
      | none =>
        if j.syncDev ≠ e.device && e.npi.lost.contains j.syncDev then
          e.finish h stUnreachable (partialDetail 0 stUnreachable j.syncDev)
        else go j e

/-- A message to a peer's home (R246, R265). -/
def Eng.peerSync (e : Eng) (j : Job) : PeerSync :=
  { dev := e.device, src := ctxSrc j.ctx, ctx := j.ctx, id := e.npi.nextReq, paddock := j.paddock
    scope := scopeOf j.scopeCode, stamp := e.now }

/-- The requester of a local operation. -/
def Eng.ownSrc (e : Eng) (j : Job) : SyncSrc :=
  { dev := e.device, src := ctxSrc j.ctx, pk := j.paddock, scope := scopeOf j.scopeCode, stamp := e.now, ctx := some j.ctx }

/-- A release: FLAG_SET, FLAG_CLEAR or FOLD_ARRIVE. Once the earlier effects are completed at its scope it is applied at its
home, which may have to wake first, or sent to it (R245, R246, R254, R255, R267, R277). -/
def Eng.startRelease (e : Eng) (h : Word) (op : Nat) : Eng :=
  e.beginSync h op fun j e =>
    if !e.releaseReady j j.scopeCode j.syncDev then e
    else if j.syncDev = e.device then
      (e.modJob h fun j => { j with stage := .waiting, syncSent := true }).homeGo { act := j.syncOp.act, src := e.ownSrc j, reply := .job h }
    else
      (e.sendNpi j.syncDev (.sync (e.peerSync j) j.syncOp)).modJob h fun j => { j with stage := .waiting, syncSent := true }

/-- FLAG_SET (R254). -/
def execFlagSet (h : Word) (s : State) : Answer := onEng s fun _ e => e.startRelease h opFlagSet

/-- FLAG_CLEAR (R255). -/
def execFlagClear (h : Word) (s : State) : Answer := onEng s fun _ e => e.startRelease h opFlagClear

/-- FOLD_ARRIVE (R267, R269). -/
def execFoldArrive (h : Word) (s : State) : Answer := onEng s fun _ e => e.startRelease h opFoldArrive

/-- TIMEOUT_NS: all ones sets no deadline (R256, R259). -/
def timeoutOf (bits t : Nat) : Option Nat := if t = 2 ^ bits - 1 then none else some t

/-- The wait message of a FLAG_WAIT. -/
def Job.waitMsg (j : Job) (m : PeerSync) : NpiMsg :=
  .wait m ((j.w 1).extractLsb' 0 18) (bitOf (j.w 3) 0) ((j.w 2).extractLsb' 0 48)

/-- FLAG_WAIT (R248, R256, R257): it registers at its flag's home. -/
def execFlagWait (h : Word) (s : State) : Answer :=
  onEng s fun _ e => e.beginSync h opFlagWait fun j e =>
    if j.syncDev = e.device then
      let (id, e) := e.nextWaitId
      let w : Wait := { id := id, flag := (j.w 1).extractLsb' 0 18, who := .job h, forClear := bitOf (j.w 3) 0
                        timeout := timeoutOf 48 (fld (j.w 2) 47 0), scope := scopeOf j.scopeCode, start := e.now
                        dist := if j.lead = flagRegion ((j.w 1).extractLsb' 0 18) then .sameRegion else .otherRegion
                        long := false }
      (e.modJob h fun j => { j with stage := .waiting, waitId := some id }).homeGo { act := .wait w, src := e.ownSrc j }
    else
      let id := e.npi.nextReq
      ((e.sendNpi j.syncDev (j.waitMsg (e.peerSync j))).modJob h fun j =>
        { j with stage := .waiting, syncSent := true, waitId := some id }).lendRegion j.lead

/-! ### Acknowledgements -/

/-- A peer home's answer to a flag or fold operation (R254, R269). -/
def Eng.syncAck (e : Eng) (h : Word) (st : Status) : Eng :=
  match e.job h with
  | none => e
  | some j =>
    if j.stage = .waiting && j.syncSent && decide (j.syncDev ≠ e.device) && decide (j.opcode ≠ opFlagWait) then e.homeAnswered h st
    else e

/-- WRITE_ACK (R32, R235, R254): a point of coherence acknowledges. -/
def execWriteAck (t : AckTarget) (reply : AckReply) (s : State) : Answer :=
  onMem s fun m e => (match t with
    | .job h st pos n => (e.jobAck m h st pos n reply).andThen m fun m e => e.endDisables.goOn m h
    | .peer id => e.peerAck m id reply
    | .die id => e.dieAck id
    | .sync h => ⟨e.syncAck h reply.status, []⟩).on Eng.noteWork

/-! ### Requests of peers -/

/-- PEER_PUT (R32, R107, R161). -/
def execPeerPut (q : PeerReq) (bytes : List Byte) (scatter : Bool) (s : State) : Answer :=
  onEng s fun m e => e.peerArrives m q (.put scatter) bytes

/-- PEER_GET (R32, R107). -/
def execPeerGet (q : PeerReq) (s : State) : Answer := onEng s fun m e => e.peerArrives m q .get []

/-- PEER_ACCUMULATE (R32, R170, R171). NPI_TALLY_ACC_RX counts what arrives. DESIGN CHOICE (log 80): a request that is refused and sent again
arrives twice, and counts twice here and once where it was issued (R174, R412). -/
def execPeerAccumulate (q : PeerReq) (op dtype : BitVec 2) (bytes : List Byte) (fill : BitVec 32) (poisoned : List Nat)
    (s : State) : Answer :=
  onEng s fun m e => (e.count subNpi 0 1).peerArrives m q (.acc op dtype fill poisoned) bytes

/-- The stamp an event of a peer is judged by: the receipt stamp where the peer is UNSYNCED (R440). -/
def Eng.judged (e : Eng) (d : DevNum) (stamp : Word) : Word := if e.peerState d = 2 then e.now else stamp

def Eng.peerSrc (e : Eng) (m : PeerSync) : SyncSrc :=
  { dev := m.dev, src := m.src, pk := m.paddock, scope := m.scope, stamp := e.judged m.dev m.stamp, ctx := some m.ctx }

/-- A peer's operation passes to its home here, which checks it, applies it and answers (R253, R438). -/
def Eng.applyPeerSync (e : Eng) (m : PeerSync) (op : SyncOp) : Eng := e.homeGo { act := op.act, src := e.peerSrc m, reply := .peer m.dev m.id }

/-- A flag or fold operation of a queue pair has not been acknowledged: its home has yet to wake (R246, R277). -/
def Eng.atHome (e : Eng) (d : DevNum) (c : CtxNum) : Bool :=
  e.syn.events.any fun v => v.src.ctx = some c && match v.reply with
    | .peer d' _ => d' = d
    | _ => false

/-- A peer's release arrives at NPI, which holds it behind the earlier requests of its queue pair (R246, R412). -/
def Eng.peerSyncArrives (e : Eng) (mem : Memory) (m : PeerSync) (op : SyncOp) : Eng :=
  let e := e.heard mem m.dev
  let behind := (e.npi.serving.filter fun x => x.q.dev = m.dev && x.q.ctx = m.ctx).map (·.id)
  if e.refusing then e.emit (.npi m.dev (.refused m.id))
  else if behind = [] && !e.atHome m.dev m.ctx && !(e.npi.heldSync.any fun x => x.m.dev = m.dev && x.m.ctx = m.ctx) then e.applyPeerSync m op
  else { e with npi := { e.npi with heldSync := e.npi.heldSync ++ [⟨m, op, behind⟩] } }

/-- PEER_FLAG_SET (R253, R254, R246). -/
def execPeerFlagSet (m : PeerSync) (f : BitVec 18) (s : State) : Answer := onEng s fun mem e => e.peerSyncArrives mem m (.set f)

/-- PEER_FLAG_CLEAR (R253, R255, R246). -/
def execPeerFlagClear (m : PeerSync) (f : BitVec 18) (s : State) : Answer := onEng s fun mem e => e.peerSyncArrives mem m (.clear f)

/-- PEER_FOLD_ARRIVAL (R267, R269, R246). -/
def execPeerFoldArrival (m : PeerSync) (g : BitVec 16) (n : Byte) (s : State) : Answer :=
  onEng s fun mem e => e.peerSyncArrives mem m (.arrive g n)

/-- RELEASE_PASS_TO_SYN (R246): every earlier request of the queue pair is acknowledged, and its oldest held release passes. -/
def execReleasePassToSyn (d : DevNum) (c : CtxNum) (s : State) : Answer :=
  onEng s fun _ e =>
    match e.npi.heldSync.find? fun x => x.m.dev = d && x.m.ctx = c with
    | none => e
    | some x =>
      if x.behind ≠ [] || e.atHome d c then e
      else ({ e with npi := { e.npi with heldSync := e.npi.heldSync.erase x } } : Eng).applyPeerSync x.m x.op

/-- PEER_WAIT (R256, R257, R274, R438). -/
def execPeerWait (m : PeerSync) (f : BitVec 18) (waitFor : Bool) (timeout : BitVec 48) (s : State) : Answer :=
  onEng s fun mem e =>
    let e := e.heard mem m.dev
    if e.refusing then e.emit (.npi m.dev (.refused m.id))
    else
      let (id, e) := e.nextWaitId
      let (dist, e) := e.routeTo m.dev
      let w : Wait := { id := id, flag := f, who := .peer m.dev m.ctx m.id, forClear := waitFor
                        timeout := timeoutOf 48 timeout.toNat, scope := m.scope, start := e.now, dist := dist, long := false }
      e.homeGo { act := .wait w, src := e.peerSrc m }

/-- FORWARDED_ARRIVAL (R267 to R269, R441). -/
def execForwardedArrival (m : PeerSync) (g child : BitVec 16) (s : State) : Answer :=
  onEng s fun mem e =>
    let e := e.heard mem m.dev
    if e.refusing then e.emit (.npi m.dev (.refused m.id))
    else e.homeGo { act := .child g child, src := e.peerSrc m }

/-- FOLD_RELEASE (R268, R270): a release from the fold's parent, with the parent fold as its source. -/
def execFoldRelease (d : DevNum) (g : BitVec 16) (scope : Scope) (stamp : Word) (s : State) : Answer :=
  onEng s fun m e =>
    let e := e.heard m d
    let fo := e.fold g
    if e.refusing || fo.parentDev ≠ d then e
    else e.homeGo { act := .release g, src := ⟨d, foldSrc fo.parentFold, fo.paddock, scope, e.judged d stamp, none⟩ }

/-- WAIT_WITHDRAWAL (R439): the home frees the record. -/
def execWaitWithdrawal (d : DevNum) (c : CtxNum) (id : Nat) (s : State) : Answer :=
  onEng s fun m e => (e.heard m d).endWaits (fun w => w.who = .peer d c id) none

/-- REMOTE_WAIT_RESULT (R274, R439): the first result of a wait registered at a peer completes the FLAG_WAIT. -/
def execRemoteWaitResult (d : DevNum) (c : CtxNum) (id : Nat) (st : Status) (det : Word) (s : State) : Answer :=
  onEng s fun m e =>
    let e := e.heard m d
    match e.jobs.find? fun j => j.ctx = c && j.waitId = some id && j.stage = .waiting && j.syncSent && j.syncDev = d with
    | none => e
    | some j => e.waitEnds j.handle st det e.now

/-- REMOTE_WAIT_RETRY (R257): 1 µs after a peer's home had no record, NPI sends the wait again; not in the Fatal state (R372). -/
def execRemoteWaitRetry (h : Word) (s : State) : Answer :=
  onEng s fun _ e =>
    match e.job h with
    | none => e
    | some j =>
      if j.opcode = opFlagWait && j.stage = .waiting && j.syncSent && j.answer.isNone && !e.mute then
        let e := e.advanceTo (e.now + 1000)
        e.emit (.npi j.syncDev (j.waitMsg { e.peerSync j with id := j.waitId.getD 0 }))
      else e

/-- The request number of a message to a peer. -/
def NpiMsg.reqId : NpiMsg → Option Nat
  | .put q _ _ => some q.id
  | .get q => some q.id
  | .acc q _ _ _ _ _ => some q.id
  | .sync m _ => some m.id
  | .wait m _ _ _ => some m.id
  | .forwarded m _ _ => some m.id
  | _ => none

/-- The request with a number, as it was sent; numbers begin again with a cold reset. -/
def Eng.sentMsg (e : Eng) (id : Nat) : Option Out :=
  if id < e.npi.nextReq then e.out.reverse.find? fun o => match o with
    | .npi _ m => m.reqId = some id
    | _ => false
  else none

/-- PEER_REFUSAL_RESEND (R412): 1 µs later a refused request is sent again. -/
def execPeerRefusalResend (id : Nat) (s : State) : Answer :=
  onEng s fun _ e =>
    match e.sentMsg id with
    | some o => if e.mute then e else (e.advanceTo (e.now + 1000)).emit o
    | none => e

/-- The element is on its way to a peer. -/
def El.toPeer (x : El) (d : DevNum) : Bool :=
  match x with
  | .fly q _ _ => (match q.dest with | .peer d' _ => d' = d | _ => false)
  | _ => false

/-- The requests of a stream that are on their way to a peer, in the order of its walker. -/
def Job.shotsTo (j : Job) (d : DevNum) (st : StreamId) : List Shot :=
  ((j.els st).filterMap fun x => match x.2 with
    | .fly q v bad => if x.2.toPeer d then some (j.shot st x.1 q v bad) else none
    | _ => none).mergeSort fun a b => a.num ≤ b.num

/-- A descriptor's requests to a peer that has lost them (R412): a class I descriptor sends them again, a class A descriptor
completes ABANDONED. DESIGN CHOICE (log 101): a FLAG_WAIT there that ends ORPHANED counts in SYN_TALLY_ORPHAN of the region that the peer's flag number
names. -/
def Eng.lostAt (e : Eng) (d : DevNum) (h : Word) : Eng :=
  match e.job h with
  | none => e
  | some j =>
    let shots := [StreamId.idx, .src, .scaleIn, .dst, .scaleOut].flatMap fun st => j.shotsTo d st
    let op := j.syncSent && decide (j.stage = .waiting) && decide (j.syncDev = d)
    if j.stage = .finished || j.stage = .spooled || (shots = [] && !op) then e
    else if op && j.opcode = opFlagWait then
      if j.answer.isSome then e
      else (e.count subSyn (16 + (flagRegion ((j.w 1).extractLsb' 0 18)).toNat) 1).waitEnds h stOrphaned (BitVec.ofNat 64 (fld (j.w 1) 29 0)) e.now
    else if j.cls = .a then e.finish h stAbandoned 0
    else if e.mute then e
    else if op then e.sendNpi d (.sync (e.peerSync j) j.syncOp)
    else (runsOf j.width shots).foldl (fun e r => e.sendRun j r) e

/-- PEER_RESET_NOTICE (R412, R413): the waits here that the peer registered are freed, those registered there end ORPHANED,
and the requests it has not acknowledged are lost. -/
def execPeerResetNotice (d : DevNum) (s : State) : Answer :=
  onEng s fun m e =>
    let e := (e.heard m d).endWaits (fun w => match w.who with
      | .peer d' _ _ => d' = d
      | _ => false) none
    (e.jobs.map (·.handle)).foldl (fun e h => e.lostAt d h) e

/-! ### Waits at this device's homes -/

/-- WAIT_RECORD_OBTAINED (R257): a record has freed, and a held wait obtains it. -/
def execWaitRecordObtained (id : Nat) (s : State) : Answer :=
  onEng s fun _ e =>
    match e.syn.held.find? (·.id = id) with
    | none => e
    | some w =>
      if e.waitRecords (flagRegion w.flag) < 16384 then
        let x : SyncSrc := ⟨(e.waiterSrc w.who).1, (e.waiterSrc w.who).2, e.waiterPaddock w.who, w.scope, e.now, none⟩
        (e.modSyn fun s => { s with held := s.held.filter (·.id ≠ id) }).homeGo { act := .wait w, src := x }
      else e

/-- LONG_WAIT (R278): a wait has been pending for 4 µs, which one with an earlier deadline never is. -/
def execLongWait (id : Nat) (s : State) : Answer :=
  onEng s fun _ e =>
    match e.syn.waits.find? (·.id = id) with
    | none => e
    | some w => if w.long || (w.timeout.map fun t => decide (t < 4000)).getD false then e else (e.advanceTo (w.start + 4000)).makeLong w

/-! ### Compute dies (R259, R293, R464) -/

/-- A message of a die arrives at OPI, which ends Dormant, and is held until the exit has ended; one of a die that is not enabled is ignored
(R346, R464), and one that comes during the reset phase is not taken (R413). -/
def Eng.fromDie (e : Eng) (m : Memory) (d : DieNum) (f : Eng → Eng) : Eng :=
  let e := e.ended m
  if !(e.dieCfg d).enable || decide (e.svc.reset.phase = .resetting) then e else f e.wakeEngine

/-- The requester of a die's operation: the paddock of its sync context, at DEVICE scope, stamped at OPI (R253, R259). -/
def Eng.dieReq (e : Eng) (d : DieNum) : SyncSrc :=
  let c := (e.dieCfg d).syncCtx
  { dev := e.device, src := dieSrc d, pk := (e.ctx c).paddock, scope := .device, stamp := e.now, ctx := some c }

def Eng.dieFlag (e : Eng) (m : Memory) (d : DieNum) (f : BitVec 18) (v : Bool) : Eng :=
  e.fromDie m d fun e => e.homeGo { act := .flag f v, src := e.dieReq d, reply := .die d f }

/-- DIE_SET (R259). -/
def execDieSet (d : DieNum) (f : BitVec 18) (s : State) : Answer := onEng s fun m e => e.dieFlag m d f true

/-- DIE_CLEAR (R259). -/
def execDieClear (d : DieNum) (f : BitVec 18) (s : State) : Answer := onEng s fun m e => e.dieFlag m d f false

/-- A die's outstanding DIE_WAITs. -/
def Eng.dieWaits (e : Eng) (d : DieNum) : Nat :=
  ((e.syn.waits ++ e.syn.held ++ e.syn.events.filterMap fun v => v.act.waitOf).filter fun w => match w.who with
    | .die d' _ => d' = d
    | _ => false).length

/-- DIE_WAIT (R257, R259): at most 256 a die. -/
def execDieWait (d : DieNum) (f : BitVec 18) (waitFor : Bool) (timeout : BitVec 32) (token : BitVec 16) (s : State) : Answer :=
  onEng s fun m e => e.fromDie m d fun e =>
    if 256 ≤ e.dieWaits d then e.emit (.die d (.wake token stBusy 0))
    else
      let (id, e) := e.nextWaitId
      let w : Wait := { id := id, flag := f, who := .die d token, forClear := waitFor, timeout := timeoutOf 32 timeout.toNat
                        scope := .device, start := e.now, dist := .die, long := false }
      e.homeGo { act := .wait w, src := e.dieReq d }

/-- DIE_ACCESS (R293, R464). An access of a die that is not enabled fails with ACCESS_FAULT. -/
def execDieAccess (a : DieAccess) (s : State) : Answer :=
  onEng s fun m e =>
    let e := e.ended m
    let x : DieServe := { a := a, req := none }
    if !(e.dieCfg a.die).enable then
      (e.count subAtg (8 + a.die.toNat) 1).emit (.die a.die (.answer a.id stAccessFault []))
    else
      let e : Eng := { e.wakeEngine with opi := { e.opi with serving := e.opi.serving ++ [x] } }
      (e.count subAtg a.die.toNat 1).startDie x

/-! ### Configuration (R251, R263, R266) -/

/-- FLAG_CFG_WRITE (R251). -/
def execFlagCfgWrite (w : RegWrite) (s : State) : Answer :=
  onEng s fun m e => e.access m subSyn fun e =>
    let f := e.syn.flagSel
    let e := e.orphanAll e.now fun x => x.flag = f
    let fl := e.flag f
    e.setFlag f { fl with
      value := false, scope := .context
      owned := wrBit w.half w.value 63 fl.owned
      paddock := BitVec.ofNat 12 (wrField w.half w.value 43 32 fl.paddock.toNat)
      owner := BitVec.ofNat 20 (wrField w.half w.value 19 0 fl.owner.toNat) }

/-- The fields of SYN_FOLD_CFG after a write made while ENABLE reads 0 (R263). -/
def Fold.load (fo : Fold) (w : RegWrite) : Fold :=
  { fo with
    root := wrBit w.half w.value 62 fo.root
    paddock := BitVec.ofNat 12 (wrField w.half w.value 61 50 fo.paddock.toNat)
    rflagEn := wrBit w.half w.value 49 fo.rflagEn
    rflagAlt := wrBit w.half w.value 48 fo.rflagAlt
    releaseFlag := BitVec.ofNat 18 (wrField w.half w.value 35 18 fo.releaseFlag.toNat)
    expect := BitVec.ofNat 16 (wrField w.half w.value 15 0 fo.expect.toNat) }

/-- A fold may be enabled (R266). -/
def Eng.foldReady (e : Eng) (fo : Fold) : Bool :=
  decide (1 ≤ fo.expect.toNat) && (!fo.rflagEn || ((e.flag fo.releaseFlag).owned && decide ((e.flag fo.releaseFlag).paddock = fo.paddock)))

/-- FOLD_CFG_WRITE (R263, R266). -/
def execFoldCfgWrite (w : RegWrite) (s : State) : Answer :=
  onEng s fun m e => e.access m subSyn fun e =>
    let g := e.syn.foldSel
    let fo := e.fold g
    let on := wrBit w.half w.value 63 fo.enable
    if fo.enable then
      if on then e
      else e.setFold g { fo with enable := false, count := 0, children := [], scopeMin := .context, state := .disabled }
    else
      let fo := fo.load w
      if on && e.foldReady fo then
        e.setFold g { fo with enable := true, count := 0, children := [], episode := 0, state := .counting, scopeMin := .context }
      else e.setFold g fo

/-! ### A context closes (R44, R260, R261) -/

/-- A FLAG_WAIT ends before its condition holds, with a status: one at a peer's home at once, its record withdrawn (R439); one at a home of this
device there, after the events that reached the home before (R270); one whose deadline has fired has its result on its way (R271). -/
def Eng.stopWait (e : Eng) (j : Job) (st : Status) : Eng :=
  if j.syncSent then (e.emit (.npi j.syncDev (.withdraw j.ctx (j.waitId.getD 0)))).finish j.handle st 0
  else if (e.syn.waits ++ e.syn.held ++ e.syn.events.filterMap fun v => v.act.waitOf).any fun w => w.who = .job j.handle then
    e.endWaits (fun w => w.who = .job j.handle) (some (st, 0))
  else e.finish j.handle st 0

/-- A FLAG_WAIT of a context that enters CLOSING under RESET ends with CANCELLED (R261, R439); one that has its result is released already, and so is
one that an earlier set at its home releases (R273). -/
def Eng.cancelWait (e : Eng) (j : Job) : Eng := e.stopWait j stCancelled

/-- A wait's deadline fires on the AO timer wheel (R256, R271, R272): in the first AO cycle that begins after it, with the completion ready 10 to 20 ns after it.
It is work for the home's region, which wakes for it (R343). -/
def Eng.fireDeadline (e : Eng) (w : Wait) : Eng :=
  match w.deadline with
  | none => e
  | some t =>
    let e := e.advanceTo (BitVec.ofNat 64 (t + 1))
    let e : Eng := { e with svc := { e.svc with wheelAt := some e.aoCycle } }
    if e.active (.region (flagRegion w.flag)) then e.timeoutWait w
    else (e.freeWait w.id).homeGo { act := .expire w, src := ⟨e.device, 0, 0, .context, BitVec.ofNat 64 t, none⟩ }

/-- WAIT_DEADLINE (R256, R271). -/
def execWaitDeadline (id : Nat) (s : State) : Answer :=
  onEng s fun _ e =>
    match e.syn.waits.find? (·.id = id) with
    | none => e
    | some w => e.fireDeadline w

/-- The deadlines that are due by stamp `t`, earliest first. -/
def Eng.fireDue (e : Eng) (t : Word) : Eng :=
  let due := e.syn.waits.filter fun w => (w.deadline.map fun d => decide (d < t.toNat)).getD false
  (due.mergeSort fun a b => decide (a.deadline.getD 0 ≤ b.deadline.getD 0)).foldl Eng.fireDeadline e

/-- RESET (R44, R261). -/
def execReset (s : State) : Answer :=
  onEng s fun m e => e.ctxCommand m (fun st => decide (st ≠ .closing)) fun c _ e =>
    let e := (e.close c .byReset).cancelUnbegun c
    (e.jobs.filter fun j => j.ctx = c && j.opcode = opFlagWait && (j.stage = .running || j.stage = .waiting) && j.answer.isNone).foldl
      Eng.cancelWait e

/-- The reset of an owner reaches the homes at which waits stand (R260, R270). -/
def Eng.ownerReset (e : Eng) (c : CtxNum) : Eng :=
  (regions.filter fun r => e.syn.waits.any fun w => flagRegion w.flag = r).foldl
    (fun e r => e.homeGo { act := .owner c r, src := ⟨e.device, ctxSrc c, (e.ctx c).paddock, .context, e.now, none⟩ }) e

/-- CONTEXT_CLOSED (R44, R260): a CLOSING context's last outstanding completion is in its completion ring. -/
def execContextClosed (c : CtxNum) (s : State) : Answer :=
  onEng s fun _ e =>
    let x := e.ctx c
    if x.state ≠ .closing || x.outstanding ≠ 0 then e
    else
      let e := match x.closing with
        | some .byReset => (e.modCtx c fun x => { x with gen := x.gen + 1 }).ownerReset c
        | _ => e
      let busy := if e.cxs.busy = .closing c then CtxBusy.idle else e.cxs.busy
      { (e.modCtx c fun x => { x with state := .disabled, closing := none }) with cxs := { e.cxs with busy := busy } }

end Sys2Proof.Machine
end

