-- ==== Sys2Proof/Machine/Pdk.lean ====
section
/-! DEFINITION. Invalidations of view records, translations and reach bytes (03: R84, R113, R114; 09: R292), and the commands of
ATG_PDK_CMD (09: R299 to R302, R313 to R316). -/

namespace Sys2Proof.Machine

/-! ### Requests in flight -/

def mapEls (f : Req → Req) (els : SMap El) : SMap El :=
  els.map fun x => match x.2 with
    | .fly q v b => (x.1, .fly (f q) v b)
    | _ => x

def elHas (p : Req → Bool) (x : Nat × El) : Bool :=
  match x.2 with
  | .fly q _ _ => p q
  | _ => false

/-- The requests of descriptors in flight changed, by slice and paddock. -/
def Eng.mapJobReqs (e : Eng) (f : Region → PdkNum → Req → Req) : Eng :=
  { e with
    jobs := e.jobs.map fun j =>
      let g := f j.lead j.paddock
      { j with idxEl := mapEls g j.idxEl, srcEl := mapEls g j.srcEl, scaleInEl := mapEls g j.scaleInEl
               dstEl := mapEls g j.dstEl, scaleOutEl := mapEls g j.scaleOutEl } }

/-- The requests of peers changed, by slice and paddock. -/
def Eng.mapPeerReqs (e : Eng) (f : Region → PdkNum → Req → Req) : Eng :=
  { e with npi := { e.npi with serving := e.npi.serving.map fun s => { s with req := s.req.map (f (peerSlice s.q) s.q.paddock) } } }

/-- Every request in flight changed, by slice and paddock. -/
def Eng.mapReqs (e : Eng) (f : Region → PdkNum → Req → Req) : Eng :=
  let e := (e.mapJobReqs f).mapPeerReqs f
  { e with opi := { e.opi with serving := e.opi.serving.map fun s => { s with req := s.req.map (f s.a.die s.a.paddock) } } }

/-- Some request in flight, with its paddock, meets a condition. -/
def Eng.anyReq (e : Eng) (p : PdkNum → Req → Bool) : Bool :=
  (e.jobs.any fun j => [j.idxEl, j.srcEl, j.scaleInEl, j.dstEl, j.scaleOutEl].any fun els => els.any (elHas (p j.paddock)))
    || (e.npi.serving.any fun s => (s.req.map (p s.q.paddock)).getD false)
    || e.opi.serving.any fun s => (s.req.map (p s.a.paddock)).getD false

/-- The request was translated here. -/
def Req.near (q : Req) : Bool := match q.dest with | .peer _ _ => false | _ => true

/-! ### View records (R84) -/

def VcInv.hits (i : VcInv) (c : VcEntry) : Bool :=
  (i.op = 1 && c.paddock = i.ofPaddock && c.view = i.ofView) || (i.op = 2 && c.paddock = i.ofPaddock) || i.op = 3

def Eng.dropViews (e : Eng) (p : VcEntry → Bool) : Eng :=
  { e with wlk := { e.wlk with cache := e.wlk.cache.map fun c => c.filter fun x => !p x } }

/-- A write of WLK_VC_INV with an OP: ignored as to OP while BUSY is 1. -/
def Eng.vcInv (e : Eng) (m : Memory) (w : RegWrite) (op : BitVec 2) : Eng :=
  e.access m subWlk fun e =>
    let i := e.wlk.inv
    let i : VcInv := { i with
      paddock := BitVec.ofNat 12 (wrField w.half w.value 47 36 i.paddock.toNat)
      view := BitVec.ofNat 24 (wrField w.half w.value 23 0 i.view.toNat) }
    if i.busy || !halfCovers w.half 56 then { e with wlk := { e.wlk with inv := i } }
    else
      let i : VcInv := { i with busy := true, op := op, ofPaddock := i.paddock, ofView := i.view }
      ({ e with wlk := { e.wlk with inv := i } } : Eng).dropViews i.hits

/-- VC_INV_ONE (R84). -/
def execVcInvOne (w : RegWrite) (s : State) : Answer := onEng s fun m e => e.vcInv m w 1

/-- VC_INV_PADDOCK (R84). -/
def execVcInvPaddock (w : RegWrite) (s : State) : Answer := onEng s fun m e => e.vcInv m w 2

/-- VC_INV_EVERY (R84). -/
def execVcInvEvery (w : RegWrite) (s : State) : Answer := onEng s fun m e => e.vcInv m w 3

/-- VC_INV_DONE (R84): the last matching entry and lookup are gone. -/
def execVcInvDone (s : State) : Answer :=
  onEng s fun _ e =>
    let i := e.wlk.inv
    if i.busy then ({ e with wlk := { e.wlk with inv := { i with busy := false } } } : Eng).dropViews i.hits else e

/-! ### Translations (R113, R114) -/

/-- The cached leaves that `p` picks are removed in all four slices, and requests translated through them are marked. -/
def Eng.dropLeaves (e : Eng) (p : TlbEntry → Bool) : Eng :=
  let old := e.atg.tlb
  let through := fun (r : Region) (pn : PdkNum) (q : Req) => (old.getD r.toNat []).any fun t =>
    p t && decide (t.paddock = pn) && decide (t.va ≤ q.va) && decide (q.va < t.va + 2 ^ t.leaf.log2)
  let e := e.mapReqs fun r pn q => if q.near && through r pn q then { q with oldLeaf := true } else q
  { e with atg := { e.atg with tlb := old.map fun l => l.filter fun t => !p t } }

def Atg.invHits (a : Atg) (t : TlbEntry) : Bool :=
  (a.invOp = 1 && t.paddock = a.invOf && t.overlaps a.invLo a.invSize) || (a.invOp = 2 && t.paddock = a.invOf) || a.invOp = 3

/-- The paddocks that an invalidation concerns. -/
def Atg.invPdk (a : Atg) (p : PdkNum) : Bool := a.invOp = 3 || p = a.invOf

/-- The walks in progress for what is invalidated start again from the ROOT that stands now, so that none brings an old leaf once BUSY reads 0
(R114). -/
def Eng.restartWalks (e : Eng) : Eng :=
  let again := fun (w : Walk) => if e.atg.invPdk w.paddock then { w with root := (e.pdk w.paddock).ptRoot } else w
  { e with atg := { e.atg with walks := e.atg.walks.map fun l => l.map again } }

/-- A write of ATG_TLB_INV_CTL with an OP. Its fields lie in the high half. -/
def Eng.tlbInv (e : Eng) (m : Memory) (w : RegWrite) (op : BitVec 2) : Eng :=
  e.access m subAtg fun e =>
    let a := e.atg
    let a : Atg := { a with
      invLog2 := BitVec.ofNat 6 (wrField w.half w.value 53 48 a.invLog2.toNat)
      invPaddock := BitVec.ofNat 12 (wrField w.half w.value 47 36 a.invPaddock.toNat) }
    if a.invBusy || !halfCovers w.half 56 then { e with atg := a }
    else
      let n := if 16 ≤ a.invLog2.toNat && a.invLog2.toNat ≤ 48 then a.invLog2.toNat else 48
      let va := a.invVa.toNat * 65536
      let a : Atg := { a with invBusy := true, invOp := op, invOf := a.invPaddock, invLo := va / 2 ^ n * 2 ^ n, invSize := 2 ^ n }
      (({ e with atg := a } : Eng).dropLeaves a.invHits).restartWalks

/-- TLB_INV_RANGE (R113). -/
def execTlbInvRange (w : RegWrite) (s : State) : Answer := onEng s fun m e => e.tlbInv m w 1

/-- TLB_INV_PADDOCK (R113). -/
def execTlbInvPaddock (w : RegWrite) (s : State) : Answer := onEng s fun m e => e.tlbInv m w 2

/-- TLB_INV_EVERY (R113). -/
def execTlbInvEvery (w : RegWrite) (s : State) : Answer := onEng s fun m e => e.tlbInv m w 3

/-- TLB_INV_DONE (R114): the leaves that have come in since are removed too, and BUSY clears once no request translated through a removed
leaf is in flight. -/
def execTlbInvDone (s : State) : Answer :=
  onEng s fun _ e =>
    if e.atg.invBusy then
      let e := (e.dropLeaves e.atg.invHits).restartWalks
      if e.anyReq (fun _ q => q.oldLeaf) then e else { e with atg := { e.atg with invBusy := false } }
    else e

/-! ### Reach bytes (R292, R300) -/

/-- A paddock's cached reach bytes are removed, and the requests that a reach byte has judged are marked: those to peers, and those of peers
(R291, R300). -/
def Eng.dropReach (e : Eng) (p : PdkNum) : Eng :=
  let e := (e.mapJobReqs fun _ pn q => if pn = p && !q.near then { q with oldReach := true } else q).mapPeerReqs
    fun _ pn q => if pn = p then { q with oldReach := true } else q
  { e with atg := { e.atg with reach := e.atg.reach.map fun l => l.filter (·.1 ≠ p) } }

/-! ### ATG_PDK_CMD (R299 to R302, R316) -/

def Eng.pdkBusy (e : Eng) (b : PdkBusy) : Eng := { e with atg := { e.atg with cmdBusy := b } }
def Eng.pdkResult (e : Eng) (r : BitVec 4) : Eng := { e with atg := { e.atg with cmdResult := r } }

/-- RESULT codes (R299). -/
def resOk : BitVec 4 := 0
def resBusy : BitVec 4 := 1
def resBadState : BitVec 4 := 2

/-- A command on the selected paddock, unless one is in progress (R299). ARG and OP lie in the low half. -/
def Eng.pdkCommand (e : Eng) (m : Memory) (w : RegWrite) (f : Eng → Eng) : Eng :=
  e.access m subAtg fun e =>
    if !halfCovers w.half 0 then e
    else
      let e : Eng := { e with atg := { e.atg with cmdArg := w.value.extractLsb' 8 4 } }
      if e.atg.cmdBusy = .idle then f e else e

def Eng.selPdk (e : Eng) : Paddock := e.pdk e.atg.sel

/-- ROTATE (R300). -/
def execRotate (w : RegWrite) (s : State) : Answer :=
  onEng s fun m e => e.pdkCommand m w fun e =>
    let p := e.selPdk
    let a := e.atg.cmdArg
    if p.sweeping || p.scrubbing then e.pdkResult resBusy
    else if p.live.getLsbD a.toNat then e.pdkResult resBadState
    else (e.modPdk e.atg.sel fun p => { p with live := p.live ||| BitVec.ofNat 16 (2 ^ a.toNat), writeEpoch := a }).pdkResult resOk

/-- RETIRE (R300, R301): the census begins; it is work for every region (R342). -/
def execRetire (w : RegWrite) (s : State) : Answer :=
  onEng s fun m e => e.pdkCommand m w fun e =>
    let p := e.selPdk
    let a := e.atg.cmdArg
    if p.sweeping || p.scrubbing then e.pdkResult resBusy
    else if a = p.writeEpoch || !p.live.getLsbD a.toNat then e.pdkResult resBadState
    else (e.pdkBusy (.census a)).wakeMany regions

/-! ### The walk of a paddock's whole page tables (R301, R304) -/

/-- An entry that a table walk meets: the first address it covers, their number as a power of two, its own address, and its
leaf, or the level at which it is malformed. -/
structure Found where
  va : Nat
  log2 : Nat
  ea : Nat
  leaf : Option Leaf
  level : Nat
  deriving DecidableEq, Repr

/-- One entry: nothing where it is not valid; a leaf; a malformed or unreadable entry; or what the next table holds. -/
def foundAt (m : Memory) (bad : List Nat) (ea level log2 va : Nat) (next : Nat → List Found) : List Found :=
  let w := m.word ea
  if bad.contains ea then [⟨va, log2, ea, none, level⟩]
  else if !bitOf w 0 then []
  else if bitOf w 1 then [⟨va, log2, ea, if leafOk w log2 then some (leafOf w log2) else none, level⟩]
  else if level = 3 || fld w 7 2 ≠ 0 || (level = 1 && fld w 11 8 ≠ 0) then [⟨va, log2, ea, none, level⟩]
  else next (fld w 63 8 * 256)

/-- Every leaf and every malformed entry of a paddock's tables from `from_` on, in ascending address order; `bad` lists the
entries that the memory controller reports uncorrectable. -/
def tableFrom (m : Memory) (p : Paddock) (bad : List Nat) (from_ : Nat) : List Found :=
  let upTo := fun (n va size : Nat) => (List.range n).filter fun i => decide (from_ < va + (i + 1) * size)
  if p.ptRoot = 0 then []
  else (upTo (2 ^ l1Log2 p) 0 (2 ^ 30)).flatMap fun i =>
    foundAt m bad (p.ptRoot.toNat * 4096 + 8 * i) 1 30 (i * 2 ^ 30) fun t2 =>
      (upTo 512 (i * 2 ^ 30) (2 ^ 21)).flatMap fun j =>
        foundAt m bad (t2 + 8 * j) 2 21 (i * 2 ^ 30 + j * 2 ^ 21) fun t3 =>
          (upTo 32 (i * 2 ^ 30 + j * 2 ^ 21) (2 ^ 16)).flatMap fun k =>
            foundAt m bad (t3 + 8 * k) 3 16 (i * 2 ^ 30 + j * 2 ^ 21 + k * 2 ^ 16) fun _ => []

/-- CENSUS_DONE (R300 to R302): the pages of the epoch, in 64 KiB units, decide the RETIRE. -/
def execCensusDone (bad : List Nat) (s : State) : Answer :=
  onEng s fun m e =>
    match e.atg.cmdBusy with
    | .census a =>
      let fs := tableFrom m e.selPdk bad 0
      let n := (fs.map fun f => match f.leaf with
        | some l => if !l.host && l.epoch = a then 2 ^ (f.log2 - 16) else 0
        | none => 0).sum
      let e := (fs.filter fun f => f.leaf.isNone).foldl (fun e f => e.noteMalformed 0 e.atg.sel f.va f.level) e
      let e : Eng := { e with atg := { e.atg with censusEpoch := a, censusPages := BitVec.ofNat 40 (min n (2 ^ 40 - 1)) } }
      (if 0 < n then (e.pdkResult resBusy).pdkBusy .idle else e.pdkBusy (.retiring a)).noteWork
    | _ => e

/-- REACH_INV (R292, R300). -/
def execReachInv (w : RegWrite) (s : State) : Answer :=
  onEng s fun m e => e.pdkCommand m w fun e => (e.dropReach e.atg.sel).pdkBusy .reach

/-- Another paddock's LOADED slot (R316). -/
def Eng.slotTaken (e : Eng) (p : PdkNum) (slot : Byte) : Bool :=
  e.pdks.any fun x => x.1 ≠ p.toNat && decide (x.2.wkeyState = .loaded) && x.2.slot = slot

/-- WKEY_LOAD (R316): where the state allows it, the cipher engine is asked to unwrap the blob; on any refusal STATE becomes REFUSED. -/
def execWkeyLoad (w : RegWrite) (s : State) : Answer :=
  onEng s fun m e => e.pdkCommand m w fun e =>
    let p := e.selPdk
    if p.policy = 0 || p.wkeyState = .loaded || e.slotTaken e.atg.sel p.slot then
      (e.modPdk e.atg.sel fun p => { p with wkeyState := .refused }).pdkResult resBadState
    else (e.emit (.cipherLoad p.slot (p.blobAddr.toNat * 64) p.blobHost)).pdkBusy .wkeyLoad

/-- The key that a slot of the cipher engine holds from now on. -/
def Eng.setSlotKey (e : Eng) (n : Byte) (k : Nat) : Eng :=
  { e with atg := { e.atg with slotKeys := mapSet 0 e.atg.slotKeys n.toNat k } }

/-- The tag names a slot. -/
def Tag.inSlot (t : Tag) (n : Byte) : Bool :=
  match t with
  | .slot n' _ => n' = n
  | _ => false

/-- WKEY_LOAD_DONE (R315, R316): the cipher engine's answer. -/
def execWkeyLoadDone (a : BlobAnswer) (s : State) : Answer :=
  onEng s fun _ e =>
    if e.atg.cmdBusy ≠ .wkeyLoad then e
    else
      let (r, st) : BitVec 4 × WkeyState := match a with
        | .unwrapped _ => (0, .loaded) | .badBlob => (5, .refused) | .notMember => (3, .refused) | .notReleased => (4, .refused)
      let e := match a with
        | .unwrapped k => e.setSlotKey e.selPdk.slot (k + 1)
        | _ => e
      ((e.modPdk e.atg.sel fun p => { p with wkeyState := st }).pdkResult r).pdkBusy .idle

/-- WKEY_ERASE (R316): new requests in the window fault at once. -/
def execWkeyErase (w : RegWrite) (s : State) : Answer :=
  onEng s fun m e => e.pdkCommand m w fun e => (e.modPdk e.atg.sel fun p => { p with erasing := true }).pdkBusy .wkeyErase

/-- The slot is erased (R316, R318). -/
def Eng.eraseSlot (e : Eng) (p : PdkNum) : Eng :=
  ((e.emit (.cipherErase (e.pdk p).slot)).setSlotKey (e.pdk p).slot 0).modPdk p fun x => { x with wkeyState := .empty, erasing := false }

/-- PDK_CMD_DONE (R300, R316): the requests that the command waits for have ended. -/
def execPdkCmdDone (s : State) : Answer :=
  onEng s fun _ e =>
    let p := e.atg.sel
    match e.atg.cmdBusy with
    | .retiring a =>
      if e.anyReq fun pn q => pn = p && q.epoch = some (p, a) then e
      else ((e.modPdk p fun x => { x with live := x.live &&& ~~~ BitVec.ofNat 16 (2 ^ a.toNat) }).pdkResult resOk).pdkBusy .idle
    | .reach =>
      if e.anyReq fun pn q => pn = p && q.oldReach then e
      else ((e.dropReach p).pdkResult resOk).pdkBusy .idle
    | .wkeyErase =>
      if e.anyReq fun pn q => pn = p && q.tag.inSlot (e.pdk p).slot then e
      else ((e.eraseSlot p).pdkResult resOk).pdkBusy .idle
    | _ => e

end Sys2Proof.Machine
end

