-- ==== Sys2Proof/Machine/Sweep.lean ====
section
/-! DEFINITION. REKEY_SWEEP and SCRUB (09: R303 to R312, R317 to R320), and reads served from the scratch granule (09: R307). -/

namespace Sys2Proof.Machine

/-! ### Starting (R303, R317) -/

def Job.isSweep (j : Job) : Bool := j.opcode = opRekeySweep || j.opcode = opScrub

/-- A free slot of the four (R303, R310). -/
def Eng.freeSlot (e : Eng) : Option (BitVec 2) := regions.find? fun n => !e.svc.sweeps.any (·.slot = n)

/-- Sweeps that wait start in acceptance order. -/
def Eng.sweepTurn (e : Eng) (j : Job) : Bool :=
  ((e.jobs.find? fun k => k.isSweep && decide (k.stage = .running)).map (·.handle)) = some j.handle

def Job.sweepOf (j : Job) : PdkNum := (j.w 1).extractLsb' 0 12

/-- A SCRUB's BUSY conditions (R317). -/
def Eng.scrubBusy (e : Eng) (p : PdkNum) : Bool :=
  (e.ctxs.any fun c => c.2.paddock = p && decide (c.2.state ≠ .disabled)) || (e.pdk p).sweeping || (e.pdk p).scrubbing
    || decide ((e.pdk p).live = 0xFFFF)

/-- A REKEY_SWEEP or SCRUB starts, waits for a slot, or is refused (R58, R74, R303, R317). -/
def Eng.startSweep (e : Eng) (j : Job) : Eng :=
  let h := j.handle
  let p := j.sweepOf
  let scrub := decide (j.opcode = opScrub)
  if !(e.ctx j.ctx).operator then e.finish h stNotPermitted 0
  else if e.svc.restarting || !e.sweepTurn j then e
  else match e.freeSlot with
    | none => e
    | some n =>
      if e.svc.scratch = 0 then e.finish h stNotPermitted 0
      else if (if scrub then e.scrubBusy p else (e.pdk p).sweeping || (e.pdk p).scrubbing) then e.finish h stBusy 0
      else
        let w : Sweep := { handle := h, slot := n, scrub := scrub, paddock := p, fromE := (j.w 1).extractLsb' 16 4
                           toE := (j.w 1).extractLsb' 20 4, phase := if scrub then .quiesce else .start }
        let e := e.modJob h fun j => { j with stage := .waiting }
        let e := e.modPdk p fun x => if scrub then { x with scrubbing := true } else { x with sweeping := true }
        { e with svc := { e.svc with sweeps := e.svc.sweeps ++ [w] } }

/-- REKEY_SWEEP (R303, R304). -/
def execRekeySweep (h : Word) (s : State) : Answer :=
  onEng s fun _ e => e.beginSimple h opRekeySweep fun j e => e.startSweep j

/-- SCRUB (R317, R318). -/
def execScrub (h : Word) (s : State) : Answer := onEng s fun _ e => e.beginSimple h opScrub fun j e => e.startSweep j

/-! ### Steps of a granule -/

def Eng.setSweep (e : Eng) (s : Sweep) : Eng := e.modSweep s.handle fun _ => s

/-- The scratch granule A or B of a slot (R305, R310). -/
def Eng.scratchAddr (e : Eng) (s : Sweep) (b : Bool) : Nat := e.svc.scratch.toNat * 2 ^ 19 + s.slot.toNat * 131072 + ofBit b * 65536

/-- The first leaf or granule that a sweep skips (R311). -/
def Sweep.skip (s : Sweep) (va : Nat) (st : Status) : Sweep := { s with skipped := some (s.skipped.getD (va, st)) }

/-- The next granule of the leaf from `va` on that is to be moved: one outside the weight window (R304). -/
def Eng.granuleFrom (e : Eng) (s : Sweep) (page log2 va : Nat) : Option Nat :=
  ((List.range (2 ^ (log2 - 16))).map fun i => page + i * granule).find? fun g =>
    decide (va ≤ g) && (s.scrub || !inWindow (e.pdk s.paddock) g)

/-- What a sweep does with a leaf (R304, R318): granules to move, its EPOCH alone, or nothing. -/
def Eng.leafAction (e : Eng) (s : Sweep) (f : Found) (l : Leaf) : Option (Option Nat) :=
  if l.host || (!s.scrub && l.epoch ≠ s.fromE) then none
  else match e.kindAt l.addr with
    | some (.aperture _) => some none
    | some (.stack _) => some (e.granuleFrom s f.va f.log2 s.va)
    | _ => none

/-- The sweep's walk goes on to the next leaf that it acts on; malformed and unreadable entries are skipped and recorded (R304,
R311). -/
def Eng.sweepScan (e : Eng) (s : Sweep) : List Found → Eng × Sweep
  | [] => (e, { s with phase := .finish })
  | f :: fs =>
    match f.leaf with
    | none =>
      let r := ((e.job s.handle).map (·.lead)).getD 0
      Eng.sweepScan (e.noteMalformed r s.paddock f.va f.level) (s.skip f.va stPageFault) fs
    | some l =>
      match e.leafAction s f l with
      | none => Eng.sweepScan e s fs
      | some none => (e, { s with phase := .leaf, page := f.va, log2 := f.log2, va := f.va, pa := l.addr })
      | some (some g) =>
        (e, { s with phase := if s.scrub then .writing else .copying, page := f.va, log2 := f.log2, va := g
                     pa := l.addr + (g - f.va), abandons := 0, nextCopy := none, nextAbandons := 0 })

/-- A granule as it is read under an epoch, uncorrectable words as zeros, and their number (R311). -/
def readGranule (m : Memory) (p : PdkNum) (ep : BitVec 4) (pa : Nat) (bad : List Nat) : List Byte × Nat :=
  ((List.range 8192).flatMap fun i =>
      if bad.contains (pa + 8 * i) then List.replicate 8 0 else m.bytes (.epoch p ep) (pa + 8 * i) 8,
    ((List.range 8192).filter fun i => bad.contains (pa + 8 * i)).length)

/-- A write that SVC has a Drover present for a sweep (R161). -/
def Eff.present (x : Eff) (s : Sweep) (o : MemOp) : Eff :=
  (x.on fun e => match e.stackAt o.addr with
    | some n => e.recordWrite n o.addr o.bytes.length (some (e.device, handleCtx s.handle, handleSeq s.handle))
    | none => e).store o

/-- The copy-in of a granule into a scratch granule (R305): the effect and the words replaced, each with its history entry. -/
def Eng.copyIn (e : Eng) (m : Memory) (s : Sweep) (pa : Nat) (b : Bool) (bad : List Nat) : Eff × Nat :=
  let (bs, n) := readGranule m s.paddock s.fromE pa bad
  let e := match e.stackAt pa with
    | some d => ((List.range 8192).filter fun i => bad.contains (pa + 8 * i)).foldl
        (fun e i => e.noteUncorr d (some (handleCtx s.handle)) (pa + 8 * i)) e
    | none => e
  ((Eff.mk e []).present s ⟨e.scratchAddr s b, .epoch s.paddock s.toE, bs⟩, n)

/-- A granule can be served at its Drover; its region is woken otherwise. -/
inductive Ready where
  | yes | wait | lost
  deriving DecidableEq, Repr

def Eng.granuleReady (e : Eng) (pa : Nat) : Ready :=
  match e.stackAt pa with
  | none => .lost
  | some n => if (e.drover n).fenced then .lost else if e.active (.region (stackRegion n)) && !e.testing 0 n.toNat then .yes else .wait

def Eng.wakeGranule (e : Eng) (pa : Nat) : Eng :=
  match e.stackAt pa with
  | some n => e.wakeRegion (stackRegion n)
  | none => e

/-- A CURSOR record is issued (R305, R308, R318). -/
def Eng.issueCursor (e : Eng) (s : Sweep) (va : Nat) (copied b : Bool) : Eng :=
  e.jAppend (cursorRec s.handle va (if s.scrub then s.toE else 0) copied b s.scrub)

/-- The sweep's newest CURSOR record is durable. -/
def Eng.cursorDurable (e : Eng) (h : Word) : Bool :=
  !(e.jrn.waiting.any fun r => decide (r.kind = .cursor) && decide (r.word1 = h)) &&
    e.jrn.recs.all fun r => !(decide (r.kind = .cursor) && decide (r.word1 = h)) || decide (r.jseq < e.jrn.durableSeq)

/-- The granule after the cursor in the leaf (R305). -/
def Eng.granuleAfter (e : Eng) (s : Sweep) : Option Nat := e.granuleFrom s s.page s.log2 (s.va + granule)

/-- The cursor moves to granule `g` of the leaf. -/
def Sweep.moveTo (s : Sweep) (g : Nat) : Sweep := { s with pa := s.pa - s.va + g, va := g }

/-- The copy-in of the granule after the cursor starts, where it follows it directly (R305). -/
def Eng.overlap (e : Eng) (s : Sweep) : Sweep :=
  { s with nextCopy := if e.granuleAfter s = some (s.va + granule) then some false else none, nextAbandons := 0, nextWords := 0 }

/-- A granule on a lost stack is passed over (R414). -/
def Eng.passOver (e : Eng) (s : Sweep) : Sweep :=
  let t := s.skip s.va stAccessFault
  match e.granuleAfter s with
  | some g => { t.moveTo g with abandons := 0 }
  | none => { t with phase := .leaf }

/-- COPYING to RECORDED (R305). -/
def Eng.sweepCopying (e : Eng) (m : Memory) (s : Sweep) (bad : List Nat) : Eff :=
  match e.granuleReady s.pa with
  | .wait => ⟨e.wakeGranule s.pa, []⟩
  | .lost => ⟨e.setSweep (e.passOver s), []⟩
  | .yes =>
    let (x, n) := e.copyIn m s s.pa s.scratchB bad
    x.on fun e => (e.setSweep { s with phase := .recorded, words := s.words + n }).issueCursor s s.va true s.scratchB

/-- WRITING: the next granule's copy-in, and then the write-back (R305). After a leaf's last granule the steps of R308 follow, and the scratch
granules alternate on. -/
def Eng.sweepWriting (e : Eng) (m : Memory) (s : Sweep) (bad : List Nat) : Eff :=
  if s.nextCopy = some false && e.granuleReady (s.pa + granule) = .yes then
    let (x, n) := e.copyIn m s (s.pa + granule) (!s.scratchB) bad
    x.on fun e => e.setSweep { s with nextCopy := some true, nextWords := n }
  else match e.granuleReady s.pa with
    | .wait => ⟨e.wakeGranule s.pa, []⟩
    | .lost => ⟨e.setSweep { e.passOver s with phase := if (e.granuleAfter s).isSome then .copying else .leaf, nextCopy := none }, []⟩
    | .yes =>
      let bs := m.bytes (.epoch s.paddock s.toE) (e.scratchAddr s s.scratchB) granule
      let x := (Eff.mk (e.count subSvc 0 1) []).present s ⟨s.pa, .epoch s.paddock s.toE, bs⟩
      match e.granuleAfter s with
      | none => x.on fun e => e.setSweep { s with phase := .leaf, scratchB := !s.scratchB }
      | some g =>
        let copied := decide (s.nextCopy = some true)
        x.on fun e =>
          (e.setSweep { s with phase := .closing, words := s.words + (if copied then s.nextWords else 0) }).issueCursor s g copied
            (!s.scratchB)

/-- CLOSING: the granule is released once the record is durable (R305). -/
def Eng.sweepClosing (e : Eng) (s : Sweep) : Eng :=
  if !e.cursorDurable s.handle then e
  else match e.granuleAfter s with
    | none => e.setSweep { s with phase := .leaf }
    | some g =>
      let t : Sweep := { s.moveTo g with scratchB := !s.scratchB }
      e.setSweep (if s.nextCopy = some true then e.overlap { t with phase := .writing }
        else { t with phase := .copying, abandons := s.nextAbandons, nextCopy := none })

/-- A scrub writes zeros to a granule (R318, step 5). -/
def Eng.scrubGranule (e : Eng) (s : Sweep) : Eff :=
  let next := fun (e : Eng) => match e.granuleAfter s with
    | some g => e.setSweep (s.moveTo g)
    | none => e.setSweep { s with phase := .leaf }
  match e.granuleReady s.pa with
  | .wait => ⟨e.wakeGranule s.pa, []⟩
  | .lost => ⟨e.setSweep (e.passOver s), []⟩
  | .yes => ((Eff.mk (e.count subSvc 2 1) []).present s
      ⟨s.pa, .epoch s.paddock s.toE, List.replicate granule 0⟩).on next

/-- The leaf's EPOCH is rewritten with one compare-and-swap, and the leaf is invalidated (R308). Where the driver has changed
the leaf it is left alone, or swept again from its first granule, to which the cursor moves back. An entry that is malformed or
uncorrectable by now is recorded and skipped (R311). -/
def Eng.sweepLeaf (e : Eng) (m : Memory) (s : Sweep) (bad : List Nat) : Eff :=
  let drop := fun (e : Eng) =>
    (e.dropLeaves fun t => t.paddock = s.paddock && t.overlaps s.page (2 ^ s.log2)).setSweep { s with phase := .leafWait }
  let ours := fun (l : Leaf) => !l.host && (s.scrub || decide (l.epoch = s.fromE))
  match (tableFrom m (e.pdk s.paddock) bad s.page).head? with
  | some ⟨va, log2, ea, some l, _⟩ =>
    if va ≠ s.page || log2 ≠ s.log2 || !ours l then ⟨drop e, []⟩
    else if l.addr ≠ s.leafPa then ⟨(e.setSweep { s with phase := .start, va := s.page }).issueCursor s s.page false s.scratchB, []⟩
    else
      let w := (m.word ea &&& ~~~ (0xF00 : Word)) ||| BitVec.ofNat 64 (s.toE.toNat * 256)
      ((Eff.mk e []).present s ⟨ea, .clear, leBytes 8 w.toNat⟩).on drop
  | some ⟨va, _, _, none, level⟩ =>
    if s.page < va then ⟨drop e, []⟩
    else
      let r := ((e.job s.handle).map (·.lead)).getD 0
      let t := s.skip s.page stPageFault
      ⟨((e.noteMalformed r s.paddock va level).dropLeaves fun t => t.paddock = s.paddock && t.overlaps s.page (2 ^ s.log2)).setSweep
        { t with phase := .leafWait }, []⟩
  | none => ⟨drop e, []⟩

/-- The sweep has moved granules of the leaf, so that its last one is locked. -/
def Eng.movedGranules (e : Eng) (s : Sweep) : Bool :=
  !s.scrub && (e.stackAt s.pa).isSome && (e.granuleFrom s s.page s.log2 s.page).isSome

/-- The sweep goes on after the leaf. -/
def Sweep.pastLeaf (s : Sweep) : Sweep := { s with phase := .start, va := s.page + 2 ^ s.log2, page := s.page + 2 ^ s.log2 }

/-- The requests translated through the old leaf have ended: the windows go, and the record with the cursor after the leaf is
issued (R308). The leaf's last granule stays locked until that record is durable (R305). -/
def Eng.sweepLeafWait (e : Eng) (s : Sweep) : Eng :=
  let last := s.page + 2 ^ s.log2
  if e.anyReq fun p q => p = s.paddock && q.oldLeaf && s.page ≤ q.va && q.va < last then e
  else (e.setSweep (if e.movedGranules s then { s with phase := .leafClose } else s.pastLeaf)).issueCursor s last false s.scratchB

/-- The status of a sweep or scrub (R73, R311, R318, R414). -/
def Sweep.outcome (s : Sweep) : Status × Word :=
  match s.skipped with
  | some (va, st) => (st, partialDetail va st 0)
  | none => if 0 < s.words then (stUncorrected, BitVec.ofNat 64 (min s.words (2 ^ 32 - 1))) else (stOk, 0)

/-- The end (R305; R318, steps 6 and 7). -/
def Eng.sweepFinish (e : Eng) (s : Sweep) : Eng :=
  let p := s.paddock
  let e : Eng := { e with svc := { e.svc with sweeps := e.svc.sweeps.filter (·.handle ≠ s.handle) } }
  let e := if s.scrub then
      (((e.modPdk p fun x => { x with live := BitVec.ofNat 16 (2 ^ s.toE.toNat), enable := false, scrubbing := false }).dropLeaves
        fun t => t.paddock = p).dropViews fun c => c.paddock = p).dropReach p
    else e.modPdk p fun x => { x with sweeping := false }
  e.finish s.handle s.outcome.1 s.outcome.2

/-- A scrub waits for the paddock's requests, erases its key, and opens a fresh epoch (R318, steps 2 to 4). -/
def Eng.scrubQuiesce (e : Eng) (s : Sweep) : Eng :=
  let p := s.paddock
  if e.anyReq fun pn _ => pn = p then e
  else
    let x := e.pdk p
    let f : BitVec 4 := BitVec.ofNat 4 (((List.range 16).find? fun i => !x.live.getLsbD i).getD 0)
    let e := (e.eraseSlot p).modPdk p fun x => { x with
      policy := 0, wwinBase := 0, wwinLimit := 0, dieMask := 0, reachBase := 0
      live := x.live ||| BitVec.ofNat 16 (2 ^ f.toNat), writeEpoch := f }
    let s : Sweep := { s with toE := f, phase := .start }
    (e.setSweep s).issueCursor s 0 false false

/-- The next step of a sweep or scrub. -/
def Eng.sweepStep (e : Eng) (m : Memory) (s : Sweep) (bad : List Nat) : Eff :=
  match s.phase with
  | .quiesce => ⟨e.scrubQuiesce s, []⟩
  | .start =>
    let (e, t) := e.sweepScan s (tableFrom m (e.pdk s.paddock) bad s.va)
    ⟨e.setSweep t, []⟩
  | .copying => e.sweepCopying m s bad
  | .recorded => ⟨if e.cursorDurable s.handle then e.setSweep (e.overlap { s with phase := .writing }) else e, []⟩
  | .writing => if s.scrub then e.scrubGranule s else e.sweepWriting m s bad
  | .closing => ⟨e.sweepClosing s, []⟩
  | .leaf => e.sweepLeaf m s bad
  | .leafWait => ⟨e.sweepLeafWait s, []⟩
  | .leafClose => ⟨if e.cursorDurable s.handle then e.setSweep s.pastLeaf else e, []⟩
  | .finish => ⟨e.sweepFinish s, []⟩

/-- SWEEP_GRANULE_ADVANCE (R304 to R311, R318). `bad` lists the physical addresses of words that the memory controller reports
uncorrectable. What the sweep does may release held requests, which the memory controllers then serve. -/
def execSweepGranuleAdvance (slot : BitVec 2) (bad : List Nat) (s : State) : Answer :=
  onMem s fun m e =>
    match e.svc.sweeps.find? (·.slot = slot) with
    | none => ⟨e, []⟩
    | some w => if e.svc.restarting || e.flt.fatal || e.svc.reset.phase ≠ .none && e.svc.reset.phase ≠ .settle then ⟨e, []⟩
      else (e.sweepStep m w bad).on Eng.noteWork

/-! ### Reads held for 2 µs (R307) -/

/-- What a held read finds in the scratch granule, once it is held on a WRITING granule. -/
def Eng.stagedBits (e : Eng) (m : Memory) (q : Req) (bits : Nat) : Option Nat :=
  match q.dest, q.tag with
  | .stack n pa, .epoch p _ =>
    if q.held.isNone || !e.heldByLock q n then none
    else match e.sweepAt p pa with
      | some s => some (m.bitsAt (.epoch s.paddock s.toE) (e.scratchAddr s s.scratchB + pa % granule) q.bit bits)
      | none => none
  | _, _ => none

/-- A held read that is served from scratch counts once (R321). -/
def Eng.countStaged (e : Eng) (q : Req) : Eng :=
  match q.dest with
  | .stack n _ => e.count subDrv (180 + n.toNat) 1
  | _ => e

/-- A held element of a descriptor is served from the scratch granule. -/
def Eng.stageOne (e : Eng) (m : Memory) (st : StreamId) (j : Job) (k : Nat) : Job :=
  match j.el st k with
  | .fly q _ bad => match e.stagedBits m q (j.width st) with
    | some v => j.setEl st k (.got v bad)
    | none => j
  | _ => j

/-- The requests of a batch that a locked granule holds. -/
def Eng.heldReqs (e : Eng) (m : Memory) (j : Job) (st : StreamId) (pos n : Nat) : List Req :=
  (List.range n).filterMap fun i => match j.el st (pos + i) with
    | .fly q _ _ => if (e.stagedBits m q 1).isSome then some q else none
    | _ => none

/-- Time moves on until each of some reads has been held for 2 µs (R307). -/
def Eng.heldOver (e : Eng) (qs : List Req) : Eng := qs.foldl (fun e q => e.advanceTo (q.held.getD e.now + 2000)) e

/-- LOCK_READ_TIMEOUT (R307): a read held for 2 µs is served from the scratch granule. -/
def execLockReadTimeout (t : ReadTarget) (s : State) : Answer :=
  onMem s fun m e => match t with
    | .job h st pos n =>
      match e.job h with
      | none => ⟨e, []⟩
      | some j =>
        match e.heldReqs m j st pos n with
        | [] => ⟨e, []⟩
        | q :: qs =>
          let e := (e.heldOver (q :: qs)).countStaged q
          let e := e.modJob h fun j => ((List.range n).foldl (fun j i => e.stageOne m st j (pos + i)) j).shareReads
          (e.goOn m h).on Eng.noteWork
    | .peer id =>
      match e.npi.serving.find? fun x => x.id = id && x.op = .get with
      | none => ⟨e, []⟩
      | some x => match x.req.map fun q => (q, e.stagedBits m { q with bit := 0 } (8 * ((x.q.bit.toNat + x.q.bits + 7) / 8))) with
        | some (q, some v) =>
          ⟨(((e.heldOver [q]).countStaged q).answerPeer x stOk [] (leBytes ((x.q.bit.toNat + x.q.bits + 7) / 8) v) 0 0).noteWork, []⟩
        | _ => ⟨e, []⟩
    | .die id =>
      match e.opi.serving.find? fun x => x.a.id = id && !x.a.write with
      | none => ⟨e, []⟩
      | some x => match x.req.map fun q => (q, e.stagedBits m q (8 * x.a.len)) with
        | some (q, some v) => ⟨(((e.heldOver [q]).countStaged q).answerDie x stOk (leBytes x.a.len v)).noteWork, []⟩
        | _ => ⟨e, []⟩

end Sys2Proof.Machine
end

