-- ==== Sys2Proof/Machine/Arb.lean ====
section
/-! DEFINITION. Quanta, starvation, pre-emption and cut-off (10: R329 to R338; 12: R401). The grants of one cycle at cells and units, and
at crossbar ports that accept, are timing (log 22). -/

namespace Sys2Proof.Machine

def Eng.arbCfg (e : Eng) (l : Nat) : ArbCfg := e.svc.arb.getD l {}

/-- SVC_ARB_STAT's vector is signalled when a bit changes from 0 to 1 (R330). -/
def Eng.arbSignal (e : Eng) (was : Bool) : Eng := if e.svc.arbEn && !was then e.emit (.msi e.svc.arbVector) else e

/-- A level's STARVED bit, and its tally (R329, R330). -/
def Eng.noteStarved (e : Eng) (l : Nat) : Eng :=
  let was := e.svc.arbStarved.getLsbD l
  (({ e with svc := { e.svc with arbStarved := e.svc.arbStarved ||| BitVec.ofNat 4 (2 ^ l) } } : Eng).count subSvc (4 + l) 1).arbSignal
    was

/-- A level's CUT bit (R330, R335). -/
def Eng.noteCut (e : Eng) (l : Nat) : Eng :=
  let was := e.svc.arbCut.getLsbD l
  ({ e with svc := { e.svc with arbCut := e.svc.arbCut ||| BitVec.ofNat 4 (2 ^ l) } } : Eng).arbSignal was

/-! ### Holders and waiters -/

/-- The level of a holder's resource: 1 for a compressor, 2 for a walker (R330, R337). -/
def holderLevel : Holder → Nat
  | .walker _ => 2
  | .compressor _ => 1

/-- The eligible competitors that wait for the resource of a holder, in ascending number (R324, R332). -/
def Eng.waitersOf (e : Eng) (holder : Job) (l : Nat) : List Job :=
  inOrder (e.jobs.filter fun j => e.eligible j && j.lead = holder.lead && j.waitsAt l && decide (j.handle ≠ holder.handle))

/-- The holder of a walker or of a compressor. -/
def Eng.holderJob (e : Eng) : Holder → Option Job
  | .walker n => e.jobs.find? fun j => j.walker = some n
  | .compressor r => e.jobs.find? fun j => j.lead = r && j.compressor

/-- A draw by the arbiter of a region's walker queue or compressor (R326). -/
def Eng.drawFor (e : Eng) (r : Region) (l : Nat) (js : List Job) (ts : List Nat) : Option Claimant × Eng :=
  let cs := (js.map fun k => (Claimant.job k, k.tickets.toNat)) ++ ts.map fun k => (Claimant.test k, e.svc.bistTickets.toNat)
  if l = 1 then
    let a := e.cdc.arb.getD r.toNat {}
    let (w, s) := lottery cs a.lfsr
    (w, { e with cdc := { e.cdc with arb := setRow {} 4 e.cdc.arb r.toNat { a with lfsr := s } } })
  else
    let a := e.wlk.queue.getD r.toNat {}
    let (w, s) := lottery cs a.lfsr
    (w, { e with wlk := { e.wlk with queue := setRow {} 4 e.wlk.queue r.toNat { a with lfsr := s } } })

/-- The stamp from which a holder's quantum counts. -/
def Job.quantumOf (j : Job) (l : Nat) : Word := if l = 1 then j.compQuantum else j.quantumAt

/-- A quantum starts again (R332). -/
def Job.newQuantum (j : Job) (l : Nat) (t : Word) : Job := if l = 1 then { j with compQuantum := t } else { j with quantumAt := t }

/-- QUANTUM_EXPIRY (R332). -/
def execQuantumExpiry (x : Holder) (s : State) : Answer :=
  onEng s fun _ e =>
    match e.holderJob x with
    | none => e
    | some j =>
      let l := holderLevel x
      let q := (e.arbCfg l).quantum.toNat
      if q = 0 || e.halted || j.yieldAt.isSome || (e.waitersOf j l = [] && e.testersOf j l = []) then e
      else
        let e := e.advanceFrom (j.quantumOf l) (q * 64)
        if e.storeFull j.lead then e
        else
          match e.drawFor j.lead l (inOrder (j :: e.waitersOf j l)) (e.testersOf j l) with
          | (none, e) => e
          | (some (.job k), e) =>
            if k.handle = j.handle then e.modJob j.handle fun j => j.newQuantum l e.now else e.askYield j (.job k) l
          | (some (.test k), e) => e.askYield j (.test k) l

/-- Time moves on until a competitor that has waited `w` cycles has waited STARVE × 64 of its level (R329). -/
def Eng.untilStarved (e : Eng) (l w : Nat) : Eng := e.passCycles ((e.arbCfg l).starve.toNat * 64 - w)

/-- A descriptor becomes starved, and asks the holder with the longest hold for a yield at once (R329, R332). -/
def Eng.starveJob (e : Eng) (j : Job) : Eng :=
  let l := if j.waitsAt 1 then 1 else 2
  if (e.arbCfg l).starve = 0 || e.halted || !e.eligible j || j.starved.isSome || j.tickets = 0 || !e.active (.region j.lead) then e
  else
    let e := e.untilStarved l j.waited
    let e := (e.modJob j.handle fun j => { j with starved := some e.now }).noteStarved l
    e.askStarved j.lead

/-- The segment of an overdue target becomes starved, and asks the holder of its unit for a yield at once (R380). -/
def Eng.starveTest (e : Eng) (k : Nat) : Eng :=
  let b := mapGet ({} : Bist) e.svc.bist k
  let l := testLevel (k / 64)
  if (e.arbCfg l).starve = 0 || e.halted || !b.wants || b.starved.isSome || e.svc.bistTickets = 0
      || !e.active (testDomain (k / 64) (k % 64)) then e
  else
    let e := e.untilStarved l b.waited
    let e := ({ e with svc := { e.svc with bist := mapUpd {} e.svc.bist k fun b => { b with starved := some e.now } } } : Eng).noteStarved l
    (bistRegion (k / 64) (k % 64)).elim e e.askStarved

/-- A context becomes starved at the fetch arbiter. -/
def Eng.starveCtx (e : Eng) (c : CtxNum) : Eng :=
  if (e.arbCfg 3).starve = 0 || !e.fetchReady c || (e.ctx c).tickets = 0 || !e.engineRuns || e.rfe.starvedCtx.any (·.1 = c) then e
  else
    let e := e.untilStarved 3 (mapGet 0 e.rfe.waited c.toNat)
    ({ e with rfe := { e.rfe with starvedCtx := e.rfe.starvedCtx ++ [(c, e.now)] } } : Eng).noteStarved 3

/-- A request stream becomes starved at a port; one whose grant is parked does not (R328). -/
def Eng.starvePort (e : Eng) (l : Level) (port : Nat) (who : PortUser) : Eng :=
  match e.svc.ports.find? fun p => p.level = l && p.port = port && p.who = who with
  | none => e
  | some p =>
    if (e.arbCfg l.toNat).starve = 0 || p.parked.isSome || p.starved.isSome || e.portTickets p = 0 || !e.portRuns port then e
    else
      let e := e.untilStarved l.toNat p.waited
      ({ e with svc := { e.svc with ports := e.svc.ports.map fun x =>
          if x.level = l && x.port = port && x.who = who then { x with starved := some e.now } else x } } : Eng).noteStarved l.toNat

/-- A competitor of an arbiter whose grants last one cycle has waited STARVE × 64 cycles of its level. DESIGN CHOICE (log 22): its count and its grants are
timing that the model does not hold; what it leaves is the level's bit and tally. -/
def Eng.starveBrief (e : Eng) (l : Level) : Eng := if (e.arbCfg l.toNat).starve = 0 then e else e.noteStarved l.toNat

/-- STARVATION (R329, R332): a ticketed competitor that has been eligible and not granted for STARVE × 64 cycles becomes starved. -/
def execStarvation (x : Competitor) (s : State) : Answer :=
  onEng s fun _ e =>
    match x with
    | .job h => (match e.job h with | some j => e.starveJob j | none => e)
    | .ctx c => e.starveCtx c
    | .test t => e.starveTest (bistKey t.row.toNat t.inst.toNat)
    | .port l n who => e.starvePort l n who
    | .brief l => e.starveBrief l

/-! ### Pre-emption (R333 to R335) -/

/-- Every element that the walker has reached has left the cast and layout stages, and has been issued unless it waits for elements beyond the
boundary that share its bytes. -/
def Job.drained (j : Job) : Bool :=
  ([StreamId.idx, .src, .scaleIn, .scaleOut].all fun st => (j.open st).isEmpty) && (j.open .dst).all fun k => (j.el .dst k).readOut

/-- The holder stands at its boundary, and what lies before it has left (R333). -/
def Job.atBoundary (j : Job) : Bool :=
  if j.opcode = opCompress then
    decide (j.pass ≠ 3) && decide (j.emitted = j.blockEnd) && j.drained && j.given.isEmpty && j.srcSettled
      && (j.scaleInEl.all fun x => x.2.settled)
      && (decide (j.pass ≠ 2) || decide (j.emitted ≤ j.coded.length * blockSize j.cMode))
  else if j.opcode = opExpand then (j.open .src).isEmpty && j.given.isEmpty && (j.nextBytes 1).isEmpty
  else (decide (j.nextBound ≤ j.emitted) || decide (j.emitted = j.total)) && j.drained

/-- A COMPRESS that is saved in pass 2 finds its tables and factors in its destination when it goes on (R218). -/
def Job.saveCodec (j : Job) : Job :=
  if j.opcode = opCompress && j.pass = 2 then { j with reread := true, scaleInEl := [] } else j

/-- The first destination position that has not been issued, in this execution or, below an earlier PROGRESS, in one before it (R401, R409). -/
def Job.firstUnemitted (j : Job) : Nat :=
  ((List.range j.total).find? fun k =>
    decide (j.skipBelow ≤ k) && (decide (j.el .dst k = .idle) || (j.el .dst k).unissued)).getD j.total

/-- The positions that have been issued form a prefix of the destination's order, and are acknowledged. -/
def Job.prefixed (j : Job) : Bool :=
  j.dstEl.all fun x => decide (x.2 = .idle) || if x.1 < j.firstUnemitted then x.2.settled else x.2.unissued

/-- The holder's state is saved in the pre-emption store and its resources are released: the walker with its layout units, and the
compressor where that is what it yields; the waiter that the yield is for comes next (R332, R334). A class A descriptor's progress is
recorded (R400, R401); where whole tile blocks form no prefix of the destination's order, the record carries DOUBT (log 68). -/
def Eng.savePreempted (e : Eng) (j : Job) : Eng :=
  let h := j.handle
  let comp := decide (j.yieldLevel = 1)
  let e := if j.cls = .a then (e.writeAllApplied h).jAppend (progressRec h j.firstUnemitted (j.tile && !j.prefixed)) else e
  let e := if comp then e.count subCdc (12 + j.lead.toNat) 1 else e.count subWlk (8 + j.lead.toNat) 1
  ((e.modJob h fun j => { j.saveCodec with
    stage := .queued, slot := true, walker := none, units := 0, compressor := j.compressor && !comp, queueStamp := e.now
    starved := none, waited := 0, yieldAt := none, yieldTo := none }).handOver j).noteWork

/-- A holder that has been asked to yield can be saved now: for class A, every position that it has issued has been acknowledged (R401). -/
def Eng.canSave (_e : Eng) (j : Job) : Bool :=
  j.yieldAt.isSome && j.walker.isSome && decide (j.stage = .running) && j.atBoundary && (j.cls ≠ .a || j.allSettled)

/-- PREEMPT_SAVE (R333, R334, R401): a holder asked to yield has reached its boundary and drained. -/
def execPreemptSave (h : Word) (s : State) : Answer :=
  onEng s fun _ e =>
    match e.job h with
    | none => e
    | some j => if e.canSave j && !e.halted then e.savePreempted j else e

/-- The first number in the walker's order that has not been issued. -/
def Job.firstUnissued (j : Job) : Nat :=
  ((List.range j.emitted).find? fun t => (j.el .dst (j.walkAt t)).unissued).getD j.emitted

/-- A descriptor with an accumulate stage may be cut off: what it has issued is acknowledged and precedes what it has not, and its last tile
block has been read out (R335, R401). -/
def Job.cutReady (j : Job) : Bool :=
  let c := j.firstUnissued
  ((List.range j.emitted).all fun t => if t < c then (j.el .dst (j.walkAt t)).settled else (j.el .dst (j.walkAt t)).unissued)
    && (!j.tile || decide (c = j.emitted) || c = 0 || decide (j.blockId (j.walkAt c) ≠ j.blockId (j.walkAt (c - 1))))

/-- A destination position beyond the point of a cut-off: one that waits is dropped, one that has been written is written again, and one on its
way is written again once it has been acknowledged. A contribution that has been applied is not applied again (R401, log 40). -/
def Job.unreach (j : Job) (k : Nat) : Job :=
  match j.el .dst k with
  | .fly q _ _ => if q.waiting then j.setEl .dst k .idle else { j with again := j.again ++ [k] }
  | .oob => { j with oob := j.oob - 1 }.setEl .dst k .idle
  | .failed _ _ => j
  | .done => if j.cls = .a then j else j.setEl .dst k .idle
  | _ => j.setEl .dst k .idle

/-- A source element that only positions beyond the point need is dropped; a read on its way returns. -/
def Job.keepsSrc (j : Job) (c : Nat) (x : Nat × El) : Bool :=
  (match x.2 with | .fly q _ _ => !q.waiting | _ => false)
    || (if j.mxTarget then blockPositions j.stageShape (scaleBlock j.stageShape x.1) else [x.1]).any fun p =>
      decide (j.rank (j.targetOf p) < c)

/-- A descriptor goes back to number `c` of its walker's order (R335); what it looks up again counts again (R119). -/
def Job.rewind (j : Job) (c : Nat) : Job :=
  let j := { j with looked := [], asked := c }
  if j.opcode = opExpand then
    { j with srcEl := j.srcEl.filter fun x => decide (x.1 < c) || decide (j.nextBound ≤ x.1) || !x.2.unissued, nextBound := c, lastBound := c }
  else if j.opcode = opCompress then
    let n := c / blockSize j.cMode
    let gone := (j.coded.drop n).zipIdx.flatMap fun b =>
      (List.range b.1.length).map (j.codedOff (n + b.2) + ·) ++ (List.range 8).map (dirOff j.choice.tables.length + 8 * (n + b.2) + ·)
    { j with
      srcEl := j.srcEl.filter fun x => decide (x.1 < c), emitted := c
      dstEl := if j.pass = 2 then j.dstEl.filter fun x => !(x.2.unissued && gone.contains x.1) else j.dstEl
      coded := if j.pass = 2 then j.coded.take n else j.coded }
  else
    let src := j.srcEl.filter (j.keepsSrc c)
    let vals := j.castVal.filter fun x => decide (j.rank (j.targetOf x.1) < c)
    let j := ((List.range (j.emitted - c)).map fun i => j.walkAt (c + i)).foldl Job.unreach j
    { j with srcEl := src, castVal := vals, emitted := c, castNext := min j.castNext c, lastBound := c, nextBound := c }

/-- CUTOFF (R335): a holder has not released within CUTOFF × 1,024 cycles of a yield request. Its kept count is its last boundary before the
request; the record of a class A descriptor gives what it has issued (R401, log 40). -/
def execCutoff (h : Word) (s : State) : Answer :=
  onEng s fun _ e =>
    match e.job h with
    | none => e
    | some j =>
      match j.yieldAt with
      | none => e
      | some t =>
        let n := (e.arbCfg j.yieldLevel).cutoff.toNat
        if n = 0 || e.halted || j.walker.isNone || j.stage ≠ .running || j.over || e.canSave j || (j.cls = .a && !j.cutReady) then e
        else
          let e := e.advanceFrom t (n * 1024)
          let j := j.rewind j.cutTo
          (((e.modJob h fun _ => j).savePreempted j).noteCut j.yieldLevel).count subWlk (12 + j.lead.toNat) 1

end Sys2Proof.Machine
end

