-- ==== Sys2Proof/Machine/PowerOps.lean ====
section
/-! DEFINITION. The power rows (10: R342 to R350; 14: R450): Idle, Sleep, wakes, rotation, the package power manager, Dormant, and
the power registers. -/

namespace Sys2Proof.Machine

/-- Delays of a domain: IDLE_DELAY in cycles and SLEEP_DELAY in µs (R342, R344). -/
def Eng.idleDelay (e : Eng) : Domain → Nat
  | .region r => max 16 (e.regionCtl r).idleDelay.toNat
  | .engine => 256

def Eng.sleepDelay (e : Eng) : Domain → Nat
  | .region r => (e.regionCtl r).sleepDelay.toNat
  | .engine => 64

/-- The later of two stamps. -/
def later (a b : Word) : Word := if a.toNat < b.toNat then b else a

/-- Since when a domain has had no work. The engine domain counts from the last time a region left Active, too. -/
def Eng.quietSince (e : Eng) (d : Domain) : Word :=
  let x := e.domOf d
  let q := later x.since x.quiet
  match d with
  | .region _ => q
  | .engine => regions.foldl (fun q r => later q (e.regionDom r).left) q

/-- A dispatch is due, which RFE makes long before a delay of the engine domain has passed (R13, log 96). -/
def Eng.dispatchDue (e : Eng) : Bool := e.jobs.any fun j => decide (j.stage = .fetched) && e.mayBegin j

/-- A domain may be lowered from state `st`. -/
def Eng.mayLower (e : Eng) (d : Domain) (st : PState) (floor : Nat) : Bool :=
  decide ((e.domOf d).st = st) && (e.domOf d).wakeDue.isNone && !e.hasWork d && decide (e.floorOf d ≤ floor)
    && !e.frozen && !(decide (d = .engine) && e.dispatchDue)

/-- ACTIVE_TO_IDLE (R342). -/
def execActiveToIdle (d : Domain) (s : State) : Answer :=
  onEng s fun _ e =>
    let e := e.noteWorkOf d
    if e.mayLower d .active 1 then
      ((e.advanceFrom (e.quietSince d) (e.idleDelay d)).enter d .idle).serveQueue 4
    else e

/-- IDLE_TO_SLEEP (R342): a SLEEP_DELAY of 0 never. -/
def execIdleToSleep (d : Domain) (s : State) : Answer :=
  onEng s fun _ e =>
    let e := e.noteWorkOf d
    if e.mayLower d .idle 0 && decide (e.sleepDelay d ≠ 0) then
      ((e.advanceTo (e.quietSince d + BitVec.ofNat 64 (e.sleepDelay d * 1000))).enter d .sleep).serveQueue 4
    else e

/-- A domain's wake has ended. -/
def Eng.wakeEnds (e : Eng) (d : Domain) : Eng := (e.enter d .active).modDom d fun x => { x with wakeDue := none, quiet := e.now }

/-- The users of a port go on, in the order in which it serves them (R325). -/
def Eng.resumeUsers (e : Eng) (m : Memory) (us : List PortUser) : Eff :=
  us.foldl (fun x u => x.andThen m fun m e => match u with
    | .job h => e.goOn m h
    | u => ⟨e.resumeOther m u, []⟩) ⟨e, []⟩

/-- A port of the engine crossbar accepts again: what waits there is served (R325, R328). -/
def Eng.portOpens (e : Eng) (m : Memory) (port : Nat) : Eff := (e.openPort port).2.resumeUsers m (e.openPort port).1

/-- A region is Active again: its homes apply what has reached them, the waits that have their result complete, what waits at its link and at
its Drovers' ports is served, and its slice and its descriptors go on (R34, R277, R279, R325). -/
def Eng.regionWakes (e : Eng) (m : Memory) (r : Region) : Eff :=
  let x := ((e.homeWakes r).answersWake r).portOpens m r.toNat
  let x := ((List.range 5).filter fun i => !e.testing 0 (5 * r.toNat + i)).foldl
    (fun (x : Eff) i => x.andThen m fun m e => e.portOpens m (7 + (5 * r.toNat + i))) x
  (x.andThen m fun m e => e.resumeRegion m r).on Eng.noteWork

/-- WAKE_COMPLETE (R341, R343). A region is not Active before the engine domain is (R342). -/
def execWakeComplete (d : Domain) (s : State) : Answer :=
  onMem s fun m e =>
    match (e.domOf d).wakeDue with
    | none => ⟨e, []⟩
    | some t =>
      match d with
      | .engine => ⟨((e.advanceTo t).wakeEnds .engine).noteWork, []⟩
      | .region r =>
        match e.svc.power.engine.wakeDue with
        | some u => (((e.advanceTo (later t u)).wakeEnds .engine).wakeEnds d).regionWakes m r
        | none => if e.active .engine then ((e.advanceTo t).wakeEnds d).regionWakes m r else ⟨e.wakeEngine, []⟩

/-- Whether moving region `v` to `st` admits region `r` (R348). -/
def Eng.fitsWith (e : Eng) (v : Region) (st : PState) (r : Region) : Bool :=
  ((e.modRegion v fun d => { d with st := st, wakeDue := none }).admits r)

/-- ROTATION (R348): the region that has been Active longest gives way to the head of the admission queue. -/
def execRotation (s : State) : Answer :=
  onEng s fun _ e =>
    if e.frozen then e
    else match e.admitQueue with
    | [] => e
    | r :: _ =>
      let e := (e.advanceTo (((e.regionDom r).wantSince.getD e.now)
        + BitVec.ofNat 64 (1000 * max 1 e.svc.power.rotateUs.toNat))).serveQueue 4
      if (e.regionDom r).wantSince.isNone then e
      else match (e.byAge.filter fun v => v ≠ r && decide ((e.regionDom v).st = .active) && (e.regionDom v).wakeDue.isNone
          && decide (e.floorOf (.region v) < 2)).head? with
        | none => e
        | some v =>
          let idle := e.fitsWith v .idle r || decide (e.floorOf (.region v) = 1)
          let e := (e.enter (.region v) (if idle then .idle else .sleep)).modRegion v fun d => { d with wantSince := some e.now }
          (if idle then e.count subSvc 24 1 else e).serveQueue 4

/-- PPM_GRANT_STB (R350, R450). -/
def execPpmGrantStb (g : BitVec 12) (s : State) : Answer :=
  onEng s fun _ e => (e.modPower fun p => { p with grant := g }).limitChanged

/-- PPM_RETURN (R349, R450): the oldest outstanding recall is returned; later than 1.0 µs is counted (R352). It may be of a loan before the region's
present one. -/
def execPpmReturn (s : State) : Answer :=
  onEng s fun _ e =>
    match e.svc.power.recalls with
    | [] => e
    | (r, t) :: rs =>
      let present := !rs.any (·.1 = r)
      let e := (e.modPower fun p => { p with recalls := rs }).modRegion r fun d => { d with
        lent := d.lent && !(d.recalled && present), recalled := d.recalled && !present }
      (if 1000 < (e.now - t).toNat then e.count subSvc 26 1 else e).serveQueue 4

/-- Whether Vrelop may enter Dormant but for the delay (R346). -/
def Eng.mayDormant (e : Eng) : Bool :=
  let p := e.svc.power
  p.dormantEn && decide (p.saveBase ≠ 0) && !e.frozen && e.svc.sweeps.isEmpty
    && (e.ctxs.all fun c => decide (c.2.state = .disabled))
    && ([Domain.engine, .region 0, .region 1, .region 2, .region 3].all fun d =>
      decide ((e.domOf d).st = .sleep) && (e.domOf d).wakeDue.isNone)

/-- DORMANT_ENTRY (R346): the homes are saved, in the clear (R472) and in a form of its own (log 26), and power is removed. -/
def execDormantEntry (s : State) : Answer :=
  onMem s fun _ e =>
    if e.mayDormant then
      let t := [Domain.engine, .region 0, .region 1, .region 2, .region 3].foldl (fun t d => later t (e.domOf d).since) 0
      let (n, e) := (e.advanceTo (t + BitVec.ofNat 64 (e.svc.power.dormantDelay.toNat * 1000000))).draw
      ((Eff.mk e []).store ⟨e.svc.power.saveBase.toNat * 2 ^ 23, .clear, (Config.saveImage n).take saveSize⟩).on fun e =>
        ((e.modPower fun p => { p with dormant := true, dormantExit := none, savedAs := some (e.svc.power.saveBase.toNat * 2 ^ 23, n) }).coldCaches).count subSvc 27 1
    else ⟨e, []⟩

/-- DORMANT_EXIT (R346): any of the triggers starts an exit of 60 µs. -/
def execDormantExit (_t : DormantTrigger) (s : State) : Answer := onEng s fun _ e => e.beginExit

/-- DORMANT_EXIT_DONE (R346, R462). -/
def execDormantExitDone (s : State) : Answer :=
  onEng s fun m e =>
    match e.svc.power.dormantExit with
    | none => e
    | some t => (e.advanceTo t).exitDormant m

/-- PWR_CTL_WRITE (R344). -/
def execPwrCtlWrite (r : Region) (w : RegWrite) (s : State) : Answer :=
  onEng s fun m e => e.access m subSvc fun e =>
    let c := e.regionCtl r
    let c : PwrCtl := {
      minState := BitVec.ofNat 2 (wrField w.half w.value 49 48 c.minState.toNat)
      lendEn := wrBit w.half w.value 40 c.lendEn
      sleepDelay := BitVec.ofNat 16 (wrField w.half w.value 31 16 c.sleepDelay.toNat)
      idleDelay := BitVec.ofNat 16 (wrField w.half w.value 15 0 c.idleDelay.toNat) }
    let e := (e.modPower fun p => { p with ctl := setRow {} 4 p.ctl r.toNat c }).floorRaised r
    e.lendRegion r

/-- PWR_ENG_WRITE (R345, R346). -/
def execPwrEngWrite (w : RegWrite) (s : State) : Answer :=
  onEng s fun m e => e.access m subSvc fun e =>
    let e := e.modPower fun p => { p with
      dormantEn := wrBit w.half w.value 63 p.dormantEn
      engMin := BitVec.ofNat 2 (wrField w.half w.value 49 48 p.engMin.toNat)
      dormantDelay := BitVec.ofNat 16 (wrField w.half w.value 31 16 p.dormantDelay.toNat)
      rotateUs := BitVec.ofNat 8 (wrField w.half w.value 7 0 p.rotateUs.toNat) }
    let e := if e.svc.power.dormantEn then e else e.beginExit
    if e.svc.power.dormant then e else e.engineFloor

/-- CAP_WRITE (R350). -/
def execCapWrite (w : RegWrite) (s : State) : Answer :=
  onEng s fun m e => e.access m subSvc fun e =>
    if halfCovers w.half 0 then (e.modPower fun p => { p with cap := w.value.extractLsb' 0 12 }).limitChanged else e

end Sys2Proof.Machine
end

