-- ==== Sys2Proof/Machine/Targets.lean ====
section
/-! DEFINITION. Self-test targets and what self-test has mapped in them, and the full self-test of a cold start (11: R376, R382, R383; 09: R322;
14: R454, R456). -/

namespace Sys2Proof.Machine

/-! ### Targets (R376) -/

/-- Instances of a row. -/
def bistCount (row : Nat) : Nat := [20, 24, 64, 4, 4, 4, 4, 4, 1, 1, 5].getD row 0

/-- Slices of one visit. -/
def bistSlices (row : Nat) : Nat := [8, 1, 1, 2, 4, 4, 4, 8, 4, 16, 2].getD row 1

def BistTarget.key (t : Sys2Proof.BistTarget) : Nat := bistKey t.row.toNat t.inst.toNat

def BistTarget.valid (t : Sys2Proof.BistTarget) : Bool := decide (t.inst.toNat < bistCount t.row.toNat)

/-- The source of a target's events (R361): subsystem and instance. -/
def bistSource (row inst : Nat) : BitVec 4 × BitVec 6 :=
  let i := BitVec.ofNat 6 inst
  if row = 0 then (subDrv, i) else if row = 1 then (subWlk, i) else if row = 2 then (subLay, i)
  else if row = 3 then (subCst, i) else if row = 4 then (subCdc, i) else if row = 5 then (subAtg, i)
  else if row = 6 then (subWlk, i + 24) else if row = 7 then (subSyn, i) else if row = 8 then (subRfe, 0)
  else if row = 9 then (subCxs, 0)
  else if inst = 0 then (subJrn, 0) else if inst = 1 then (subNpi, 0) else if inst = 2 then (subOpi, 0)
  else if inst = 3 then (subSyn, 4) else (subRfe, 1)

/-- The targets of a region, or of the engine, in row order. -/
def targetsOf (r : Option Region) : List (Nat × Nat) :=
  (List.range 11).flatMap fun row =>
    ((List.range (bistCount row)).filter fun i => bistRegion row i = r).map fun i => (row, i)

def Eng.bistOf (e : Eng) (k : Nat) : Bist := mapGet {} e.svc.bist k

def Eng.modBist (e : Eng) (k : Nat) (f : Bist → Bist) : Eng := { e with svc := { e.svc with bist := mapUpd {} e.svc.bist k f } }

/-- A unit has been fenced (R379, R384, R414). -/
def Eng.unitFenced (e : Eng) (row inst : Nat) : Bool :=
  (e.bistOf (bistKey row inst)).fenced || ((bistRegion row inst).map e.regionFenced).getD false
    || (row = 0 && (e.drover (BitVec.ofNat 5 inst)).fenced) || (row = 1 && e.wlk.fenced.contains (BitVec.ofNat 5 inst))
    || (row = 2 && e.lay.fenced.contains (BitVec.ofNat 6 inst)) || (row = 4 && e.cdc.fenced.contains (BitVec.ofNat 2 inst))

/-- A fenced unit is tested no more: a segment on it stops (R379, R384). -/
def Eng.stopFenced (e : Eng) : Eng :=
  { e with svc := { e.svc with bist := (e.svc.bist.map fun b =>
      if b.2.active && e.unitFenced (b.1 / 64) (b.1 % 64) then (b.1, { b.2 with active := false, granted := false }) else b).filter (·.2 ≠ {}) } }

/-- The visit begins again from its first slice. -/
def Bist.again (b : Bist) : Bist := { b with slice := 0, segment := 0, failed := false, badClock := false, badVolt := false }

/-- What a target's macros have used. -/
def macroOf (b : Bist) (structId macroNo : Byte) : MacroUse :=
  (b.macros.find? fun m => m.structId = structId && m.macroNo = macroNo).getD { structId := structId, macroNo := macroNo }

def setMacro (b : Bist) (m : MacroUse) : Bist :=
  { b with macros := m :: b.macros.filter fun x => !(x.structId = m.structId && x.macroNo = m.macroNo) }

/-! ### Measurement (R322) -/

/-- SVC measures the four blocks. -/
def Svc.measure (s : Svc) : Svc := { s with measures := [1, 2, 3, 4].map fun i => sha384 (Config.measured i) }

/-- The measurement digest: the SHA-384 over the four values in index order. -/
def Svc.digest (s : Svc) : List Byte := sha384 s.measures.flatten

/-! ### The self-test of a cold start (R456, R454) -/

/-- The programmed repair fuses of a target, as spares in use (R383). -/
def Eng.fusedMacros (e : Eng) (row inst : Nat) : Bist :=
  let src := bistSource row inst
  (e.fuses.filter fun c => c.sub = src.1 && c.inst = src.2).foldl (fun b c =>
    let m := macroOf b c.structId c.macroNo
    setMacro b (if c.kind = 1 then { m with rows := m.rows + 1 } else { m with col := true })) {}

/-- Phase 6 begins, unless ENG_RESET_L is low: Vrelop leaves Dormant, fused repairs are loaded, and every target's full visit
starts, which is work for its region. -/
def Eng.bootTest (e : Eng) : Eng :=
  if !e.pins.engResetL || !e.svc.power.dormant || decide (e.svc.start.phase ≠ 6) || e.svc.start.failed then e
  else
    let e := e.modPower fun p => { p with dormant := false, dormantExit := none }
    let ts := targetsOf none ++ regions.flatMap fun r => targetsOf (some r)
    let e := ts.foldl (fun e t => e.modBist (bistKey t.1 t.2) fun _ => { e.fusedMacros t.1 t.2 with active := true }) e
    (regions.foldl Eng.wakeRegion e).wakeEngine

end Sys2Proof.Machine
end

