-- ==== Sys2Proof/Machine/Recovery.lean ====
section
/-! DEFINITION. The journal's rows (12: R391, R395, R415 to R420), engine resets and replay (12: R403 to R413; 14: R453, R454,
R461, R462; 09: R309), and descriptors that are dispatched again after a part is lost (12: R409, R414). -/

namespace Sys2Proof.Machine

/-! ### Flushes and acceptance (R386, R395) -/

/-- Descriptors whose ACCEPT record is durable are accepted. -/
def Eng.acceptDurable (e : Eng) : Eng :=
  (e.jobs.filter fun j => !j.accepted && !j.adopted && e.jrn.recs.any fun r =>
      decide (r.kind = .accept) && decide (r.word1 = j.handle) && decide (r.jseq < e.jrn.durableSeq)).foldl
    (fun e j => (e.modJob j.handle fun j => { j with accepted := true }).modCtx j.ctx fun x =>
      { x with tallyAccept := x.tallyAccept + 1 }) e

/-- JOURNAL_FLUSH_RETURN (R395): a flush that ends in an error, or that the host port reports lost, advances nothing. -/
def execJournalFlushReturn (ok : Bool) (s : State) : Answer :=
  onEng s fun _ e =>
    match e.jrn.flushTo with
    | none => e
    | some t =>
      let e := e.modJrn fun j => { j with flushTo := none, durableSeq := if ok then max j.durableSeq t else j.durableSeq }
      (if ok then ((e.count subJrn 1 1).acceptDurable.jPrune).jPump else e.jPump).noteWork

/-- The host is reachable again (R78, R395, R415, R416): what was held for it leaves, every record that is not durable is written
again, and the waiting records follow. -/
def Eng.hostBack (e : Eng) : Eng :=
  let e := e.releaseHeld
  if e.jOpen && decide (e.jrn.state = .attached) then e.jRewrite.jPump else e

/-- The host has become reachable: the writes held for it and the request streams that wait at the host link's port proceed in the order in which
they came, and the journal follows (R78, R395, R415, R416). -/
def Eng.hostReturns (e : Eng) (m : Memory) : Eff :=
  if !e.hostUp then ⟨e, []⟩
  else
    let held := e.jrn.heldOut
    let leave := fun (l : List HostWrite) (e : Eng) => l.foldl (fun e w => e.emit (.host w)) e
    let here := e.svc.ports.filter fun p => p.port = 6
    let e : Eng := { e with
      jrn := { e.jrn with heldOut := [] }, svc := { e.svc with ports := e.svc.ports.filter fun p => p.port ≠ 6 } }
    let x := here.foldl (fun (x : Eff × Nat) p =>
      ((x.1.on (leave ((held.take p.behind).drop x.2))).andThen m fun m e => e.resumeUsers m [p.who], max x.2 p.behind)) (⟨e, []⟩, 0)
    (x.1.on (leave (held.drop x.2))).on Eng.hostBack

/-! ### JRN_CTL (R391) -/

/-- A journal command: ignored while BUSY, BAD_STATE from a state not listed for it. -/
def Eng.jrnCommand (e : Eng) (m : Memory) (legal : JState) (f : Eng → Eng) : Eng :=
  e.access m subJrn fun e =>
    if e.jrn.busy then e
    else if e.jrn.state ≠ legal then e.modJrn fun j => { j with result := 1 }
    else f (e.modJrn fun j => { j with result := 0 })

/-- The configuration that FRESH and ADOPT check. -/
def Jrn.configOk (j : Jrn) : Bool := 12 ≤ j.sizeLog2.toNat && j.sizeLog2.toNat ≤ 28 && j.base ≠ 0

/-- IDENT of this device (R394). -/
def ownIdent : BitVec 32 := deviceIdent (sha384 Config.identityKey)

/-- FRESH (R391). -/
def execFresh (s : State) : Answer :=
  onEng s fun m e => e.jrnCommand m .detached fun e =>
    if !e.jrn.configOk then e.modJrn fun j => { j with result := 2 }
    else
      (e.modJrn fun j => { j with
        state := .attached, headSeq := 0, durableSeq := 0, tailSeq := 0, recs := [], waiting := [], flushTo := none }).jAppend
          (attachRec e.device ownIdent e.now)

/-- ADOPT (R391, R419): it runs until ADOPT_DONE. DEDUCED (log 87): STATE reads DETACHED, as steps 1 and 2 have it, until the region has been
read. -/
def execAdopt (s : State) : Answer :=
  onEng s fun m e => e.jrnCommand m .detached fun e =>
    if !e.jrn.configOk then e.modJrn fun j => { j with result := 2 }
    else e.modJrn fun j => { j with busy := true }

/-- REATTACH (R391, R416). -/
def execReattach (s : State) : Answer :=
  onMem s fun m e =>
    let was := e.hostUp
    let e := e.jrnCommand m .held fun e => e.modJrn fun j => { j with state := .attached }
    if was then ⟨e, []⟩ else e.hostReturns m

/-! ### ADOPT (R419) -/

/-- The valid records of a journal region, as the host returned it (R394). -/
def Jrn.readRegion (j : Jrn) (host : HostBytes) : List JRec :=
  let base := j.base.toNat * 4096
  let ps := ((host.map (·.1)).filter fun a => decide (base ≤ a) && decide (a < base + 32 * j.size)).map fun a => (a - base) / 32
  ps.dedup.filterMap fun p => readRec j.sizeLog2.toNat p (hostBytesAt host (base + 32 * p) 32)

/-- The record with the highest JSEQ of a kind. -/
def newestOf (k : JKind) (rs : List JRec) : Option JRec :=
  (rs.filter fun r => r.kind = k).foldl (fun best r => match best with
    | none => some r
    | some b => if b.jseq < r.jseq then some r else some b) none

/-- The JSEQs of the run that goes on from `q` in one direction. -/
def runFrom (rs : List JRec) (up : Bool) : Nat → Nat → Nat
  | 0, q => q
  | n + 1, q =>
    let q' := if up then q + 1 else q - 1
    if (up || 0 < q) && rs.any (fun r => r.jseq = q') then runFrom rs up n q' else q

/-- The longest run of consecutive valid JSEQs that contains a record. -/
def runOf (rs : List JRec) (q : Nat) : List JRec :=
  rs.filter fun r => decide (runFrom rs false rs.length q ≤ r.jseq) && decide (r.jseq ≤ runFrom rs true rs.length q)

def JRec.postIndex (r : JRec) : Idx := r.word2.extractLsb' 32 32

/-- One record for each handle. -/
def oncePerHandle : List JRec → List JRec
  | [] => []
  | r :: rs => if rs.any fun x => x.word1 = r.word1 then oncePerHandle rs else r :: oncePerHandle rs

/-- Records grouped by context, lowest context first, each group in POST_INDEX order (R419). -/
def groupByCtx (rs : List JRec) : List JRec :=
  (((rs.map fun r => handleCtx r.word1).dedup).mergeSort fun a b => a.toNat ≤ b.toNat).flatMap fun c =>
    (rs.filter fun r => handleCtx r.word1 = c).mergeSort fun a b => !idxBefore b.postIndex a.postIndex

/-- The ACCEPT records of a list that no RETIRE record of it answers, grouped by context in POST_INDEX order. -/
def unretired (adopted : Bool) (rs : List JRec) : List JRec :=
  groupByCtx (oncePerHandle (rs.filter fun r => decide (r.kind = .accept) && (adopted || !r.adopted)
    && !(rs.any fun q => decide (q.kind = .retire) && decide (q.word1 = r.word1))))

def Eng.endAdopt (e : Eng) (st : JState) (res : BitVec 4) : Eng :=
  e.modJrn fun j => { j with state := st, result := res, busy := false }

/-- ADOPT_DONE (R419). `host` is the journal region as the host returned it. While the host is unreachable ADOPT waits. -/
def execAdoptDone (host : HostBytes) (s : State) : Answer :=
  onEng s fun _ e =>
    if !e.jrn.busy || !e.hostUp then e
    else
      let rs := e.jrn.readRegion host
      match newestOf .attach rs with
      | none => e.endAdopt .detached 3
      | some a =>
        if a.word1.extractLsb' 32 32 ≠ ownIdent then e.endAdopt .detached 4
        else
          let run := runOf rs a.jseq
          let owed := unretired true run
          let tail := run.foldl (fun n r => max n (r.jseq + 1)) 0
          let e := e.modJrn fun j => { j with
            state := .attached, busy := false, headSeq := tail, durableSeq := tail, tailSeq := tail, recs := [], waiting := [] }
          let e := owed.foldl (fun e r => e.modCtx (handleCtx r.word1) fun x =>
            { x with owed := x.owed ++ [(r.word1, r.word2.extractLsb' 0 32)] }) e
          let e := owed.foldl (fun e r => e.jAppend { r with carried := false, adopted := true }) e
          e.jAppend (attachRec e.device ownIdent e.now)

/-! ### Descriptors dispatched again (R409, R414) -/

/-- A descriptor as it stands before execution, with what the journal marks of it. -/
def Job.afresh (j : Job) : Job :=
  { handle := j.handle, words := j.words, payload := j.payload, paddock := j.paddock, tickets := j.tickets
    postIndex := j.postIndex, cls := j.cls, accepted := j.accepted, lead := j.lead, marked := j.marked
    homeStatus := j.homeStatus, skipBelow := j.skipBelow }

/-- A contribution of the descriptor has been emitted into a chunk that is not complete (R414). -/
def Job.openChunk (j : Job) : Bool :=
  j.dstEl.any fun x => match x.2 with
    | .fly _ _ _ | .done => !j.chunkDone (j.chunkOf x.1)
    | _ => false

/-- A descriptor that held a lost unit or region is dispatched again; a class A descriptor with a chunk open completes
ABANDONED (R414). -/
def Eng.redispatch (e : Eng) (h : Word) : Eng :=
  match e.job h with
  | none => e
  | some j =>
    if j.stage ≠ .queued && j.stage ≠ .running then e
    else
      let e := (e.count subRfe 2 1).giveSets h
      if j.cls = .a && j.openChunk then e.finish h stAbandoned 0
      else (((if j.cls = .a then e.writeAllApplied h else e).release h).modJob h fun j =>
        { j.afresh with stay := !e.regionFenced j.lead }).endDisables

/-! ### Engine reset: quiesce and settle (R403 to R406) -/

def Eng.modReset (e : Eng) (f : EngReset → EngReset) : Eng := { e with svc := { e.svc with reset := f e.svc.reset } }

/-- The source that entered the Fatal state before this reset is a subsystem's (R405, R413). -/
def Eng.fatalFrom (e : Eng) (p : BitVec 16 → Bool) : Bool := e.svc.reset.fatal && p e.flt.firstSource

/-- The reset can settle (R405). -/
def Eng.canSettle (e : Eng) : Bool :=
  !(e.fatalFrom fun s => srcSub s = subRfe || srcSub s = subJrn) && e.hostUp && decide (e.jrn.state = .attached)

/-- The waits that depend on this device are told, where NPI and the SYN distributor can send (R413). -/
def Eng.tellWaiters (e : Eng) : Eng :=
  if e.fatalFrom fun s => srcSub s = subNpi || (srcSub s = subSyn && srcInst s = 4) then e
  else
    let theirs := fun (w : Wait) => match w.who with
      | .peer _ _ _ => true
      | _ => false
    let e := e.orphanAll e.now theirs
    let e := (e.homeWaits.filter theirs).foldl (fun e w => e.dropWait w (e.orphaned w)) e
    (e.jobs.filter fun j => j.opcode = opFlagWait && j.syncSent && j.stage = .waiting && j.answer.isNone).foldl
      (fun e j => e.emit (.npi j.syncDev (.withdraw j.ctx (j.waitId.getD 0)))) e

/-- Every DIE_WAIT outstanding ends ORPHANED, as its die is told (R259, R288, R413). -/
def Eng.orphanDies (e : Eng) : Eng :=
  (e.syn.waits ++ e.syn.held ++ e.syn.events.filterMap fun v => v.act.waitOf).foldl (fun e w => match w.who with
    | .die _ _ => e.count subSyn (16 + (flagRegion w.flag).toNat) 1
    | _ => e) e

/-- Flags are clear with held scope CONTEXT, and enabled folds count from zero with their EPISODE (R462). -/
def Eng.clearSyn (e : Eng) : Eng :=
  let e := e.orphanDies.modSyn fun s => { s with waits := [], held := [], events := [], lostRegions := [] }
  let e := e.syn.flags.foldl (fun e x => e.setFlag (BitVec.ofNat 18 x.1) { x.2 with
    value := false, scope := .context, changed := false }) e
  e.syn.folds.foldl (fun e x => if x.2.enable then e.setFold (BitVec.ofNat 16 x.1) { x.2 with
    state := .counting, count := 0, children := [], scopeMin := .context } else e) e

/-- The reset phase begins (R402, R404): engine and region state is lost, and FLT_MODE is RECOVERY. -/
def Eng.startResetPhase (e : Eng) : Eng :=
  let e := (e.disarm.coldCaches).clearSyn
  let e : Eng := { e with
    jobs := e.jobs.filter (·.adopted)
    rfe := { e.rfe with starvedCtx := [], waited := [] }
    wlk := { e.wlk with fenced := [], inv := { e.wlk.inv with busy := false } }
    lay := {}
    cdc := { e.cdc with fenced := [] }
    drv := List.replicate 20 {}
    atg := { e.atg with invBusy := false, cmdBusy := .idle, reachBad := [] }
    npi := { e.npi with serving := [], heldSync := [] }
    opi := { e.opi with serving := [] }
    jrn := { e.jrn with flushTo := none, waiting := [] }
    flt := { e.flt with mode := 3, fatal := false, inject := { e.flt.inject with plants := [] } } }
  let e : Eng := { e with svc := { e.svc with
    ports := []
    bist := (e.svc.bist.map fun b => (b.1, { b.2 with active := false, granted := false, won := false, segment := 0, fenced := false })).filter
      (·.2 ≠ {}) } }
  (e.endDisables).modReset fun r => { r with phase := .resetting, began := e.now }

/-- The settle ends, and the reset phase begins, or waits for the pin of a pin-started reset (R404, R413, R453). -/
def Eng.endSettle (e : Eng) (settled : Bool) : Eng :=
  let e := (e.tellWaiters).modReset fun r => { r with settled := settled, phase := .wait }
  let e := if settled then e else e.count subSvc 33 1
  if e.svc.reset.byPin && !e.pins.engResetL then e else e.startResetPhase

/-- A settle under way cannot be completed any more, and ends unsettled: at once, or when SVC runs again (R405, R453, R454). -/
def Eng.breakSettle (e : Eng) : Eng := if e.svc.reset.phase = .settle && !e.svc.restarting then e.endSettle false else e

/-- Each walker holder stops at its boundary (R333, R406). -/
def Eng.stopWalkers (e : Eng) : Eng :=
  { e with jobs := e.jobs.map fun j => if j.stage = .running && j.walker.isSome then { j with yieldAt := some e.now, yieldTo := none } else j }

/-- The contributions of the positions that walkers had reached when they stopped at once go on (R401, R406). -/
def Eng.drainReached (e : Eng) (m : Memory) : Eng :=
  (e.jobs.filter fun j => j.cls = .a && j.usesWalker && j.stage = .running).foldl (fun e j => e.advanceJob m j.handle) e

/-- An engine reset begins (R404, R405, R453): the Fatal state ends, and the settle runs where the reset can settle. A
reset that begins during a replay keeps the mode to return to. -/
def Eng.beginReset (e : Eng) (m : Memory) (byPin : Bool) : Eng :=
  let e := e.reach m subRfe
  let e := (e.count subSvc 32 1).modReset fun r => { r with
    settled := false, req := false, byPin := byPin, fatal := e.flt.fatal, phase := .settle, began := e.now
    mode := if r.phase = .none then e.flt.mode else r.mode }
  let e : Eng := { e with flt := { e.flt with fatal := false } }
  if e.canSettle then (if e.svc.reset.fatal then (regions.foldl (fun e r => e.retryOthers m r) e.hostBack).drainReached m else e.hostBack.stopWalkers)
  else e.endSettle false

/-- An engine reset may begin: after READY, with none in its quiesce, settle or reset phase (R454). -/
def Eng.mayReset (e : Eng) : Bool :=
  e.svc.start.ready && !e.svc.start.failed && (decide (e.svc.reset.phase = .none) || decide (e.svc.reset.phase = .replay))

/-- SVC_ENG_RESET written (R403, R454). -/
def Eng.engResetWrite (e : Eng) (m : Memory) (w : RegWrite) : Eng :=
  let e := e.modReset fun r => { r with
    settleMs := BitVec.ofNat 16 (wrField w.half w.value 47 32 r.settleMs.toNat)
    auto := wrBit w.half w.value 1 r.auto }
  if halfCovers w.half 0 && bitOf w.value 0 && e.mayReset then e.beginReset m false else e

/-- ENG_RESET_REQ (R403): a write of SVC_ENG_RESET with REQ 1. -/
def execEngResetReq (w : RegWrite) (s : State) : Answer :=
  onEng s fun m e => e.access m subSvc fun e => e.engResetWrite m { w with value := w.value ||| 1 }

/-- ENG_RESET_L_FALL (R453, R454). -/
def execEngResetLFall (s : State) : Answer :=
  onEng s fun m e =>
    let e : Eng := { e with pins := { e.pins with engResetL := false } }
    if e.mayReset then e.beginReset m true else e

/-- What waits for ENG_RESET_L begins: a reset phase, a replay, or the self-test of a cold start (R453, R454). -/
def Eng.pinHigh (e : Eng) : Eng :=
  match e.svc.reset.phase with
  | .wait => e.startResetPhase
  | .waitReplay => e.modReset fun r => { r with phase := .replay }
  | _ => e.bootTest

/-- ENG_RESET_L_RISE (R453, R454). While SVC restarts what waits for the pin waits for SVC, too. -/
def execEngResetLRise (s : State) : Answer :=
  onEng s fun _ e =>
    let e : Eng := { e with pins := { e.pins with engResetL := true } }
    if e.svc.restarting then e else e.pinHigh

/-- SVC runs again: an engine reset goes on from the phase that it is in (R454). -/
def Eng.resetGoesOn (e : Eng) : Eng :=
  if e.svc.reset.phase = .settle then (if e.hostUp && decide (e.jrn.state = .attached) && e.pins.corePg then e else e.endSettle false)
  else if (e.svc.reset.phase = .wait || e.svc.reset.phase = .waitReplay) && e.pins.engResetL then e.pinHigh
  else e

/-- CORE_PG_FALL (R453): a settle ends at once, unsettled. -/
def execCorePgFall (s : State) : Answer :=
  onEng s fun _ e => ({ e with pins := { e.pins with corePg := false } } : Eng).breakSettle

/-- A descriptor has nothing on its way, and nothing left to issue before its boundary; where its walker stopped at once, the contributions of the
positions that it had reached have run to their end (R333, R401, R406). -/
def Eng.jobDrained (e : Eng) (j : Job) : Bool :=
  let fly := [StreamId.idx, .src, .scaleIn, .dst, .scaleOut].any fun st => (j.els st).any fun x => match x.2 with
    | .fly _ _ _ => true
    | _ => false
  decide (j.stage = .finished) || decide (j.stage = .spooled)
    || (!fly && decide (j.invals = []) && (decide (j.stage ≠ .running) || j.over
        || (if e.mute then decide (j.cls ≠ .a) || j.tile || j.allSettled else j.walker.isNone || j.atBoundary))
      && !(j.syncSent && decide (j.opcode ≠ opFlagWait)))

/-- The drain is done, and each sweep has issued its current granule's record (R406, step 2). -/
def Eng.settleDrained (e : Eng) : Bool :=
  (e.jobs.all fun j => e.jobDrained j) && e.npi.serving.isEmpty && e.npi.heldSync.isEmpty && e.opi.serving.isEmpty
    && e.syn.events.isEmpty && e.svc.sweeps.all fun s => decide (s.phase ≠ .copying)

/-- A descriptor's progress is marked (R406, step 4). P is the first position not emitted; the record of a tile stage carries DOUBT where its
walker stopped at once, or its whole tile blocks form no prefix of the destination (log 68). -/
def Eng.markProgress (e : Eng) (j : Job) : Eng :=
  if j.cls ≠ .a || !j.usesWalker || j.stage ≠ .running then e
  else
    let e := e.writeAllApplied j.handle
    let doubt := j.tile && (e.mute || !j.prefixed)
    if j.dstEl.any fun x => decide (x.2 = .done) then e.jAppend (progressRec j.handle j.firstUnemitted doubt) else e

/-- The completions that are finished go to their spool slots (R406, step 3). -/
def Eng.spoolFinished (e : Eng) : Eff :=
  (e.jobs.filter fun j => j.stage = .finished).foldl
    (fun (x : Eff) j => let y := x.eng.spoolRecord j.ctx j; { eng := y.eng, ops := x.ops ++ y.ops }) ⟨e, []⟩

/-- The final flush returns (R406, step 5). -/
def Eng.finalFlush (e : Eng) : Eng :=
  let e := e.jPump
  ((e.modJrn fun j => { j with flushTo := none, durableSeq := j.tailSeq }).count subJrn 1 1).acceptDurable.jPrune

/-- The stamp at which SETTLE_MS has passed (R403). -/
def Eng.settleBy (e : Eng) : Word := e.svc.reset.began + BitVec.ofNat 64 (max 1 e.svc.reset.settleMs.toNat * 1000000)

/-- SETTLE_DONE (R405, R406): the settle's final flush returns, once everything issued has run to its end; or SETTLE_MS has
passed, and the reset is unsettled, whatever has come to its end later. -/
def execSettleDone (settled : Bool) (s : State) : Answer :=
  onMem s fun _ e =>
    if e.svc.reset.phase ≠ .settle || e.svc.restarting then ⟨e, []⟩
    else if settled && decide (e.now.toNat ≤ e.settleBy.toNat) then
      if !e.settleDrained then ⟨e, []⟩
      else e.spoolFinished.on fun e => ((e.jobs.foldl Eng.markProgress e).finalFlush).endSettle true
    else ⟨(e.advanceTo e.settleBy).endSettle false, []⟩

/-! ### Sweeps resumed (R309, R318) -/

/-- A sweep's walk goes on to the leaf that it acts on next. -/
def Eng.sweepFrom (e : Eng) (m : Memory) (w : Sweep) : Eng :=
  let (e, t) := e.sweepScan w (tableFrom m (e.pdk w.paddock) [] w.va)
  e.setSweep t

/-- A sweep or scrub goes on from its last durable record; its window stands from here on (R309). -/
def Eng.resumeSweep (e : Eng) (m : Memory) (w : Sweep) : Eng :=
  match newestOf .cursor (e.jrn.recs.filter fun r => decide (r.word1 = w.handle) && decide (r.jseq < e.jrn.durableSeq)) with
  | none =>
    let w := { w with phase := .start, va := 0, page := 0, nextCopy := none }
    if w.scrub then e.setSweep { w with phase := .quiesce } else e.sweepFrom m w
  | some r =>
    let b := r.kspec.getLsbD 5
    let va := fld r.word2 31 0 * 65536
    let w := { w with phase := .start, va := va, scratchB := b, abandons := 0, nextCopy := none, nextAbandons := 0, nextWords := 0
                      toE := if w.scrub then r.kspec.extractLsb' 0 4 else w.toE }
    let e := e.sweepFrom m w
    match e.svc.sweeps.find? (·.handle = w.handle) with
    | some t =>
      if r.kspec.getLsbD 4 && t.phase = .copying && t.va = va then e.setSweep (e.overlap { t with phase := .writing, scratchB := b }) else e
    | none => e

def Eng.resumeSweeps (e : Eng) (m : Memory) : Eng := e.svc.sweeps.foldl (fun e w => e.resumeSweep m w) e

/-! ### Replay (R407 to R411) -/

/-- The records that a replay finds: the durable ones, and those written after them that had landed (R386). -/
def Eng.foundRecs (e : Eng) (host : HostBytes) : List JRec :=
  (e.jrn.recs.filter fun r => decide (r.jseq < e.jrn.durableSeq)) ++
    (e.jrn.recs.filter fun r => decide (e.jrn.durableSeq ≤ r.jseq)).takeWhile fun r =>
      decide (hostBytesAt host (e.jrn.addr r.jseq) 32 = r.bytes)

/-- JRN goes on after the last of them. A descriptor whose ACCEPT record had landed without its flush is accepted by that (R42, R386). -/
def Eng.readJournal (e : Eng) (host : HostBytes) : Eng :=
  let rs := e.foundRecs host
  let tail := rs.foldl (fun n r => max n (r.jseq + 1)) e.jrn.durableSeq
  let late := rs.filter fun r => decide (e.jrn.durableSeq ≤ r.jseq) && decide (r.kind = .accept) && !r.carried && !r.adopted
  let e := late.foldl (fun e r => e.modCtx (handleCtx r.word1) fun x => { x with tallyAccept := x.tallyAccept + 1 }) e
  e.modJrn fun j => { j with recs := rs, tailSeq := tail, durableSeq := tail }

/-- The completion ring's slot for POST_INDEX `p`. -/
def Eng.cqSlot (e : Eng) (m : Memory) (host : HostBytes) (c : CtxNum) (p : Idx) : List Byte :=
  let x := e.ctx c
  let a := ringAddr x.cqBase x.cqLog2 p 32
  if x.cqInHost then hostBytesAt host a 32 else m.bytes .clear a 32

/-- Word `i` of a completion record. -/
def slotWord (bs : List Byte) (i : Nat) : Nat := leNat ((bs.drop (8 * i)).take 8)

/-- The completion ring's slot holds a record's completion (R408). -/
def Eng.cqMatches (e : Eng) (m : Memory) (host : HostBytes) (c : CtxNum) (r : JRec) : Bool :=
  let bs := e.cqSlot m host c r.postIndex
  decide (slotWord bs 0 = r.word1.toNat) && decide (slotWord bs 1 / 2 ^ 48 % 2 = cqPhase (e.ctx c).cqLog2 r.postIndex)

/-- The RETIRE record of a completion found in its slot. -/
def Eng.retireFound (e : Eng) (m : Memory) (host : HostBytes) (c : CtxNum) (r : JRec) : Eng :=
  let bs := e.cqSlot m host c r.postIndex
  e.jAppend (retireRec r.word1 (BitVec.ofNat 64 (slotWord bs 2)) (BitVec.ofNat 16 (slotWord bs 1 / 2 ^ 32)))

/-- A completion that stands in its spool slot. -/
def spooledJob (r : JRec) (bs : List Byte) : Job :=
  { handle := r.word1, words := [r.word2.extractLsb' 0 32 ++ (0 : BitVec 32)], postIndex := r.postIndex, accepted := true
    stage := .spooled, status := BitVec.ofNat 16 (slotWord bs 1 / 2 ^ 32), detail := BitVec.ofNat 64 (slotWord bs 2)
    ready := some (BitVec.ofNat 64 (slotWord bs 3)) }

/-- The class that an ACCEPT record states (R394). -/
def JRec.cls (r : JRec) : IdemClass :=
  let n := r.kspec.toNat / 2 ^ 8 % 4
  if n = 0 then .i else if n = 1 then .a else .n

/-- EXT that an ACCEPT record states. -/
def JRec.ext (r : JRec) : Nat := r.kspec.toNat / 2 ^ 10 % 4

/-- An accepted descriptor read again from its ring (R409). -/
def Eng.rereadJob (e : Eng) (m : Memory) (host : HostBytes) (c : CtxNum) (r : JRec) : Job :=
  let i := handleSeq r.word1
  let d := e.readEntry m c i host
  let slots := (List.range r.ext).flatMap fun k => e.readEntry m c (i + BitVec.ofNat 32 (k + 1)) host
  let rs := e.jrn.recs.filter fun q => q.word1 = r.word1
  let applied := rs.filter fun q => q.kind = .applied
  { newJob { e.ctx c with sqHead := i } c d slots with
    handle := r.word1, postIndex := r.postIndex, accepted := true, cls := r.cls
    paddock := BitVec.ofNat 12 (r.kspec.toNat / 2 ^ 12)
    marked := (applied.map fun q => (fld q.word2 39 0, fld q.word2 63 40)).dedup
    homeStatus := applied.head?.map fun q => q.kspec.extractLsb' 8 16 }

/-- Every chunk of a class A descriptor is marked (R409), by the view records as they stand. -/
def Eng.allMarked (e : Eng) (m : Memory) (j : Job) : Bool :=
  if !j.usesWalker then decide (j.marked ≠ [])
  else
    let k := { j with viewWords := j.slotWords.map fun s => e.viewPeek m (homeRegion j.ctx) j.paddock (j.slotOf s).view }
    let good := k.viewWords.all fun w => match w with
      | some ws => viewOk ws
      | none => false
    good && decide ((k.dstCount * k.dstView.ebits + 32767) / 32768 ≤ (j.marked.map (·.2)).sum)

/-- A descriptor is redispatched by its class (R409). -/
def Eng.replayJob (e : Eng) (m : Memory) (host : HostBytes) (c : CtxNum) (r : JRec) : Job :=
  let j := e.rereadJob m host c r
  let p := newestOf .progress (e.jrn.recs.filter fun q => q.word1 = r.word1)
  match r.cls with
  | .i => j
  | .n => if e.svc.sweeps.any (·.handle = r.word1) then { j with stage := .waiting } else j
  | .a =>
    if e.allMarked m j then j
    else if e.svc.reset.settled && !(match p with | some q => q.doubt | none => false) then
      { j with skipBelow := match p with | some q => fld q.word2 47 0 | none => 0 }
    else { j with stage := .finished, status := stAbandoned, detail := 0, ready := some e.now }

/-- The journal or SVC knows that a descriptor had begun. -/
def Eng.knownBegun (e : Eng) (h : Word) : Bool :=
  e.svc.sweeps.any (·.handle = h)
    || e.jrn.recs.any fun q => decide (q.word1 = h) && (decide (q.kind = .applied) || decide (q.kind = .progress) || decide (q.kind = .cursor))

/-- A context that was CLOSING under RESET finishes as R44 lays down (R261, R407): a FLAG_WAIT, and what has not begun, completes with CANCELLED.
DESIGN CHOICE (log 94): everything that a settled reset has not spooled had begun; after an unsettled one a descriptor counts as begun where the
journal or SVC knows of it. -/
def Eng.replayClosing (e : Eng) (c : CtxNum) (j : Job) : Job :=
  if (e.ctx c).closing = some .byReset && decide (j.stage ≠ .finished)
      && (decide (j.opcode = opFlagWait) || (!e.svc.reset.settled && !e.knownBegun j.handle)) then
    { j with stage := .finished, status := stCancelled, detail := 0, ready := some e.now }
  else j

/-- What a context is restored to when it has no live ACCEPT record, or from those it has (R407, R408). -/
def Eng.replayCtx (e : Eng) (m : Memory) (host : HostBytes) (c : CtxNum) : Eng :=
  let x := e.ctx c
  let rs := (unretired false e.jrn.recs).filter fun r => handleCtx r.word1 = c
  let mine := e.jobs.filter fun j => j.ctx = c
  let posted := rs.length - ((rs.reverse.takeWhile fun r => !e.cqMatches m host c r).length)
  let left := rs.drop posted
  let e := (rs.take posted).foldl (fun e r => e.retireFound m host c r) e
  let jobs := left.map fun r =>
    let bs := m.bytes .clear (spoolAddr x r.postIndex) 32
    if slotWord bs 0 = r.word1.toNat then spooledJob r bs else e.replayClosing c (e.replayJob m host c r)
  let e := e.count subRfe 2 (jobs.filter fun j => j.stage ≠ .spooled).length
  let cqTail := match mine.head?, rs.head? with
    | some j, _ => j.postIndex
    | none, some r => r.postIndex + BitVec.ofNat 32 posted
    | none, none => x.savedCqTail
  let sqHead := match rs.getLast? with
    | some r => handleSeq r.word1 + 1 + BitVec.ofNat 32 r.ext
    | none => x.savedHead
  let all := mine ++ jobs
  let e := e.setCtx c (writeThrough { x with
    sqHead := sqHead, sqTail := sqHead, cqTail := cqTail, cqHead := cqTail - BitVec.ofNat 32 (2 ^ x.cqLog2.toNat)
    outstanding := all.length, spooled := (all.filter fun j => j.stage = .spooled).length, refetch := none })
  { e with jobs := e.jobs ++ jobs }

/-- RETIRE records that the reset cut off: of owed completions already posted, and of a context that is DISABLED by now, whose
completions stand in its ring (R408). -/
def Eng.retireLate (e : Eng) (m : Memory) (host : HostBytes) : Eng :=
  (unretired true e.jrn.recs).foldl (fun e r =>
    let c := handleCtx r.word1
    let x := e.ctx c
    if r.adopted then
      if (x.owed.any fun o => o.1 = r.word1) || (e.jobs.any fun j => j.handle = r.word1) then e
      else e.jAppend (retireRec r.word1 0 stAbandoned)
    else if x.state = .disabled && e.cqMatches m host c r then e.retireFound m host c r
    else e) e

/-- The contexts that are not DISABLED, which a replay restores. -/
def Eng.liveCtxs (e : Eng) : List CtxNum :=
  (e.ctxs.filter fun c => decide (c.2.state ≠ .disabled)).map fun c => BitVec.ofNat 20 c.1

/-- OPI sends RESET_NOTICE to each enabled die on each of its assigned ports (R413). -/
def Eng.noticeDies (e : Eng) : Eng :=
  regions.foldl (fun e d => if (e.dieCfg d).enable then
    ((List.range 8).filter fun p => (e.dieCfg d).portMask.getLsbD p).foldl
      (fun e p => e.emit (.die d (.resetNotice (BitVec.ofNat 3 p)))) e else e) e

/-- RESET_PHASE_END (R404, R407 to R409, R412, R413, R459). `host` is what the replay reads of host memory: the journal,
completion rings and submission rings. Replay waits where ENG_RESET_L is low. DEDUCED (log 81): with a journal to read and the host unreachable
the phase does not end, since no request may go to host memory (R416); the rules say so of ADOPT only (R419). -/
def execResetPhaseEnd (host : HostBytes) (s : State) : Answer :=
  onMem s fun m e =>
    if e.svc.reset.phase ≠ .resetting || e.svc.restarting || !(e.jrn.state = .detached || e.hostUp) then ⟨e, []⟩
    else
      let e := ((e.advanceTo (e.svc.reset.began + 50000)).loadSeeds).noticeDies
      let e := if e.svc.reset.settled then e else e.npi.pairs.foldl (fun e d => e.emit (.npi d .resetNotice)) e
      let e := ((e.readJournal host).resumeSweeps m)
      let e := (e.liveCtxs.foldl (fun e c => e.replayCtx m host c) (e.retireLate m host)).jPrune
      let e := e.modReset fun r => { r with phase := if e.pins.engResetL then .replay else .waitReplay }
      e.liveCtxs.foldl (fun (x : Eff) c => x.storeIdle c) ⟨e.noteWork, []⟩

/-- REPLAY_END (R411): FLT_MODE returns and BUSY clears. -/
def execReplayEnd (s : State) : Answer :=
  onEng s fun _ e =>
    if e.svc.reset.phase ≠ .replay || e.svc.restarting then e
    else
      let e := (e.modReset fun r => { r with phase := .none }).hostBack
      { e with flt := { e.flt with mode := e.svc.reset.mode } }

/-! ### The host (R78, R415, R416) -/

/-- HOST_LINK_CHANGE (R78, R405, R415). -/
def execHostLinkChange (up : Bool) (s : State) : Answer :=
  onMem s fun m e =>
    let was := e.hostUp
    let e : Eng := { e with pins := { e.pins with hostLinkUp := up } }
    if up then (if was then ⟨e, []⟩ else e.hostReturns m) else ⟨e.breakSettle, []⟩

/-- HOST_RESET_IND (R416, R454). -/
def execHostResetInd (s : State) : Answer :=
  onEng s fun _ e =>
    match e.jrn.state with
    | .attached =>
      (e.modJrn fun j => { j with state := .held }).breakSettle
    | _ => if e.jrn.busy then e.endAdopt .detached 5 else e

end Sys2Proof.Machine
end

