-- ==== Sys2Proof/Machine/Faults.lean ====
section
/-! DEFINITION. Fault events, history, alert, fault rows of FLT, the watchdog, and lost stacks and ports (01: R19 to R21; 11:
R353 to R375, R385; 12: R414). -/

namespace Sys2Proof.Machine

def Eng.modFlt (e : Eng) (f : Flt → Flt) : Eng := { e with flt := f e.flt }

/-! ### ENG_ALERT_L (R369 to R371) -/

def Eng.modAlert (e : Eng) (f : Alert → Alert) : Eng := e.modFlt fun t => { t with alert := f t.alert }

/-- An alerting cause reaches FLT in this AO cycle (R371, rules 1, 2 and 4): the pin is low from the next one, or once its minimum high time has
passed, for at least 100 cycles from its first low cycle, and from the cause. -/
def Eng.alertCause (e : Eng) : Eng :=
  e.modAlert fun a =>
    let c := e.aoCycle
    let a := { a with pending := true, causeAt := some c }
    if a.active then { a with due := none, lowUntil := c + 100 }
    else match a.due with
      | some (_, t) => { a with lowUntil := max a.lowUntil (max (c + 100) (t + 99)) }
      | none =>
        let t := max (c + 1) a.highUntil
        { a with due := some (true, t), lowUntil := t + 99 }

/-- The pin is released from AO cycle `c` on, once its minimum has passed before it, unless HOLD and PENDING are both 1 (R371, rule 3); it then
stays high for ten cycles. -/
def Eng.alertRelease (e : Eng) (c : Nat) : Eng :=
  let a := e.flt.alert
  if a.active && a.due.isNone && decide (a.lowUntil < c) && !(a.hold && a.pending) then
    (e.modAlert fun a => { a with due := some (false, c), highUntil := c + 10 }).alertTick e.aoCycle
  else e

/-- ALERT_PULSE_END (R371). -/
def execAlertPulseEnd (s : State) : Answer :=
  onEng s fun _ e =>
    let e := if e.flt.alert.active || e.flt.alert.due.isSome then e.advanceCycles (e.flt.alert.lowUntil + 1) else e
    e.alertRelease e.aoCycle

/-- ALERT_HIGH_END (R371): a cause that came while the pin had to stay high drives it low. -/
def execAlertHighEnd (s : State) : Answer :=
  onEng s fun _ e =>
    match e.flt.alert.due with
    | some (true, t) => e.advanceCycles t
    | _ => e

/-- FLT_ALERT_CTL written (R370). Where a clear of PENDING and a cause fall in one AO cycle, the cause wins (R371). -/
def Eng.alertCtlWrite (e : Eng) (w : RegWrite) : Eng :=
  let clear := halfCovers w.half 62 && bitOf w.value 62 && decide (e.flt.alert.causeAt ≠ some e.aoCycle)
  let e := e.modAlert fun a => { a with
    hold := wrBit w.half w.value 8 a.hold, contEn := wrBit w.half w.value 4 a.contEn, pending := a.pending && !clear }
  let e := e.alertRelease (e.aoCycle + 1)
  if halfCovers w.half 0 && bitOf w.value 0 && (decide (e.flt.mode = 0) || decide (e.flt.mode = 2)) then e.alertCause else e

/-- ALERT_FORCE (R370): a write of FLT_ALERT_CTL with FORCE 1. -/
def execAlertForce (w : RegWrite) (s : State) : Answer :=
  onEng s fun m e => e.access m subFlt fun e => e.alertCtlWrite { w with value := w.value ||| 1 }

/-- PENDING_CLEAR (R370, R371): a write of FLT_ALERT_CTL with PENDING 1. -/
def execPendingClear (w : RegWrite) (s : State) : Answer :=
  onEng s fun m e => e.access m subFlt fun e => e.alertCtlWrite { w with value := w.value ||| 0x4000000000000000 }

/-! ### History (R363 to R367) -/

/-- The severity applied to an event: by its class in SERVICE, by FLT_SEVERITY in the other modes (R358, R360). -/
def Eng.severityOf (e : Eng) (v : FEvent) : Severity :=
  if v.mode = 1 then v.cls.severity
  else
    let c := (srcCode v.source).toNat
    let reg := e.flt.severity.getD (2 * (srcSub v.source).toNat + c / 32) 0
    Severity.ofCode (BitVec.ofNat 2 (fld reg (2 * (c % 32) + 1) (2 * (c % 32))))

/-- Entries held below which an event is entered (R366). -/
def histLimit : FClass → Nat
  | .notice | .corrected => 48
  | .contained => 60
  | .fatal => 64

/-- An event merges into the newest held entry (R365). -/
def merges (v : FEvent) (h : HistEntry) : Bool :=
  decide (v.cls = .corrected) && decide (h.source = v.source) && decide (h.detail.extractLsb' 0 8 = v.detail.extractLsb' 0 8)
    && decide (v.stamp.toNat < h.stamp.toNat + 1000000)

/-- An event is entered, merged, or counted as lost (R365, R366). -/
def Flt.record (t : Flt) (v : FEvent) : Flt :=
  match t.hist.getLast? with
  | some h =>
    if merges v h then { t with hist := t.hist.dropLast ++ [{ h with count := min (h.count + 1) 65535 }] }
    else if t.hist.length < histLimit v.cls then { t with hist := t.hist ++ [entry] }
    else { t with lost := min (t.lost + 1) (2 ^ 32 - 1) }
  | none => { t with hist := [entry] }
where
  entry : HistEntry := { ctx := v.ctx, cls := v.cls, source := v.source, stamp := v.stamp, sev := v.sev, mode := v.mode
                         detail := v.detail }

/-- The event that is entered first: ascending stamps, then ascending sources (R364). -/
def firstEvent (vs : List FEvent) : Option FEvent :=
  vs.foldl (fun best v => match best with
    | none => some v
    | some b => if v.cycle < b.cycle || (v.cycle = b.cycle && v.source.toNat < b.source.toNat) then some v else some b) none

/-- HIST_POP (R367). -/
def execHistPop (w : RegWrite) (s : State) : Answer :=
  onEng s fun m e => e.access m subFlt fun e =>
    if halfCovers w.half 0 then e.modFlt fun t => { t with hist := t.hist.drop 1 } else e

/-! ### SVC restart (R373, R374) -/

/-- PERIOD_MS in ns; values below 10 act as 10. -/
def Flt.wdogNs (t : Flt) : Nat := max 10 t.wdogPeriod.toNat * 1000000

/-- An expiry of the watchdog, or what counts as one: SVC restarts, or, within ten periods of the one before, the event is
Fatal. -/
def Eng.svcExpiry (e : Eng) : Eng :=
  let again := match e.svc.lastExpiry with
    | some t => decide ((e.now - t).toNat ≤ 10 * e.flt.wdogNs)
    | none => false
  let e : Eng := { e with svc := { e.svc with lastExpiry := some e.now, kick := e.now } }
  if again then e.raise subSvc 0 0x11 none 0
  else
    let n := e.svc.restarts + 1
    let e : Eng := { e with svc := { e.svc with
      restarting := true, restarts := n
      bist := e.svc.bist.foldl (fun t b => mapSet {} t b.1 { b.2 with active := false }) e.svc.bist } }
    e.raise subSvc 0 0x10 none (BitVec.ofNat 64 (n % 65536))

/-- The stamp of SVC's last kick before an expiry: a free value (log 85), not before the kick that the model knows of, and less than a period
before now. -/
def Eng.lastKick (e : Eng) (draw : Nat) : Word :=
  let from_ := max e.svc.kick.toNat (e.now.toNat - e.flt.wdogNs)
  BitVec.ofNat 64 (from_ + Config.lastKick draw % (e.now.toNat - from_ + 1))

/-- WATCHDOG_EXPIRY (R272, R373, R374): a period after the last kick. In an AO cycle in which the timer wheel has served a deadline or a slice
start, the expiry would have come first; it falls in the next one. -/
def execWatchdogExpiry (s : State) : Answer :=
  onEng s fun _ e =>
    if !e.flt.wdogEn || e.svc.restarting then e
    else
      let (n, e) := e.draw
      let e := e.advanceTo (e.lastKick n + BitVec.ofNat 64 e.flt.wdogNs)
      (if e.svc.wheelAt = some e.aoCycle then e.elapse 1 else e).svcExpiry

/-! ### What units do (R353) -/

/-- A descriptor whose data or state is poisoned stops as after a fault and completes with DATA_UNCORRECTED (R353); a fault that it has ranks before
(R73). One that takes no walker completes at once. A sweep or scrub goes on to its end, and counts the word (log 84). -/
def Eng.stopJob (e : Eng) (m : Memory) (h : Word) : Eff :=
  match e.job h with
  | none => ⟨e, []⟩
  | some j =>
    if j.stage = .finished || j.stage = .spooled then ⟨e, []⟩
    else if e.svc.sweeps.any fun s => s.handle = h then ⟨e.modSweep h fun s => { s with words := s.words + 1 }, []⟩
    else if j.usesWalker then
      (e.modJob h fun j => { j with
        stage := .running, slot := false, yieldAt := none, yieldTo := none, checked := true, poisoned := true }).goOn m h
    else ⟨if j.opcode = opFlagWait then e.stopWait j stUncorrected else e.finish h stUncorrected 0, []⟩

/-- Several descriptors stop. -/
def Eng.stopJobs (e : Eng) (m : Memory) (hs : List Word) : Eff :=
  hs.foldl (fun x h => x.andThen m fun m e => e.stopJob m h) ⟨e, []⟩

/-- The context cache's data of a context is poisoned: it parks, and what it executes stops. DESIGN CHOICE (log 104): this parking raises no RFE 0x11. -/
def Eng.ctxPoisoned (e : Eng) (m : Memory) (c : CtxNum) : Eff :=
  let e := if (e.ctx c).state = .enabled then e.parkRing c .ringFault (e.ctx c).sqHead 0 else e
  e.stopJobs m ((e.jobs.filter fun j => j.ctx = c && j.begun).map (·.handle))

/-- The stores of a flag and fold home lose a word: 64 flags become clear, a fold becomes DISABLED, or a wait record ends. -/
def Eng.homePoisoned (e : Eng) (r : Region) (structId : Byte) (word : Nat) : Eng :=
  let base := r.toNat * 65536 + word % 1024 * 64
  if structId = 1 then
    let hit := fun (f : BitVec 18) => decide (f.toNat / 64 = base / 64)
    let e := (List.range 64).foldl (fun e i =>
      let f := BitVec.ofNat 18 (base + i)
      e.setFlag f { e.flag f with value := false, scope := .context }) e
    (e.orphanAll e.now fun w => hit w.flag).orphanHeld fun w => hit w.flag
  else if structId = 2 then
    let g := BitVec.ofNat 16 (r.toNat * 16384 + word % 16384)
    e.setFold g { e.fold g with enable := false, state := .disabled, count := 0, children := [], scopeMin := .context }
  else match (e.syn.waits.filter fun w => flagRegion w.flag = r)[word]? with
    | some w => e.orphanWait e.now w
    | none => e

/-- An entry of a region's cache is discarded, to be read again. -/
def dropAt {α : Type} (l : List (List α)) (r word : Nat) : List (List α) := l.modify r fun x => x.eraseIdx (word % (x.length + 1))

/-- The `word`th group of some elements that a 64-bit word holds together (log 63). -/
def wordGroup (w word : Nat) (ks : List Nat) : List Nat :=
  let n := max 1 (64 / max 1 w)
  (ks.drop (n * word)).take n

/-- Destination elements that have left the source's side and are not written: all, or those at one Drover. -/
def Job.onTheWay (j : Job) (n : Option (BitVec 5)) : List Nat :=
  j.dstEl.filterMap fun x => match x.2 with
    | .fly q _ false => (match q.dest with
      | .stack d _ => if n = none ∨ n = some d then some x.1 else none
      | _ => none)
    | .ask _ false => if n = none then some x.1 else none
    | .got _ false => some x.1
    | _ => none

/-- Source elements that have been read and wait in a stage. -/
def Job.inStage (j : Job) : List Nat :=
  let whole := j.opcode = opCompress || j.opcode = opExpand
  j.srcEl.filterMap fun x => match x.2 with
    | .got _ false => if whole || j.el .dst (j.targetOf x.1) = .todo then some x.1 else none
    | _ => none

/-- A destination element takes FILL in place of its value (R21). -/
def Job.spoilDst (j : Job) (k : Nat) : Job :=
  let f := j.dstView.fill
  j.setEl .dst k (match j.el .dst k with
    | .fly q _ _ => .fly q f true
    | .ask _ _ => .ask f true
    | _ => .got f true)

/-- A word of a descriptor's data is poisoned in a unit: what is derived from it takes FILL, and the word counts (R21, R353). -/
def Job.spoil (j : Job) (n : Option (BitVec 5)) (word : Nat) : Job :=
  let dst := if j.opcode = opCompress then [] else wordGroup j.dstView.ebits word (j.onTheWay n)
  let src := if dst = [] then wordGroup j.srcView.ebits word j.inStage else []
  if dst = [] && src = [] then j
  else
    let j := src.foldl (fun j p => j.setEl .src p (match j.el .src p with | .got v _ => .got v true | x => x)) (dst.foldl Job.spoilDst j)
    { j with replaced := j.replaced + 1 }

/-- A request stands in a Drover's buffers. -/
def atStack (q : Option Req) (n : Nat) : Bool := q.any fun x => !x.waiting && (match x.dest with | .stack d _ => decide (d.toNat = n) | _ => false)

/-- A peer's request loses a word of its data in a Drover (R21, R353): a get's elements are marked, an accumulate's take FILL, and a put's, which brings no
FILL, free values (log 97). The word counts as replaced. -/
def Eng.peerPoisoned (e : Eng) (s : PeerServe) (word : Nat) : Eng :=
  let ks := wordGroup s.q.ebits word (List.range s.count)
  match s.op with
  | .get => e.modServe { s with spoilt := s.spoilt ++ ks }
  | .acc op dt fill poisoned => e.modServe { s with op := .acc op dt fill (poisoned ++ ks), replaced := s.replaced + 1 }
  | .put _ =>
    let (n, e) := e.draw
    let v := ks.foldl (fun (v : Nat) k =>
      let p := 2 ^ (s.q.bit.toNat + k * s.q.ebits)
      let w := 2 ^ s.q.ebits
      v / (p * w) * (p * w) + leNat ((List.range 4).map (Config.slack (n + k))) % w * p + v % p) (leNat s.bytes)
    e.modServe { s with bytes := leBytes s.bytes.length v, replaced := s.replaced + 1 }

/-- A die's access loses a word of its data in a Drover: it is answered with DATA_UNCORRECTED, and what a write brings there is a free value (log 97). -/
def Eng.diePoisoned (e : Eng) (s : DieServe) (word : Nat) : Eng :=
  let (n, e) := e.draw
  let bytes := s.a.bytes.zipIdx.map fun b => if b.2 / 8 = word then Config.slack n b.2 else b.1
  e.modDieServe s { s with a := { s.a with bytes := bytes }, spoilt := true }

/-- A word of a Drover's buffers or accumulate pipe that serves no descriptor of this device: a peer's request or a die's access there loses it. -/
def Eng.othersPoisoned (e : Eng) (inst word : Nat) : Eng :=
  match e.npi.serving.find? fun s => atStack s.req inst && wordGroup s.q.ebits word (List.range s.count) ≠ [] with
  | some s => e.peerPoisoned s word
  | none => match e.opi.serving.find? fun s => atStack s.req inst && decide (8 * word < s.a.len) with
    | some s => e.diePoisoned s word
    | none => e

/-- A word of a tile, of a cast buffer or of a Drover's buffers is poisoned: data of the command that it serves (R21, R353), a descriptor of the context
named, or a peer's request or a die's access at that Drover. -/
def Eng.dataPoisoned (e : Eng) (sub : BitVec 4) (inst : Nat) (c : Option CtxNum) (word : Nat) : Eng :=
  let serves := fun (j : Job) => c = some j.ctx && j.stage = .running &&
    (if sub = subLay then decide ((e.unitHolder inst).map (·.handle) = some j.handle)
     else if sub = subCst then decide (j.lead.toNat = inst) && j.castEn else true)
  let n : Option (BitVec 5) := if sub = subDrv then some (BitVec.ofNat 5 inst) else none
  match e.jobs.find? fun j => serves j && decide (j.spoil n word ≠ j) with
  | some j => e.modJob j.handle fun j => j.spoil n word
  | none => if sub = subDrv then e.othersPoisoned inst word else e

/-- The structures that hold data of one command (R353): a layout unit's tiles, a cast unit's buffers, a Drover's buffers and
accumulate pipe. -/
def holdsData (sub : BitVec 4) (st : Byte) : Bool :=
  (sub = subLay && (st = 1 || st = 2)) || (sub = subCst && (st = 1 || st = 2)) || (sub = subDrv && (st = 1 || st = 4 || st = 5))

/-- The descriptor whose slot of a region's pre-emption store a word lies in: the saved descriptors take the 32 slots in ascending number (log 44). -/
def Eng.slotAt (e : Eng) (r : Region) (word : Nat) : Option Word :=
  ((inOrder (e.jobs.filter fun j => j.lead = r && j.slot))[word % 32]?).map (·.handle)

/-- What the cell or unit does with its data, in every mode (R353, R359). `word` is the structure's word at fault. -/
def Eng.unitActs (e : Eng) (m : Memory) (v : FEvent) (word : Nat) : Eff :=
  let sub := srcSub v.source
  let inst := (srcInst v.source).toNat
  let code := srcCode v.source
  let st := v.detail.extractLsb' 0 8
  if sub = subRfe && code = 1 then ⟨{ e with rfe := { e.rfe with landing := e.rfe.landing.eraseIdx (word / 16) } }, []⟩
  else if sub = subCxs && code = 2 then
    match v.ctx with
    | some c => e.ctxPoisoned m c
    | none => ⟨e, []⟩
  else if sub = subWlk && code = 1 then ⟨{ e with wlk := { e.wlk with cache := dropAt e.wlk.cache (inst - 24) word } }, []⟩
  else if sub = subWlk && code = 2 then
    e.stopJobs m ((e.jobs.filter fun j => if inst < 24 then decide (j.walker = some (BitVec.ofNat 5 inst))
      else e.slotAt (BitVec.ofNat 2 (inst - 24)) word = some j.handle).map (·.handle))
  else if sub = subAtg && code = 1 then
    ⟨{ e with atg := if st = 3 then { e.atg with reach := dropAt e.atg.reach inst word }
      else if st = 1 then { e.atg with tlb := dropAt e.atg.tlb inst word } else e.atg }, []⟩
  else if sub = subDrv && code = 1 && st = 2 then ⟨e.modDrover (BitVec.ofNat 5 inst) fun d => { d with tags := [] }, []⟩
  else if code = 2 && holdsData sub st then ⟨e.dataPoisoned sub inst v.ctx word, []⟩
  else if sub = subCdc && code = 2 then
    e.stopJobs m ((e.jobs.filter fun j => j.compressor && decide (j.lead.toNat = inst)).map (·.handle))
  else if sub = subSyn && code = 3 && inst < 4 then ⟨e.homePoisoned (BitVec.ofNat 2 inst) st word, []⟩
  else if sub = subFlt && st = 1 && code = 3 then
    ⟨e.modFlt fun t => { t with hist := t.hist.modify (word / 3) fun h => { h with poisoned := true } }, []⟩
  else ⟨e, []⟩

/-! ### What regions do (R19, R353, R414) -/

/-- The Drover of a lost stack is fenced. -/
def Eng.fenceDrover (e : Eng) (n : BitVec 5) : Eng := e.modDrover n fun d => { d with fenced := true }

/-- A region is fenced: its Drovers, its homes, and its descriptors, which are dispatched again elsewhere (R414). -/
def Eng.fenceRegion (e : Eng) (r : Region) : Eng :=
  let e := e.modSyn fun s => { s with lostRegions := if s.lostRegions.contains r then s.lostRegions else r :: s.lostRegions }
  let e := (e.orphanAll e.now fun w => flagRegion w.flag = r).orphanHeld fun w => flagRegion w.flag = r
  let e := (List.range 5).foldl (fun e i => e.fenceDrover (BitVec.ofNat 5 (5 * r.toNat + i))) e
  (e.jobs.filter fun j => j.lead = r).foldl (fun e j =>
    (e.redispatch j.handle).modJob j.handle fun k => if k.stage = .waiting then { k with lead := e.homeOf k.ctx } else k) e

/-- The self-test target of a source, as a key (R376). -/
def targetKey (sub : BitVec 4) (inst : Nat) : Option Nat :=
  if sub = subDrv then some (bistKey 0 inst)
  else if sub = subWlk then some (if inst < 24 then bistKey 1 inst else bistKey 6 (inst - 24))
  else if sub = subLay then some (bistKey 2 inst)
  else if sub = subCst then some (bistKey 3 inst)
  else if sub = subCdc then some (bistKey 4 inst)
  else if sub = subAtg then some (bistKey 5 inst)
  else if sub = subSyn then some (if inst < 4 then bistKey 7 inst else bistKey 10 3)
  else if sub = subRfe then some (if inst = 0 then bistKey 8 0 else bistKey 10 4)
  else if sub = subCxs then some (bistKey 9 0)
  else if sub = subJrn then some (bistKey 10 0)
  else if sub = subNpi then some (bistKey 10 1)
  else if sub = subOpi then some (bistKey 10 2)
  else none

/-- A unit is fenced, and the descriptors that held it are dispatched again (R414). -/
def Eng.fenceUnit (e : Eng) (sub : BitVec 4) (inst : Nat) : Eng :=
  if sub = subWlk && inst < 24 then
    let w : BitVec 5 := BitVec.ofNat 5 inst
    let hs := (e.jobs.filter fun j => j.walker = some w).map (·.handle)
    let e : Eng := { e with wlk := { e.wlk with fenced := if e.wlk.fenced.contains w then e.wlk.fenced else w :: e.wlk.fenced } }
    hs.foldl Eng.redispatch e
  else if sub = subLay then
    let u : BitVec 6 := BitVec.ofNat 6 inst
    let h := if e.lay.fenced.contains u then none else (e.unitHolder inst).map (·.handle)
    let e : Eng := { e with lay := { e.lay with fenced := if e.lay.fenced.contains u then e.lay.fenced else u :: e.lay.fenced } }
    match h with
    | some h => e.redispatch h
    | none => e
  else if sub = subCdc then
    let r : Region := BitVec.ofNat 2 inst
    let hs := (e.jobs.filter fun j => j.compressor && decide (j.lead = r)).map (·.handle)
    let e : Eng := { e with cdc := { e.cdc with fenced := if e.cdc.fenced.contains r then e.cdc.fenced else r :: e.cdc.fenced } }
    hs.foldl Eng.redispatch e
  else if sub = subDrv then e.fenceDrover (BitVec.ofNat 5 inst)
  else if sub = subWlk then e.fenceRegion (BitVec.ofNat 2 (inst - 24))
  else if sub = subCst || sub = subAtg || (sub = subSyn && inst < 4) then e.fenceRegion (BitVec.ofNat 2 inst)
  else e

/-- The region's action, at severity CONTAINED (R19, R353, R358). No segment goes on on what it fences (R384). -/
def Eng.regionActs (e : Eng) (v : FEvent) : Eng :=
  let sub := srcSub v.source
  let inst := (srcInst v.source).toNat
  let code := srcCode v.source
  let e := if code = 7 then
    let e := e.fenceUnit sub inst
    match targetKey sub inst with
    | some k => e.modBist k fun b => { b with fenced := true, active := false }
    | none => e
  else if code = 3 && sub = subLay then e.fenceUnit sub inst
  else if code = 4 && sub = subWlk then e.fenceRegion (v.detail.extractLsb' 8 2)
  else if code = 3 && sub = subSvc then (if e.svc.restarting then e else e.svcExpiry)
  else if code = 0x12 && sub = subDrv then e.fenceDrover (BitVec.ofNat 5 inst)
  else e
  e.stopFenced

/-! ### An event reaches FLT (R358, R359, R372, R385) -/

/-- Its tallies (R385). -/
def Eng.countEvent (e : Eng) (v : FEvent) : Eng :=
  let s := (srcSub v.source).toNat
  let c := (srcCode v.source).toNat
  let e := if v.cls = .corrected then e.count subFlt s 1 else e
  if 1 ≤ c && c ≤ 5 then e.count subFlt (14 + s) 1 else e

/-- The Fatal state is entered (R372); with AUTO 1 an engine reset begins (R403). -/
def Eng.enterFatal (e : Eng) (m : Memory) (source : BitVec 16) : Eng :=
  if e.flt.fatal then e
  else
    let e := e.modFlt fun t => { t with fatal := true, firstSource := source }
    if e.svc.reset.auto && e.mayReset then e.beginReset m false else e

/-- The region of the unit that a source is (R17). -/
def unitRegion (sub : BitVec 4) (inst : Nat) : Option Region := (targetKey sub inst).bind fun k => bistRegion (k / 64) (k % 64)

/-- The severity that applies to an event, whether or not it has reached FLT. -/
def Eng.severityNow (e : Eng) (v : FEvent) : Severity := if v.reached then v.sev else e.severityOf v

/-- Another event of the same cycle takes the place of an event's region action (R20): an engine fault, or, where a unit hands the error to its
region, the region's own error. -/
def Eng.overruled (e : Eng) (v : FEvent) : Bool :=
  e.flt.events.any fun w => decide (w.cycle = v.cycle) && decide (w ≠ v) &&
    (decide (e.severityNow w = .fatal)
      || (decide (srcCode v.source ≠ 4) && decide (srcCode w.source = 4) && decide (e.severityNow w = .contained)
        && decide (unitRegion (srcSub v.source) (srcInst v.source).toNat = some (w.detail.extractLsb' 8 2))))

/-- What severity and source make of an event that reaches FLT. -/
def Eng.eventActs (e : Eng) (m : Memory) (v : FEvent) : Eng :=
  let e := e.countEvent v
  let e := if v.sev = .fatal || (v.sev = .contained && e.flt.alert.contEn) then e.alertCause else e
  if v.sev = .fatal then e.enterFatal m v.source
  else if v.sev = .contained && !e.overruled v then e.regionActs v
  else e

/-- An event as it stands once it has reached FLT: severity IGNORE makes no entry. -/
def Eng.reached (e : Eng) (v : FEvent) (others : List FEvent) : FEvent × Eng :=
  let v := { v with reached := true, sev := e.severityOf v }
  (v, e.modFlt fun t => { t with events := others ++ (if v.sev = .ignore then [] else [v]) })

/-- The AO cycles after which a source's events reach FLT: from 1 to 8, by its placement (R364). -/
def faultDelay (source : BitVec 16) : Nat := 1 + Config.faultDelay (source >>> 6) % 8

/-- An event reaches FLT after its source's delay. -/
def Eng.deliver (e : Eng) (m : Memory) (v : FEvent) : FEvent × Eng :=
  let e := e.advanceCycles (v.cycle + faultDelay v.source)
  let (v, e) := e.reached v (e.flt.events.erase v)
  (v, e.eventActs m v)

/-! ### What checkers detect (R14, R353 to R355, R375) -/

/-- The event code of an uncorrectable word in a structure of an instance (R17), by where it is handled (R353); none where there is no such structure. -/
def uncorrCode (sub : BitVec 4) (inst : Nat) (st : Byte) : Option (BitVec 6) :=
  if [2, 1, 1, 28, 4, 64, 4, 20, 4, 1, 1, 5, 1, 1].getD sub.toNat 0 ≤ inst then none
  else match sub.toNat, st.toNat with
  | 0, 0 => some 5
  | 0, 1 => if inst = 0 then some 1 else none
  | 0, 2 => if inst = 0 then some 5 else none
  | 1, 1 => some 2
  | 1, 2 => some 5
  | 2, 0 | 2, 1 => some 5
  | 3, 0 => if inst < 24 then some 2 else some 4
  | 3, 1 => if inst < 24 then some 2 else none
  | 3, 2 => if 24 ≤ inst then some 1 else none
  | 3, 3 => if 24 ≤ inst then some 2 else none
  | 3, 4 => if 24 ≤ inst then some 4 else none
  | 4, 1 | 4, 2 | 4, 3 => some 1
  | 5, 1 | 5, 2 => some 2
  | 5, 3 => some 3
  | 6, 1 | 6, 2 => some 2
  | 7, 1 | 7, 4 | 7, 5 => some 2
  | 7, 2 | 7, 3 => some 1
  | 8, 1 | 8, 2 | 8, 3 => some 2
  | 9, 0 | 9, 1 | 9, 2 => some 5
  | 10, 0 | 10, 1 => some 5
  | 11, 0 => if inst = 4 then some 5 else none
  | 11, 1 | 11, 2 | 11, 3 => if inst < 4 then some 3 else none
  | 12, 1 => some 3
  | 13, 1 => some 3
  | _, _ => none

/-- DETAIL of a word-code event (R362). -/
def wordDetail (code : BitVec 6) (inst : Nat) (st : Byte) (word bits : Nat) : Word :=
  let word := word % 2 ^ 32
  if code = 0 then pack [(0, st.toNat), (8, bits), (16, word)]
  else if code = 1 || code = 2 then pack [(0, st.toNat), (16, word)]
  else if code = 4 then pack [(0, st.toNat), (8, (inst - 24) % 4)]
  else st.setWidth 64

/-- The event of a codeword with `bits` flipped bits (R14, R355): up to two are corrected, three detected; of more, what the code makes of
them is free. None where nothing is detected. -/
def Eng.wordEvent (e : Eng) (sub : BitVec 4) (inst : Nat) (st : Byte) (bits : Nat) : Option (BitVec 6 × Nat) × Eng :=
  match uncorrCode sub inst st with
  | none => (none, e)
  | some u =>
    if bits = 0 then (none, e)
    else if bits ≤ 2 then (some (0, bits), e)
    else if bits = 3 then (some (u, bits), e)
    else
      let (n, e) := e.draw
      let k := Config.wideError n % 3
      (if k = 0 then some (u, bits) else if k = 1 then some (0, 2) else none, e)

/-- A codeword that an injection has inverted is read for the first time: it errs by BITS (R375). -/
def Eng.takePlant (e : Eng) (sub : BitVec 4) (inst : BitVec 6) (st : Byte) (word bits : Nat) : Nat × Eng :=
  let e := e.injectSeen
  match e.flt.inject.plants.find? fun p => p.sub = sub && p.inst = inst && p.structId = st && p.standsAt e word with
  | some p => (p.bits.toNat, e.modFlt fun t => { t with inject := { t.inject with plants := t.inject.plants.erase p } })
  | none => (bits, e)

/-- A fault on a unit stops a self-test segment on it at once (R384). -/
def Eng.stopTest (e : Eng) (sub : BitVec 4) (inst : Nat) : Eng :=
  match targetKey sub inst with
  | some k => if (e.bistOf k).active then e.modBist k fun b => { b with active := false, granted := false } else e
  | none => e

/-- An event raised by a checker. -/
def Eng.newEvent (e : Eng) (sub : BitVec 4) (inst code : BitVec 6) (ctx : Option CtxNum) (detail : Word) : FEvent :=
  { stamp := e.now, cycle := e.aoCycle, source := sourceOf sub inst code, cls := classOf sub inst code, ctx := ctx, detail := detail
    mode := e.flt.mode }

/-- A detection now: what its unit does, in every mode (R359), and its event, which is on its way. A reach byte that cannot be read permits
nothing (R292). -/
def Eng.detect (e : Eng) (m : Memory) (d : Detection) : Eff × Option FEvent :=
  match d with
  | .word sub inst st ctx word bits =>
    let (bits, e) := e.takePlant sub inst st word bits
    match e.wordEvent sub inst.toNat st bits with
    | (none, e) => (⟨e, []⟩, none)
    | (some (code, bits), e) =>
      let v := e.newEvent sub inst code (if code = 2 then ctx else none) (wordDetail code inst.toNat st word bits)
      ((((e.stopTest sub inst.toNat).modFlt fun t => { t with events := t.events ++ [v] }).unitActs m v word), some v)
  | .reach r p d =>
    let v := e.newEvent subAtg (r.setWidth 6) 0x12 none (pack [(0, p.toNat), (12, d.toNat)])
    let e := e.modFlt fun t => { t with events := t.events ++ [v] }
    (⟨{ e with atg := { e.atg with reachBad := (p, d.toNat / 8) :: e.atg.reachBad } }, []⟩, some v)

/-- The detections of one cycle. -/
def Eng.detectAll (m : Memory) : List Detection → Eff → List FEvent → Eff × List FEvent
  | [], x, vs => (x, vs)
  | d :: ds, x, vs =>
    let y := x.eng.detect (applyOps m x.ops) d
    Eng.detectAll m ds ⟨y.1.eng, x.ops ++ y.1.ops⟩ (vs ++ y.2.toList)

/-- Events reach FLT, the shortest delay first. -/
def Eng.deliverAll (e : Eng) (m : Memory) (vs : List FEvent) : Eng :=
  (vs.mergeSort fun a b => decide (faultDelay a.source ≤ faultDelay b.source)).foldl (fun e v => (e.deliver m v).2) e

/-- FAULT_EVENT (R20, R353, R358 to R362, R364, R372). -/
def execFaultEvent (a : FaultArrival) (s : State) : Answer :=
  onMem s fun m e => match a with
    | .raised n =>
      (match (e.flt.events.filter fun v => !v.reached)[n]? with
      | none => ⟨e, []⟩
      | some v => ⟨(e.deliver m v).2.noteWork, []⟩)
    | .detected ds =>
      let x := Eng.detectAll m ds ⟨e, []⟩ []
      x.1.on fun e => (e.deliverAll (applyOps m x.1.ops) x.2).noteWork

/-- The events whose delay has passed by AO cycle `c` reach FLT, in that order. -/
def Eng.deliverDue (e : Eng) (m : Memory) (c : Nat) : Eng :=
  let at_ := fun (v : FEvent) => v.cycle + faultDelay v.source
  ((e.flt.events.filter fun v => !v.reached && decide (at_ v ≤ c)).mergeSort fun a b => decide (at_ a ≤ at_ b)).foldl
    (fun e v => (e.deliver m v).2) e

/-- HISTORY_ENTRY (R364 to R366): 16 AO cycles after its stamp the next event is entered. It has reached FLT by then, and so have the others of its
cycle, so that what overrules what (R20) is settled first. -/
def execHistoryEntry (s : State) : Answer :=
  onEng s fun m e =>
    match firstEvent e.flt.events with
    | none => e
    | some v =>
      let e := e.deliverDue m (v.cycle + 16)
      let v : FEvent := { v with reached := true, sev := e.severityNow v }
      let e := e.advanceCycles (v.cycle + 16)
      if v.sev = .ignore then e else e.modFlt fun t => { (t.record v) with events := t.events.erase v }

/-! ### FLT_MODE and FLT_INJECT (R357, R375) -/

/-- FLT_MODE_WRITE (R357). Leaving TEST disarms an injection (R375). -/
def execFltModeWrite (w : RegWrite) (s : State) : Answer :=
  onEng s fun m e => e.access m subFlt fun e =>
    if !halfCovers w.half 0 then e
    else
      let new : BitVec 2 := w.value.extractLsb' 0 2
      let quiet := e.ctxs.all fun c => decide (c.2.state = .disabled)
      let ok := match e.flt.mode.toNat, new.toNat with
        | 0, 1 => true
        | 2, 1 => quiet
        | 0, 2 | 1, 2 => quiet
        | _, _ => false
      if ok then (if e.flt.mode = 2 then e.disarm else e).modFlt fun t => { t with mode := new } else e

/-- FLT_INJECT written (R375): taken only in TEST. It arms, or disarms with BITS 0; the named structure's contents are noted, so that the next write to
them shows. -/
def Eng.injectWrite (e : Eng) (w : RegWrite) : Eng :=
  if e.flt.mode ≠ 2 then e
  else if !halfCovers w.half 0 then e
  else
    let e := e.injectSeen
    let bits : BitVec 2 := w.value.extractLsb' 4 2
    let sub : BitVec 4 := w.value.extractLsb' 20 4
    let inst : BitVec 6 := w.value.extractLsb' 14 6
    let st : Byte := w.value.extractLsb' 6 8
    e.modFlt fun t => { t with inject := { t.inject with
      armed := decide (bits ≠ 0) && (bitOf w.value 0 || t.inject.armed)
      sub := sub, inst := inst, structId := st, bits := bits, snap := e.stored sub inst st } }

/-- FLT_INJECT_ARM (R375): a write of FLT_INJECT with ARM 1. -/
def execFltInjectArm (w : RegWrite) (s : State) : Answer :=
  onEng s fun m e => e.access m subFlt fun e => e.injectWrite { w with value := w.value ||| 1 }

/-! ### Losses reported from outside (R414) -/

/-- STACK_LOST (R362, R414): the Drover is fenced, at the severity of DRV 0x12, unless another event of the cycle takes the place of that (R20). -/
def execStackLost (n : BitVec 5) (s : State) : Answer :=
  onEng s fun _ e =>
    let v := e.newEvent subDrv (n.setWidth 6) 0x12 none 0
    let e := (e.raise subDrv (n.setWidth 6) 0x12 none 0).stopTest subDrv n.toNat
    (if e.severityOf v = .contained && !e.overruled v then e.regionActs v else e).noteWork

/-- NETWORK_PORT_LOST (R362, R414). -/
def execNetworkPortLost (p : BitVec 5) (s : State) : Answer :=
  onEng s fun _ e => e.raise subNpi 0 0x10 none (p.setWidth 64)

end Sys2Proof.Machine
end

