-- ==== Sys2Proof/Machine/Bist.lean ====
section
/-! DEFINITION. Periodic self-test, repair, repair fuses, and clock samples (11: R376 to R384; 01: R12; 14: R458). -/

namespace Sys2Proof.Machine

/-! ### Slices (R377 to R380) -/

def reqAtDrover (q : Req) (n : BitVec 5) : Bool :=
  match q.dest with
  | .stack d _ => decide (d = n)
  | _ => false

def optReqAt (q : Option Req) (n : BitVec 5) : Bool :=
  match q with
  | some q => reqAtDrover q n
  | none => false

/-- A Drover has work: requests, or a sweep of its stack. -/
def Eng.drvWork (e : Eng) (n : BitVec 5) : Bool :=
  e.jobs.any (fun j => [StreamId.idx, .src, .scaleIn, .dst, .scaleOut].any fun st => (j.els st).any fun x => match x.2 with
    | .fly q _ _ => reqAtDrover q n
    | _ => false)
  || e.npi.serving.any (fun s => optReqAt s.req n) || e.opi.serving.any (fun s => optReqAt s.req n)
  || e.svc.sweeps.any fun s => decide (s.phase ≠ .start) && decide (e.stackAt s.pa = some n)

/-- SVC takes a census (R301), step by step, at every slice. -/
def Eng.inCensus (e : Eng) : Bool :=
  match e.atg.cmdBusy with
  | .census _ => true
  | _ => false

/-- A region's ATG slice has work: walks, translations of descriptors, peers and dies, and census steps. -/
def Eng.sliceWork (e : Eng) (r : Region) : Bool :=
  !(e.atg.walks.getD r.toNat []).isEmpty || (e.jobs.any fun j => j.lead = r && j.walker.isSome)
    || e.npi.serving.any (fun s => s.req.isNone && decide (peerSlice s.q = r))
    || e.opi.serving.any (fun s => s.req.isNone && decide (s.a.die = r)) || e.inCensus

/-- Requests of any region, peer, die or sweep cross a region's crossbar. -/
def Eng.crossbarWork (e : Eng) (r : Region) : Bool :=
  e.jobs.any (fun j => jobAtRegion j r) || e.npi.serving.any (fun s => optReqIn s.req r) || e.opi.serving.any (fun s => optReqIn s.req r)
    || e.svc.sweeps.any fun s => decide (s.phase ≠ .start) && decide ((e.stackAt s.pa).map stackRegion = some r)

/-- A target's unit is idle: it has no work, and no descriptor, sweep, scrub or census step holds it (R342, R379). -/
def Eng.unitIdle (e : Eng) (row inst : Nat) : Bool :=
  let r : Region := BitVec.ofNat 2 inst
  if row = 0 then !e.drvWork (BitVec.ofNat 5 inst)
  else if row = 1 then !e.walkerBusy (BitVec.ofNat 5 inst)
  else if row = 2 then (e.unitHolder inst).isNone
  else if row = 3 then !(e.jobs.any fun j => j.lead = r && j.walker.isSome && j.castEn)
  else if row = 4 then !(e.jobs.any fun j => j.lead = r && j.compressor)
  else if row = 5 then !e.sliceWork r
  else if row = 6 then !(e.jobs.any fun j => jobInRegion j r) && !e.crossbarWork r
  else if row = 7 then !(e.syn.events.any fun v => v.act.region = r)
  else !e.engineWork

/-- Whether slices may start in a region, or on an engine-level target (R379). -/
def Eng.sliceRegion (e : Eng) (r : Option Region) : Bool :=
  let d := match r with
    | some r => e.regionDom r
    | none => e.svc.power.engine
  decide (d.st ≠ .sleep) && !d.lent && d.wantSince.isNone && !e.slicing r

/-- The least recently visited of some targets; of equals, the first in the order of R376. -/
def Eng.leastVisited (e : Eng) (ts : List (Nat × Nat)) : Option (Nat × Nat) :=
  ts.foldl (fun best t => match best with
    | none => some t
    | some b =>
      if (e.bistOf (bistKey t.1 t.2)).last.toNat < (e.bistOf (bistKey b.1 b.2)).last.toNat then some t else some b) none

/-- The entries of a cache that segment `g` of `n` does not test: an entry stands in the rows of the segment that its key gives, so that a visit's segments
discard every entry once (log 86). -/
def keepShare {α : Type} (key : α → Nat) (g n : Nat) (l : List α) : List α := l.filter fun x => key x % n ≠ g

/-- A segment on a cache first discards the entries it tests (R377). It consumes no injection (R375, R384). -/
def Eng.dropTested (e : Eng) (row inst : Nat) : Eng :=
  let b := e.bistOf (bistKey row inst)
  let n := 20 * bistSlices row
  let g := 20 * b.slice + b.segment
  let e := e.injectSeen
  let e : Eng := if row = 5 then { e with atg := { e.atg with
        tlb := e.atg.tlb.modify inst (keepShare (fun t => t.va / 65536) g n)
        reach := e.atg.reach.modify inst (keepShare (fun x => x.2.1) g n) } }
    else if row = 6 then { e with wlk := { e.wlk with cache := e.wlk.cache.modify inst (keepShare (fun c => c.view.toNat) g n) } }
    else if row = 8 then { e with rfe := { e.rfe with landing := keepShare (fun l => l.1) g n e.rfe.landing } }
    else e
  let i := e.flt.inject
  if i.armed then e.modFlt fun t => { t with inject := { i with snap := e.stored i.sub i.inst i.structId } } else e

/-- A slice starts in a region, or on an engine-level target; it is work for its region. -/
def Eng.startSlice (e : Eng) (r : Option Region) : Eng :=
  if !e.sliceRegion r then e
  else match e.leastVisited ((targetsOf r).filter fun t =>
      !e.svc.bistMask.getLsbD t.1 && !e.unitFenced t.1 t.2 && e.unitIdle t.1 t.2) with
    | none => e
    | some t =>
      let e := (e.dropTested t.1 t.2).modBist (bistKey t.1 t.2) fun b => { b with active := true, granted := false }
      match r with
      | some r => e.wakeRegion r
      | none => e

/-- INTERVAL_MS in ns; 0 acts as 1. -/
def Svc.bistNs (s : Svc) : Nat := max 1 s.bistInterval.toNat * 1000000

/-- Self-test runs: enabled, after READY, with SVC running and Vrelop neither Fatal nor Dormant (R378 to R380). -/
def Eng.bistRuns (e : Eng) : Bool :=
  e.svc.bistEn && e.svc.start.ready && !e.svc.start.failed && !e.frozen && !e.halted

/-- BIST_SLICE_START (R379): the deadlines that are due in that AO cycle come before it (R384). -/
def execBistSliceStart (s : State) : Answer :=
  onEng s fun _ e =>
    if !e.bistRuns then e
    else
      let at_ := e.svc.bistAt + BitVec.ofNat 64 e.svc.bistNs
      let e := (e.fireDue at_).advanceTo at_
      let e : Eng := { e with svc := { e.svc with bistAt := e.now, wheelAt := some e.aoCycle } }
      ([some (0 : Region), some 1, some 2, some 3, none].foldl Eng.startSlice e).noteWork

/-- VISIT_S in ns; 0 acts as 600. -/
def Svc.visitNs (s : Svc) : Nat := (if s.bistVisit = 0 then 600 else s.bistVisit.toNat) * 1000000000

/-- The stamp from which a target's overdue time counts: the end of its last complete visit, or the last exit from Dormant (R380). -/
def Eng.overdueFrom (e : Eng) (b : Bist) : Word := later b.last e.svc.bistSince

/-- The place of the arbiter of a target that no walker queue or compressor arbitrates. -/
def testArb (row inst : Nat) : Nat :=
  inst + (if row = 0 then 0 else if row = 3 then 20 else if row = 5 then 24 else if row = 6 then 28 else if row = 7 then 32 else if row = 8 then 36
    else if row = 9 then 37 else 38)

/-- A descriptor has a request at a target's unit. -/
def Eng.asksUnit (e : Eng) (j : Job) (row inst : Nat) : Bool :=
  let r : Region := BitVec.ofNat 2 inst
  let any := fun (p : Nat × El → Bool) => allStreams.any fun st => (j.els st).any p
  let walks := decide (j.lead = r) && j.walker.isSome
  if row = 0 then any fun x => match x.2 with
    | .fly q _ _ => reqAtDrover q (BitVec.ofNat 5 inst)
    | _ => false
  else if row = 3 then walks && j.castEn
  else if row = 5 then walks
  else if row = 6 then jobInRegion j r || jobAtRegion j r
  else if row = 7 then false
  else if row = 8 then decide (j.stage = .fetched) || decide (j.stage = .finished)
  else if row = 9 then decide (j.stage = .fetched)
  else if inst = 0 then e.jrn.waiting.any fun x => x.word1 = j.handle
  else if inst = 1 then any fun x => match x.2 with
    | .fly q _ _ => (match q.dest with | .peer _ _ => true | _ => false)
    | _ => false
  else if inst = 2 then any fun x => match x.2 with
    | .fly q _ _ => (match q.dest with | .die _ _ => true | _ => false)
    | _ => false
  else if inst = 3 then j.syncSent && decide (j.stage = .waiting)
  else any elLeaves

/-- A peer's request is at a target's unit. -/
def PeerServe.asksUnit (s : PeerServe) (row inst : Nat) : Bool :=
  if row = 0 then optReqAt s.req (BitVec.ofNat 5 inst)
  else if row = 5 then s.req.isNone && decide ((peerSlice s.q).toNat = inst)
  else if row = 6 then optReqIn s.req (BitVec.ofNat 2 inst)
  else decide (row = 10) && (decide (inst = 1) || decide (inst = 4))

/-- A die's access is at a target's unit. -/
def DieServe.asksUnit (s : DieServe) (row inst : Nat) : Bool :=
  if row = 0 then optReqAt s.req (BitVec.ofNat 5 inst)
  else if row = 5 then s.req.isNone && decide (s.a.die.toNat = inst)
  else if row = 6 then optReqIn s.req (BitVec.ofNat 2 inst)
  else decide (row = 10) && (decide (inst = 2) || decide (inst = 4))

/-- Sweeps, scrubs and a census that have a request at a target's unit. -/
def Eng.svcAsks (e : Eng) (row inst : Nat) : List Nat :=
  if row = 0 then ((e.svc.sweeps.filter fun s => s.phase ≠ .start && e.stackAt s.pa = some (BitVec.ofNat 5 inst))).map (·.handle.toNat)
  else if row = 5 then (if e.inCensus then [0] else [])
  else if row = 6 then (e.svc.sweeps.filter fun s => s.phase ≠ .start && (e.stackAt s.pa).map stackRegion = some (BitVec.ofNat 2 inst)).map
    (·.handle.toNat)
  else []

/-- Who else competes for a target's unit (R324, R337), in ascending number: contexts at RFE and the context cache, and the sources of a home's events;
descriptors; peers and dies, with REMOTE_TICKETS; and SVC, with SVC_TICKETS. -/
def Eng.unitRivals (e : Eng) (row inst : Nat) : List (Rival (Option Nat)) :=
  let cfg := e.svc.arb.getD (testLevel row) {}
  let rival := fun (num tickets : Nat) => ({ who := none, num := num, tickets := tickets, starved := none } : Rival (Option Nat))
  let ctxs := if row = 8 || row = 9 then e.fetchers.map fun c => rival c.num c.tickets
    else if row = 7 then (e.syn.events.filter fun v => v.act.region.toNat = inst).map fun v =>
      match v.src.ctx with
      | some c => rival c.toNat (e.ctx c).tickets.toNat
      | none => rival v.src.src.toNat cfg.remote.toNat
    else []
  ctxs ++ ((inOrder (e.jobs.filter fun j => e.asksUnit j row inst)).map fun j => rival (2 ^ 24 + j.handle.toNat) j.tickets.toNat)
    ++ ((e.npi.serving.filter (·.asksUnit row inst)).map fun s => rival (2 ^ 66 + s.id) cfg.remote.toNat)
    ++ ((e.opi.serving.filter (·.asksUnit row inst)).map fun s => rival (2 ^ 68 + 4 * s.a.id + s.a.die.toNat) cfg.remote.toNat)
    ++ (e.svcAsks row inst).map fun h => rival (2 ^ 70 + h) cfg.svc.toNat

/-- The arbiter of an overdue target's unit serves its competitors, the segment among them with OVERDUE_TICKETS (R325, R380): where it wins, it is granted
the unit for one segment. Walkers, layout units and compressors have arbiters of their own. The arbiters' pairing with targets is log 86's. -/
def Eng.grantSegment (e : Eng) (row inst : Nat) : Eng :=
  let k := bistKey row inst
  let b := e.bistOf k
  if b.wants && !testRow 1 row && !testRow 2 row && e.active (testDomain row inst) then
    let test : Rival (Option Nat) := { who := some k, num := 2 ^ 80, tickets := e.svc.bistTickets.toNat, starved := b.starved }
    let (w, a) := (e.svc.unitArb.getD (testArb row inst) {}).serve (e.unitRivals row inst ++ [test])
    let e : Eng := { e with svc := { e.svc with unitArb := setRow {} 43 e.svc.unitArb (testArb row inst) a } }
    if w = some (some k) then ((e.dropTested row inst).grantTest k).noteWork else e
  else e

/-- BIST_OVERDUE (R380): half of VISIT_S has passed since the target's last complete visit; its region is woken, and its unit is requested for one
segment at a time: at the walker queue for a walker or layout unit, at its own for a compressor, and else at its arbiter here, where another competitor
may be served instead. -/
def execBistOverdue (t : BistTarget) (s : State) : Answer :=
  onEng s fun _ e =>
    let row := t.row.toNat
    let inst := t.inst.toNat
    let b := e.bistOf (BistTarget.key t)
    if !e.bistRuns || !BistTarget.valid t || e.unitFenced row inst || e.svc.bistMask.getLsbD row then e
    else
      let e := if b.overdue then e
        else (e.advanceTo (e.overdueFrom b + BitVec.ofNat 64 (e.svc.visitNs / 2))).modBist (BistTarget.key t) fun b =>
          { b with overdue := true, waited := 0, starved := none }
      (match bistRegion row inst with
        | some r => e.wakeRegion r
        | none => e.wakeEngine).grantSegment row inst

/-! ### Segments, visits and repair (R377, R381 to R383) -/

/-- A core voltage within R12, in mV. -/
def voltOk (mv : Nat) : Bool := 720 ≤ mv && mv ≤ 820

/-- A clock within R12, in MHz. -/
def clockOk (mhz : Nat) : Bool := 1600 ≤ mhz && mhz ≤ 1850

/-- SVC samples the clock and the voltage (R381, R458). -/
def Eng.sample (e : Eng) : Eng :=
  let mhz := e.pins.engMhz
  let mv := e.pins.vmonMv
  { e with svc := { e.svc with
      clkMhz := mhz, clkMv := mv.setWidth 16, clkIn := clockOk mhz.toNat && voltOk mv.toNat } }

/-- The self-test of a cold start runs, without slices (R456). -/
def Eng.booting (e : Eng) : Bool := decide (e.svc.start.phase = 6)

/-- A segment or visit ends: the unit is released, and what waited for it goes on (R379, R380). In a cold start a visit that is not complete goes
straight on, and a region whose visits are complete may give way to the next that LIMIT admits (R347). -/
def Eng.leaveSlice (e : Eng) (m : Memory) (t : Sys2Proof.BistTarget) (f : Bist → Bist) : Eff :=
  let boot := e.booting
  let e := e.modBist (BistTarget.key t) fun b => f { b with active := boot, granted := false }
  if boot then ⟨e.noteWork.serveQueue 4, []⟩
  else match bistRegion t.row.toNat t.inst.toNat with
    | some r =>
      let x : Eff := if t.row = 0 then e.portOpens m (7 + t.inst.toNat) else ⟨e, []⟩
      (if e.active (.region r) then x.andThen m fun m e => e.resumeRegion m r else ⟨e, []⟩).on Eng.noteWork
    | none => ((e.portOpens m 4).andThen m fun m e => e.portOpens m 5).on Eng.noteWork

/-- A visit is complete. -/
def Eng.visitDone (e : Eng) (m : Memory) (t : Sys2Proof.BistTarget) : Eff :=
  let now := e.now
  e.leaveSlice m t fun b => { b.again with active := false, last := now, overdue := false, won := false, waited := 0, starved := none, diag := false, invalid := 0, rerun := none, uncovered := none }

/-- A macro has failed a visit; a second failure within one power-on is a repeat, and gives a fuse candidate (R383). DESIGN CHOICE (log 103): the candidate
of a failure that took several spares records the first, and that of one without a spare KIND 0 and the first failing row. -/
def Eng.noteFailure (e : Eng) (t : Sys2Proof.BistTarget) (r : Repair) : Eng :=
  let k := BistTarget.key t
  let m := macroOf (e.bistOf k) r.structId r.macroNo
  let e := e.modBist k fun b => setMacro b { m with fails := m.fails + 1 }
  if m.fails = 0 then e
  else
    let src := bistSource t.row.toNat t.inst.toNat
    let i := ((List.range 32).find? fun i => !(e.svc.cands.getD i {}).valid)
    let e := e.raise src.1 src.2 0x08 none (BitVec.ofNat 64 (i.getD 0x1F))
    match i with
    | none => e
    | some i => { e with svc := { e.svc with cands := setRow {} 32 e.svc.cands i {
        valid := true, kind := r.kind, addr := r.addr, macroNo := r.macroNo, structId := r.structId, inst := src.2, sub := src.1 } } }

/-- The spares that cover a macro's failing cells (R382): rows, where enough are free (two a macro); else the column, where all cells lie in one and
it is free; else none. -/
def MacroUse.repairs (m : MacroUse) (cells : List (BitVec 16 × BitVec 16)) : Option (List Repair) :=
  let rows := (cells.map (·.1)).dedup
  let cols := (cells.map (·.2)).dedup
  if m.rows + rows.length ≤ 2 then some (rows.map fun a => ⟨m.structId, m.macroNo, 1, a⟩)
  else if cols.length = 1 && !m.col then some (cols.map fun a => ⟨m.structId, m.macroNo, 2, a⟩)
  else none

/-- A spare is mapped. -/
def MacroUse.map (m : MacroUse) (kind : BitVec 2) : MacroUse := if kind = 1 then { m with rows := m.rows + 1 } else { m with col := true }

/-- A macro that the diagnosis finds failing: its spares are mapped, or no spare covers it (R382, steps 1 and 2). -/
def Eng.repairMacro (e : Eng) (t : Sys2Proof.BistTarget) (x : MacroCells) : Eng :=
  let k := BistTarget.key t
  match (macroOf (e.bistOf k) x.structId x.macroNo).repairs x.cells with
  | some [] => e
  | some (r :: rs) =>
    let e := e.noteFailure t r
    let e := (r :: rs).foldl (fun (e : Eng) (r : Repair) => (e.modBist k fun b => setMacro b ((macroOf b r.structId r.macroNo).map r.kind)).count subSvc 31 1) e
    e.modBist k fun b => { b with rerun := some ((b.rerun.getD []) ++ r :: rs) }
  | none =>
    (e.noteFailure t ⟨x.structId, x.macroNo, 0, (x.cells.map (·.1)).headD 0⟩).modBist k fun b => { b with
      rerun := some (b.rerun.getD []), uncovered := some (b.uncovered.getD x.structId) }

/-- BIST_UNREPAIRABLE (R382): the event fences the unit when it reaches FLT; a target without a region is tested no more. -/
def Eng.unrepairable (e : Eng) (m : Memory) (t : Sys2Proof.BistTarget) (structId : Byte) : Eff :=
  let src := bistSource t.row.toNat t.inst.toNat
  let dead := (bistRegion t.row.toNat t.inst.toNat).isNone
  ((e.raise src.1 src.2 0x07 none (structId.setWidth 64)).visitDone m t).on fun e => e.modBist (BistTarget.key t) fun b =>
    { b with fenced := b.fenced || dead }

/-- One BIST_REPAIRED event for each macro repaired, with the first of its spares (R382, log 86). -/
def Eng.repairedEvents (e : Eng) (t : Sys2Proof.BistTarget) : List (Byte × Byte) → List Repair → Eng
  | _, [] => e
  | seen, r :: rs =>
    if seen.contains (r.structId, r.macroNo) then e.repairedEvents t seen rs
    else
      let src := bistSource t.row.toNat t.inst.toNat
      (e.raise src.1 src.2 0x06 none (pack [(0, r.structId.toNat), (8, r.kind.toNat), (16, r.addr.toNat)])).repairedEvents t
        ((r.structId, r.macroNo) :: seen) rs

/-- A visit ends at its last segment (R382): after a repair, the visit run again passes or not; a diagnostic visit gives the failing cells; any other
matches the reference or starts a diagnostic visit at overdue priority. -/
def Eng.visitEnds (e : Eng) (m : Memory) (t : Sys2Proof.BistTarget) (x : SegmentEnd) : Eff :=
  let k := BistTarget.key t
  let b := e.bistOf k
  let good := !b.failed && decide (x = .pass)
  match b.rerun with
  | some rs =>
    if good && b.uncovered.isNone then (e.repairedEvents t [] rs).visitDone m t
    else (e.count subSvc 30 1).unrepairable m t (b.uncovered.getD ((rs.map (·.structId)).headD 0))
  | none =>
    if b.diag then
      let ms := match x with
        | .found ms => ms
        | _ => []
      (ms.foldl (fun e x => e.repairMacro t x) e).leaveSlice m t fun b => { b.again with diag := false, invalid := 0 }
    else if good then e.visitDone m t
    else (e.count subSvc 30 1).leaveSlice m t fun b => { b.again with diag := true, overdue := true, invalid := 0 }

/-- The rows that a segment tests hold live state: the context cache's data, a home's stores, or pre-emption slots in use. It never yields; the
shadow rows, which serve every access meanwhile, are tested in a segment of their own, the last of a slice (R377, log 86). -/
def Eng.liveSegment (e : Eng) (b : Bist) (row inst : Nat) : Bool :=
  decide (b.segment ≠ 19) && (row = 7 || row = 9 ||
    (row = 6 && decide (b.slice = 2) && e.jobs.any fun j => decide (j.lead.toNat = inst) && j.slot))

/-- A slice stops: work has come to its unit, and the segment does not hold live state (R377, R379). -/
def Eng.sliceStops (e : Eng) (t : Sys2Proof.BistTarget) : Bool :=
  let b := e.bistOf (BistTarget.key t)
  !e.booting && !b.granted && !e.unitIdle t.row.toNat t.inst.toNat && !e.liveSegment b t.row.toNat t.inst.toNat

/-- One segment more of a slice: the visit's contributions so far, and the place reached. -/
def Bist.step (b : Bist) (x : SegmentEnd) : Bist :=
  let b := { b with failed := b.failed || decide (x = SegmentEnd.fail) }
  if 20 ≤ b.segment + 1 then { b with segment := 0, slice := b.slice + 1 } else { b with segment := b.segment + 1 }

/-- What a segment's end does to its target, once the clock and the voltage have been sampled (R377, R379 to R382). A visit with a sample out of R12
is discarded, and run again from its first slice (R12, R381). -/
def Eng.segmentEnds (e : Eng) (m : Memory) (t : Sys2Proof.BistTarget) (x : SegmentEnd) : Eff :=
  let b := e.bistOf (BistTarget.key t)
  let src := bistSource t.row.toNat t.inst.toNat
  let c := !clockOk e.pins.engMhz.toNat
  let v := !voltOk e.pins.vmonMv.toNat
  let endsSlice := decide (20 ≤ b.segment + 1)
  if c || v then
    (e.raise src.1 src.2 0x09 none (pack [(0, ofBit c), (1, ofBit v)])).leaveSlice m t fun b =>
      { b.again with invalid := b.invalid + 1, badClock := c, badVolt := v }
  else if e.sliceStops t then (e.count subSvc 29 1).leaveSlice m t id
  else if e.booting then e.visitEnds m t x
  else
    let e := if endsSlice then e.count subSvc 28 1 else e
    if endsSlice && decide (bistSlices t.row.toNat ≤ b.slice + 1) then e.visitEnds m t x
    else if endsSlice || b.granted then e.leaveSlice m t fun b => b.step x
    else ⟨(e.modBist (BistTarget.key t) fun b => b.step x).dropTested t.row.toNat t.inst.toNat, []⟩

/-- Whether a target's segment runs: a visit of a cold start only in a domain that LIMIT has let become Active (R347, R456). -/
def Eng.segmentRuns (e : Eng) (t : Sys2Proof.BistTarget) : Bool :=
  (e.bistOf (BistTarget.key t)).active && !e.unitFenced t.row.toNat t.inst.toNat && !e.frozen
    && (!e.booting || e.active (testDomain t.row.toNat t.inst.toNat))

/-- BIST_SEGMENT_END (R377, R379 to R382): a segment of a slice, or one granted to an overdue target, or in a cold start a whole visit, ends. -/
def execBistSegmentEnd (t : BistTarget) (x : SegmentEnd) (s : State) : Answer :=
  onMem s fun m e =>
    if !BistTarget.valid t || !e.segmentRuns t then ⟨e, []⟩ else (e.sample).segmentEnds m t x

/-! ### Fuses (R383) -/

/-- Fuse entries left. -/
def Eng.fuseFree (e : Eng) : Nat := 96 - e.fuses.length

/-- FUSE_CMD (R383). -/
def execFuseCmd (w : RegWrite) (s : State) : Answer :=
  onEng s fun m e => e.access m subSvc fun e =>
    if !halfCovers w.half 0 || e.svc.fuseBusy.isSome then e
    else
      let i : BitVec 5 := w.value.extractLsb' 0 5
      let c := e.svc.cands.getD i.toNat {}
      let res : BitVec 3 := if !c.valid || c.fused then 1 else if e.fuseFree = 0 then 2
        else if w.value.extractLsb' 8 8 ≠ (0xA5 : BitVec 8) then 3 else if !voltOk e.pins.vmonMv.toNat then 4 else 0
      { e with svc := { e.svc with
          fuseResult := res, fuseBusy := if res = 0 then some i else none, fuseAt := e.now } }

/-- FUSE_DONE (R383): programming takes 10 ms. -/
def execFuseDone (s : State) : Answer :=
  onEng s fun _ e =>
    match e.svc.fuseBusy with
    | none => e
    | some i =>
      let e := e.advanceTo (e.svc.fuseAt + 10000000)
      let c := { e.svc.cands.getD i.toNat {} with fused := true }
      ({ e with
        svc := { e.svc with fuseBusy := none, cands := setRow {} 32 e.svc.cands i.toNat c }, fuses := e.fuses ++ [c] } : Eng).raise subSvc 0
          0x12 none (i.setWidth 64)

/-- CLOCK_SAMPLE (R458): what the pins show is sampled. -/
def execClockSample (mhz mv : BitVec 16) (s : State) : Answer :=
  onEng s fun _ e =>
    ({ e with pins := { e.pins with engMhz := mhz, vmonMv := mv.setWidth 12 } } : Eng).sample

end Sys2Proof.Machine
end

