-- ==== Sys2Proof/Machine/Pod.lean ====
section
/-! DEFINITION. Pods and the Bellwether (13: R424 to R445): roles, joins and verdicts, beacons, time exchanges, and the loss of
peers and routes; the end of an SVC restart (11: R374), and SPDM requests (09: R323). -/

namespace Sys2Proof.Machine

def Eng.modPod (e : Eng) (f : Pod → Pod) : Eng := { e with svc := { e.svc with pod := f e.svc.pod } }
def Eng.modTime (e : Eng) (f : TimeStat → TimeStat) : Eng := e.modFlt fun t => { t with time := f t.time }

/-! ### Flags of SVC_POD_STAT (R425, R426, R443) -/

def Eng.podSignal (e : Eng) (was : Bool) : Eng :=
  if e.svc.pod.notify && !was then e.emit (.msi e.svc.pod.vector) else e

def Eng.setChanged (e : Eng) : Eng := (e.modPod fun p => { p with changed := true }).podSignal e.svc.pod.changed
def Eng.setRival (e : Eng) : Eng := (e.modPod fun p => { p with rival := true }).podSignal e.svc.pod.rival

/-- A pod message ignored under R443 is counted. -/
def Eng.foreign (e : Eng) : Eng := e.count subNpi 3 1

/-! ### Waits and time state (R436, R439) -/

/-- The waits of peers that `p` picks end at their homes with UNSYNCED naming device `d`, those too that their home's wake still keeps from
registering. -/
def Eng.unsyncWaits (e : Eng) (d : DevNum) (p : DevNum → Bool) : Eng :=
  e.endWaits (fun w => match w.who with
    | .peer x _ _ => p x
    | _ => false) (some (stUnsynced, devDetail d))

/-- The FLAG_WAITs that this device has registered at peers end with UNSYNCED naming itself, and are withdrawn. -/
def Eng.unsyncRemote (e : Eng) : Eng :=
  (e.jobs.filter fun j => j.opcode = opFlagWait && j.stage = .waiting && j.syncSent && j.answer.isNone).foldl (fun e j =>
    (e.podRefused.emit (.npi j.syncDev (.withdraw j.ctx (j.waitId.getD 0)))).waitEnds j.handle stUnsynced (devDetail e.device) e.now) e

/-- This worker's report of its time state, as the extra SYNC_REQ of R436 carries it: its answer belongs to no exchange. -/
def Eng.reportTime (e : Eng) : Eng :=
  e.emit (.npi e.svc.pod.bellwether (.syncReq {
    dev := e.device, epoch := e.svc.pod.epoch, t1 := e.now, unsynced := e.flt.time.unsynced }))

/-- A time exchange begins (R434). -/
def Eng.sendSyncReq (e : Eng) : Eng :=
  (e.modTime fun t => { t with open_ := some e.now }).reportTime

/-- The device enters its own Unsynced state, and reports it where it has a Bellwether (R436, R439). -/
def Eng.enterUnsynced (e : Eng) : Eng :=
  if e.flt.time.unsynced then e.modTime fun t => { t with good := 0 }
  else
    let e := (e.modTime fun t => { t with unsynced := true, good := 0 }).count subFlt 31 1
    ((e.unsyncWaits e.device fun _ => true).unsyncRemote).reportTime

/-! ### Joins (R425, R429, R432, R433, R437) -/

/-- A worker sends a JOIN to its Bellwether; the first since its cold reset says so (log 95). -/
def Eng.sendJoin (e : Eng) (restarted : Bool) : Eng :=
  if e.worker then
    (e.modPod fun p => { p with joinAt := e.now, joined := true }).emit (.npi e.svc.pod.bellwether (.join {
      dev := e.device, ident := ownIdent, epoch := e.svc.pod.epoch, bellwether := e.svc.pod.bellwether
      stale := e.svc.pod.stale, restarted := restarted, first := !e.svc.pod.joined }))
  else e

/-- A peer's entry of the vector. A device that becomes UNSYNCED loses the waits it has registered here (R439). -/
def Eng.setPeer (e : Eng) (d : DevNum) (st : BitVec 2) (cause : BitVec 4) : Eng :=
  let old := mapGet {} e.npi.peers d.toNat
  let e : Eng := { e with npi := { e.npi with peers := mapSet {} e.npi.peers d.toNat { old with state := st, cause := cause } } }
  if st = 2 && decide (old.state ≠ 2) then e.unsyncWaits d fun x => x = d else e

/-- The member record of a device (R428). -/
def Eng.recordAddr (e : Eng) (d : DevNum) : Nat := e.svc.pod.areaBase.toNat * 2 ^ 20 + 0x1000 + 128 * d.toNat

/-- The required set's entries of a KIND: 0 FIRMWARE, 1 DIGEST (R428). -/
def Eng.requiredSet (e : Eng) (m : Memory) (kind : Byte) : List (List Byte) :=
  let base := e.svc.pod.areaBase.toNat * 2 ^ 20
  ((List.range (min e.svc.pod.reqCount.toNat 16)).filter fun i => m.byte .clear (base + 64 * i + 48) = kind).map fun i =>
    m.bytes .clear (base + 64 * i) 48

/-- A worker's firmware passes (R428). -/
def Eng.firmwareOk (e : Eng) (m : Memory) (measure2 digest : List Byte) : Bool :=
  let ds := e.requiredSet m 1
  e.svc.pod.areaBase ≠ 0 && (e.requiredSet m 0).contains measure2 && (ds.isEmpty || ds.contains digest)

/-- The measurements of a member record. -/
def Eng.storedFirmware (e : Eng) (m : Memory) (d : DevNum) : List Byte × List Byte :=
  (m.bytes .clear (e.recordAddr d + 0x10) 48, m.bytes .clear (e.recordAddr d + 0x40) 48)

/-- IDENT and EPOCH of a member record. -/
def Eng.storedIdent (e : Eng) (m : Memory) (d : DevNum) : BitVec 32 × BitVec 32 :=
  let w := m.word (e.recordAddr d)
  (w.extractLsb' 0 32, w.extractLsb' 32 32)

/-- The record of a verdict is written (R428, R429). -/
def Eng.writeMember (e : Eng) (d : DevNum) (ident epoch : BitVec 32) (measure2 digest : List Byte) (st : BitVec 2)
    (cause : BitVec 4) : Eff :=
  let pad := fun (l : List Byte) => (l ++ List.replicate 48 0).take 48
  let bytes := leBytes 4 ident.toNat ++ leBytes 4 epoch.toNat ++ leBytes 8 e.now.toNat ++ pad measure2 ++ pad digest
    ++ leBytes 16 (st.toNat + 16 * cause.toNat)
  if e.svc.pod.areaBase = 0 then ⟨e, []⟩ else (Eff.mk e []).put ⟨e.recordAddr d, .clear, bytes⟩

/-- The record of a device whose entry has changed is brought up to date: its EPOCH as last reported, its state and its cause (R428,
R430). -/
def Eff.recordPeer (x : Eff) (d : DevNum) : Eff :=
  let p := mapGet {} x.eng.npi.peers d.toNat
  let a := x.eng.recordAddr d
  (if p.state = 0 then x else x.put ⟨a + 4, .clear, leBytes 4 p.epoch.toNat⟩).put ⟨a + 0x70, .clear, [BitVec.ofNat 8 (p.state.toNat + 16 * p.cause.toNat)]⟩

/-- What of an entry its member record repeats. -/
def PeerStat.recorded (p : PeerStat) : BitVec 2 × BitVec 4 × BitVec 32 := (p.state, p.cause, p.epoch)

/-- The Bellwether's member records follow the entries that a command has changed since they were `was` (R428). -/
def Eff.recorded (x : Eff) (was : SMap PeerStat) : Eff :=
  if !x.eng.bellwether || x.eng.svc.pod.areaBase = 0 then x
  else
    let now := x.eng.npi.peers
    let keys := now.map (·.1) ++ (was.filter fun p => mapGet {} now p.1 = {}).map (·.1)
    (keys.filter fun k => (mapGet {} was k).recorded ≠ (mapGet {} now k).recorded).foldl (fun x k => x.recordPeer (BitVec.ofNat 12 k)) x

/-- STATE and CAUSE of a judgement that has reached the EPOCH check (R429, steps 3 to 5). -/
def Eng.judge (e : Eng) (m : Memory) (epoch : BitVec 32) (measure2 digest : List Byte) : BitVec 2 × BitVec 4 :=
  if epoch ≠ e.svc.pod.epoch then (1, 1) else if !e.firmwareOk m measure2 digest then (1, 2) else (2, 0)

def Eng.noteBad (e : Eng) (st : BitVec 2) : Eng := if st = 1 then e.count subSvc 36 1 else e

/-- The Bellwether starts on waiting JOINs, at most 8 at once, and one of a device at a time (R429, log 95). -/
def Eng.startJoins : Nat → Eng → Eng
  | 0, e => e
  | n + 1, e =>
    match e.svc.pod.joinQueue.find? fun j => !e.svc.pod.judging.any (·.dev = j.dev) with
    | none => e
    | some j =>
      if 8 ≤ e.svc.pod.judging.length then e
      else Eng.startJoins n ((e.modPod fun p => { p with judging := p.judging ++ [j], joinQueue := p.joinQueue.erase j }).emit
        (.npi j.dev (.spdm (.getMeasurements true))))

/-- A worker's measurements, as its member record keeps them, pass R428. -/
def Eng.recordPasses (e : Eng) (m : Memory) (d : DevNum) : Bool :=
  let (m2, dg) := e.storedFirmware m d
  e.firmwareOk m m2 dg

/-- The EPOCH that a worker reports, in a JOIN or a time exchange (R432): it is kept; a member or unsynced worker whose EPOCH differs becomes
MISMATCHED, and one MISMATCHED by EPOCH whose EPOCH is right again UNSYNCED, or MISMATCHED by FIRMWARE where its record fails R428, so that it was not
MISMATCHED by EPOCH only. -/
def Eng.takeEpoch (e : Eng) (m : Memory) (d : DevNum) (epoch : BitVec 32) : Eng :=
  let p := mapGet {} e.npi.peers d.toNat
  if p.state = 0 then e
  else
    let e : Eng := { e with npi := { e.npi with peers := mapSet {} e.npi.peers d.toNat { p with epoch := epoch } } }
    if p.state = 1 then
      if p.cause = 1 && epoch = e.svc.pod.epoch then (if e.recordPasses m d then e.setPeer d 2 0 else e.setPeer d 1 2) else e
    else if epoch ≠ e.svc.pod.epoch then e.setPeer d 1 1 else e

/-- What a JOIN makes of its sender's entry before it is judged (R432, R433, log 95): a restarted worker becomes MISMATCHED with cause RESTART, one that a
cold reset has started anew ABSENT, and of any other one that the Bellwether has a verdict on the JOIN's EPOCH is taken. A JOIN of another IDENT than the
record's changes nothing. -/
def Eng.joinArrives (e : Eng) (m : Memory) (j : JoinMsg) : Eng :=
  let p := mapGet {} e.npi.peers j.dev.toNat
  if p.ident ≠ 0 && p.ident ≠ j.ident then e
  else if j.restarted then e.setPeer j.dev 1 5
  else if j.first then e.setPeer j.dev 0 0
  else e.takeEpoch m j.dev j.epoch

/-- The Bellwether answers a JOIN with the stale mark from its record (R437). A restarted worker is judged instead (R433). -/
def Eng.answersStale (e : Eng) (m : Memory) (j : JoinMsg) : Bool :=
  let p := mapGet {} e.npi.peers j.dev.toNat
  let known := p.state = 3 || p.state = 2 || (p.state = 0 && p.cause = 4)
  j.stale && !j.restarted && known && decide (e.svc.pod.areaBase ≠ 0) && decide (e.storedIdent m j.dev = (j.ident, j.epoch))

/-- A JOIN needs no judgement of its own (R432, log 95): one that repeats a JOIN already waiting or being judged, and one whose EPOCH alone has
brought a MISMATCHED worker back. -/
def Eng.joinSettled (e : Eng) (was : PeerStat) (j : JoinMsg) : Bool :=
  let p := mapGet {} e.npi.peers j.dev.toNat
  (was.state = 1 && p.state = 2)
    || (!j.restarted && !j.first && (e.svc.pod.judging ++ e.svc.pod.joinQueue).any fun k => k.dev = j.dev && k.ident = j.ident && k.epoch = j.epoch)

/-- A JOIN waits for its judgement, which starts at once where fewer than eight go on (R429). -/
def Eng.queueJoin (e : Eng) (j : JoinMsg) : Eng :=
  Eng.startJoins 8 (e.modPod fun p => { p with joinQueue := p.joinQueue ++ [j] })

/-- JOIN (R429, R432, R433, R437, R443): the Bellwether starts judging, or answers a stale worker from its record. -/
def execJoin (j : JoinMsg) (s : State) : Answer :=
  onMem s fun m e =>
    let was := e.npi.peers
    let e := e.heard m j.dev
    if e.worker then ⟨e, []⟩
    else if !e.bellwether || j.bellwether ≠ e.device then ⟨e.foreign, []⟩
    else if e.answersStale m j then
      (Eff.mk ((e.modPod fun p => { p with lastSync := mapSet 0 p.lastSync j.dev.toNat p.beaconSeq }).setPeer j.dev 2 6) []).recorded was
    else
      let e := e.joinArrives m j
      (Eff.mk (if e.joinSettled (mapGet {} was j.dev.toNat) j then e else e.queueJoin j) []).recorded was

/-- What a judged JOIN makes of its worker's entry, and the record of a verdict (R429, log 95). A failure of the exchange leaves the entry, save that it ends
cause RESTART as ABSENT. Another device's JOIN is refused, with cause IDENTITY where the entry is ABSENT. A worker that has restarted since this JOIN stays
MISMATCHED with cause RESTART until its own verdict (R433). -/
def Eng.takeVerdict (e : Eng) (m : Memory) (d : DevNum) (j : JoinMsg) (v : VerdictInput) : Eff :=
  let p := mapGet {} e.npi.peers d.toNat
  if !v.verified then
    ⟨(if p.state = 1 && p.cause = 5 && j.restarted then e.setPeer d 0 0 else e).count subSvc 36 1, []⟩
  else if p.ident ≠ 0 && p.ident ≠ v.ident then
    ⟨(if p.state = 0 then e.setPeer d 0 3 else e).count subSvc 36 1, []⟩
  else
    let judged := e.judge m j.epoch v.measure2 v.digest
    let again := e.svc.pod.joinQueue.any fun k => k.dev = d && k.restarted
    let (st, cause) : BitVec 2 × BitVec 4 := if again then (1, 5) else judged
    let e := (e.setPeer d st cause).noteBad judged.1
    let e : Eng := { e with npi := { e.npi with peers := mapUpd {} e.npi.peers d.toNat fun q => { q with ident := v.ident, epoch := j.epoch } } }
    let e := e.modPod fun p => { p with lastSync := mapSet 0 p.lastSync d.toNat p.beaconSeq }
    e.writeMember d v.ident j.epoch v.measure2 v.digest st cause

/-- VERDICT (R428, R429): the SPDM exchange of a JOIN has finished. -/
def execVerdict (d : DevNum) (v : VerdictInput) (s : State) : Answer :=
  onMem s fun m e =>
    match e.svc.pod.judging.find? (·.dev = d) with
    | none => ⟨e, []⟩
    | some j =>
      let was := e.npi.peers
      let e := ((e.modPod fun p => { p with judging := p.judging.filter (·.dev ≠ d) }).count subSvc 35 1)
      ((if e.bellwether then e.takeVerdict m d j v else ⟨e, []⟩).recorded was).on (Eng.startJoins 8)

/-- JOIN_SEND (R429, R437): every 100 µs while the worker is ABSENT or its Bellwether stale. -/
def execJoinSend (s : State) : Answer :=
  onEng s fun _ e =>
    if e.worker && (decide (e.svc.pod.self = 0) || e.svc.pod.stale) then
      (e.advanceTo (e.svc.pod.joinAt + 100000)).sendJoin false
    else e

/-! ### Set-up of the pod (R425, R427, R428, R433) -/

/-- What a judgement from the record makes of an entry (R433): RESTART stays until the worker's own verdict; a MISMATCHED worker that passes becomes
UNSYNCED, and any other that passes stays as it is. -/
def PeerStat.rejudged (p : PeerStat) (judged : BitVec 2 × BitVec 4) : BitVec 2 × BitVec 4 :=
  if p.state = 1 && p.cause = 5 then (1, 5)
  else if judged.1 = 1 then judged
  else if p.state = 1 then (2, 0)
  else (p.state, p.cause)

/-- An entry of a device of which the Bellwether has a member record: one it has a verdict on, silent ones among them (R428, R433). -/
def PeerStat.member (p : PeerStat) : Bool := decide (p.ident ≠ 0) && (decide (p.state ≠ 0) || decide (p.cause ≠ 0))

/-- One member record is judged again, by the EPOCH that its worker last reported and the stored measurements (R425, R433). -/
def Eng.rejudge (e : Eng) (m : Memory) (d : DevNum) (p : PeerStat) : Eff :=
  let (m2, dg) := e.storedFirmware m d
  let judged := e.judge m p.epoch m2 dg
  let new := p.rejudged judged
  ((e.setPeer d new.1 new.2).noteBad judged.1).writeMember d p.ident p.epoch m2 dg new.1 new.2

/-- Every member record is judged again, from the stored measurements (R433). -/
def Eng.reverify (e : Eng) (m : Memory) : Eff :=
  if !e.bellwether then ⟨e, []⟩
  else (e.npi.peers.filter fun p => p.2.member).foldl (fun (x : Eff) p =>
    let y := x.eng.rejudge m (BitVec.ofNat 12 p.1) p.2
    { eng := y.eng, ops := x.ops ++ y.ops }) ⟨e, []⟩

/-- SVC_POD_CTL written (R425). A write of BELLWETHER sets every peer ABSENT and starts a new join. A device that is no worker drops a correction that
is pending (R10). -/
def Eng.podCtlWrite (e : Eng) (m : Memory) (w : RegWrite) : Eff :=
  let quiet := e.ctxs.all fun c => decide (c.2.state = .disabled)
  let e := e.modPod fun p => { p with
    role := if quiet then BitVec.ofNat 2 (wrField w.half w.value 63 62 p.role.toNat) else p.role
    bellwether := BitVec.ofNat 12 (wrField w.half w.value 59 48 p.bellwether.toNat)
    notify := wrBit w.half w.value 47 p.notify
    vector := BitVec.ofNat 11 (wrField w.half w.value 42 32 p.vector.toNat)
    beaconUs := BitVec.ofNat 16 (wrField w.half w.value 31 16 p.beaconUs.toNat)
    lostN := BitVec.ofNat 8 (wrField w.half w.value 15 8 p.lostN.toNat) }
  let e := if e.svc.pod.role = 1 then e else e.modTime fun t => { t with pendingNs := 0 }
  let e := if halfCovers w.half 48 then
      let e : Eng := { e with npi := { e.npi with peers := [] } }
      (e.modPod fun p => { p with self := 0, stale := false, judging := [], joinQueue := [], lastSync := [], published := [] }).sendJoin
        false
    else e
  if halfCovers w.half 0 && bitOf w.value 0 then e.reverify m else ⟨e, []⟩

/-- POD_CTL_WRITE (R425). -/
def execPodCtlWrite (w : RegWrite) (s : State) : Answer :=
  onMem s fun m e => if e.answers subSvc then (e.podCtlWrite m w).recorded e.npi.peers else ⟨e, []⟩

/-- REVERIFY (R425, R433): a write of SVC_POD_CTL with REVERIFY 1. -/
def execReverify (w : RegWrite) (s : State) : Answer :=
  onMem s fun m e => if e.answers subSvc then (e.podCtlWrite m { w with value := w.value ||| 1 }).recorded e.npi.peers else ⟨e, []⟩

/-- POD_EPOCH_WRITE (R427, R429). -/
def execPodEpochWrite (w : RegWrite) (s : State) : Answer :=
  onEng s fun m e => e.access m subSvc fun e =>
    if halfCovers w.half 0 then (e.modPod fun p => { p with epoch := w.value.extractLsb' 0 32 }).sendJoin false else e

/-! ### Beacons (R430, R431, R437, R443) -/

/-- BEACON_US in ns: 10 at least. -/
def Pod.beaconNs (p : Pod) : Nat := max 10 p.beaconUs.toNat * 1000

/-- LOST_N: 2 at least. -/
def Pod.lostBeacons (p : Pod) : Nat := max 2 p.lostN.toNat

/-- The Bellwether's vector: the devices that are not ABSENT, its own entry MEMBER. -/
def Eng.vector (e : Eng) : List (DevNum × BitVec 2) :=
  ((e.npi.peers.filter fun p => decide (p.2.state ≠ 0) && decide (p.1 ≠ e.device.toNat)).map fun p => (BitVec.ofNat 12 p.1, p.2.state))
    ++ [(e.device, 3)]

/-- A worker that held another EPOCH when it last reported is MISMATCHED from the next beacon on (R432). -/
def Eng.checkEpochs (e : Eng) : Eng :=
  (e.npi.peers.filter fun p => decide (2 ≤ p.2.state.toNat) && decide (p.2.epoch ≠ e.svc.pod.epoch) && decide (p.1 ≠ e.device.toNat)).foldl
    (fun e p => e.setPeer (BitVec.ofNat 12 p.1) 1 1) e

/-- BEACON_SEND (R430, R432). -/
def execBeaconSend (s : State) : Answer :=
  onMem s fun _ e =>
    if !e.bellwether then ⟨e, []⟩
    else
      let was := e.npi.peers
      let e := (e.advanceTo (e.svc.pod.beaconAt + BitVec.ofNat 64 e.svc.pod.beaconNs)).checkEpochs
      let v := e.vector
      let e := e.modPod fun p => { p with beaconAt := e.now, beaconSeq := p.beaconSeq + 1 }
      let e := if v = e.svc.pod.published then e else (e.modPod fun p => { p with published := v }).setChanged
      (Eff.mk ((v.filter fun x => x.1 ≠ e.device).foldl (fun e x => (e.emit (.npi x.1 (.beacon {
        dev := e.device, epoch := e.svc.pod.epoch, seq := e.svc.pod.beaconSeq, stamp := e.now, states := v }))).count subSvc 34 1) e) []).recorded was

/-- The vector of an accepted beacon, as this device keeps it. -/
def vectorMap (b : Beacon) : SMap PeerStat :=
  ((b.states.filter fun (x : DevNum × BitVec 2) => decide (x.2 ≠ 0)) ++ [(b.dev, (3 : BitVec 2))]).foldl
    (fun (m : SMap PeerStat) (x : DevNum × BitVec 2) => mapSet {} m x.1.toNat { state := x.2 }) []

/-- A worker takes the vector (R430, R431, R439). -/
def Eng.takeVector (e : Eng) (b : Beacon) : Eng :=
  let v := vectorMap b
  let e := if v = e.npi.peers then e else e.setChanged
  let e : Eng := { e with npi := { e.npi with peers := v } }
  let e := e.modPod fun p => { p with self := (mapGet {} v e.device.toNat).state, stale := false }
  (v.filter fun (x : Nat × PeerStat) => decide (x.2.state = 2)).foldl (fun (e : Eng) (x : Nat × PeerStat) =>
    let d := BitVec.ofNat 12 x.1
    e.unsyncWaits d fun y => y = d) e

/-- A time exchange whose answer has not come is lost; two in a row make the device Unsynced (R434, R436). -/
def Eng.noteLostExchange (e : Eng) : Eng :=
  if e.flt.time.open_.isNone then e
  else
    let e := (e.modTime fun t => { t with open_ := none, lost := t.lost + 1 }).count subFlt 30 1
    if 2 ≤ e.flt.time.lost then e.enterUnsynced else e

/-- BEACON_RECEIVE (R430, R434, R437, R443). -/
def execBeaconReceive (b : Beacon) (s : State) : Answer :=
  onEng s fun m e =>
    let e := e.heard m b.dev
    if !e.worker || b.dev ≠ e.svc.pod.bellwether then e.foreign.setRival
    else
      let e := e.noteLostExchange
      let e := (e.count subNpi 2 1).takeVector b
      (e.modTime fun t => { t with lastBeacon := e.now }).sendSyncReq

/-- BELLWETHER_STALE (R436, R437). -/
def execBellwetherStale (s : State) : Answer :=
  onEng s fun _ e =>
    if !e.worker || e.svc.pod.stale then e
    else
      let p := e.svc.pod
      let e := e.advanceTo (e.flt.time.lastBeacon + BitVec.ofNat 64 (p.lostBeacons * p.beaconNs))
      (e.modPod fun p => { p with stale := true }).enterUnsynced

/-- WORKER_SILENT (R433). -/
def execWorkerSilent (d : DevNum) (s : State) : Answer :=
  onMem s fun _ e =>
    let p := e.svc.pod
    if e.bellwether && decide (e.peerState d ≠ 0) && decide (d ≠ e.device)
        && decide (mapGet 0 p.lastSync d.toNat + p.lostBeacons ≤ p.beaconSeq) then
      (Eff.mk (e.setPeer d 0 4) []).recorded e.npi.peers
    else ⟨e, []⟩

/-! ### Time exchanges (R432, R434 to R436) -/

/-- What a worker's report makes of its state: EPOCH first, then its time state. -/
def Eng.takeReport (e : Eng) (m : Memory) (q : SyncReport) : Eng :=
  let was := mapGet {} e.npi.peers q.dev.toNat
  let e := e.takeEpoch m q.dev q.epoch
  let p := mapGet {} e.npi.peers q.dev.toNat
  if was.state = 1 then e
  else if p.state = 3 && q.unsynced then e.setPeer q.dev 2 0
  else if p.state = 2 && !q.unsynced then e.setPeer q.dev 3 0
  else e

/-- SYNC_REQ (R432, R434, R436). -/
def execSyncReq (q : SyncReport) (s : State) : Answer :=
  onMem s fun m e =>
    let was := e.npi.peers
    let e := e.heard m q.dev
    if !e.bellwether then ⟨e, []⟩
    else
      let e := (e.modPod fun p => { p with lastSync := mapSet 0 p.lastSync q.dev.toNat p.beaconSeq }).takeReport m q
      (Eff.mk (e.emit (.npi q.dev (.syncRsp { dev := e.device, t1 := q.t1, t2 := e.now, t3 := e.now }))) []).recorded was

/-- The difference of two stamps. -/
def stampDiff (a b : Word) : Int := (a.toNat : Int) - b.toNat

/-- The correction towards the offset (R435). -/
def Eng.correct (e : Eng) (theta : Int) : Eng :=
  if 10000 < theta then { (e.modTime fun t => { t with pendingNs := 0 }) with now := e.now + BitVec.ofInt 64 theta }
  else e.modTime fun t => { t with pendingNs := theta }

/-- SYNC_RSP (R434 to R436). Halves of a nanosecond are dropped towards zero (log 52). -/
def execSyncRsp (a : SyncAnswer) (s : State) : Answer :=
  onEng s fun m e =>
    let e := e.heard m a.dev
    if !e.worker || a.dev ≠ e.svc.pod.bellwether then (if e.bellwether then e else e.foreign.setRival)
    else if e.flt.time.open_ ≠ some a.t1 then e
    else
      let t4 := e.now
      let theta := Int.tdiv (stampDiff a.t2 a.t1 + stampDiff a.t3 t4) 2
      let delta := stampDiff t4 a.t1 - stampDiff a.t3 a.t2
      let ds := (delta :: e.flt.time.deltas).take 64
      let dmin := ds.foldl min delta
      let skew := (theta.natAbs : Int) + Int.tdiv (delta - dmin) 2
      let e := (e.modTime fun t => { t with
        open_ := none, deltas := ds, lost := 0, skew := BitVec.ofNat 16 (min skew.toNat 65535) }).count subFlt 29 1
      let e := e.correct theta
      if 100 < skew then e.enterUnsynced
      else
        let e := e.modTime fun t => { t with good := t.good + 1 }
        if e.flt.time.unsynced && decide (4 ≤ e.flt.time.good) && !e.svc.pod.stale then
          (e.modTime fun t => { t with unsynced := false }).reportTime
        else e

/-- TIME_CORRECTION_DONE (R435). -/
def execTimeCorrectionDone (s : State) : Answer :=
  onEng s fun _ e => e.elapse e.slewNs.natAbs

/-! ### Routes (R106, R274) -/

/-- A wait or a flag or fold operation that stands at the homes of a peer without a route ends (R274). -/
def Eng.syncUnreachable (e : Eng) (d : DevNum) (j : Job) : Eng :=
  let det := partialDetail 0 stUnreachable d
  if j.opcode = opFlagWait then e.waitEnds j.handle stUnreachable det e.now
  else (e.wakeRegion j.lead).finish j.handle stUnreachable det

/-- A descriptor's elements that are with the transport on their way to a peer without a route fail (R106, step 3, R117; log 13). -/
def Job.unreachable (j : Job) (d : DevNum) : Job :=
  [StreamId.idx, .src, .scaleIn, .dst, .scaleOut].foldl (fun j st =>
    (j.els st).foldl (fun j x => if x.2.toPeer d then j.setEl st x.1 (.failed stUnreachable d) else j) j) j

/-- ROUTE_LOST (R117, R274): the waits and flag and fold operations that stand at the peer's homes complete with
REMOTE_UNREACHABLE, and the elements on their way to the peer fail with it. -/
def execRouteLost (d : DevNum) (s : State) : Answer :=
  onMem s fun m e =>
    let e : Eng := { e with npi := { e.npi with lost := if e.npi.lost.contains d then e.npi.lost else d :: e.npi.lost } }
    let e := (e.jobs.filter fun j => j.stage = .waiting && j.syncSent && j.syncDev = d).foldl (fun e j => e.syncUnreachable d j) e
    let hit := e.jobs.filter fun j => j.unreachable d ≠ j
    (hit.foldl (fun (x : Eff) j => x.andThen m fun m e => (e.modJob j.handle fun j => j.unreachable d).goOn m j.handle) ⟨e, []⟩).on
      Eng.noteWork

/-! ### The end of an SVC restart (R374, R429) -/

/-- SVC_RESTART_DONE (R374): Sidenar is reloaded and remeasured, admission, sweeps and an engine reset go on (R454), and
a worker tells its Bellwether. -/
def execSvcRestartDone (s : State) : Answer :=
  onEng s fun m e =>
    if !e.svc.restarting then e
    else
      let e : Eng := { e with svc := { e.svc.measure with restarting := false, kick := e.now } }
      let e := e.resumeSweeps m
      let e := (regions.filter fun r => (e.regionDom r).wantSince.isSome).foldl Eng.wakeRegion e
      let e := if e.svc.power.engine.wantSince.isSome then e.wakeEngine else e
      ((e.limitChanged).sendJoin true).resetGoesOn

/-! ### SPDM (R323) -/

/-- SVC answers SPDM requests: its firmware runs and has been measured, and it is not restarting (R457). -/
def Eng.spdmRuns (e : Eng) : Bool := decide (5 ≤ e.svc.start.phase.toNat) && !e.svc.restarting

/-- What SVC answers to an SPDM request it serves (R323): the parts it supports, slot 0's chain and its digest, a signature over a challenge, and the
measurement values, signed where asked. -/
def Eng.spdmAnswer (e : Eng) (k : SpdmKind) : SpdmAnswer × Eng :=
  let values := e.svc.measures.zipIdx.map fun x => (x.2 + 1, x.1)
  match k with
  | .getVersion => (.version 0x12, e)
  | .getCapabilities => (.supports [.certCap, .chalCap, .measCapSigned], e)
  | .negotiateAlgorithms => (.supports [.ecdsaP384, .sha384Base, .sha384Measurement, .dmtfMeasurement], e)
  | .getDigests => (.digest 0 (sha384 Config.certChain), e)
  | .getCertificate => (.certificate 0 Config.certChain, e)
  | .challenge =>
    let (n, e) := e.draw
    (.challenged e.svc.digest (Config.signature n), e)
  | .getMeasurements false => (.measured values none, e)
  | .getMeasurements true =>
    let (n, e) := e.draw
    (.measured values (some (Config.signature n)), e)
  | .other => (.unsupported, e)

/-- A request is answered, and counted. -/
def Eng.answerSpdm (e : Eng) (src : SpdmFrom) (k : SpdmKind) : Eng :=
  ((e.spdmAnswer k).2.emit (.spdm src (e.spdmAnswer k).1)).count subSvc 3 1

/-- SPDM_REQUEST (R323): answered; a ninth requester served at once receives Busy. A requester's place is free again at the next
AO tick without a command (log 54). -/
def execSpdmRequest (src : SpdmFrom) (k : SpdmKind) (s : State) : Answer :=
  onEng s fun m e =>
    let e := match src with
      | .host => e
      | .peer d => e.heard m d
    if !e.spdmRuns then e
    else if e.svc.spdm.contains src then e.answerSpdm src k
    else if 8 ≤ e.svc.spdm.length then e.emit (.spdm src .busy)
    else ({ e with svc := { e.svc with spdm := e.svc.spdm ++ [src] } } : Eng).answerSpdm src k

end Sys2Proof.Machine
end

