-- ==== Sys2Proof/Machine/Readout.lean ====
section
/-! DEFINITION. What a register read returns (14: R466 to R469, with the layouts of the chapters that R468 names; 01: R5 to R8): a pure
observation of the state, since no register of Vrelop changes by being read. -/

namespace Sys2Proof.Machine

/-! ### RFE and CXS -/

/-- The page of CXS (R40, R41, R460). -/
def Eng.cxsReg (e : Eng) (off : Nat) : Word :=
  match off with
  | 0x00 => pack [(0, e.cxs.sel.toNat)]
  | 0x08 => pack [(12, e.cxs.result.toNat), (8, ofBit (decide (e.cxs.busy ≠ .idle)))]
  | 0x10 => pack [(28, e.cxs.storeBase.toNat)]
  | o => if 0x100 ≤ o && o < 0x200 then (e.ctx e.cxs.sel).reg (o - 0x100) else 0

/-! ### JRN -/

/-- JRN_CTL.STATE (R391). -/
def JState.num : JState → Nat
  | .detached => 0 | .attached => 1 | .held => 2 | .adopting => 3

/-- Contexts that hold adopted completions not yet posted (R392, R420). -/
def Eng.owedCtxs (e : Eng) : Nat :=
  (e.ctxs.filter fun c => decide (c.2.owed ≠ []) || e.jobs.any fun j => j.adopted && decide (j.ctx.toNat = c.1)).length

/-- The page of JRN (R390 to R392). -/
def Eng.jrnReg (e : Eng) (off : Nat) : Word :=
  match off with
  | 0x00 => pack [(12, e.jrn.base.toNat), (0, e.jrn.sizeLog2.toNat)]
  | 0x08 => pack [(63, ofBit e.jrn.busy), (56, e.jrn.result.toNat), (48, e.jrn.state.num)]
  | 0x10 => BitVec.ofNat 64 e.jrn.headSeq
  | 0x18 => BitVec.ofNat 64 e.jrn.durableSeq
  | 0x20 => BitVec.ofNat 64 e.jrn.tailSeq
  | 0x28 => pack [(32, e.owedCtxs), (0, ofBit e.jrn.full)]
  | _ => 0

/-! ### WLK and ATG -/

def WkeyState.num : WkeyState → Nat
  | .empty => 0 | .loaded => 1 | .refused => 2

/-- The paddock window at its offset (R81, R108, R290, R292, R296, R313). -/
def Paddock.reg (p : Paddock) (off : Nat) : Word :=
  match off with
  | 0x00 => pack [(12, p.vtBase.toNat), (0, p.vtLog2.toNat)]
  | 0x08 => pack [(12, p.ptRoot.toNat), (0, p.l1Log2.toNat)]
  | 0x10 => pack [(63, ofBit p.enable), (62, ofBit p.scrubbing), (61, ofBit p.sweeping), (32, p.dieMask.toNat)]
  | 0x18 => pack [(9, p.reachBase.toNat)]
  | 0x20 => pack [(48, p.writeEpoch.toNat), (0, p.live.toNat)]
  | 0x38 => pack [(18, p.wkeyState.num), (8, p.slot.toNat), (0, p.policy.toNat)]
  | 0x40 => pack [(21, p.wwinBase.toNat)]
  | 0x48 => pack [(21, p.wwinLimit.toNat)]
  | 0x50 => pack [(6, p.blobAddr.toNat), (0, ofBit p.blobHost)]
  | _ => 0

/-- The page of ATG (R80, R113, R299, R302). -/
def Eng.atgReg (e : Eng) (off : Nat) : Word :=
  let a := e.atg
  match off with
  | 0x00 => pack [(0, a.sel.toNat)]
  | 0x08 => pack [(16, a.invVa.toNat)]
  | 0x10 => pack [(63, ofBit a.invBusy), (48, a.invLog2.toNat), (36, a.invPaddock.toNat)]
  | 0x128 => pack [(63, ofBit (decide (a.cmdBusy ≠ .idle))), (48, a.cmdResult.toNat), (8, a.cmdArg.toNat)]
  | 0x130 => pack [(60, a.censusEpoch.toNat), (0, a.censusPages.toNat)]
  | o => if 0x100 ≤ o && o ≤ 0x150 then (e.pdk a.sel).reg (o - 0x100) else 0

/-! ### CST, NPI, OPI, SYN -/

/-- The page of CST (R184): a seed is write-only. -/
def Eng.cstReg (e : Eng) (off : Nat) : Word :=
  if off < 0x40 && off % 0x10 = 8 then (e.cst.lfsr.getD (off / 0x10) 0).setWidth 64 else 0

/-- The page of NPI (R430). -/
def Eng.npiReg (e : Eng) (off : Nat) : Word :=
  let d := e.npi.sel
  let p := mapGet {} e.npi.peers d.toNat
  match off with
  | 0x0 => pack [(0, d.toNat)]
  | 0x8 => if e.bellwether || e.worker then
      pack [(62, (e.peerState d).toNat), (58, p.cause.toNat), (0, if e.bellwether then p.ident.toNat else 0)]
    else 0
  | _ => 0

/-- At least one port is up with the die as its link partner (R463). -/
def Eng.attached (e : Eng) (d : DieNum) : Bool := e.opi.ports.contains (some d)

/-- OPI_DIE_CFG (R463). -/
def Eng.dieReg (e : Eng) (d : DieNum) : Word :=
  let c := e.dieCfg d
  pack [(63, ofBit (e.attached d)), (62, ofBit c.enable), (60, c.result.toNat), (32, c.syncCtx.toNat), (0, c.portMask.toNat)]

def FoldState.num : FoldState → Nat
  | .disabled => 0 | .counting => 1 | .forwarded => 2

/-- The page of SYN (R250 to R252, R262 to R265). -/
def Eng.synReg (e : Eng) (off : Nat) : Word :=
  let f := e.flag e.syn.flagSel
  let g := e.fold e.syn.foldSel
  match off with
  | 0x00 => pack [(0, e.syn.flagSel.toNat)]
  | 0x08 => pack [(63, ofBit f.owned), (32, f.paddock.toNat), (0, f.owner.toNat)]
  | 0x10 => pack [(63, ofBit f.value), (61, Scope.num f.scope), (49, f.lastDev.toNat), (25, f.lastSrc.toNat),
      (0, min (e.syn.waits.filter fun w => w.flag = e.syn.flagSel).length 0xFFFF)]
  | 0x18 => pack [(0, e.syn.foldSel.toNat)]
  | 0x20 => pack [(63, ofBit g.enable), (62, ofBit g.root), (50, g.paddock.toNat), (49, ofBit g.rflagEn), (48, ofBit g.rflagAlt),
      (18, g.releaseFlag.toNat), (0, g.expect.toNat)]
  | 0x28 => pack [(28, g.parentDev.toNat), (0, g.parentFold.toNat)]
  | 0x30 => pack [(62, g.state.num), (60, Scope.num g.scopeMin), (48, g.children.length), (32, g.episode.toNat), (0, g.count)]
  | _ => 0

/-! ### SVC -/

def PState.num : PState → Nat
  | .active => 0 | .idle => 1 | .sleep => 2

/-- ELAPSED_US (R455). -/
def Eng.elapsedUs (e : Eng) : Nat :=
  let st := e.svc.start
  if st.ready || st.failed then st.elapsed.toNat else if st.phase = 0 then 0 else min (e.now.toNat / 1000) (2 ^ 32 - 1)

/-- An engine reset runs: from its start until replay ends (R403). -/
def EngReset.busy (r : EngReset) : Bool := decide (r.phase ≠ .none)

/-- Devices in state MEMBER or UNSYNCED, the Bellwether included (R426). -/
def Eng.members (e : Eng) : Nat :=
  if e.bellwether then
    1 + (e.npi.peers.filter fun p => decide (p.1 ≠ e.device.toNat) && (decide (p.2.state = 2) || decide (p.2.state = 3))).length
  else 0

/-- The power registers (R344 to R346, R350). -/
def Power.reg (p : Power) (off : Nat) : Word :=
  match off with
  | 0x80 => pack [(63, ofBit p.dormantEn), (48, p.engMin.toNat), (16, p.dormantDelay.toNat), (0, p.rotateUs.toNat)]
  | 0x88 => pack [(63, ofBit p.dormant), (56, p.engine.st.num), (8, (regions.map fun r => ofBit (p.region.getD r.toNat {}).lent * 2 ^ r.toNat).sum),
      (0, (regions.map fun r => (p.region.getD r.toNat {}).st.num * 4 ^ r.toNat).sum)]
  | 0x90 => pack [(23, p.saveBase.toNat)]
  | 0x98 => pack [(48, p.lentAmount), (36, p.limit), (12, p.grant.toNat), (0, p.cap.toNat)]
  | o =>
    let c := p.ctl.getD ((o - 0x60) / 8) {}
    if 0x60 ≤ o && o < 0x80 && o % 8 = 0 then
      pack [(48, c.minState.toNat), (40, ofBit c.lendEn), (16, c.sleepDelay.toNat), (0, c.idleDelay.toNat)]
    else 0

/-- SVC_ARB_CFG (R338). -/
def ArbCfg.reg (c : ArbCfg) : Word :=
  pack [(48, c.remote.toNat), (40, c.svc.toNat), (32, c.cutoff.toNat), (12, c.starve.toNat), (0, c.quantum.toNat)]

/-- SVC_FUSE_CAND (R383). -/
def FuseCand.reg (c : FuseCand) : Word :=
  pack [(63, ofBit c.valid), (62, ofBit c.fused), (48, c.kind.toNat), (32, c.addr.toNat), (24, c.macroNo.toNat), (16, c.structId.toNat),
    (4, c.inst.toNat), (0, c.sub.toNat)]

/-- The page of SVC. -/
def Eng.svcReg (e : Eng) (off : Nat) : Word :=
  let v := e.svc
  match off with
  | 0x00 => pack [(63, ofBit v.start.ready), (62, ofBit v.start.failed), (48, v.start.phase.toNat), (40, v.start.cause.toNat), (0, e.elapsedUs)]
  | 0x08 => pack [(63, ofBit v.clkIn), (32, v.clkMv.toNat), (0, v.clkMhz.toNat)]
  | 0x10 => pack [(63, ofBit v.reset.busy), (62, ofBit v.reset.settled), (32, v.reset.settleMs.toNat), (1, ofBit v.reset.auto), (0, ofBit v.reset.req)]
  | 0x18 => pack [(19, v.scratch.toNat)]
  | 0x20 => pack [(8, v.arbCut.toNat), (0, v.arbStarved.toNat)]
  | 0x28 => pack [(16, ofBit v.arbEn), (0, v.arbVector.toNat)]
  | 0xA0 => pack [(63, ofBit v.bistEn), (40, v.bistMask.toNat), (32, v.bistTickets.toNat), (16, v.bistVisit.toNat), (0, v.bistInterval.toNat)]
  | 0xA8 => pack [(0, v.fuseSel.toNat)]
  | 0xB0 => (v.cands.getD v.fuseSel.toNat {}).reg
  | 0xB8 => pack [(63, ofBit v.fuseBusy.isSome), (60, v.fuseResult.toNat), (48, e.fuseFree)]
  | 0xC0 => pack [(62, v.pod.role.toNat), (48, v.pod.bellwether.toNat), (47, ofBit v.pod.notify), (32, v.pod.vector.toNat),
      (16, v.pod.beaconUs.toNat), (8, v.pod.lostN.toNat), (0, ofBit v.pod.reverify)]
  | 0xC8 => pack [(62, e.selfState.toNat), (61, ofBit v.pod.stale), (60, ofBit v.pod.rival), (59, ofBit v.pod.changed), (32, e.device.toNat),
      (0, e.members)]
  | 0xD0 => v.pod.epoch.setWidth 64
  | 0xD8 => pack [(20, v.pod.areaBase.toNat), (0, v.pod.reqCount.toNat)]
  | o =>
    if 0x40 ≤ o && o < 0x60 && o % 8 = 0 then (v.arb.getD ((o - 0x40) / 8) {}).reg
    else if 0x60 ≤ o && o < 0xA0 then v.power.reg o
    else 0

/-! ### FLT -/

/-- Word `i` of a history entry (R363). -/
def HistEntry.word (h : HistEntry) (i : Nat) : Word :=
  match i with
  | 0 => pack [(63, 1), (62, ofBit h.poisoned), (58, ofBit h.ctx.isSome), (56, h.cls.code.toNat), (40, h.source.toNat), (0, fld h.stamp 39 0)]
  | 1 => pack [(40, fld h.stamp 63 40), (24, h.count), (22, h.sev.code.toNat), (20, h.mode.toNat), (0, (h.ctx.getD 0).toNat)]
  | _ => h.detail

/-- FLT_HIST_W0 to W2: the oldest held entry, or zero (R367). -/
def Flt.histWord (t : Flt) (i : Nat) : Word :=
  match t.hist with
  | [] => 0
  | h :: _ => h.word i

/-- The page of FLT (R357, R360, R367, R370, R372, R373, R375, R436). -/
def Eng.fltReg (e : Eng) (off : Nat) : Word :=
  let t := e.flt
  match off with
  | 0x00 => pack [(0, t.mode.toNat)]
  | 0x08 => pack [(16, ofBit t.fatal), (0, t.firstSource.toNat)]
  | 0x10 => pack [(63, ofBit t.alert.active), (62, ofBit t.alert.pending), (8, ofBit t.alert.hold), (4, ofBit t.alert.contEn)]
  | 0x18 => pack [(63, ofBit t.wdogEn), (0, t.wdogPeriod.toNat)]
  | 0x20 => pack [(63, ofBit e.injectSeen.flt.inject.armed), (20, t.inject.sub.toNat), (14, t.inject.inst.toNat), (6, t.inject.structId.toNat), (4, t.inject.bits.toNat)]
  | 0x28 => pack [(63, ofBit e.ownUnsynced), (32, t.time.skew.toNat), (0, (BitVec.ofInt 32 t.time.pendingNs).toNat)]
  | 0x30 => t.histWord 0
  | 0x38 => t.histWord 1
  | 0x40 => t.histWord 2
  | 0x50 => pack [(32, t.lost), (0, t.hist.length)]
  | o => if 0x100 ≤ o && o < 0x1E0 && o % 8 = 0 then t.severity.getD ((o - 0x100) / 8) 0 else 0

/-! ### The outputs of the power exchange and the alert pin (R350, R369, R446, R450) -/

/-- PPM_DEMAND: the fixed charges of the AO domain and the engine domain, and what the regions with work would draw if Active (log 64). -/
def Eng.ppmDemand (e : Eng) : Nat := 9 + 391 + 500 * (regions.filter e.regionWork).length

/-- PPM_LENT. -/
def Eng.ppmLent (e : Eng) : Nat := e.svc.power.lentAmount

/-- PPM_RECALL: at least one recall is outstanding. -/
def Eng.ppmRecall (e : Eng) : Bool := !e.svc.power.recalls.isEmpty

/-- ENG_ALERT_L is driven low. -/
def Eng.alertPinLow (e : Eng) : Bool := e.flt.alert.active

/-! ### The register window -/

/-- A set-up register by its page and its offset there (R466, R468). An offset that is not named reads zero. -/
def Eng.setupReg (e : Eng) (sub : BitVec 4) (off : Nat) : Word :=
  if sub = subCxs then e.cxsReg off
  else if sub = subJrn then e.jrnReg off
  else if sub = subWlk then
    if off = 0 then pack [(63, ofBit e.wlk.inv.busy), (36, e.wlk.inv.paddock.toNat), (0, e.wlk.inv.view.toNat)] else 0
  else if sub = subAtg then e.atgReg off
  else if sub = subCst then e.cstReg off
  else if sub = subNpi then e.npiReg off
  else if sub = subOpi then if off < 32 && off % 8 = 0 then e.dieReg (BitVec.ofNat 2 (off / 8)) else 0
  else if sub = subSyn then e.synReg off
  else if sub = subSvc then e.svcReg off
  else if sub = subFlt then e.fltReg off
  else 0

/-- The subsystem whose page an offset lies in (R466). -/
def pageOf (off : BitVec 21) : BitVec 4 := off.extractLsb' 16 4

/-- The 64-bit register at an offset of the register window (R466 to R469). -/
def Eng.regAt (e : Eng) (off : BitVec 21) : Word :=
  let o := off.toNat % 0x10000
  if !e.answers (pageOf off) then 0
  else if off.getLsbD 20 then (if o / 8 < 512 then e.tallyOf (pageOf off) (o / 8) else 0)
  else e.setupReg (pageOf off) o

/-- What an access of a size at an offset addresses (R7): the register and the halves, or nothing. -/
def accessHalf (off : BitVec 21) : AccSize → Option (BitVec 21 × Half)
  | .w64 => if off.toNat % 8 = 0 then some (off, .both) else none
  | .w32 => if off.toNat % 8 = 0 then some (off, .low) else if off.toNat % 8 = 4 then some (off - 4, .high) else none
  | .other => none

/-- What a read of the register window returns (R7). -/
def Eng.readReg (e : Eng) (off : BitVec 21) (size : AccSize) : Word :=
  match accessHalf off size with
  | none => 0
  | some (r, .both) => e.regAt r
  | some (r, .low) => (e.regAt r) &&& 0xFFFFFFFF
  | some (r, .high) => (e.regAt r) >>> 32

end Sys2Proof.Machine
end

