-- ==== Sys2Proof/Machine/Bringup.lean ====
section
/-! DEFINITION. Bring-up and the boundary (14: R446 to R465): the two resets of the AO domain, the cold start, compute dies and OPI
ports, and the seeds an operator writes (06: R184). -/

namespace Sys2Proof.Machine

/-! ### AO_RESET_L (R452) -/

/-- The engine at its reset values. What no reset undoes is kept: the levels of the pins, TL9's memory map, the repair fuses
programmed (R383), what has already left, and the count of free values. -/
def Eng.coldReset (e : Eng) (low : Bool) : Eng :=
  { pins := { e.pins with aoResetL := !low }
    memMap := e.memMap
    fuses := e.fuses
    freeCount := e.freeCount
    out := e.out }

/-- AO_RESET_L_FALL (R452, R454): phase 0 at once. -/
def execAoResetLFall (s : State) : Answer := onEng s fun _ e => e.coldReset true

/-- A phase of the cold start begins (R455, R456). -/
def Eng.startPhase (e : Eng) (n : BitVec 4) : Eng :=
  { e with svc := { e.svc with start := { e.svc.start with phase := n, phaseSince := e.now } } }

/-- AO_RESET_L_RISE (R452, R456): the time base counts from 0, and phase 1 begins. The one command that acts while the pin is
low (log 4). -/
def execAoResetLRise (s : State) : Answer :=
  .next (if s.eng.pins.aoResetL then s else { s with eng := (s.eng.coldReset false).startPhase 1 })

/-! ### The cold start (R455 to R462) -/

/-- CAUSE codes (R455). -/
def causeClock : BitVec 4 := 5
def causeVoltage : BitVec 4 := 6
def causeNoDevice : BitVec 4 := 7
def causeEngine : BitVec 4 := 8

/-- The first invalid input of the supply check, in the order of R457. An absent core supply counts as VOLTAGE (log 55). -/
def Eng.badInput (e : Eng) : Option (BitVec 4) :=
  if !clockOk e.pins.engMhz.toNat then some causeClock
  else if !voltOk e.pins.vmonMv.toNat || !e.pins.corePg then some causeVoltage
  else if !e.pins.devNumValid then some causeNoDevice
  else none

/-- READY or FAILED stops ELAPSED_US (R455). -/
def Eng.stopElapsed (e : Eng) (f : Start → Start) : Eng :=
  let us := BitVec.ofNat 32 e.elapsedUs
  { e with svc := { e.svc with start := f { e.svc.start with elapsed := us } } }

/-- The cold start fails (R457). -/
def Eng.startFails (e : Eng) (cause : BitVec 4) : Eng :=
  e.stopElapsed fun s => { s with failed := true, cause := cause }

/-- The context store, which TL9's memory map reserves in one stack (R460). -/
def Eng.storeEntry (e : Eng) : Option MapEntry := e.memMap.find? fun x => match x.kind with | .store _ => true | _ => false

/-- Phase 8 (R456, R460): contexts are as in a zeroed context store; every domain goes to Sleep; the watchdog is armed; self-test counts its intervals
from here. A domain with a floor starts to wake (R342). -/
def Eng.startEngine (e : Eng) : Eng :=
  let e : Eng := { e with
    ctxs := []
    cxs := { e.cxs with storeBase := BitVec.ofNat 36 ((e.storeEntry.map (·.base)).getD 0 / 2 ^ 28), cache := [] }
    flt := { e.flt with wdogEn := true } }
  let e := (regions.foldl (fun e r => e.enter (.region r) .sleep) e).enter .engine .sleep
  let e := e.modPower fun p => { p with
    region := p.region.map fun d => { d with wakeDue := none, wantSince := none, lent := false, quiet := e.now }
    engine := { p.engine with wakeDue := none, wantSince := none, quiet := e.now } }
  regions.foldl Eng.floorRaised ({ e with svc := { e.svc with kick := e.now, bistAt := e.now } } : Eng).engineFloor

/-- Every target's visit of the cold start is complete, and no diagnosis is pending (R456). -/
def Eng.allVisited (e : Eng) : Bool := e.svc.bist.all fun b => !b.2.active && !b.2.diag

/-- The self-test phase ends: every target's visit is complete. -/
def Eng.endSelfTest (e : Eng) : Eng :=
  { e with svc := { e.svc with bist := e.svc.bist.foldl (fun t b => mapSet {} t b.1 { b.2.again with
      active := false, overdue := false, diag := false, invalid := 0, last := e.now }) e.svc.bist } }

/-- READY becomes 1 (R456). -/
def Eng.becomeReady (e : Eng) : Eng := (e.startPhase 9).stopElapsed fun s => { s with ready := true }

/-- A phase's actions are done (R456). The supply check ends once its inputs are valid, 0.1 ms after it began at the earliest;
the self-test is held while ENG_RESET_L is low (R454), and ends with its last visit. -/
def Eng.endPhase (e : Eng) : Eng :=
  let n := e.svc.start.phase
  if n = 5 then
    if e.badInput.isSome then e
    else
      let e := (e.advanceTo (e.svc.start.phaseSince + 100000)).sample
      let e : Eng := { e with svc := { e.svc with pod := { e.svc.pod with device := e.pins.devNum } } }
      (e.startPhase 6).bootTest
  else if n = 6 then (if e.svc.power.dormant || !e.allVisited then e else e.endSelfTest.startPhase 7)
  else if n = 7 then
    (({ e with cst := { e.cst with seeds := (List.range 4).map seedOf } } : Eng).loadSeeds).startPhase 8
  else if n = 4 then ({ e with svc := e.svc.measure } : Eng).startPhase 5
  else if n = 8 then e.startEngine.becomeReady
  else e.startPhase (n + 1)

/-- A target without a region has been found unrepairable in the self-test (R457). -/
def Eng.deadTarget (e : Eng) : Option (BitVec 16) :=
  (e.svc.bist.find? fun b => b.2.fenced && decide (bistRegion (b.1 / 64) (b.1 % 64) = none)).map fun b =>
    let src := bistSource (b.1 / 64) (b.1 % 64)
    sourceOf src.1 src.2 0x07

/-- Whether a phase can fail with a CAUSE (R457). -/
def Eng.mayFail (e : Eng) (cause : BitVec 4) : Bool :=
  let thrice := fun (p : Bist → Bool) => e.svc.bist.any fun b => decide (3 ≤ b.2.invalid) && p b.2
  match e.svc.start.phase.toNat, cause.toNat with
  | 1, 1 | 2, 2 | 3, 3 | 3, 4 => true
  | 6, 5 => thrice (·.badClock)
  | 6, 6 => thrice fun b => b.badVolt && !b.badClock
  | 6, 8 => e.deadTarget.isSome
  | _, _ => false

/-- A phase fails; on an engine-level target the Fatal state is entered, too, and the alert is asserted (R457). -/
def Eng.failPhase (e : Eng) (m : Memory) (cause : BitVec 4) : Eng :=
  let e := e.startFails cause
  if cause = causeEngine && !e.flt.fatal then (e.alertCause).enterFatal m (e.deadTarget.getD 0) else e

/-- What the supply check sees of CORE_PG, DEV_NUM_VALID and DEV_NUM (R446, R456). -/
def Eng.seeInputs (e : Eng) (corePg valid : Bool) (num : DevNum) : Eng :=
  { e with pins := { e.pins with corePg := corePg, devNumValid := valid, devNum := num } }

/-- What the end of a phase does to the engine. -/
def Eng.phaseEnds (e : Eng) (m : Memory) (x : PhaseEnd) : Eng :=
  let st := e.svc.start
  if st.ready || st.failed || decide (st.phase = 0) then e
  else match x with
    | .done => if e.mayFail causeClock || e.mayFail causeVoltage || e.mayFail causeEngine then e else e.endPhase
    | .supply pg valid num => if st.phase = 5 then (e.seeInputs pg valid num).endPhase else e
    | .failed c => if e.mayFail c then e.failPhase m c else e

/-- COLD_START_PHASE_END (R455 to R460). Phase 8 zeroes the context store. -/
def execColdStartPhaseEnd (x : PhaseEnd) (s : State) : Answer :=
  .next (
    if !s.eng.pins.aoResetL then s
    else
      let e := s.eng.phaseEnds s.mem x
      let zeroed := decide (s.eng.svc.start.phase = 8) && decide (e.svc.start.phase = 9)
      match (if zeroed then s.eng.storeEntry else none) with
      | some k => { s with eng := e, mem := s.mem.zero k.base k.size }
      | none => { s with eng := e })

/-- SUPPLY_CHECK_TIMEOUT (R457): 100 ms without valid inputs. -/
def execSupplyCheckTimeout (s : State) : Answer :=
  onEng s fun _ e =>
    let st := e.svc.start
    match e.badInput with
    | none => e
    | some c =>
      if st.phase ≠ 5 || st.failed then e
      else ((e.advanceTo (st.phaseSince + 100000000)).sample).startFails c

/-! ### The operator's seeds (R184) -/

/-- LFSR_SEED_WRITE (R184): a seed of zero is ignored. -/
def execLfsrSeedWrite (r : Region) (w : RegWrite) (s : State) : Answer :=
  onEng s fun m e => e.access m subCst fun e =>
    let seed : BitVec 32 := w.value.extractLsb' 0 32
    if !halfCovers w.half 0 || seed = 0 then e else { e with cst := { e.cst with lfsr := setRow 1 4 e.cst.lfsr r.toNat seed } }

/-! ### Compute dies (R463 to R465) -/

def Eng.modDie (e : Eng) (d : DieNum) (f : DieCfg → DieCfg) : Eng :=
  { e with opi := { e.opi with die := setRow {} 4 e.opi.die d.toNat (f (e.opi.die.getD d.toNat {})) } }

/-- The ports of a mask. -/
def maskPorts (mask : Byte) : List Nat := (List.range 8).filter fun p => mask.getLsbD p

/-- The outcome of a write of ENABLE = 1 (R464): 0 OK, 1 BAD_PORTS, 2 BAD_CTX. -/
def Eng.dieCheck (e : Eng) (d : DieNum) (c : DieCfg) : BitVec 2 :=
  let ps := maskPorts c.portMask
  let taken := regions.any fun x => x ≠ d && (e.dieCfg x).enable && ((e.dieCfg x).portMask &&& c.portMask) ≠ 0
  if !([1, 2, 4, 8].contains ps.length) || taken || ps.any (fun p => e.opi.ports.getD p none ≠ some d) then 1
  else if (e.ctx c.syncCtx).state ≠ .enabled then 2
  else 0

/-- OPI_DIE_CFG written (R463, R464). A write of 1 while ENABLE reads 1 changes nothing (log 56). -/
def Eng.dieCfgWrite (e : Eng) (d : DieNum) (w : RegWrite) : Eng :=
  let c := e.dieCfg d
  let on := wrBit w.half w.value 62 c.enable
  if c.enable then (if on then e else (e.modDie d fun c => { c with disabling := true }).endDisables)
  else
    let c : DieCfg := { c with
      syncCtx := BitVec.ofNat 20 (wrField w.half w.value 51 32 c.syncCtx.toNat)
      portMask := BitVec.ofNat 8 (wrField w.half w.value 7 0 c.portMask.toNat) }
    if on then
      let r := e.dieCheck d c
      e.modDie d fun _ => { c with result := r, enable := decide (r = 0) }
    else e.modDie d fun _ => c

/-- DIE_CFG_WRITE (R464). -/
def execDieCfgWrite (d : DieNum) (w : RegWrite) (s : State) : Answer :=
  onEng s fun m e => e.access m subOpi fun e => e.dieCfgWrite d w

/-- OPI_PORT_UP (R463): the link partner is as the port itself reports. -/
def execOpiPortUp (p : BitVec 3) (d : DieNum) (s : State) : Answer :=
  onEng s fun _ e => { e with opi := { e.opi with ports := setRow none 8 e.opi.ports p.toNat (some d) } }

/-- The elements of a stream that are on their way to a die fail with ACCESS_FAULT (R465). -/
def failToDie (d : DieNum) (els : SMap El) : SMap El :=
  els.map fun x => if x.2.toDie d then (x.1, .failed stAccessFault 0) else x

/-- A masked port of an enabled die has gone down (R465). -/
def Eng.dieLost (e : Eng) (m : Memory) (d : DieNum) : Eff :=
  let hs := (e.jobs.filter fun j => allStreams.any fun st => (j.els st).any fun x => x.2.toDie d).map (·.handle)
  let e := e.modDie d fun c => { c with enable := false, disabling := false }
  let e := hs.foldl (fun e h => e.modJob h fun j => { j with
    idxEl := failToDie d j.idxEl, srcEl := failToDie d j.srcEl, scaleInEl := failToDie d j.scaleInEl
    dstEl := failToDie d j.dstEl, scaleOutEl := failToDie d j.scaleOutEl }) e
  let e := (e.opi.serving.filter fun s => s.a.die = d).foldl (fun e s => e.answerDie s stAccessFault []) e
  let e := (e.npi.serving.filter fun s => s.toDie d).foldl (fun e s => e.answerPeer s stAccessFault [] [] 0 0) e
  let mine := fun (w : Wait) => match w.who with
    | .die x _ => decide (x = d)
    | _ => false
  let e := (e.modSyn fun s => { s with events := s.events.filter fun v => match v.act with
    | .expire w => !mine w
    | _ => true }).endWaits mine none
  hs.foldl (fun x h => x.andThen m fun m e => e.goOn m h) ⟨e, []⟩

/-- DIE_PORT_DOWN (R463, R465). -/
def execDiePortDown (p : BitVec 3) (s : State) : Answer :=
  onMem s fun m e =>
    let e : Eng := { e with opi := { e.opi with ports := setRow none 8 e.opi.ports p.toNat none } }
    ((regions.filter fun d => (e.dieCfg d).enable && (e.dieCfg d).portMask.getLsbD p.toNat).foldl
      (fun (x : Eff) d => x.andThen m fun m e => e.dieLost m d) ⟨e, []⟩).on Eng.noteWork

end Sys2Proof.Machine
end

