-- ==== Sys2Proof/Machine/Fetch.lean ====
section
/-! DEFINITION. Doorbells, the landing buffer, fetch, dispatch and walker grants (01: R22, R25, R33; 02: R48 to R67). -/

namespace Sys2Proof.Machine

/-- SUBMISSION_DOORBELL (R48, R49, R51): a host write to the submission doorbell of a context. -/
def execSubmissionDoorbell (c : CtxNum) (h : DbWrite) (v : Word) (s : State) : Answer :=
  onEng s fun _ e => match doorbellWord h v with
    | some w => e.doorbell c false w
    | none => e.dbIgnored

/-- COMPLETION_DOORBELL (R48, R50, R51). -/
def execCompletionDoorbell (c : CtxNum) (h : DbWrite) (v : Word) (s : State) : Answer :=
  onEng s fun _ e => match doorbellWord h v with
    | some w => e.doorbell c true w
    | none => e.dbIgnored

/-- OPI_DOORBELL_MESSAGE (R51): taken only where the context's DIE_DB is 1, then handled as a host doorbell. A message at OPI
ends Dormant (R346); one from a die that is not enabled is ignored (R464). -/
def execOpiDoorbellMessage (d : DieNum) (c : CtxNum) (completion : Bool) (v : Word) (s : State) : Answer :=
  onEng s fun m e =>
    let e := e.ended m
    if !(e.opi.die.getD d.toNat {}).enable then e
    else if (e.ctx c).dieDb then e.doorbell c completion v else e.dbIgnored

/-- The doorbells of a catcher entry are handled by the context's state now (R51). -/
def Eng.takeCaught (e : Eng) (k : Caught) : Eng :=
  let e := match k.sq with | some v => e.ringSq k.ctx v | none => e
  match k.cq with | some v => e.ringCq k.ctx v | none => e

/-- TAKE_RECORDED_DOORBELL (R51): with the engine domain running, RFE takes the recorded doorbells of a context, or the
first withheld one. -/
def execTakeRecordedDoorbell (c : CtxNum) (s : State) : Answer :=
  onEng s fun _ e =>
    if !e.accepts then e
    else match e.rfe.caught.find? (·.ctx = c) with
      | some k => (({ e with rfe := { e.rfe with caught := e.rfe.caught.filter (·.ctx ≠ c) } }).takeCaught k).noteWorkOf .engine
      | none => match e.rfe.withheld.find? (·.1 = c) with
        | some w => ({ e with rfe := { e.rfe with withheld := e.rfe.withheld.erase w } }).doorbell c w.2.1 w.2.2
        | none => e

/-- The submission ring of a cached context holds this line (R25). -/
def Eng.lineOfRing (e : Eng) (a : Nat) : Bool :=
  e.cxs.cache.any fun c =>
    let x := e.ctx c
    !x.sqInHost && decide (x.sqBase.toNat * 4096 ≤ a) && decide (a < x.sqBase.toNat * 4096 + 128 * 2 ^ x.sqLog2.toNat)

/-- One 128-byte line captured, or refreshed; the least recently used of 16,384 gives way (R25). -/
def Eng.capture (e : Eng) (line : Nat) (bs : List Byte) : Eng :=
  let kept := e.rfe.landing.filter (·.1 ≠ line)
  let kept := if 16384 ≤ kept.length then kept.drop 1 else kept
  { e with rfe := { e.rfe with landing := kept ++ [(line, bs)] } }

/-- LANDING_CAPTURE (R25, R472): a host-port write to stack memory. The bytes reach the stack in the clear; lines of a cached
context's submission ring are captured on their way, and any other captured line that they touch is given up. DESIGN CHOICE (log 100): such a write comes by no Drover, and enters no recent-write
tag file. -/
def execLandingCapture (a : Nat) (bs : List Byte) (s : State) : Answer :=
  onMem s fun m e =>
    let o : MemOp := ⟨a, .clear, bs⟩
    let m' := applyOps m [o]
    let lines := (List.range ((a % 128 + bs.length + 127) / 128)).map (a / 128 + ·)
    { eng := lines.foldl (fun e l =>
        if bs = [] then e
        else if e.lineOfRing (l * 128) then e.capture l (m'.bytes .clear (l * 128) 128) else e.dropLines (l * 128) 128) e
      ops := [o] }

/-- DESCRIPTOR_FETCH (R63, R324 to R326): the fetch arbiter grants one context, and RFE makes its fetch step. `reply` is what
the host port or the memory controller answers. -/
def execDescriptorFetch (reply : FetchReply) (s : State) : Answer :=
  onMem s fun m e =>
    if !e.accepts then ⟨e, []⟩
    else
      let (c, a) := e.rfe.arb.serve e.fetchers
      match c with
      | none => ⟨e, []⟩
      | some c =>
        ({ e with rfe := { e.rfe with
          arb := a, starvedCtx := e.rfe.starvedCtx.filter (·.1 ≠ c), waited := mapSet 0 e.rfe.waited c.toNat 0 } }).fetchOne m c reply false

/-- TIMED_REFETCH (R63, R66): the refetch that falls due. While fetching is stopped it is not made, and the interval is
suspended. -/
def execTimedRefetch (c : CtxNum) (reply : FetchReply) (s : State) : Answer :=
  onMem s fun m e =>
    match (e.ctx c).refetch with
    | none => ⟨e, []⟩
    | some r =>
      if !e.accepts || (e.ctx c).state ≠ .enabled || r.stallAt.isSome || r.suspended || r.urgent then ⟨e, []⟩
      else
        let e := e.advanceTo r.due
        if e.fetchStopped c then ⟨e.modCtx c fun x => { x with refetch := some { r with suspended := true } }, []⟩
        else e.fetchOne m c reply true

/-- RING_STALL (R64, R65): the budget is spent and no doorbell came first. -/
def execRingStall (c : CtxNum) (s : State) : Answer :=
  onEng s fun _ e =>
    match (e.ctx c).refetch with
    | some r => if (e.ctx c).state = .enabled && r.stallAt.isSome then e.ringStallNow c else e
    | none => e

/-- FETCH_RESUME (R66): the condition that stopped fetching has cleared; a ring that was waiting on a mismatched descriptor
refetches it at once without using budget. -/
def execFetchResume (c : CtxNum) (reply : FetchReply) (s : State) : Answer :=
  onMem s fun m e =>
    match (e.ctx c).refetch with
    | some r =>
      if e.accepts && decide ((e.ctx c).state = .enabled) && r.suspended && !e.fetchStopped c then
        e.fetchOne m c reply false
      else ⟨e, []⟩
    | none => ⟨e, []⟩

/-- DISPATCH (R22, R27, R34, R59): a descriptor that may begin goes to its lead region's walker queue, or straight to its
unit where it takes no walker; one that a lost unit has sent back goes to the same region again (R414). One with a reserved opcode has no unit, and completes with BAD_DESCRIPTOR (R53, R74). -/
def execDispatch (h : Word) (bad : ProbeBad) (s : State) : Answer :=
  onEng s fun m e =>
    match e.job h with
    | none => e
    | some j =>
      if !e.accepts || j.stage ≠ .fetched || !e.mayBegin j || e.halted then e
      else if j.usesWalker then
        if e.testing 5 (homeRegion j.ctx).toNat then e
        else
        let (r, e) := if j.stay && !e.regionFenced j.lead then (j.lead, e) else e.leadRegion m j bad
        (e.modJob h fun j => { j with stage := .queued, lead := r, queueStamp := e.now }).wakeRegion r
      else if knownOpcode j.opcode then
        let r := e.homeOf j.ctx
        (e.modJob h fun j => { j with stage := .running, lead := r }).wakeRegion r
      else e.finish h stBadDescriptor (badDetail (0, 2))

/-- A descriptor receives a walker, its layout units and its compressor (R33, R136, R218); its view records are read, unless
its slot kept the copies it checked (R82, R334). -/
def Eng.grant (e : Eng) (m : Memory) (r : Region) (j : Job) (w : BitVec 5) (bad : List (BitVec 24)) : Eng :=
  let units := if j.tile then min j.lay.units (e.freeUnits r) else 0
  let (vs, e) := if j.viewWords = [] then e.readViews m r j w bad j.slotWords else (j.viewWords, e)
  e.modJob j.handle fun j => { j with
    stage := .running, walker := some w, units := units, viewWords := vs, grantStamp := e.now, quantumAt := e.now, waited := 0
    starved := none, yieldTo := none, yieldAt := none, slot := false, lastBound := j.emitted, nextBound := j.emitted
    asked := j.emitted }

/-- WALKER_GRANT (R33, R324 to R326, R334): the region arbiter gives a free walker to a queued descriptor. `bad` lists the
view records whose table read the memory controller reports uncorrectable. A starved waiter that could not ask before asks now (R332). -/
def execWalkerGrant (r : Region) (bad : List (BitVec 24)) (s : State) : Answer :=
  onEng s fun m e =>
    if !e.active (.region r) || e.regionFenced r || e.halted || e.testing 6 r.toNat then e
    else match e.freeWalker r with
      | none => e
      | some w => match e.drawWalker r with
        | (none, e) => e.askStarved r
        | (some j, e) => (e.grant m r j w bad).askStarved r

end Sys2Proof.Machine
end

