-- ==== Sys2Proof/Machine/Registers.lean ====
section
/-! DEFINITION. REGISTER_WRITE: the fields that have no row of their own (01: R5 to R8; 14: R466 to R468, and the chapters that R468 names).
A write of a register whose action has a row is that row's command. -/

namespace Sys2Proof.Machine

/-! ### Fields -/

/-- A field of width `n` with its lowest bit at `lo` after a write (R7). -/
def wr {n : Nat} (w : RegWrite) (lo : Nat) (old : BitVec n) : BitVec n :=
  BitVec.ofNat n (wrField w.half w.value (lo + n - 1) lo old.toNat)

/-- A 1-bit field after a write. -/
def wr1 (w : RegWrite) (i : Nat) (old : Bool) : Bool := wrBit w.half w.value i old

/-- The bits that a write sets to 1 in a W1C field with its lowest bit at `lo`. -/
def w1 (w : RegWrite) (n lo : Nat) : BitVec n := wr w lo 0

/-! ### CXS (R40 to R43) -/

/-- A write to the context window: some fields only while the context is DISABLED (R43). -/
def Ctx.regWrite (x : Ctx) (off : Nat) (w : RegWrite) : Ctx :=
  let off_ := decide (x.state = .disabled)
  match off with
  | 0x00 => { x with
      paddock := if off_ then wr w 40 x.paddock else x.paddock
      operator := if off_ then wr1 w 5 x.operator else x.operator
      tickets := wr w 8 x.tickets
      dieDb := wr1 w 4 x.dieDb }
  | 0x08 => if off_ then { x with sqBase := wr w 12 x.sqBase, sqInHost := wr1 w 0 x.sqInHost } else x
  | 0x18 => { x with
      retryBudget := wr w 48 x.retryBudget
      sqLog2 := if off_ then wr w 40 x.sqLog2 else x.sqLog2
      cqLog2 := if off_ then wr w 32 x.cqLog2 else x.cqLog2
      notify := wr1 w 16 x.notify
      vector := wr w 0 x.vector }
  | 0x20 => if off_ then { x with cqBase := wr w 12 x.cqBase, cqInHost := wr1 w 0 x.cqInHost } else x
  | 0x30 => if off_ then { x with spoolBase := wr w 19 x.spoolBase } else x
  | _ => x

/-- CXS_CTX_SEL is ignored while a command is in progress (R41). -/
def Eng.cxsWrite (e : Eng) (off : Nat) (w : RegWrite) : Eng :=
  if off = 0 then (if e.cxs.busy = .idle then { e with cxs := { e.cxs with sel := wr w 0 e.cxs.sel } } else e)
  else if 0x100 ≤ off && off < 0x160 then e.modCtx e.cxs.sel fun x => x.regWrite (off - 0x100) w
  else e

/-! ### JRN, WLK, ATG -/

/-- JRN_BASE is written only while DETACHED (R390). -/
def Eng.jrnWrite (e : Eng) (off : Nat) (w : RegWrite) : Eng :=
  if off = 0 && decide (e.jrn.state = .detached) then
    e.modJrn fun j => { j with base := wr w 12 j.base, sizeLog2 := wr w 0 j.sizeLog2 }
  else e

/-- WLK_VC_INV without an OP (R84). -/
def Eng.wlkWrite (e : Eng) (off : Nat) (w : RegWrite) : Eng :=
  if off = 0 then
    { e with wlk := { e.wlk with inv := { e.wlk.inv with paddock := wr w 36 e.wlk.inv.paddock, view := wr w 0 e.wlk.inv.view } } }
  else e

/-- A write to the paddock window (R81, R108, R290, R292, R313). -/
def Paddock.regWrite (p : Paddock) (off : Nat) (w : RegWrite) : Paddock :=
  let keyed := !p.enable && decide (p.wkeyState = .empty)
  match off with
  | 0x00 => { p with vtBase := wr w 12 p.vtBase, vtLog2 := wr w 0 p.vtLog2 }
  | 0x08 => { p with ptRoot := wr w 12 p.ptRoot, l1Log2 := wr w 0 p.l1Log2 }
  | 0x10 => { p with enable := if p.scrubbing then p.enable else wr1 w 63 p.enable, dieMask := wr w 32 p.dieMask }
  | 0x18 => { p with reachBase := wr w 9 p.reachBase }
  | 0x38 => if keyed then { p with slot := wr w 8 p.slot, policy := wr w 0 p.policy } else p
  | 0x40 => if keyed then { p with wwinBase := wr w 21 p.wwinBase } else p
  | 0x48 => if keyed then { p with wwinLimit := wr w 21 p.wwinLimit } else p
  | 0x50 => { p with blobAddr := wr w 6 p.blobAddr, blobHost := wr1 w 0 p.blobHost }
  | _ => p

/-- The page of ATG: ATG_PDK_SEL is ignored while a command runs (R80, R113, R299). -/
def Eng.atgWrite (e : Eng) (off : Nat) (w : RegWrite) : Eng :=
  let a := e.atg
  if off = 0 then (if a.cmdBusy = .idle then { e with atg := { a with sel := wr w 0 a.sel } } else e)
  else if off = 0x08 then { e with atg := { a with invVa := wr w 16 a.invVa } }
  else if off = 0x10 then { e with atg := { a with invLog2 := wr w 48 a.invLog2, invPaddock := wr w 36 a.invPaddock } }
  else if off = 0x128 then { e with atg := { a with cmdArg := wr w 8 a.cmdArg } }
  else if 0x100 ≤ off && off ≤ 0x150 then e.modPdk a.sel fun p => p.regWrite (off - 0x100) w
  else e

/-! ### NPI and SYN -/

def Eng.npiWrite (e : Eng) (off : Nat) (w : RegWrite) : Eng :=
  if off = 0 then { e with npi := { e.npi with sel := wr w 0 e.npi.sel } } else e

/-- SYN_FOLD_LINK is written only while the fold's ENABLE is 0 (R250, R262, R264, R266). -/
def Eng.synWrite (e : Eng) (off : Nat) (w : RegWrite) : Eng :=
  let g := e.syn.foldSel
  if off = 0x00 then e.modSyn fun s => { s with flagSel := wr w 0 s.flagSel }
  else if off = 0x18 then e.modSyn fun s => { s with foldSel := wr w 0 s.foldSel }
  else if off = 0x28 then
    let x := e.fold g
    if x.enable then e else e.setFold g { x with parentDev := wr w 28 x.parentDev, parentFold := wr w 0 x.parentFold }
  else e

/-! ### SVC -/

def Eng.modSvc (e : Eng) (f : Svc → Svc) : Eng := { e with svc := f e.svc }

/-- SVC_ARB_CFG (R338). -/
def ArbCfg.regWrite (c : ArbCfg) (w : RegWrite) : ArbCfg :=
  { remote := wr w 48 c.remote, svc := wr w 40 c.svc, cutoff := wr w 32 c.cutoff, starve := wr w 12 c.starve, quantum := wr w 0 c.quantum }

/-- SVC_POD_AREA (R428): BASE is ignored while ROLE is BELLWETHER. -/
def Eng.podAreaWrite (e : Eng) (w : RegWrite) : Eng :=
  let b := e.bellwether
  e.modPod fun p => { p with
    areaBase := if b then p.areaBase else wr w 20 p.areaBase, reqCount := wr w 0 p.reqCount }

/-- The page of SVC (R310, R330, R338, R346, R378, R383, R403, R426, R428). -/
def Eng.svcWrite (e : Eng) (m : Memory) (off : Nat) (w : RegWrite) : Eng :=
  match off with
  | 0x10 => e.engResetWrite m w
  | 0x18 => if e.svc.sweeps.isEmpty then e.modSvc fun v => { v with scratch := wr w 19 v.scratch } else e
  | 0x20 => e.modSvc fun v => { v with arbCut := v.arbCut &&& ~~~(w1 w 4 8), arbStarved := v.arbStarved &&& ~~~(w1 w 4 0) }
  | 0x28 => e.modSvc fun v => { v with arbEn := wr1 w 16 v.arbEn, arbVector := wr w 0 v.arbVector }
  | 0x90 => if e.svc.power.dormantEn then e else e.modPower fun p => { p with saveBase := wr w 23 p.saveBase }
  | 0xA0 => e.modSvc fun v => { v with
      bistEn := wr1 w 63 v.bistEn, bistMask := wr w 40 v.bistMask, bistTickets := wr w 32 v.bistTickets
      bistVisit := wr w 16 v.bistVisit, bistInterval := wr w 0 v.bistInterval }
  | 0xA8 => e.modSvc fun v => { v with fuseSel := wr w 0 v.fuseSel }
  | 0xC8 => e.modPod fun p => { p with
      rival := p.rival && !(w1 w 1 60).getLsbD 0, changed := p.changed && !(w1 w 1 59).getLsbD 0 }
  | 0xD8 => e.podAreaWrite w
  | o => if 0x40 ≤ o && o < 0x60 then e.modSvc fun v => { v with arb := setRow {} 4 v.arb ((o - 0x40) / 8) ((v.arb.getD ((o - 0x40) / 8) {}).regWrite w) } else e

/-! ### FLT -/

/-- The page of FLT (R360, R367, R370, R373, R375): PERIOD_MS is written only in START and TEST. -/
def Eng.fltWrite (e : Eng) (off : Nat) (w : RegWrite) : Eng :=
  match off with
  | 0x10 => e.alertCtlWrite w
  | 0x18 => if e.flt.mode = 0 || e.flt.mode = 2 then e.modFlt fun t => { t with wdogPeriod := wr w 0 t.wdogPeriod } else e
  | 0x20 => e.injectWrite w
  | 0x50 => if w1 w 32 32 ≠ 0 then e.modFlt fun t => { t with lost := 0 } else e
  | o => if 0x100 ≤ o && o < 0x1E0 then e.modFlt fun t => { t with severity := t.severity.modify ((o - 0x100) / 8) fun v => wr w 0 v } else e

/-! ### The row -/

/-- A write of a register without a row of its own, by page (R466 to R468). The tally pages and the pages of RFE, LAY, DRV and CDC
hold nothing that can be written. -/
def Eng.plainWrite (e : Eng) (m : Memory) (sub : BitVec 4) (off : Nat) (w : RegWrite) : Eng :=
  if sub = subCxs then e.cxsWrite off w
  else if sub = subJrn then e.jrnWrite off w
  else if sub = subWlk then e.wlkWrite off w
  else if sub = subAtg then e.atgWrite off w
  else if sub = subNpi then e.npiWrite off w
  else if sub = subSyn then e.synWrite off w
  else if sub = subSvc then e.svcWrite m off w
  else if sub = subFlt then e.fltWrite off w
  else e

/-- The row that a write of a register is, if its register or the value of its OP has one. -/
def rowOf (reg : Nat) (w : RegWrite) : Option (State → Answer) :=
  let low := fun (n : Nat) => if halfCovers w.half 0 then fld w.value (n - 1) 0 else 0
  let op57 := if halfCovers w.half 56 then fld w.value 57 56 else 0
  match reg with
  | 0x10008 => match low 4 with
    | 1 => some execEnable | 2 => some execDisable | 3 => some execReset | 4 => some execPark | 5 => some execResume
    | _ => none
  | 0x20008 => match low 4 with
    | 1 => some execFresh | 2 => some execAdopt | 3 => some execReattach
    | _ => none
  | 0x30000 => match op57 with
    | 1 => some (execVcInvOne w) | 2 => some (execVcInvPaddock w) | 3 => some (execVcInvEvery w)
    | _ => none
  | 0x40010 => match op57 with
    | 1 => some (execTlbInvRange w) | 2 => some (execTlbInvPaddock w) | 3 => some (execTlbInvEvery w)
    | _ => none
  | 0x40128 => match low 4 with
    | 1 => some (execRotate w) | 2 => some (execRetire w) | 3 => some (execReachInv w)
    | 4 => some (execWkeyLoad w) | 5 => some (execWkeyErase w)
    | _ => none
  | 0xB0008 => some (execFlagCfgWrite w)
  | 0xB0020 => some (execFoldCfgWrite w)
  | 0xC0080 => some (execPwrEngWrite w)
  | 0xC0098 => some (execCapWrite w)
  | 0xC00B8 => some (execFuseCmd w)
  | 0xC00C0 => some (execPodCtlWrite w)
  | 0xC00D0 => some (execPodEpochWrite w)
  | 0xD0000 => some (execFltModeWrite w)
  | 0xD0048 => if low 1 = 1 then some (execHistPop w) else none
  | r =>
    if 0x60000 ≤ r && r < 0x60040 && r % 0x10 = 0 then some (execLfsrSeedWrite (BitVec.ofNat 2 ((r - 0x60000) / 0x10)) w)
    else if 0xA0000 ≤ r && r < 0xA0020 then some (execDieCfgWrite (BitVec.ofNat 2 ((r - 0xA0000) / 8)) w)
    else if 0xC0060 ≤ r && r < 0xC0080 then some (execPwrCtlWrite (BitVec.ofNat 2 ((r - 0xC0060) / 8)) w)
    else none

/-- REGISTER_WRITE (R7, R466 to R468). An access of another size or alignment has no effect; a 32-bit access carries its 32 bits
in `value`'s low half. -/
def execRegisterWrite (off : BitVec 21) (size : AccSize) (value : Word) (s : State) : Answer :=
  match accessHalf off size with
  | none => onEng s fun _ e => e
  | some (reg, half) =>
    let w : RegWrite := ⟨half, if half = .high then value <<< 32 else value⟩
    match rowOf reg.toNat w with
    | some row => row s
    | none => onEng s fun m e => e.access m (pageOf reg) fun e =>
        if reg.getLsbD 20 then e else e.plainWrite m (pageOf reg) (reg.toNat % 0x10000) w

end Sys2Proof.Machine
end

