-- ==== Sys2Proof/Machine/Dispatch.lean ====
section
/-! DEFINITION. Which meaning each command has: one arm per constructor of `Instr`, in the table's order. -/

namespace Sys2Proof.Machine

/-- The effect of a command on everything but the queue. -/
def exec (i : Instr) (s : State) : Host.Outcome State Fault Refusal :=
  match i with
  | .submissionDoorbell ctx half value => Sys2Proof.Machine.execSubmissionDoorbell ctx half value s
  | .completionDoorbell ctx half value => Sys2Proof.Machine.execCompletionDoorbell ctx half value s
  | .opiDoorbellMessage die ctx completion value => Sys2Proof.Machine.execOpiDoorbellMessage die ctx completion value s
  | .takeRecordedDoorbell ctx => Sys2Proof.Machine.execTakeRecordedDoorbell ctx s
  | .landingCapture addr bytes => Sys2Proof.Machine.execLandingCapture addr bytes s
  | .descriptorFetch reply => Sys2Proof.Machine.execDescriptorFetch reply s
  | .timedRefetch ctx reply => Sys2Proof.Machine.execTimedRefetch ctx reply s
  | .ringStall ctx => Sys2Proof.Machine.execRingStall ctx s
  | .fetchResume ctx reply => Sys2Proof.Machine.execFetchResume ctx reply s
  | .dispatch h bad => Sys2Proof.Machine.execDispatch h bad s
  | .walkerGrant r bad => Sys2Proof.Machine.execWalkerGrant r bad s
  | .nop h => Sys2Proof.Machine.execNop h s
  | .copy h n => Sys2Proof.Machine.execCopy h n s
  | .transform h n => Sys2Proof.Machine.execTransform h n s
  | .gather h n => Sys2Proof.Machine.execGather h n s
  | .scatter h n => Sys2Proof.Machine.execScatter h n s
  | .scatterAcc h n => Sys2Proof.Machine.execScatterAcc h n s
  | .reduce h n => Sys2Proof.Machine.execReduce h n s
  | .putInline h n => Sys2Proof.Machine.execPutInline h n s
  | .compress h n => Sys2Proof.Machine.execCompress h n s
  | .compressPassEnd h choice => Sys2Proof.Machine.execCompressPassEnd h choice s
  | .expand h n => Sys2Proof.Machine.execExpand h n s
  | .expandBlockArrival h block => Sys2Proof.Machine.execExpandBlockArrival h block s
  | .flagSet h => Sys2Proof.Machine.execFlagSet h s
  | .flagClear h => Sys2Proof.Machine.execFlagClear h s
  | .flagWait h => Sys2Proof.Machine.execFlagWait h s
  | .foldArrive h => Sys2Proof.Machine.execFoldArrive h s
  | .fence h => Sys2Proof.Machine.execFence h s
  | .invalidate h => Sys2Proof.Machine.execInvalidate h s
  | .rekeySweep h => Sys2Proof.Machine.execRekeySweep h s
  | .scrub h => Sys2Proof.Machine.execScrub h s
  | .query h => Sys2Proof.Machine.execQuery h s
  | .fenceDone h => Sys2Proof.Machine.execFenceDone h s
  | .pageWalkDone slice paddock va bad => Sys2Proof.Machine.execPageWalkDone slice paddock va bad s
  | .readReturn t reply => Sys2Proof.Machine.execReadReturn t reply s
  | .writeAck t reply => Sys2Proof.Machine.execWriteAck t reply s
  | .appliedTimer h => Sys2Proof.Machine.execAppliedTimer h s
  | .postCompletion ctx => Sys2Proof.Machine.execPostCompletion ctx s
  | .spoolDrain ctx => Sys2Proof.Machine.execSpoolDrain ctx s
  | .contextClosed ctx => Sys2Proof.Machine.execContextClosed ctx s
  | .journalFlushReturn ok => Sys2Proof.Machine.execJournalFlushReturn ok s
  | .enable => Sys2Proof.Machine.execEnable s
  | .disable => Sys2Proof.Machine.execDisable s
  | .reset => Sys2Proof.Machine.execReset s
  | .park => Sys2Proof.Machine.execPark s
  | .resume => Sys2Proof.Machine.execResume s
  | .registerWrite off size value => Sys2Proof.Machine.execRegisterWrite off size value s
  | .vcInvOne w => Sys2Proof.Machine.execVcInvOne w s
  | .vcInvPaddock w => Sys2Proof.Machine.execVcInvPaddock w s
  | .vcInvEvery w => Sys2Proof.Machine.execVcInvEvery w s
  | .vcInvDone => Sys2Proof.Machine.execVcInvDone s
  | .tlbInvRange w => Sys2Proof.Machine.execTlbInvRange w s
  | .tlbInvPaddock w => Sys2Proof.Machine.execTlbInvPaddock w s
  | .tlbInvEvery w => Sys2Proof.Machine.execTlbInvEvery w s
  | .tlbInvDone => Sys2Proof.Machine.execTlbInvDone s
  | .rotate w => Sys2Proof.Machine.execRotate w s
  | .retire w => Sys2Proof.Machine.execRetire w s
  | .censusDone bad => Sys2Proof.Machine.execCensusDone bad s
  | .reachInv w => Sys2Proof.Machine.execReachInv w s
  | .wkeyLoad w => Sys2Proof.Machine.execWkeyLoad w s
  | .wkeyErase w => Sys2Proof.Machine.execWkeyErase w s
  | .pdkCmdDone => Sys2Proof.Machine.execPdkCmdDone s
  | .lfsrSeedWrite r w => Sys2Proof.Machine.execLfsrSeedWrite r w s
  | .flagCfgWrite w => Sys2Proof.Machine.execFlagCfgWrite w s
  | .foldCfgWrite w => Sys2Proof.Machine.execFoldCfgWrite w s
  | .fresh => Sys2Proof.Machine.execFresh s
  | .adopt => Sys2Proof.Machine.execAdopt s
  | .reattach => Sys2Proof.Machine.execReattach s
  | .engResetReq w => Sys2Proof.Machine.execEngResetReq w s
  | .fltModeWrite w => Sys2Proof.Machine.execFltModeWrite w s
  | .histPop w => Sys2Proof.Machine.execHistPop w s
  | .alertForce w => Sys2Proof.Machine.execAlertForce w s
  | .pendingClear w => Sys2Proof.Machine.execPendingClear w s
  | .fltInjectArm w => Sys2Proof.Machine.execFltInjectArm w s
  | .fuseCmd w => Sys2Proof.Machine.execFuseCmd w s
  | .fuseDone => Sys2Proof.Machine.execFuseDone s
  | .podCtlWrite w => Sys2Proof.Machine.execPodCtlWrite w s
  | .reverify w => Sys2Proof.Machine.execReverify w s
  | .podEpochWrite w => Sys2Proof.Machine.execPodEpochWrite w s
  | .pwrCtlWrite r w => Sys2Proof.Machine.execPwrCtlWrite r w s
  | .pwrEngWrite w => Sys2Proof.Machine.execPwrEngWrite w s
  | .capWrite w => Sys2Proof.Machine.execCapWrite w s
  | .dieCfgWrite d w => Sys2Proof.Machine.execDieCfgWrite d w s
  | .peerPut q bytes scatter => Sys2Proof.Machine.execPeerPut q bytes scatter s
  | .peerGet q => Sys2Proof.Machine.execPeerGet q s
  | .peerAccumulate q op dtype bytes fill poisoned => Sys2Proof.Machine.execPeerAccumulate q op dtype bytes fill poisoned s
  | .peerFlagSet m flag => Sys2Proof.Machine.execPeerFlagSet m flag s
  | .peerFlagClear m flag => Sys2Proof.Machine.execPeerFlagClear m flag s
  | .peerWait m flag waitFor timeout => Sys2Proof.Machine.execPeerWait m flag waitFor timeout s
  | .peerFoldArrival m fold count => Sys2Proof.Machine.execPeerFoldArrival m fold count s
  | .forwardedArrival m fold child => Sys2Proof.Machine.execForwardedArrival m fold child s
  | .foldRelease dev fold scope stamp => Sys2Proof.Machine.execFoldRelease dev fold scope stamp s
  | .waitWithdrawal dev ctx id => Sys2Proof.Machine.execWaitWithdrawal dev ctx id s
  | .peerResetNotice dev => Sys2Proof.Machine.execPeerResetNotice dev s
  | .peerRefusalResend id => Sys2Proof.Machine.execPeerRefusalResend id s
  | .remoteWaitRetry h => Sys2Proof.Machine.execRemoteWaitRetry h s
  | .releasePassToSyn dev ctx => Sys2Proof.Machine.execReleasePassToSyn dev ctx s
  | .waitRecordObtained id => Sys2Proof.Machine.execWaitRecordObtained id s
  | .waitDeadline id => Sys2Proof.Machine.execWaitDeadline id s
  | .longWait id => Sys2Proof.Machine.execLongWait id s
  | .dieSet d flag => Sys2Proof.Machine.execDieSet d flag s
  | .dieClear d flag => Sys2Proof.Machine.execDieClear d flag s
  | .dieWait d flag waitFor timeout token => Sys2Proof.Machine.execDieWait d flag waitFor timeout token s
  | .dieAccess a => Sys2Proof.Machine.execDieAccess a s
  | .invalidateAck h d => Sys2Proof.Machine.execInvalidateAck h d s
  | .diePortDown p => Sys2Proof.Machine.execDiePortDown p s
  | .quantumExpiry x => Sys2Proof.Machine.execQuantumExpiry x s
  | .starvation x => Sys2Proof.Machine.execStarvation x s
  | .preemptSave h => Sys2Proof.Machine.execPreemptSave h s
  | .cutoff h => Sys2Proof.Machine.execCutoff h s
  | .activeToIdle d => Sys2Proof.Machine.execActiveToIdle d s
  | .idleToSleep d => Sys2Proof.Machine.execIdleToSleep d s
  | .wakeComplete d => Sys2Proof.Machine.execWakeComplete d s
  | .rotation => Sys2Proof.Machine.execRotation s
  | .ppmGrantStb grant => Sys2Proof.Machine.execPpmGrantStb grant s
  | .ppmReturn => Sys2Proof.Machine.execPpmReturn s
  | .dormantEntry => Sys2Proof.Machine.execDormantEntry s
  | .dormantExit t => Sys2Proof.Machine.execDormantExit t s
  | .dormantExitDone => Sys2Proof.Machine.execDormantExitDone s
  | .historyEntry => Sys2Proof.Machine.execHistoryEntry s
  | .faultEvent a => Sys2Proof.Machine.execFaultEvent a s
  | .alertPulseEnd => Sys2Proof.Machine.execAlertPulseEnd s
  | .alertHighEnd => Sys2Proof.Machine.execAlertHighEnd s
  | .watchdogExpiry => Sys2Proof.Machine.execWatchdogExpiry s
  | .svcRestartDone => Sys2Proof.Machine.execSvcRestartDone s
  | .stackLost n => Sys2Proof.Machine.execStackLost n s
  | .networkPortLost p => Sys2Proof.Machine.execNetworkPortLost p s
  | .bistSliceStart => Sys2Proof.Machine.execBistSliceStart s
  | .bistSegmentEnd t e => Sys2Proof.Machine.execBistSegmentEnd t e s
  | .bistOverdue t => Sys2Proof.Machine.execBistOverdue t s
  | .clockSample mhz mv => Sys2Proof.Machine.execClockSample mhz mv s
  | .sweepGranuleAdvance slot bad => Sys2Proof.Machine.execSweepGranuleAdvance slot bad s
  | .lockReadTimeout t => Sys2Proof.Machine.execLockReadTimeout t s
  | .engResetLFall => Sys2Proof.Machine.execEngResetLFall s
  | .engResetLRise => Sys2Proof.Machine.execEngResetLRise s
  | .settleDone settled => Sys2Proof.Machine.execSettleDone settled s
  | .resetPhaseEnd host => Sys2Proof.Machine.execResetPhaseEnd host s
  | .replayEnd => Sys2Proof.Machine.execReplayEnd s
  | .aoResetLFall => Sys2Proof.Machine.execAoResetLFall s
  | .aoResetLRise => Sys2Proof.Machine.execAoResetLRise s
  | .coldStartPhaseEnd e => Sys2Proof.Machine.execColdStartPhaseEnd e s
  | .supplyCheckTimeout => Sys2Proof.Machine.execSupplyCheckTimeout s
  | .corePgFall => Sys2Proof.Machine.execCorePgFall s
  | .hostLinkChange up => Sys2Proof.Machine.execHostLinkChange up s
  | .hostResetInd => Sys2Proof.Machine.execHostResetInd s
  | .spdmRequest src k => Sys2Proof.Machine.execSpdmRequest src k s
  | .beaconSend => Sys2Proof.Machine.execBeaconSend s
  | .beaconReceive b => Sys2Proof.Machine.execBeaconReceive b s
  | .syncReq m => Sys2Proof.Machine.execSyncReq m s
  | .syncRsp m => Sys2Proof.Machine.execSyncRsp m s
  | .joinSend => Sys2Proof.Machine.execJoinSend s
  | .join m => Sys2Proof.Machine.execJoin m s
  | .verdict dev v => Sys2Proof.Machine.execVerdict dev v s
  | .bellwetherStale => Sys2Proof.Machine.execBellwetherStale s
  | .workerSilent dev => Sys2Proof.Machine.execWorkerSilent dev s
  | .routeLost dev => Sys2Proof.Machine.execRouteLost dev s
  | .remoteWaitResult dev ctx id status detail => Sys2Proof.Machine.execRemoteWaitResult dev ctx id status detail s
  | .opiPortUp p d => Sys2Proof.Machine.execOpiPortUp p d s
  | .adoptDone host => Sys2Proof.Machine.execAdoptDone host s
  | .wkeyLoadDone a => Sys2Proof.Machine.execWkeyLoadDone a s
  | .timeCorrectionDone => Sys2Proof.Machine.execTimeCorrectionDone s

end Sys2Proof.Machine
end

