-- ==== Sys2Proof/Machine/Idle.lean ====
section
/-! DEFINITION. What passes when no command waits: one cycle of the AO clock (R10, log 2). -/

namespace Sys2Proof.Machine

/-- One AO cycle passes: the time base advances (R10, R435), and SVC is free of the SPDM requesters it has served (log 54). -/
def idle (s : State) : Answer :=
  onEng s fun _ e => ({ e with svc := { e.svc with spdm := [] } } : Eng).elapse 1

end Sys2Proof.Machine
end

