-- ==== Sys2Proof/Safety.lean ====
section
/-! DEFINITION. What counts as a sound state and a safe step, in the terms the claims use. -/

namespace Sys2Proof.Machine

/-- AO_RESET_L is high: Vrelop acts on commands (R452). -/
abbrev State.Live (s : State) : Prop := s.eng.pins.aoResetL = true

/-- The step answers a next state. -/
def Goes (s : State) : Prop := ∃ t, step s = .next t

/-- Every register page answers, and no access waits for an exit from Dormant (R346, R467). -/
abbrev State.Answers (s : State) : Prop :=
  s.Live ∧ s.eng.svc.start.ready = true ∧ s.eng.svc.start.failed = false ∧ s.eng.svc.power.dormant = false

/-- `e` with the power bookkeeping of `e'`, which a meaning that ends by noting a domain's work may have changed (R342). -/
def Eng.withPower (e e' : Eng) : Eng := { e with svc := { e.svc with power := e'.svc.power } }

/-- The jobs of `e'` are those of `e`, but for what the running of the clock counts on them (R329). -/
def Eng.sameJobs (e e' : Eng) : Prop :=
  e'.jobs.map (fun j => { j with waited := 0 }) = e.jobs.map (fun j => { j with waited := 0 })

/-- The contexts of `e'` are those of `e`, but for the refetches that the running of the clock suspends (R66). -/
def Eng.sameCtxs (e e' : Eng) : Prop := ∀ c,
  { e'.ctx c with refetch := (e'.ctx c).refetch.map fun (r : Refetch) => { r with suspended := false } } =
    { e.ctx c with refetch := (e.ctx c).refetch.map fun (r : Refetch) => { r with suspended := false } }

/-- The stacks' memory has its canonical form. -/
def MemInv (s : State) : Prop := s.mem.wf

/-- The engine's tables have their canonical form: contexts, paddocks, flags, folds, tallies, the vector of peers and the
self-test targets. -/
def TabInv (s : State) : Prop :=
  MapWf {} s.eng.ctxs ∧ MapWf {} s.eng.pdks ∧ MapWf {} s.eng.syn.flags ∧ MapWf {} s.eng.syn.folds ∧ MapWf 0 s.eng.tally
    ∧ MapWf {} s.eng.npi.peers ∧ MapWf {} s.eng.svc.bist

end Sys2Proof.Machine

namespace Sys2Proof

/-- A command that writes stack memory on no path (01: R235; the rows whose effect is a write, or may end in one, are the
exceptions). -/
def Instr.storesNothing : Instr → Bool
  | .landingCapture _ _ | .descriptorFetch _ | .timedRefetch _ _ | .fetchResume _ _ | .compress _ _ | .compressPassEnd _ _
  | .pageWalkDone _ _ _ _ | .readReturn _ _ | .writeAck _ _ | .postCompletion _ | .spoolDrain _ | .registerWrite _ _ _
  | .podCtlWrite _ | .reverify _ | .routeLost _ | .diePortDown _ | .faultEvent _ | .bistSegmentEnd _ _ | .sweepGranuleAdvance _ _
  | .lockReadTimeout _ | .settleDone _ | .resetPhaseEnd _ | .hostLinkChange _ | .reattach | .dormantEntry | .wakeComplete _
  | .coldStartPhaseEnd _ | .verdict _ _ | .join _ | .beaconSend | .syncReq _ | .workerSilent _ => false
  | _ => true

end Sys2Proof
end

