-- ==== Sys2Proof/WellFormed.lean ====
section
/-! DEFINITION. When a command's operands are in the ranges the manual gives them: walkers (R17), stacks (R17), register offsets (R466), lengths, voltages (R446),
and self-test targets (R376). The meanings are total and do not
assume it; it says which commands a neighbour or the block itself can send. -/

namespace Sys2Proof

/-- Stack numbers are 0 to 19 (R17). -/
def stackOk (n : BitVec 5) : Bool := decide (n.toNat < 20)

/-- Walker numbers are 0 to 23 (R17). -/
def walkerOk (n : BitVec 5) : Bool := decide (n.toNat < 24)

/-- A peer's data request names at least one bit, and whole elements (R32, R170). -/
def peerReqOk (q : PeerReq) : Bool := decide (0 < q.bits) && decide (0 < q.ebits) && decide (q.bits % q.ebits = 0)

/-- The bytes a peer's request carries hold its bits. -/
def peerBytesOk (q : PeerReq) (bs : List Byte) : Bool := decide (bs.length = (q.bit.toNat + q.bits + 7) / 8)

/-- A die's access names at least one byte, and a write carries as many as it names (R293). -/
def dieAccessOk (a : DieAccess) : Bool := decide (0 < a.len) && (!a.write || decide (a.bytes.length = a.len))

/-- Rows of R376 are 0 to 10. -/
def bistTargetOk (t : BistTarget) : Bool := decide (t.row.toNat < 11)

def holderOk : Holder → Bool
  | .walker n => walkerOk n
  | .compressor _ => true

/-- The halves of a 32-bit access: a write of one half carries its 32 bits in their place, nothing beside them (R7). -/
def halfOk (w : RegWrite) : Bool :=
  match w.half with
  | .both => true
  | .low => decide (w.value.toNat < 2 ^ 32)
  | .high => decide (w.value.toNat % 2 ^ 32 = 0)

/-- A word of a beacon's vector names a device once. -/
def beaconOk (b : Beacon) : Bool := decide (b.states.map (·.1)).Nodup

/-- VMON_MV has 12 bits (R446). -/
def voltageOk (mv : BitVec 16) : Bool := decide (mv.toNat < 4096)

/-- The command's operands are in range. -/
def Instr.wellFormed : Instr → Bool
  | .landingCapture _ bs => decide (0 < bs.length)
  | .copy _ n | .transform _ n | .gather _ n | .scatter _ n | .scatterAcc _ n | .reduce _ n | .putInline _ n
  | .compress _ n | .expand _ n => decide (0 < n)
  | .readReturn t r => match t with
    | .job _ _ _ n => decide (0 < n)
    | .die _ | .peer _ => decide (r.status = 0) || decide (r.bytes = [])
  | .writeAck (.job _ _ _ n) _ => decide (0 < n)
  | .registerWrite off size v => match size with
    | .w64 => decide (off.toNat % 8 = 0)
    | .w32 => decide (off.toNat % 4 = 0) && decide (v.toNat < 2 ^ 32)
    | .other => true
  | .vcInvOne w | .vcInvPaddock w | .vcInvEvery w | .tlbInvRange w | .tlbInvPaddock w | .tlbInvEvery w | .rotate w
  | .retire w | .reachInv w | .wkeyLoad w | .wkeyErase w | .flagCfgWrite w | .foldCfgWrite w | .engResetReq w
  | .fltModeWrite w | .histPop w | .alertForce w | .pendingClear w | .fltInjectArm w | .fuseCmd w | .podCtlWrite w
  | .reverify w | .podEpochWrite w | .pwrEngWrite w | .capWrite w => halfOk w
  | .lfsrSeedWrite _ w | .pwrCtlWrite _ w | .dieCfgWrite _ w => halfOk w
  | .peerPut q bs _ => peerReqOk q && peerBytesOk q bs
  | .peerGet q => peerReqOk q
  | .peerAccumulate q op dtype bs _ _ => peerReqOk q && peerBytesOk q bs && decide (op ≠ 3) && decide (dtype ≠ 3)
  | .dieAccess a => dieAccessOk a
  | .quantumExpiry x => holderOk x
  | .stackLost n => stackOk n
  | .clockSample _ mv => voltageOk mv
  | .bistSegmentEnd t _ | .bistOverdue t => bistTargetOk t
  | .beaconReceive b => beaconOk b
  | _ => true

end Sys2Proof
end

