-- ==== Sys2Proof/Certificates/Slice0/Obligations.lean ====
section
/-! DEFINITION. The statements for the provers, one `Prop` each; OBLIGATIONS.json says what each one rests on. -/

open Sys2Proof Sys2Proof.Machine

/-- A step runs the command at the front of the queue, with the rest of the queue left. -/
def Obligations.StepRunsTheFrontCommand : Prop :=
  ∀ (c : Instr) (s : State), step { s with pending := c :: s.pending } = exec c s

/-- Every command answers a next state and leaves the queue of waiting commands as it is. -/
def Obligations.EveryCommandAnswersAndKeepsTheQueue : Prop :=
  ∀ (c : Instr) (s : State), ∃ t, exec c s = .next t ∧ t.pending = s.pending

/-- Every step keeps the canonical form of the stack memory and of its key tags. -/
def Obligations.EveryStepKeepsTheMemoryForm : Prop :=
  ∀ (s t : State), MemInv s → step s = .next t → MemInv t

/-- The stack memory and the tables after reset have their canonical form. -/
def Obligations.ResetMemoryHasTheForm : Prop :=
  MemInv State.reset ∧ TabInv State.reset ∧ State.reset.mem = {}

/-- Every step keeps the canonical form of the engine's tables. -/
def Obligations.EveryStepKeepsTheTables : Prop :=
  ∀ (s t : State), TabInv s → step s = .next t → TabInv t

/-- Commands without a store leave every byte of stack memory as it reads. -/
def Obligations.OtherCommandsStoreNothing : Prop :=
  ∀ (c : Instr) (s t : State), c.storesNothing = true → exec c s = .next t →
    ∀ (k : Tag) (a : Nat), t.mem.byte k a = s.mem.byte k a

/-- A submission doorbell moves TAIL, is stale, or parks the ring, by R49. -/
def Obligations.SubmissionDoorbellFollowsR49 : Prop :=
  ∀ (s : State) (c : CtxNum) (v : Word), s.Live → s.eng.engineRuns = true →
    ((s.eng.ctx c).state = .enabled ∧ (∀ r, (s.eng.ctx c).refetch = some r → r.stallAt = none) ∨ (s.eng.ctx c).state = .parked) →
    v.extractLsb' 32 32 = 0 →
    let x := s.eng.ctx c
    let n : Idx := v.extractLsb' 0 32
    ∃ t, exec (.submissionDoorbell c .both v) s = .next t ∧
      (idxDist n x.sqHead ≤ 2 ^ x.sqLog2.toNat → idxDist x.sqTail x.sqHead ≤ idxDist n x.sqHead →
        (t.eng.ctx c).sqTail = n ∧ (t.eng.ctx c).state = x.state) ∧
      (idxDist n x.sqHead ≤ 2 ^ x.sqLog2.toNat → idxDist n x.sqHead < idxDist x.sqTail x.sqHead →
        t = { s with eng := (s.eng.count subRfe 0 1).withPower t.eng }) ∧
      (2 ^ x.sqLog2.toNat < idxDist n x.sqHead →
        (t.eng.ctx c).state = .parked ∧ (t.eng.ctx c).parkCause = .tailRange ∧ (t.eng.ctx c).parkIndex = x.sqHead ∧
        (t.eng.ctx c).sqTail = x.sqTail) ∧
      (∀ c', c' ≠ c → t.eng.ctx c' = s.eng.ctx c')

/-- A completion doorbell is stored as the completion HEAD, or ignored and counted, by R50. -/
def Obligations.CompletionDoorbellFollowsR50 : Prop :=
  ∀ (s : State) (c : CtxNum) (v : Word), s.Live → s.eng.engineRuns = true →
    ((s.eng.ctx c).state = .enabled ∨ (s.eng.ctx c).state = .parked) → v.extractLsb' 32 32 = 0 →
    let x := s.eng.ctx c
    let n : Idx := v.extractLsb' 0 32
    ∃ t, exec (.completionDoorbell c .both v) s = .next t ∧
      t = { s with eng := (if idxDist x.cqTail n ≤ idxDist x.cqTail x.cqHead then s.eng.setCtx c { x with cqHead := n }
        else s.eng.count subRfe 0 1).withPower t.eng }

/-- In DISABLED and CLOSING a doorbell is ignored and counted, and one with a non-zero reserved half or at another place always. -/
def Obligations.DoorbellsOfClosedContextsAreIgnored : Prop :=
  ∀ (s : State) (c : CtxNum) (v : Word), s.Live →
    (s.eng.engineRuns = true →
      ((s.eng.ctx c).state = .disabled ∨ (s.eng.ctx c).state = .closing ∨ v.extractLsb' 32 32 ≠ (0 : BitVec 32)) →
      ∀ i ∈ [Instr.submissionDoorbell c .both v, .completionDoorbell c .both v],
        ∃ t, exec i s = .next t ∧ t = { s with eng := (s.eng.count subRfe 0 1).withPower t.eng }) ∧
    ∀ i ∈ [Instr.submissionDoorbell c .high v, .completionDoorbell c .high v, .submissionDoorbell c .other v, .completionDoorbell c .other v],
      exec i s = .next { s with eng := s.eng.count subRfe 0 1 }

/-- The catcher records doorbells while the engine is stopped; a recorded one and a taken die message act as the host doorbell they stand for. -/
def Obligations.RecordedAndDieDoorbellsActAsHostDoorbells : Prop :=
  ∀ (s : State) (c : CtxNum) (d : DieNum) (v : Word), s.Live →
    let gone : State := { s with eng := { s.eng with rfe := { s.eng.rfe with caught := s.eng.rfe.caught.filter (·.ctx ≠ c) } } }
    (s.eng.engineRuns = false → s.eng.rfe.caught.length ≤ 256 →
      (s.eng.rfe.caught.any (·.ctx = c) = true ∨ s.eng.rfe.caught.length < 256) →
      ∃ t, exec (.submissionDoorbell c .both v) s = .next t ∧
        (∃ k ∈ t.eng.rfe.caught, k.ctx = c ∧ k.sq = some v) ∧ (∀ k ∈ t.eng.rfe.caught, k.ctx = c → k.sq = some v) ∧
        t.eng.rfe.caught.length ≤ 256 ∧ t.eng.ctxs = s.eng.ctxs) ∧
    (s.eng.engineRuns = true →
    (s.eng.accepts = true → s.eng.rfe.caught.find? (·.ctx = c) = some { ctx := c, sq := some v } →
      ∃ t, exec (.takeRecordedDoorbell c) s = .next t ∧ exec (.submissionDoorbell c .both v) gone = .next t) ∧
    (s.eng.accepts = true → s.eng.rfe.caught.find? (·.ctx = c) = some { ctx := c, cq := some v } →
      ∃ t, exec (.takeRecordedDoorbell c) s = .next t ∧ exec (.completionDoorbell c .both v) gone = .next t) ∧
    ((s.eng.opi.die.getD d.toNat {}).enable = true → (s.eng.ctx c).dieDb = true →
      (∃ t, exec (.opiDoorbellMessage d c false v) s = .next t ∧ exec (.submissionDoorbell c .both v) s = .next t) ∧
      (∃ t, exec (.opiDoorbellMessage d c true v) s = .next t ∧ exec (.completionDoorbell c .both v) s = .next t)) ∧
    ((s.eng.opi.die.getD d.toNat {}).enable = true → (s.eng.ctx c).dieDb = false →
      exec (.opiDoorbellMessage d c false v) s = .next { s with eng := s.eng.count subRfe 0 1 }))

/-- A host write to stack memory stores its bytes in the clear, and a submission ring line of a cached context is captured. -/
def Obligations.LandingCaptureStoresAndCaptures : Prop :=
  ∀ (s : State) (a : Nat) (bs : List Byte), s.Live → MemInv s → ∃ t, exec (.landingCapture a bs) s = .next t ∧
    (∀ i (h : i < bs.length), t.mem.byte .clear (a + i) = bs[i]) ∧
    (∀ k b, (b < a ∨ a + bs.length ≤ b) → t.mem.byte k b = s.mem.byte k b) ∧
    (∀ line, a = 128 * line → bs.length = 128 → s.eng.lineOfRing a = true → t.eng.landed a = some bs)

/-- A fetch of a visible entry issues its handle, advances HEAD past its slots and puts the descriptor in work. -/
def Obligations.VisibleDescriptorIsFetched : Prop :=
  ∀ (s : State) (c : CtxNum) (reply : FetchReply), s.Live → s.eng.accepts = true →
    reply.error = false →
    let on := s.eng.touchCtx s.mem c
    let x := on.eng.ctx c
    let m := on.mem s.mem
    let d := on.eng.readEntry m c x.sqHead reply.host
    let slots := (List.range (entryExt d)).flatMap fun i => on.eng.readEntry m c (x.sqHead + BitVec.ofNat 32 (i + 1)) reply.host
    entryVisible x d slots = true → x.state = .enabled →
    ∀ i : Instr, (i = .descriptorFetch reply ∧ s.eng.fetchers.map (·.who) = [c] ∨
        i = .fetchResume c reply ∧ s.eng.fetchStopped c = false ∧ ∃ r, (s.eng.ctx c).refetch = some r ∧ r.suspended = true) →
    ∃ t, exec i s = .next t ∧
      (t.eng.ctx c).sqHead = x.sqHead + BitVec.ofNat 32 (1 + entryExt d) ∧
      (t.eng.ctx c).outstanding = x.outstanding + 1 ∧ (t.eng.ctx c).refetch = none ∧
      (∃ j ∈ t.eng.jobs, j.handle = mkHandle c x.gen x.sqHead ∧ j.stage = .fetched ∧ j.words = wordsOf 16 d) ∧
      t.mem = m ∧ ((s.eng.cxs.cache.contains c = true ∨ s.eng.cxs.cache.length < 32768) → t.mem = s.mem)

/-- A timed refetch of an entry that still mismatches uses one unit of the retry budget, and RING_STALL parks the ring, raises its event and signals. -/
def Obligations.TimedRefetchAndRingStall : Prop :=
  (∀ (s : State) (c : CtxNum) (reply : FetchReply) (r : Refetch), s.Live → s.eng.accepts = true → reply.error = false →
    (s.eng.ctx c).state = .enabled → (s.eng.ctx c).refetch = some r → r.stallAt = none → r.suspended = false →
    r.urgent = false → s.eng.fetchStopped c = false →
    let on := (s.eng.advanceTo r.due).touchCtx s.mem c
    let x := on.eng.ctx c
    let m := on.mem s.mem
    let d := on.eng.readEntry m c x.sqHead reply.host
    let slots := (List.range (entryExt d)).flatMap fun i => on.eng.readEntry m c (x.sqHead + BitVec.ofNat 32 (i + 1)) reply.host
    entryVisible x d slots = false →
    ∃ t r', exec (.timedRefetch c reply) s = .next t ∧ (t.eng.ctx c).refetch = some r' ∧
      r'.retries = r.retries + 1 ∧ (r'.stallAt.isSome = true ↔ x.retryBudget.toNat ≤ r.retries + 1) ∧
      (t.eng.ctx c).sqHead = x.sqHead ∧ (t.eng.ctx c).outstanding = x.outstanding ∧ t.mem = m) ∧
  (∀ (s : State) (c : CtxNum) (r : Refetch), s.Live → (s.eng.ctx c).state = .enabled → (s.eng.ctx c).refetch = some r →
    r.stallAt.isSome = true →
    let x := s.eng.ctx c
    ∃ t ev, exec (.ringStall c) s = .next t ∧
      t.eng.ctx c = { x with state := .parked, parkCause := .stall, parkIndex := x.sqHead, parkRetries := x.retryBudget,
                             refetch := none } ∧
      t.eng.flt.events = s.eng.flt.events ++ [ev] ∧ ev.source = sourceOf subRfe 0 0x10 ∧ ev.ctx = some c ∧
      ev.stamp = s.eng.now ∧ t.eng.out = s.eng.out ++ (if x.notify then [.msi x.vector] else []) ∧
      (∀ c', c' ≠ c → t.eng.ctx c' = s.eng.ctx c') ∧ t.mem = s.mem)

/-- DISPATCH sends a descriptor that may begin to the walker queue of its lead region, or to its unit. -/
def Obligations.DispatchQueuesAtTheLeadRegion : Prop :=
  ∀ (s : State) (h : Word) (bad : ProbeBad) (j : Job), s.Live → s.eng.accepts = true → s.eng.halted = false →
    s.eng.job h = some j → j.stage = .fetched → s.eng.mayBegin j = true →
    (j.usesWalker = true → s.eng.testing 5 (homeRegion j.ctx).toNat = false → ∃ t j', exec (.dispatch h bad) s = .next t ∧ t.eng.job h = some j' ∧ j'.stage = .queued ∧
      j'.lead = (if j.stay && !s.eng.regionFenced j.lead then j.lead else (s.eng.leadRegion s.mem j bad).1) ∧ j'.queueStamp = s.eng.now ∧ t.eng.ctxs = s.eng.ctxs) ∧
    (j.usesWalker = false → knownOpcode j.opcode = true → ∃ t j', exec (.dispatch h bad) s = .next t ∧
      t.eng.job h = some j' ∧ j'.stage = .running ∧ j'.lead = s.eng.homeOf j.ctx ∧ t.eng.ctxs = s.eng.ctxs)

/-- A region arbiter's grant gives the free walker to the descriptor drawn, which begins. -/
def Obligations.WalkerGrantStartsTheDrawnDescriptor : Prop :=
  ∀ (s : State) (r : Region) (bad : List (BitVec 24)) (w : BitVec 5) (j : Job), s.Live →
    s.eng.active (.region r) = true → s.eng.regionFenced r = false → s.eng.halted = false →
    s.eng.testing 6 r.toNat = false → s.eng.freeWalker r = some w → (s.eng.drawWalker r).1 = some j →
    (w ∈ walkersOf r ∧ s.eng.walkerBusy w = false ∧ s.eng.wlk.fenced.contains w = false) ∧
    ∃ t j', exec (.walkerGrant r bad) s = .next t ∧ t.eng.job j.handle = some j' ∧ j'.stage = .running ∧
      j'.walker = some w ∧ j'.starved = none ∧ t.eng.ctxs = s.eng.ctxs ∧ t.mem = s.mem

/-- A step of a data descriptor reaches its next destination positions, or completes it with the status of its first failing check. -/
def Obligations.DataCommandsReachTheNextPositions : Prop :=
  (∀ (s : State) (h : Word) (n : Nat) (i : Instr) (op : Nat) (j : Job),
    ((i, op) ∈ [(Instr.copy h n, opCopy), (.transform h n, opTransform), (.gather h n, opGather), (.scatter h n, opScatter),
      (.scatterAcc h n, opScatterAcc), (.reduce h n, opReduce), (.putInline h n, opPutInline)]) →
    s.Live → s.eng.job h = some j → j.opcode = op → j.stage = .running → j.walker.isSome = true →
    s.eng.serves j = true → s.eng.halted = false → (j.checked = true ∨ s.eng.failedChecks j = none) →
    j.yieldAt = none → j.fault = none → j.poisoned = false →
    ∃ t j', exec i s = .next t ∧ t.eng.job h = some j' ∧ j'.checked = true ∧
      j.emitted ≤ j'.emitted ∧ j'.emitted ≤ j.emitted + min n (j.total - j.emitted) ∧
      (j.tile = false → j.gatherEn = false → j.scatterEn = false → j'.emitted = j.emitted + min n (j.total - j.emitted)) ∧
      (j.indexOf (j.walkAt j.emitted) = [] → (j.tile = false ∨ j.emitted = 0) → 0 < n → j.emitted < j.total → j.emitted < j'.emitted) ∧
      (∀ i, j.indexOf (j.walkAt j.emitted) = [i] → j.idxEl = [] → (j.tile = false ∨ j.emitted = 0) → 0 < n → j.emitted < j.total →
        j.emitted < j'.emitted ∨ j'.el .idx i ≠ .idle) ∧
      (∀ p, j.emitted ≤ p → p < j'.emitted → j'.el .dst (j.walkAt p) ≠ .idle) ∧
      t.eng.ctxs = s.eng.ctxs ∧ t.mem = s.mem) ∧
  (∀ (s : State) (h : Word) (n : Nat) (i : Instr) (op : Nat) (j : Job) (st : Status) (det : Word),
    ((i, op) ∈ [(Instr.copy h n, opCopy), (.transform h n, opTransform), (.gather h n, opGather), (.scatter h n, opScatter),
      (.scatterAcc h n, opScatterAcc), (.reduce h n, opReduce), (.putInline h n, opPutInline)]) →
    s.Live → s.eng.job h = some j → j.opcode = op → j.stage = .running → j.walker.isSome = true →
    s.eng.serves j = true → s.eng.halted = false → j.checked = false →
    s.eng.failedChecks j = some (st, det) →
    ∃ t j', exec i s = .next t ∧ t.eng.job h = some j' ∧ j'.stage = .finished ∧ j'.status = st ∧ j'.detail = det ∧
      j'.walker = none ∧ j'.dstEl = j.dstEl ∧ j'.emitted = j.emitted ∧ t.mem = s.mem)

/-- COMPRESS reads its source in its pass with a zero header given first, and the end of a pass starts the next. -/
def Obligations.CompressPassesFollowEachOther : Prop :=
  ∀ (s : State) (h : Word) (n : Nat) (choice : CompressChoice) (j : Job), s.Live → s.eng.job h = some j →
    j.opcode = opCompress → j.stage = .running → j.fault = none → j.poisoned = false →
    (j.walker.isSome = true → s.eng.serves j = true → s.eng.halted = false →
      (j.checked = true ∨ s.eng.failedChecks j = none) → j.yieldAt = none → j.pass < 3 →
      ∃ t j', exec (.compress h n) s = .next t ∧ t.eng.job h = some j' ∧ j'.emitted = j.emitted + min n (j.rawCount - j.emitted) ∧
        j'.pass = max 1 j.pass ∧ (j.pass = 0 → ∀ k < 64, j'.el .dst k ≠ .idle)) ∧
    (j.pass = 1 → j.emitted = j.rawCount → j.srcSettled = true → j.reread = false →
      choiceOk j.srcView.dtype j.cMode j.maxTables j.rankMax j.imageBlockCount choice = true →
      ∃ t j', exec (.compressPassEnd h choice) s = .next t ∧ t.eng.job h = some j' ∧ j'.pass = 2 ∧ j'.choice = choice ∧
        j'.emitted = 0 ∧ ∀ k < 256 * choice.tables.length, j'.el .dst (64 + k) ≠ .idle) ∧
    (j.pass = 2 → j.coded.length = j.imageBlockCount → j.dstSettled = true →
      ∃ t j', exec (.compressPassEnd h choice) s = .next t ∧ t.eng.job h = some j' ∧ j'.pass = 3 ∧
        ∀ k < 64, j'.el .dst k ≠ .idle)

/-- EXPAND first reads the image header, and the arrival of a whole block finishes that block. -/
def Obligations.ExpandReadsTheHeaderAndDecodesBlocks : Prop :=
  ∀ (s : State) (h : Word) (n i : Nat) (j : Job), s.Live → s.eng.job h = some j → j.opcode = opExpand →
    j.stage = .running →
    (j.walker.isSome = true → s.eng.serves j = true → s.eng.halted = false →
      (j.checked = true ∨ s.eng.failedChecks j = none) → j.yieldAt = none → j.poisoned = false → j.pass = 0 → 64 ≤ n →
      ∃ t j', exec (.expand h n) s = .next t ∧ t.eng.job h = some j' ∧ j'.checked = true ∧
        ∀ k < 64, j'.el .src k ≠ .idle) ∧
    (j.pass = 1 → i ∈ j.blocksLeft → (∀ x, j.blockHead i ≠ .wait x) →
      (∀ off clen c, j.blockHead i = .ok off clen c → j.bytesInput off clen ≠ .wait) →
      ∃ t j', exec (.expandBlockArrival h i) s = .next t ∧ t.eng.job h = some j' ∧ i ∈ j'.blocksDone ∧
        t.eng.ctxs = s.eng.ctxs ∧ t.mem = s.mem)

/-- A page walk that ends in a leaf enters it in its slice's translation cache. -/
def Obligations.PageWalkFillsTheTranslationCache : Prop :=
  ∀ (s : State) (r : Region) (p : PdkNum) (va : BitVec 48) (base : Nat) (l : Leaf) (w : Walk), s.Live →
    (s.eng.atg.walks.getD r.toNat []).find? (fun w => w.paddock = p && w.page = va.toNat / 65536) = some w →
    walkFrom s.mem w.root va.toNat = .leaf base l →
    ∃ t, exec (.pageWalkDone r p va none) s = .next t ∧ ⟨p, base, l⟩ ∈ t.eng.tlbOf r ∧
      t.eng.pdks = s.eng.pdks ∧ t.eng.ctxs = s.eng.ctxs

/-- A read that returns gives its element the value brought, from the stack under the request's tag or from the reply. -/
def Obligations.ReturnedReadGivesItsValue : Prop :=
  ∀ (s : State) (h : Word) (st : StreamId) (k : Nat) (reply : ReadReply) (j : Job) (q : Req) (v : Nat) (bad : Bool), s.Live →
    StreamId.isWrite st = false → s.eng.job h = some j → j.opcode ≤ opPutInline → j.el st k = .fly q v bad → reply.status = 0 →
    reply.bad = [] → q.waiting = false → (∀ p, (k, El.same p) ∉ j.srcEl) →
    (st = .idx → min j.asked j.total ≤ j.emitted ∨ j.indexOf (j.walkAt j.emitted) = [k]) →
    (∀ n pa tg ab, q.dest = .stack n pa → s.eng.atDrover q n false = .tag tg ab →
      ∃ t j', exec (.readReturn (.job h st k 1) reply) s = .next t ∧ t.eng.job h = some j' ∧
        (j'.el st k = .got (s.mem.bitsAt tg pa q.bit (j.width st)) bad ∨ st = .idx ∧ j.emitted < j'.emitted) ∧ t.mem = s.mem ∧ t.eng.ctxs = s.eng.ctxs) ∧
    ((∀ n pa, q.dest ≠ .stack n pa) → s.eng.canServe q = true →
      ∃ t j', exec (.readReturn (.job h st k 1) reply) s = .next t ∧ t.eng.job h = some j' ∧
        (j'.el st k = .got (replyValue reply.bytes q.bit (j.width st) 0) bad ∨ st = .idx ∧ j.emitted < j'.emitted) ∧ t.mem = s.mem ∧ t.eng.ctxs = s.eng.ctxs)

/-- An acknowledged element write is in its stack's bits, combined where it accumulates, and no other byte has changed. -/
def Obligations.AcknowledgedWriteIsInTheStack : Prop :=
  ∀ (s : State) (h : Word) (k : Nat) (reply : AckReply) (j : Job) (q : Req) (v : Nat) (n : BitVec 5) (pa : Nat) (tg : Tag), s.Live → MemInv s →
    s.eng.job h = some j → j.opcode ≤ opPutInline → j.el .dst k = .fly q v false → q.dest = .stack n pa →
    s.eng.atDrover q n true = .tag tg none → reply.bad = [] → q.waiting = false → k ∉ j.again → 0 < j.width .dst →
    (j.dstView.ebits % 8 ≠ 0 → j.open .dst = [] ∧ min j.asked j.total ≤ j.emitted) →
    let w := j.width .dst
    let old := s.mem.bitsAt tg pa q.bit w
    let new := if j.accEn then accCombine j.accType j.accOp old v else v
    ∃ t j', exec (.writeAck (.job h .dst k 1) reply) s = .next t ∧ t.eng.job h = some j' ∧ j'.el .dst k = .done ∧
      t.mem.bitsAt tg pa q.bit w = new % 2 ^ w ∧
      t.mem.bitsAt tg pa 0 q.bit = s.mem.bitsAt tg pa 0 q.bit ∧
      (let z := q.bit + w
       t.mem.bitsAt tg pa z (8 * ((z + 7) / 8) - z) = s.mem.bitsAt tg pa z (8 * ((z + 7) / 8) - z)) ∧
      (∀ g a, (a < pa ∨ pa + (q.bit + w + 7) / 8 ≤ a) → t.mem.byte g a = s.mem.byte g a)

/-- APPLIED_TIMER marks the ranges of completed chunks that have been open for 100 us, the oldest among them. -/
def Obligations.AppliedTimerMarksTheRangesThatAreDue : Prop :=
  ∀ (s : State) (h : Word) (j : Job) (t0 : Word), s.Live → s.eng.job h = some j → j.openSince = some t0 →
    ∃ t j', exec (.appliedTimer h) s = .next t ∧ t.eng.job h = some j' ∧ t.mem = s.mem ∧
      (let due := (rangesOf j.doneChunks).filter fun r => decide (r.2.2.toNat + 100000 ≤ t.eng.now.toNat)
       j'.marked = j.marked ++ due.map (fun r => (r.1, r.2.1)) ∧
       j'.doneChunks = j.doneChunks.filter fun c => !(due.any fun r => decide (r.1 ≤ c.1) && decide (c.1 < r.1 + r.2.1))) ∧
      (t0.toNat + 100100 < 2 ^ 64 → ∃ r ∈ rangesOf j.doneChunks, r.2.2 = t0 ∧ (r.1, r.2.1) ∈ j'.marked) ∧
      (t0.toNat + 100000 ≤ s.eng.now.toNat → t.eng.now = s.eng.now ∧ t.eng.ctxs = s.eng.ctxs)

/-- NOP, QUERY and FENCE run as their rules say: NOP and QUERY complete with OK or the query's answer, a FENCE waits and then completes. -/
def Obligations.SimpleDescriptorsComplete : Prop :=
  ∀ (s : State) (h : Word) (j : Job), s.Live → s.eng.job h = some j →
    let done := fun (i : Instr) (st : Status) (d : Word) => ∃ t j', exec i s = .next t ∧ t.eng.job h = some j' ∧
      j'.stage = .finished ∧ j'.status = st ∧ j'.detail = d ∧ t.eng.ctxs = s.eng.ctxs ∧ t.mem = s.mem
    (j.stage = .running → s.eng.active (.region j.lead) = true → s.eng.halted = false → s.eng.failedBytes j = none →
      (j.opcode = opNop → done (.nop h) stOk 0) ∧
      (j.opcode = opQuery → fld (j.w 2) 3 0 = 1 →
        done (.query h) stOk (pack [(0, s.eng.device.toNat), (32, s.eng.svc.pod.epoch.toNat)])) ∧
      (j.opcode = opQuery → fld (j.w 2) 3 0 ≠ 1 →
        let c := s.eng.ctx (handleCtx (j.w 1))
        (c.paddock ≠ j.paddock → done (.query h) stNotPermitted 0) ∧
        (c.paddock = j.paddock → handleGen (j.w 1) ≠ c.gen → done (.query h) stStale 0) ∧
        (c.paddock = j.paddock → handleGen (j.w 1) = c.gen →
          done (.query h) stOk (pack [(0, (s.eng.handleState (j.w 1)).1), (16, (s.eng.handleState (j.w 1)).2)]))) ∧
      (j.opcode = opFence → ∃ t j', exec (.fence h) s = .next t ∧ t.eng.job h = some j' ∧ j'.stage = .waiting ∧ t.mem = s.mem)) ∧
    (j.opcode = opFence → j.stage = .waiting → s.eng.releaseReady j 2 s.eng.device = true → done (.fenceDone h) stOk 0)

/-- A FLAG_SET or FLAG_CLEAR on a flag of this device applies at its home and completes, or reports FLAG_UNDERFLOW without effect. -/
def Obligations.LocalFlagOperationsApply : Prop :=
  ∀ (s : State) (h : Word) (j : Job), s.Live → s.eng.job h = some j → j.stage = .running → s.eng.active (.region j.lead) = true →
    s.eng.halted = false → s.eng.failedBytes j = none → j.marked = [] → j.syncDev = s.eng.device →
    s.eng.releaseReady j j.scopeCode j.syncDev = true →
    let f : BitVec 18 := (j.w 1).extractLsb' 0 18
    s.eng.flagOpen f j.paddock = true →
    let home := s.eng.active (.region (flagRegion f))
    let changed := fun (i : Instr) (v : Bool) => ∃ t j', exec i s = .next t ∧ t.eng.job h = some j' ∧ j'.stage = .finished ∧
      j'.status = stOk ∧ t.eng.flag f = { s.eng.flag f with value := v, scope := scopeOf j.scopeCode, lastDev := s.eng.device,
                                                            lastSrc := ctxSrc j.ctx, changed := true } ∧
      (∀ g, g ≠ f → t.eng.flag g = s.eng.flag g) ∧ t.eng.syn.folds = s.eng.syn.folds ∧ t.mem = s.mem
    let kept := fun (i : Instr) (v : Bool) => ∃ t j', exec i s = .next t ∧ t.eng.job h = some j' ∧ j'.stage = .waiting ∧
      (∃ w ∈ t.eng.syn.events, w.act = .flag f v ∧ w.reply = .job h ∧ w.src = s.eng.ownSrc j) ∧
      t.eng.syn.flags = s.eng.syn.flags ∧ t.mem = s.mem
    (home = true →
      (j.opcode = opFlagSet → changed (.flagSet h) true) ∧
      (j.opcode = opFlagClear → (s.eng.flag f).value = true → changed (.flagClear h) false) ∧
      (j.opcode = opFlagClear → (s.eng.flag f).value = false → ∃ t j', exec (.flagClear h) s = .next t ∧
        t.eng.job h = some j' ∧ j'.stage = .finished ∧ j'.status = stUnderflow ∧ t.eng.syn.flags = s.eng.syn.flags ∧ t.mem = s.mem)) ∧
    (home = false → (j.opcode = opFlagSet → kept (.flagSet h) true) ∧ (j.opcode = opFlagClear → kept (.flagClear h) false))

/-- A FLAG_WAIT on a flag of this device registers, or ends at once as R249 and R256 say. The last clause, on a home that is lowered, rests on the model's choice
of log 21. -/
def Obligations.LocalWaitRegistersOrEnds : Prop :=
  ∀ (s : State) (h : Word) (j : Job), s.Live → s.eng.job h = some j → j.opcode = opFlagWait → j.stage = .running →
    s.eng.active (.region j.lead) = true → s.eng.halted = false → s.eng.failedBytes j = none → j.marked = [] →
    j.answer = none → j.syncDev = s.eng.device →
    let f : BitVec 18 := (j.w 1).extractLsb' 0 18
    s.eng.flagOpen f j.paddock = true → s.eng.waitRecords (flagRegion f) < 16384 →
    let home := s.eng.active (.region (flagRegion f))
    let met := (s.eng.flag f).value = !(bitOf (j.w 3) 0)
    let tmo := fld (j.w 2) 47 0
    ∃ t j', exec (.flagWait h) s = .next t ∧ t.eng.job h = some j' ∧ t.eng.syn.flags = s.eng.syn.flags ∧ t.mem = s.mem ∧
      (home = true → met → j'.stage = .finished ∧ ∀ w : Wait, w.who = .job h → w.scope = scopeOf j.scopeCode →
        (j'.status, j'.detail) = s.eng.acquire w (s.eng.flag f)) ∧
      (home = true → ¬ met → tmo = 0 → j'.stage = .finished ∧ j'.status = stTimeout) ∧
      (home = true → ¬ met → tmo ≠ 0 → j'.stage = .waiting ∧
        ∃ w ∈ t.eng.syn.waits, w.who = .job h ∧ w.flag = f ∧ w.forClear = bitOf (j.w 3) 0 ∧ w.start = s.eng.now) ∧
      (home = false → j'.stage = .waiting ∧ t.eng.syn.waits = s.eng.syn.waits ∧
        ∃ v ∈ t.eng.syn.events, ∃ w, v.act = .wait w ∧ w.who = .job h ∧ w.flag = f)

/-- A FOLD_ARRIVE on a fold of this device adds its count, and a complete root fold starts its next episode. -/
def Obligations.LocalFoldArriveCounts : Prop :=
  ∀ (s : State) (h : Word) (j : Job), s.Live → s.eng.job h = some j → j.opcode = opFoldArrive → j.stage = .running →
    s.eng.active (.region j.lead) = true → s.eng.halted = false → s.eng.failedBytes j = none → j.marked = [] →
    j.syncDev = s.eng.device → s.eng.releaseReady j j.scopeCode j.syncDev = true →
    let g : BitVec 16 := (j.w 1).extractLsb' 0 16
    let n := ((j.w 2).extractLsb' 0 8).toNat
    let fo := s.eng.fold g
    s.eng.foldOpen g j.paddock = true → fo.state = .counting →
    (s.eng.active (.region (foldRegion g)) = false → ∃ t j', exec (.foldArrive h) s = .next t ∧ t.eng.job h = some j' ∧
      j'.stage = .waiting ∧ t.eng.syn.folds = s.eng.syn.folds ∧ t.mem = s.mem ∧
      ∃ v ∈ t.eng.syn.events, v.act = .arrive g ((j.w 2).extractLsb' 0 8) ∧ v.reply = .job h ∧ v.src = s.eng.ownSrc j) ∧
    (s.eng.active (.region (foldRegion g)) = true → ∃ t j', exec (.foldArrive h) s = .next t ∧ t.eng.job h = some j' ∧ j'.stage = .finished ∧ t.mem = s.mem ∧
      (fo.count + n < fo.expect.toNat → j'.status = stOk ∧ (t.eng.fold g).count = fo.count + n ∧
        (t.eng.fold g).state = .counting ∧ (t.eng.fold g).episode = fo.episode) ∧
      (fo.count + n = fo.expect.toNat → fo.root = true → fo.rflagEn = false → fo.children = [] →
        j'.status = stOk ∧ (t.eng.fold g).count = 0 ∧ (t.eng.fold g).episode = fo.episode + 1 ∧ (t.eng.fold g).state = .counting) ∧
      (fo.expect.toNat < fo.count + n → j'.status = stFoldOverflow ∧ t.eng.syn.folds = s.eng.syn.folds) ∧
      (∀ g', g' ≠ g → fo.root = true → fo.children = [] → t.eng.fold g' = s.eng.fold g'))

/-- DIE_SET and DIE_CLEAR change a flag at DEVICE scope and are answered with a DIE_ACK, as far as the flag allows it. -/
def Obligations.DieFlagMessagesApplyAndAnswer : Prop :=
  ∀ (s : State) (d : DieNum) (f : BitVec 18), s.Live → (s.eng.dieCfg d).enable = true → s.eng.svc.reset.phase ≠ .resetting →
    s.eng.svc.power.dormant = false → s.eng.homeRuns (flagRegion f) = true →
    let pk := (s.eng.ctx (s.eng.dieCfg d).syncCtx).paddock
    let changed := fun (i : Instr) (v : Bool) => ∃ t, exec i s = .next t ∧
      t.eng.flag f = { s.eng.flag f with value := v, scope := .device, lastDev := s.eng.device, lastSrc := dieSrc d, changed := true } ∧
      Out.die d (.dieAck f stOk) ∈ t.eng.out ∧ (∀ g, g ≠ f → t.eng.flag g = s.eng.flag g) ∧ t.mem = s.mem
    let refused := fun (i : Instr) => ∃ t, exec i s = .next t ∧ t.eng.syn.flags = s.eng.syn.flags ∧
      Out.die d (.dieAck f stNotPermitted) ∈ t.eng.out ∧ t.mem = s.mem
    (s.eng.flagOpen f pk = true → changed (.dieSet d f) true) ∧
    (s.eng.flagOpen f pk = true → (s.eng.flag f).value = true → changed (.dieClear d f) false) ∧
    (s.eng.flagOpen f pk = false → refused (.dieSet d f) ∧ refused (.dieClear d f))

/-- A peer's flag set or clear with nothing before it on its queue pair is checked, applied and acknowledged. -/
def Obligations.PeerFlagMessagesApplyAndAnswer : Prop :=
  ∀ (s : State) (m : PeerSync) (f : BitVec 18), s.Live → s.eng.refusing = false →
    s.eng.svc.power.dormant = false → s.eng.homeRuns (flagRegion f) = true →
    (∀ x ∈ s.eng.npi.serving, ¬ (x.q.dev = m.dev ∧ x.q.ctx = m.ctx)) →
    (∀ x ∈ s.eng.npi.heldSync, ¬ (x.m.dev = m.dev ∧ x.m.ctx = m.ctx)) → s.eng.atHome m.dev m.ctx = false →
    let changed := fun (i : Instr) (v : Bool) => ∃ t, exec i s = .next t ∧
      t.eng.flag f = { s.eng.flag f with value := v, scope := m.scope, lastDev := m.dev, lastSrc := m.src, changed := true } ∧
      Out.npi m.dev (.ack m.id stOk 0 0) ∈ t.eng.out ∧ (∀ g, g ≠ f → t.eng.flag g = s.eng.flag g) ∧ t.mem = s.mem
    let refused := fun (i : Instr) => ∃ t, exec i s = .next t ∧ t.eng.syn.flags = s.eng.syn.flags ∧
      Out.npi m.dev (.ack m.id stPodMismatch 0 0) ∈ t.eng.out ∧ t.mem = s.mem
    (s.eng.homeCheck m.dev false = none → s.eng.flagOpen f m.paddock = true →
      changed (.peerFlagSet m f) true ∧ ((s.eng.flag f).value = true → changed (.peerFlagClear m f) false)) ∧
    (badPeer (s.eng.peerState m.dev) = true → refused (.peerFlagSet m f) ∧ refused (.peerFlagClear m f))

/-- A wait of a peer or of a die registers at its flag's home when its condition does not hold. -/
def Obligations.PeerAndDieWaitsRegister : Prop :=
  ∀ (s : State) (m : PeerSync) (d : DieNum) (f : BitVec 18) (clear : Bool) (tmo : BitVec 48) (tmo' : BitVec 32) (token : BitVec 16),
    s.Live → (s.eng.flag f).value = clear → s.eng.waitRecords (flagRegion f) < 16384 →
    s.eng.svc.power.dormant = false → s.eng.homeRuns (flagRegion f) = true →
    (s.eng.refusing = false → s.eng.homeCheck m.dev true = none → s.eng.flagOpen f m.paddock = true → tmo ≠ 0 →
      ∃ t, exec (.peerWait m f clear tmo) s = .next t ∧ t.eng.syn.flags = s.eng.syn.flags ∧ t.mem = s.mem ∧
        ∃ w ∈ t.eng.syn.waits, w.who = .peer m.dev m.ctx m.id ∧ w.flag = f ∧ w.forClear = clear ∧ w.start = s.eng.now) ∧
    ((s.eng.dieCfg d).enable = true → s.eng.svc.reset.phase ≠ .resetting → s.eng.dieWaits d < 256 → tmo' ≠ 0 →
      s.eng.flagOpen f (s.eng.ctx (s.eng.dieCfg d).syncCtx).paddock = true →
      ∃ t, exec (.dieWait d f clear tmo' token) s = .next t ∧ t.eng.syn.flags = s.eng.syn.flags ∧ t.mem = s.mem ∧
        ∃ w ∈ t.eng.syn.waits, w.who = .die d token ∧ w.flag = f ∧ w.forClear = clear ∧ w.start = s.eng.now)

/-- Arrivals from peers and from child folds count, and a parent's release starts a forwarded fold's next episode. -/
def Obligations.FoldMessagesCountAndRelease : Prop :=
  ∀ (s : State) (m : PeerSync) (g child : BitVec 16) (n : Byte) (dev : DevNum) (sc : Scope) (stamp : Word), s.Live →
    s.eng.refusing = false → s.eng.regionFenced (foldRegion g) = false →
    s.eng.svc.power.dormant = false → s.eng.active (.region (foldRegion g)) = true →
    let fo := s.eng.fold g
    (fo.state = .counting → fo.paddock = m.paddock →
      (s.eng.homeCheck m.dev false = none → fo.count + n.toNat < fo.expect.toNat →
        (∀ x ∈ s.eng.npi.serving, ¬ (x.q.dev = m.dev ∧ x.q.ctx = m.ctx)) →
        (∀ x ∈ s.eng.npi.heldSync, ¬ (x.m.dev = m.dev ∧ x.m.ctx = m.ctx)) → s.eng.atHome m.dev m.ctx = false →
        ∃ t, exec (.peerFoldArrival m g n) s = .next t ∧ (t.eng.fold g).count = fo.count + n.toNat ∧
          (t.eng.fold g).children = fo.children ∧ Out.npi m.dev (.ack m.id stOk 0 0) ∈ t.eng.out ∧
          (∀ g', g' ≠ g → t.eng.fold g' = s.eng.fold g') ∧ t.mem = s.mem) ∧
      (m.dev ≠ s.eng.device → (fo.root = false ∨ s.eng.bellwether = true) → s.eng.homeCheck m.dev false = none →
        fo.count + 1 < fo.expect.toNat → fo.children.length < 16 →
        ∃ t, exec (.forwardedArrival m g child) s = .next t ∧ (t.eng.fold g).count = fo.count + 1 ∧
          (t.eng.fold g).children = fo.children ++ [(m.dev, child)] ∧
          (∀ g', g' ≠ g → t.eng.fold g' = s.eng.fold g') ∧ t.mem = s.mem)) ∧
    (fo.state = .forwarded → fo.parentDev = dev → fo.rflagEn = false → fo.children = [] →
      ∃ t, exec (.foldRelease dev g sc stamp) s = .next t ∧ (t.eng.fold g).count = 0 ∧ (t.eng.fold g).state = .counting ∧
        (t.eng.fold g).episode = fo.episode + 1 ∧ (∀ g', g' ≠ g → t.eng.fold g' = s.eng.fold g') ∧ t.mem = s.mem)

/-- A posted record stands in the completion ring and the descriptor leaves; without room, or behind spooled records, it goes to its spool slot. -/
def Obligations.CompletionsArePostedOrSpooled : Prop :=
  (∀ (s : State) (c : CtxNum) (j : Job) (i : Instr), s.Live → MemInv s → s.eng.halted = false → s.eng.testing 8 0 = false → s.eng.cqRoom c = true →
    let x := s.eng.ctx c
    x.cqInHost = false →
    (i = .postCompletion c ∧ s.eng.nextJob c = some j ∧ j.postable = true ∧ x.spooled = 0 ∨
      i = .spoolDrain c ∧ s.eng.oldestSpooled c = some j) →
    let a := ringAddr x.cqBase x.cqLog2 x.cqTail 32
    let st := s.eng.storeAddr c
    ∃ t, exec i s = .next t ∧
      ((1 < x.outstanding ∨ a + 32 ≤ st + 0x10 ∨ st + 0x30 ≤ a) → t.mem.bytes .clear a 32 =
        completionBytes j.handle j.userTag j.status j.detail (j.ready.getD s.eng.now) (cqPhase x.cqLog2 x.cqTail)) ∧
      (x.outstanding ≤ 1 → t.mem.bytes .clear (st + 0x10) 8 = leBytes 8 ((t.eng.ctx c).reg 0x10).toNat ∧
        t.mem.bytes .clear (st + 0x28) 8 = leBytes 8 ((t.eng.ctx c).reg 0x28).toNat) ∧
      (∀ k b, (b < a ∨ a + 32 ≤ b) → (1 < x.outstanding ∨ (b < st + 0x10 ∨ st + 0x18 ≤ b) ∧ (b < st + 0x28 ∨ st + 0x30 ≤ b)) →
        t.mem.byte k b = s.mem.byte k b) ∧
      (t.eng.ctx c).cqTail = x.cqTail + 1 ∧ (t.eng.ctx c).outstanding = x.outstanding - 1 ∧ (t.eng.ctx c).sqHead = x.sqHead ∧
      (∀ k ∈ t.eng.jobs, k.handle ≠ j.handle)) ∧
  (∀ (s : State) (c : CtxNum) (j : Job), s.Live → MemInv s → s.eng.halted = false → s.eng.testing 8 0 = false → s.eng.nextJob c = some j → j.postable = true →
    let x := s.eng.ctx c
    (s.eng.cqRoom c = false ∨ x.spooled ≠ 0) →
    let a := spoolAddr x j.postIndex
    ∃ t, exec (.postCompletion c) s = .next t ∧
      t.mem.bytes .clear a 32 = completionBytes j.handle j.userTag j.status j.detail (j.ready.getD s.eng.now) 0 ∧
      (∀ k b, (b < a ∨ a + 32 ≤ b) → t.mem.byte k b = s.mem.byte k b) ∧
      t.eng.ctx c = { x with spooled := x.spooled + 1 } ∧ (t.eng.job j.handle).map (·.stage) = some .spooled)

/-- A CLOSING context with nothing outstanding becomes DISABLED, with GEN incremented under RESET only. -/
def Obligations.ContextClosesWhenNothingIsOutstanding : Prop :=
  ∀ (s : State) (c : CtxNum), s.Live → (s.eng.ctx c).state = .closing → (s.eng.ctx c).outstanding = 0 → TabInv s →
    let x := s.eng.ctx c
    (x.closing = some .byDisable → exec (.contextClosed c) s = .next { s with eng :=
      { (s.eng.setCtx c { x with state := .disabled, closing := none }) with
        cxs := { s.eng.cxs with busy := if s.eng.cxs.busy = .closing c then .idle else s.eng.cxs.busy } } }) ∧
    (x.closing = some .byReset → ∃ t, exec (.contextClosed c) s = .next t ∧
      t.eng.ctx c = { x with state := .disabled, closing := none, gen := x.gen + 1 } ∧ t.eng.cxs.busy ≠ .closing c ∧ t.mem = s.mem)

/-- ENABLE, DISABLE, PARK and RESUME change the selected context as R44 says, and are BAD_STATE from any other state. What PARK records (INDEX = HEAD, RETRIES 0)
is the model's choice, log 61. -/
def Obligations.ContextCommandsChangeTheState : Prop :=
  ∀ (s : State), s.Live → s.eng.answers subCxs = true → s.eng.svc.power.dormant = false → s.eng.cxs.busy = .idle →
    let c := s.eng.cxs.sel
    let x := s.eng.ctx c
    let bad := fun (i : Instr) => exec i s = .next { s with eng := s.eng.ctxResult 1 }
    (x.state = .disabled → s.eng.ctxConfigOk x = true → x.owed = [] → ∃ t, exec .enable s = .next t ∧ t.eng.cxs.result = 0 ∧
      t.eng.ctx c = { x with sqTail := 0, sqHead := 0, cqTail := 0, cqHead := 0, spooled := 0, outstanding := 0, state := .enabled,
                             refetch := none, savedHead := 0, savedCqTail := 0 } ∧
      t.eng.jobs = s.eng.jobs ∧ (∀ c', c' ≠ c → t.eng.ctx c' = s.eng.ctx c')) ∧
    (x.state = .disabled → s.eng.ctxConfigOk x = false → exec .enable s = .next { s with eng := s.eng.ctxResult 2 }) ∧
    ((x.state = .enabled ∨ x.state = .parked) → ∃ t, exec .disable s = .next t ∧ t.eng.cxs.busy = .closing c ∧
      t.eng.ctx c = { x with state := .closing, closing := some .byDisable, refetch := none } ∧ t.eng.jobs = s.eng.jobs) ∧
    (x.state = .enabled → ∃ t, exec .park s = .next t ∧ t.eng.jobs = s.eng.jobs ∧
      t.eng.ctx c = { x with state := .parked, parkCause := .operator, parkIndex := x.sqHead, parkRetries := 0, refetch := none }) ∧
    (x.state = .parked → ∃ t, exec .resume s = .next t ∧ t.eng.jobs = s.eng.jobs ∧
      t.eng.ctx c = { x with state := .enabled, parkCause := .none, refetch := none }) ∧
    (x.state ≠ .disabled → bad .enable) ∧ (x.state = .disabled ∨ x.state = .closing → bad .disable) ∧
    (x.state ≠ .enabled → bad .park) ∧ (x.state ≠ .parked → bad .resume)

/-- RESET closes the selected context and cancels its descriptors that have not begun. -/
def Obligations.ResetCancelsWhatHasNotBegun : Prop :=
  ∀ (s : State), s.Live → s.eng.answers subCxs = true → s.eng.svc.power.dormant = false → s.eng.cxs.busy = .idle →
    let c := s.eng.cxs.sel
    (s.eng.ctx c).state ≠ .closing →
    ∃ t, exec .reset s = .next t ∧ (t.eng.ctx c).state = .closing ∧ (t.eng.ctx c).closing = some .byReset ∧
      t.eng.cxs.busy = .closing c ∧ t.eng.cxs.result = 0 ∧
      (∀ j ∈ s.eng.jobs, j.ctx = c → (j.stage = .fetched ∨ j.stage = .queued) → j.begun = false →
        ∃ k ∈ t.eng.jobs, k.handle = j.handle ∧ k.stage = .finished ∧ k.status = stCancelled) ∧
      (∀ h j, s.eng.job h = some j → j.ctx = c → j.opcode = opFlagWait → j.stage = .waiting → j.answer = none →
        (j.syncSent = true ∨
          (∀ r, s.eng.active (.region r) = true ∧ ((s.eng.regionCtl r).lendEn = false ∨ ∀ k ∈ s.eng.jobs, s.eng.longHeld k = false)) ∧
          (∀ v ∈ s.eng.syn.events, ∀ w, v.act.waitOf = some w → w.who ≠ .job h) ∧
          (∀ w ∈ s.eng.syn.waits, w.who = .job h → w.firedBy s.eng.now = false)) →
        ∃ k, t.eng.job h = some k ∧ k.stage = .finished ∧ k.status = stCancelled) ∧
      ((∀ j ∈ s.eng.jobs, j.ctx = c → j.yieldAt = none) →
        (t.eng.jobs.filter fun j => decide (j.ctx ≠ c)) = (s.eng.jobs.filter fun j => decide (j.ctx ≠ c))) ∧ t.mem = s.mem

/-- A flush that returns makes what was issued before it durable and accepts descriptors; one that fails advances nothing. -/
def Obligations.JournalFlushMakesRecordsDurable : Prop :=
  ∀ (s : State) (n : Nat), s.Live → s.eng.jrn.flushTo = some n →
    (∃ t, exec (.journalFlushReturn true) s = .next t ∧ t.eng.jrn.durableSeq = max s.eng.jrn.durableSeq n ∧
      (∀ j ∈ s.eng.jobs, j.adopted = false → (∃ r ∈ s.eng.jrn.recs, r.kind = .accept ∧ r.word1 = j.handle ∧ r.jseq < t.eng.jrn.durableSeq) →
        ∃ k ∈ t.eng.jobs, k.handle = j.handle ∧ k.accepted = true) ∧ t.mem = s.mem) ∧
    (∃ t, exec (.journalFlushReturn false) s = .next t ∧ t.eng.jrn.durableSeq = s.eng.jrn.durableSeq ∧ t.eng.jobs = s.eng.jobs ∧
      t.mem = s.mem)

/-- FRESH, ADOPT and REATTACH change JRN as R391 says, and ADOPT ends ATTACHED behind the preserved run or DETACHED with the reason. That STATE reads DETACHED while
ADOPT reads the region, and which steps come at ADOPT_DONE, is the model's reading, log 87; the numbers after it rest on log 47. -/
def Obligations.JournalCommandsFollowR391 : Prop :=
  (∀ (s : State), s.Live → s.eng.jrn.busy = false →
    let bad := fun (i : Instr) (r : BitVec 4) => exec i s = .next { s with eng := s.eng.modJrn fun j => { j with result := r } }
    (s.eng.jrn.state = .detached → s.eng.jrn.configOk = true →
      (∃ t r, exec .fresh s = .next t ∧ t.eng.jrn.state = .attached ∧ t.eng.jrn.recs ++ t.eng.jrn.waiting = [r] ∧
        r.kind = .attach ∧ r.jseq = 0 ∧ t.eng.jrn.durableSeq = 0 ∧ t.mem = s.mem) ∧
      (exec .adopt s = .next { s with eng := s.eng.modJrn fun j => { j with result := 0, busy := true } })) ∧
    (s.eng.jrn.state = .detached → s.eng.jrn.configOk = false → bad .fresh 2 ∧ bad .adopt 2) ∧
    (s.eng.jrn.state = .held → ∃ t, exec .reattach s = .next t ∧ t.eng.jrn.state = .attached ∧ t.eng.jrn.result = 0 ∧
      ((∀ p ∈ s.eng.svc.ports, p.port ≠ 6) → t.eng.jobs = s.eng.jobs ∧ t.mem = s.mem)) ∧
    (s.eng.jrn.state ≠ .detached → bad .fresh 1 ∧ bad .adopt 1) ∧ (s.eng.jrn.state ≠ .held → bad .reattach 1)) ∧
  (∀ (s : State) (host : HostBytes), s.Live → s.eng.jrn.busy = true → s.eng.hostUp = true →
    let rs := s.eng.jrn.readRegion host
    (newestOf .attach rs = none → exec (.adoptDone host) s = .next { s with eng := s.eng.endAdopt .detached 3 }) ∧
    (∀ a, newestOf .attach rs = some a →
      (a.word1.extractLsb' 32 32 ≠ ownIdent → exec (.adoptDone host) s = .next { s with eng := s.eng.endAdopt .detached 4 }) ∧
      (a.word1.extractLsb' 32 32 = ownIdent → ∃ t, exec (.adoptDone host) s = .next t ∧ t.eng.jrn.state = .attached ∧
        t.eng.jrn.busy = false ∧ a.jseq < t.eng.jrn.durableSeq ∧ a.jseq < t.eng.jrn.tailSeq ∧ t.mem = s.mem ∧
        ∀ r ∈ unretired true (runOf rs a.jseq), (r.word1, r.word2.extractLsb' 0 32) ∈ (t.eng.ctx (handleCtx r.word1)).owed)))

/-- An engine reset goes through quiesce and settle, the reset phase and replay. -/
def Obligations.EngineResetPhasesFollowEachOther : Prop :=
  ∀ (s : State) (host : HostBytes), s.Live →
    let ph := s.eng.svc.reset.phase
    let inReset := fun (t : State) (settled : Bool) => t.eng.svc.reset.settled = settled ∧ t.eng.flt.fatal = false ∧
      t.eng.flt.mode = 3 ∧ t.eng.svc.reset.phase = .resetting ∧ (∀ j ∈ t.eng.jobs, j.adopted = true)
    (∀ i, (i = .engResetReq ⟨.both, 1⟩ ∧ s.eng.answers subSvc = true ∨ i = .engResetLFall) → s.eng.mayReset = true → ph = .none →
      s.eng.svc.power.dormant = false → s.eng.flt.fatal = false → s.eng.hostUp = true → s.eng.jrn.state = .attached →
      ∃ t, exec i s = .next t ∧ t.eng.svc.reset.phase = .settle ∧ t.eng.svc.reset.mode = s.eng.flt.mode ∧
        t.eng.svc.reset.byPin = decide (i = .engResetLFall) ∧ t.mem = s.mem ∧
        t.eng.jobs = s.eng.jobs.map fun j =>
          if j.stage = .running && j.walker.isSome then { j with yieldAt := some s.eng.now, yieldTo := none } else j) ∧
    (ph = .settle → s.eng.svc.restarting = false → (s.eng.svc.reset.byPin = false ∨ s.eng.pins.engResetL = true) →
      (s.eng.settleDrained = true → s.eng.now.toNat ≤ s.eng.settleBy.toNat → ∃ t, exec (.settleDone true) s = .next t ∧ inReset t true) ∧
      (s.eng.settleBy.toNat < s.eng.now.toNat → ∃ t, exec (.settleDone true) s = .next t ∧ inReset t false ∧ t.mem = s.mem) ∧
      (∃ t, exec (.settleDone false) s = .next t ∧ inReset t false ∧ t.mem = s.mem) ∧
      (∃ t, exec .corePgFall s = .next t ∧ inReset t false ∧ t.eng.pins.corePg = false ∧ t.mem = s.mem)) ∧
    (ph = .wait → s.eng.svc.restarting = false → ∃ t, exec .engResetLRise s = .next t ∧ inReset t s.eng.svc.reset.settled ∧ t.eng.pins.engResetL = true) ∧
    (ph = .waitReplay → s.eng.svc.restarting = false → ∃ t, exec .engResetLRise s = .next t ∧ t.eng.svc.reset.phase = .replay ∧ t.mem = s.mem) ∧
    (ph = .resetting → s.eng.svc.restarting = false → (s.eng.jrn.state = .detached ∨ s.eng.hostUp = true) → MemInv s →
      ∃ t, exec (.resetPhaseEnd host) s = .next t ∧
        (let lo := s.eng.cxs.storeBase.toNat * 2 ^ 28
         ∀ k b, (b < lo ∨ lo + 2 ^ 28 ≤ b) → t.mem.byte k b = s.mem.byte k b) ∧
        t.eng.svc.reset.phase = if s.eng.pins.engResetL then .replay else .waitReplay) ∧
    (ph = .resetting → s.eng.jrn.state ≠ .detached → s.eng.hostUp = false → exec (.resetPhaseEnd host) s = .next s) ∧
    (s.eng.svc.restarting = true → ∀ b, exec (.settleDone b) s = .next s ∧ exec (.resetPhaseEnd host) s = .next s ∧
      exec .replayEnd s = .next s) ∧
    (ph = .replay → s.eng.svc.restarting = false → ∃ t, exec .replayEnd s = .next t ∧ t.eng.svc.reset.phase = .none ∧ t.eng.flt.mode = s.eng.svc.reset.mode ∧
      t.eng.jobs = s.eng.jobs ∧ t.mem = s.mem)

/-- The host link going down keeps what is held, its return lets it leave in order, and a host reset holds the journal. -/
def Obligations.HostLossAndReturn : Prop :=
  ∀ (s : State), s.Live →
    (s.eng.svc.reset.phase ≠ .settle →
      exec (.hostLinkChange false) s = .next { s with eng := { s.eng with pins := { s.eng.pins with hostLinkUp := false } } } ∧
      (s.eng.jrn.state = .attached → exec .hostResetInd s = .next { s with eng := s.eng.modJrn fun j => { j with state := .held } })) ∧
    (s.eng.pins.hostLinkUp = false → s.eng.jrn.state ≠ .held → ∃ t l, exec (.hostLinkChange true) s = .next t ∧
      t.eng.out = s.eng.out ++ l ∧ (s.eng.jrn.heldOut.map Out.host).Sublist l ∧ t.eng.jrn.heldOut = [] ∧ t.eng.pins.hostLinkUp = true ∧
      ((∀ p ∈ s.eng.svc.ports, p.port ≠ 6) → (∃ l', l = s.eng.jrn.heldOut.map Out.host ++ l') ∧
        t.eng.jobs = s.eng.jobs ∧ t.mem = s.mem)) ∧
    (s.eng.jrn.busy = true → s.eng.jrn.state ≠ .attached → exec .hostResetInd s =
      .next { s with eng := s.eng.modJrn fun j => { j with state := .detached, result := 5, busy := false } })

/-- A register write, of 64 bits or a half, acts as its row, changes the fields it reaches, clears bits written 1, or does nothing at another size or alignment. -/
def Obligations.RegisterWriteFindsItsRow : Prop :=
  ∀ (s : State) (v : Word),
    let w : RegWrite := ⟨.both, v⟩
    let op : BitVec 4 := v.extractLsb' 0 4
    let op2 : BitVec 2 := v.extractLsb' 56 2
    ((op = 1 → exec (.registerWrite 0x10008 .w64 v) s = exec .enable s) ∧
      (op = 2 → exec (.registerWrite 0x10008 .w64 v) s = exec .disable s) ∧
      (op = 3 → exec (.registerWrite 0x10008 .w64 v) s = exec .reset s) ∧
      (op = 4 → exec (.registerWrite 0x10008 .w64 v) s = exec .park s) ∧
      (op = 5 → exec (.registerWrite 0x10008 .w64 v) s = exec .resume s)) ∧
    ((op = 1 → exec (.registerWrite 0x20008 .w64 v) s = exec .fresh s) ∧
      (op = 2 → exec (.registerWrite 0x20008 .w64 v) s = exec .adopt s) ∧
      (op = 3 → exec (.registerWrite 0x20008 .w64 v) s = exec .reattach s)) ∧
    ((op2 = 1 → exec (.registerWrite 0x30000 .w64 v) s = exec (.vcInvOne w) s ∧
        exec (.registerWrite 0x40010 .w64 v) s = exec (.tlbInvRange w) s) ∧
      (op2 = 2 → exec (.registerWrite 0x30000 .w64 v) s = exec (.vcInvPaddock w) s ∧
        exec (.registerWrite 0x40010 .w64 v) s = exec (.tlbInvPaddock w) s) ∧
      (op2 = 3 → exec (.registerWrite 0x30000 .w64 v) s = exec (.vcInvEvery w) s ∧
        exec (.registerWrite 0x40010 .w64 v) s = exec (.tlbInvEvery w) s)) ∧
    ((op = 1 → exec (.registerWrite 0x40128 .w64 v) s = exec (.rotate w) s) ∧
      (op = 2 → exec (.registerWrite 0x40128 .w64 v) s = exec (.retire w) s) ∧
      (op = 3 → exec (.registerWrite 0x40128 .w64 v) s = exec (.reachInv w) s) ∧
      (op = 4 → exec (.registerWrite 0x40128 .w64 v) s = exec (.wkeyLoad w) s) ∧
      (op = 5 → exec (.registerWrite 0x40128 .w64 v) s = exec (.wkeyErase w) s)) ∧
    (exec (.registerWrite 0xB0008 .w64 v) s = exec (.flagCfgWrite w) s ∧
      exec (.registerWrite 0xB0020 .w64 v) s = exec (.foldCfgWrite w) s ∧
      exec (.registerWrite 0xC0080 .w64 v) s = exec (.pwrEngWrite w) s ∧
      exec (.registerWrite 0xC00C0 .w64 v) s = exec (.podCtlWrite w) s ∧
      exec (.registerWrite 0xD0000 .w64 v) s = exec (.fltModeWrite w) s) ∧
    (s.Answers → s.eng.cxs.busy = .idle → exec (.registerWrite 0x10000 .w64 v) s =
      .next { s with eng := { s.eng with cxs := { s.eng.cxs with sel := v.extractLsb' 0 20 } } }) ∧
    (s.Answers → exec (.registerWrite 0xB0000 .w64 v) s =
      .next { s with eng := { s.eng with syn := { s.eng.syn with flagSel := v.extractLsb' 0 18 } } }) ∧
    (s.Live → s.eng.jrn.state = .detached → exec (.registerWrite 0x20000 .w64 v) s =
      .next { s with eng := { s.eng with jrn := { s.eng.jrn with base := v.extractLsb' 12 52, sizeLog2 := v.extractLsb' 0 5 } } }) ∧
    (s.eng.jrn.state ≠ .detached → exec (.registerWrite 0x20000 .w64 v) s = .next s) ∧
    (∀ off : BitVec 21, exec (.registerWrite off .other v) s = .next s ∧
      (off.toNat % 8 ≠ 0 → exec (.registerWrite off .w64 v) s = .next s)) ∧
    (let at_ := fun (off : BitVec 21) (h : Half) => match h with
        | .both => Instr.registerWrite off .w64 v
        | .low => .registerWrite off .w32 v
        | .high => .registerWrite (off + 4) .w32 v
     let wv := fun (h : Half) => if h = .high then v <<< 32 else v
     let row := fun (off : BitVec 21) (i : RegWrite → Instr) => ∀ h, exec (at_ off h) s = exec (i ⟨h, wv h⟩) s
     let f := fun {n : Nat} (h : Half) (lo : Nat) (old : BitVec n) =>
        if (h = .low ∧ 32 ≤ lo) ∨ (h = .high ∧ lo + n ≤ 32) then old else (wv h).extractLsb' lo n
     let b := fun (h : Half) (i : Nat) (old : Bool) => if (h = .low ∧ 32 ≤ i) ∨ (h = .high ∧ i < 32) then old else (wv h).getLsbD i
     let puts := fun (off : BitVec 21) (h : Half) (e : Eng) => exec (at_ off h) s = .next { s with eng := e }
     let e := s.eng
     let x := e.ctx e.cxs.sel
     let g := e.fold e.syn.foldSel
     row 0xB0008 .flagCfgWrite ∧ row 0xB0020 .foldCfgWrite ∧ row 0xC0080 .pwrEngWrite ∧ row 0xC0098 .capWrite ∧
     row 0xC00B8 .fuseCmd ∧ row 0xC00C0 .podCtlWrite ∧ row 0xC00D0 .podEpochWrite ∧ row 0xD0000 .fltModeWrite ∧
     (∀ r : Fin 4, row (BitVec.ofNat 21 (0x60000 + 16 * r)) (.lfsrSeedWrite (BitVec.ofNat 2 r)) ∧
       row (BitVec.ofNat 21 (0xA0000 + 8 * r)) (.dieCfgWrite (BitVec.ofNat 2 r)) ∧
       row (BitVec.ofNat 21 (0xC0060 + 8 * r)) (.pwrCtlWrite (BitVec.ofNat 2 r))) ∧
     (s.Answers → ∀ h,
       (e.atg.cmdBusy = .idle → puts 0x40000 h { e with atg := { e.atg with sel := f h 0 e.atg.sel } }) ∧
       (e.atg.cmdBusy ≠ .idle → puts 0x40000 h e) ∧
       puts 0x90000 h { e with npi := { e.npi with sel := f h 0 e.npi.sel } } ∧
       puts 0xB0018 h { e with syn := { e.syn with foldSel := f h 0 e.syn.foldSel } } ∧
       puts 0xC00A8 h { e with svc := { e.svc with fuseSel := f h 0 e.svc.fuseSel } } ∧
       puts 0xC0028 h { e with svc := { e.svc with arbEn := b h 16 e.svc.arbEn, arbVector := f h 0 e.svc.arbVector } } ∧
       puts 0xC00A0 h { e with svc := { e.svc with
         bistEn := b h 63 e.svc.bistEn, bistMask := f h 40 e.svc.bistMask, bistTickets := f h 32 e.svc.bistTickets
         bistVisit := f h 16 e.svc.bistVisit, bistInterval := f h 0 e.svc.bistInterval } } ∧
       (∀ l : Fin 4, ∃ t, exec (at_ (BitVec.ofNat 21 (0xC0040 + 8 * l)) h) s = .next t ∧
         (∀ i : Fin 4, t.eng.svc.arb.getD i {} = if i = l then
           (let c := e.svc.arb.getD l {}
            { remote := f h 48 c.remote, svc := f h 40 c.svc, cutoff := f h 32 c.cutoff, starve := f h 12 c.starve, quantum := f h 0 c.quantum })
           else e.svc.arb.getD i {}) ∧ { t.eng.svc with arb := e.svc.arb } = e.svc ∧ { t.eng with svc := e.svc } = e ∧ t.mem = s.mem) ∧
       puts 0x40110 h (e.modPdk e.atg.sel fun k => { k with
         enable := if k.scrubbing then k.enable else b h 63 k.enable, dieMask := f h 32 k.dieMask }) ∧
       puts 0x40138 h (e.modPdk e.atg.sel fun k => if k.enable = false ∧ k.wkeyState = .empty then
         { k with slot := f h 8 k.slot, policy := f h 0 k.policy } else k) ∧
       puts 0x10100 h (e.modCtx e.cxs.sel fun x => { x with
         tickets := f h 8 x.tickets, dieDb := b h 4 x.dieDb
         paddock := if x.state = .disabled then f h 40 x.paddock else x.paddock
         operator := if x.state = .disabled then b h 5 x.operator else x.operator }) ∧
       puts 0x10118 h (e.modCtx e.cxs.sel fun x => { x with
         retryBudget := f h 48 x.retryBudget, notify := b h 16 x.notify, vector := f h 0 x.vector
         sqLog2 := if x.state = .disabled then f h 40 x.sqLog2 else x.sqLog2
         cqLog2 := if x.state = .disabled then f h 32 x.cqLog2 else x.cqLog2 }) ∧
       (x.state = .disabled → puts 0x10108 .both (e.modCtx e.cxs.sel fun x => { x with sqBase := f .both 12 x.sqBase, sqInHost := b .both 0 x.sqInHost }) ∧
         puts 0x10120 .both (e.modCtx e.cxs.sel fun x => { x with cqBase := f .both 12 x.cqBase, cqInHost := b .both 0 x.cqInHost }) ∧
         puts 0x10130 .both (e.modCtx e.cxs.sel fun x => { x with spoolBase := f .both 19 x.spoolBase })) ∧
       (TabInv s → x.state ≠ .disabled → ∀ off ∈ [(0x10108 : BitVec 21), 0x10120, 0x10130], puts off h e) ∧
       puts 0x40100 .both (e.modPdk e.atg.sel fun k => { k with vtBase := f .both 12 k.vtBase, vtLog2 := f .both 0 k.vtLog2 }) ∧
       puts 0x40108 .both (e.modPdk e.atg.sel fun k => { k with ptRoot := f .both 12 k.ptRoot, l1Log2 := f .both 0 k.l1Log2 }) ∧
       (g.enable = false → puts 0xB0028 h (e.setFold e.syn.foldSel { g with
         parentDev := match h with
           | .both => v.extractLsb' 28 12
           | .low => g.parentDev.extractLsb' 4 8 ++ v.extractLsb' 28 4
           | .high => v.extractLsb' 0 8 ++ g.parentDev.extractLsb' 0 4
         parentFold := f h 0 g.parentFold })) ∧
       (g.enable = true → puts 0xB0028 h e) ∧
       (e.flt.mode = 0 ∨ e.flt.mode = 2 → puts 0xD0018 h { e with flt := { e.flt with wdogPeriod := f h 0 e.flt.wdogPeriod } }) ∧
       (e.flt.mode ≠ 0 → e.flt.mode ≠ 2 → puts 0xD0018 h e) ∧
       (∀ i : Fin 28, puts (BitVec.ofNat 21 (0xD0100 + 8 * i)) .both { e with flt := { e.flt with severity := e.flt.severity.modify i fun _ => v } }) ∧
       puts 0xC0020 h { e with svc := { e.svc with
         arbCut := e.svc.arbCut &&& ~~~ f h 8 (0 : BitVec 4), arbStarved := e.svc.arbStarved &&& ~~~ f h 0 (0 : BitVec 4) } } ∧
       puts 0xC00C8 h (e.modPod fun p => { p with rival := p.rival && !b h 60 false, changed := p.changed && !b h 59 false }) ∧
       puts 0xD0050 h { e with flt := { e.flt with lost := if f h 32 (0 : BitVec 32) = 0 then e.flt.lost else 0 } }))

/-- A write of OP to WLK_VC_INV removes the matching view records of all four caches and nothing else. -/
def Obligations.ViewRecordsAreInvalidated : Prop :=
  ∀ (s : State) (w : RegWrite), s.Answers →
    let i := s.eng.wlk.inv
    let p := if w.half = .low then i.paddock else w.value.extractLsb' 36 12
    let v := if w.half = .high then i.view else w.value.extractLsb' 0 24
    let started := fun (op : BitVec 2) (hit : VcEntry → Bool) => (.next { s with eng :=
      { s.eng with wlk := { s.eng.wlk with
          inv := { paddock := p, view := v, busy := true, op := op, ofPaddock := p, ofView := v }
          cache := s.eng.wlk.cache.map fun c => c.filter fun x => !hit x } } } : Answer)
    (i.busy = false → w.half ≠ .low →
      exec (.vcInvOne w) s = started 1 (fun x => decide (x.paddock = p ∧ x.view = v)) ∧
      exec (.vcInvPaddock w) s = started 2 (fun x => decide (x.paddock = p)) ∧
      exec (.vcInvEvery w) s = started 3 (fun _ => true)) ∧
    (i.busy = true ∨ w.half = .low → ∀ c ∈ [Instr.vcInvOne w, .vcInvPaddock w, .vcInvEvery w], exec c s =
      .next { s with eng := { s.eng with wlk := { s.eng.wlk with inv := { i with paddock := p, view := v } } } }) ∧
    (i.busy = true → ∃ t, exec .vcInvDone s = .next t ∧ t.eng.wlk.inv = { i with busy := false } ∧
      (∀ c ∈ t.eng.wlk.cache, ∀ x ∈ c, i.hits x = false) ∧ t.eng.jobs = s.eng.jobs ∧ t.mem = s.mem)

/-- A write of OP to ATG_TLB_INV_CTL removes the matching leaves of all four slices, and BUSY clears when no request uses one. -/
def Obligations.TranslationsAreInvalidated : Prop :=
  ∀ (s : State) (w : RegWrite),
    (s.Answers → w.half ≠ .low →
      let p : PdkNum := w.value.extractLsb' 36 12
      let k := (w.value.extractLsb' 48 6).toNat
      let n := if 16 ≤ k ∧ k ≤ 48 then k else 48
      let lo := s.eng.atg.invVa.toNat * 65536 / 2 ^ n * 2 ^ n
      let gone := fun (i : Instr) (hit : TlbEntry → Bool) => ∃ t, exec i s = .next t ∧ t.eng.atg.invBusy = true ∧
        t.eng.atg.tlb = s.eng.atg.tlb.map (fun l => l.filter fun x => !hit x) ∧
        t.eng.pdks = s.eng.pdks ∧ t.eng.ctxs = s.eng.ctxs ∧ t.mem = s.mem
      (s.eng.atg.invBusy = false →
        gone (.tlbInvRange w) (fun x => decide (x.paddock = p) && x.overlaps lo (2 ^ n)) ∧
        gone (.tlbInvPaddock w) (fun x => decide (x.paddock = p)) ∧ gone (.tlbInvEvery w) (fun _ => true)) ∧
      (s.eng.atg.invBusy = true → ∀ i ∈ [Instr.tlbInvRange w, .tlbInvPaddock w, .tlbInvEvery w],
        gone i fun _ => false)) ∧
    (s.Live → s.eng.atg.invBusy = true →
      let d := s.eng.dropLeaves s.eng.atg.invHits
      ∃ t, exec .tlbInvDone s = .next t ∧ t.eng.atg.invBusy = d.anyReq (fun _ q => q.oldLeaf) ∧
        (∀ l ∈ t.eng.atg.tlb, ∀ x ∈ l, s.eng.atg.invHits x = false) ∧ t.eng.pdks = s.eng.pdks ∧ t.mem = s.mem)

/-- ROTATE, RETIRE and REACH_INV change the selected paddock as R300 says, and end when their census and requests allow it. -/
def Obligations.EpochCommandsFollowR300 : Prop :=
  ∀ (s : State) (w : RegWrite), s.Live → TabInv s →
    let p := s.eng.atg.sel
    let x := s.eng.pdk p
    let others := fun (t : State) => (∀ q, q ≠ p → t.eng.pdk q = s.eng.pdk q) ∧ t.eng.ctxs = s.eng.ctxs ∧ t.mem = s.mem
    (s.Answers → s.eng.atg.cmdBusy = .idle → w.half ≠ .high →
      let a : BitVec 4 := w.value.extractLsb' 8 4
      let ans := fun (i : Instr) (r : BitVec 4) => exec i s =
        .next { s with eng := { s.eng with atg := { s.eng.atg with cmdArg := a, cmdResult := r } } }
      let held := x.sweeping || x.scrubbing
      (held = true → ans (.rotate w) 1 ∧ ans (.retire w) 1) ∧
      (held = false → x.live.getLsbD a.toNat = true → ans (.rotate w) 2) ∧
      (held = false → x.live.getLsbD a.toNat = false → ∃ t, exec (.rotate w) s = .next t ∧ t.eng.atg.cmdResult = 0 ∧
        t.eng.pdk p = { x with live := x.live ||| BitVec.ofNat 16 (2 ^ a.toNat), writeEpoch := a } ∧ others t) ∧
      (held = false → a = x.writeEpoch ∨ x.live.getLsbD a.toNat = false → ans (.retire w) 2) ∧
      (held = false → a ≠ x.writeEpoch → x.live.getLsbD a.toNat = true → ∃ t, exec (.retire w) s = .next t ∧
        t.eng.atg.cmdBusy = .census a ∧ t.eng.pdks = s.eng.pdks ∧ others t) ∧
      (∃ t, exec (.reachInv w) s = .next t ∧ t.eng.atg.cmdBusy = .reach ∧ (∀ l ∈ t.eng.atg.reach, ∀ y ∈ l, y.1 ≠ p) ∧
        t.eng.pdks = s.eng.pdks ∧ others t)) ∧
    (∀ a bad, s.eng.atg.cmdBusy = .census a →
      let n := ((tableFrom s.mem x bad 0).map fun f => match f.leaf with
        | some l => if !l.host && l.epoch = a then 2 ^ (f.log2 - 16) else 0
        | none => 0).sum
      ∃ t, exec (.censusDone bad) s = .next t ∧ t.eng.atg.censusEpoch = a ∧ t.eng.atg.censusPages = BitVec.ofNat 40 (min n (2 ^ 40 - 1)) ∧
        (0 < n → t.eng.atg.cmdResult = 1 ∧ t.eng.atg.cmdBusy = .idle) ∧ (n = 0 → t.eng.atg.cmdBusy = .retiring a) ∧
        t.eng.pdks = s.eng.pdks ∧ others t) ∧
    (∀ a, s.eng.atg.cmdBusy = .retiring a → s.eng.anyReq (fun pn q => pn = p && q.epoch = some (p, a)) = false →
      ∃ t, exec .pdkCmdDone s = .next t ∧ t.eng.atg.cmdResult = 0 ∧ t.eng.atg.cmdBusy = .idle ∧
        t.eng.pdk p = { x with live := x.live &&& ~~~ BitVec.ofNat 16 (2 ^ a.toNat) } ∧ others t) ∧
    (s.eng.atg.cmdBusy = .reach → s.eng.anyReq (fun pn q => pn = p && q.oldReach) = false →
      ∃ t, exec .pdkCmdDone s = .next t ∧ t.eng.atg.cmdResult = 0 ∧ t.eng.atg.cmdBusy = .idle ∧
        (∀ l ∈ t.eng.atg.reach, ∀ y ∈ l, y.1 ≠ p) ∧ t.eng.pdks = s.eng.pdks ∧ others t)

/-- WKEY_LOAD asks the cipher engine and takes its answer, and WKEY_ERASE empties the slot when the window is quiet. That a load refused with BAD_STATE makes STATE
REFUSED is the model's choice, log 34. -/
def Obligations.WeightKeyCommandsFollowR316 : Prop :=
  ∀ (s : State) (w : RegWrite), s.Live → TabInv s →
    let p := s.eng.atg.sel
    let x := s.eng.pdk p
    let others := fun (t : State) => (∀ q, q ≠ p → t.eng.pdk q = s.eng.pdk q) ∧ t.eng.ctxs = s.eng.ctxs ∧ t.mem = s.mem
    (s.Answers → s.eng.atg.cmdBusy = .idle → w.half ≠ .high →
      let a : BitVec 4 := w.value.extractLsb' 8 4
      let bad := decide (x.policy = 0) || decide (x.wkeyState = .loaded) || s.eng.slotTaken p x.slot
      (bad = true → exec (.wkeyLoad w) s =
        .next { s with eng := { (s.eng.modPdk p fun y => { y with wkeyState := .refused }) with
          atg := { s.eng.atg with cmdArg := a, cmdResult := 2 } } }) ∧
      (bad = false → exec (.wkeyLoad w) s =
        .next { s with eng := { s.eng with atg := { s.eng.atg with cmdArg := a, cmdBusy := .wkeyLoad }
                                           out := s.eng.out ++ [.cipherLoad x.slot (x.blobAddr.toNat * 64) x.blobHost] } }) ∧
      (∃ t, exec (.wkeyErase w) s = .next t ∧ t.eng.atg.cmdBusy = .wkeyErase ∧ t.eng.pdk p = { x with erasing := true } ∧ others t)) ∧
    (s.eng.atg.cmdBusy = .wkeyLoad → ∀ (ans : BlobAnswer) (r : BitVec 4) (st : WkeyState),
      (match ans with
        | .unwrapped _ => r = 0 ∧ st = .loaded
        | .badBlob => r = 5 ∧ st = .refused
        | .notMember => r = 3 ∧ st = .refused
        | .notReleased => r = 4 ∧ st = .refused) →
      ∃ t, exec (.wkeyLoadDone ans) s = .next t ∧ t.eng.atg.cmdResult = r ∧ t.eng.atg.cmdBusy = .idle ∧
        t.eng.pdk p = { x with wkeyState := st } ∧ others t) ∧
    (s.eng.atg.cmdBusy = .wkeyErase → s.eng.anyReq (fun pn q => pn = p && q.tag.inSlot x.slot) = false →
      ∃ t, exec .pdkCmdDone s = .next t ∧ t.eng.atg.cmdResult = 0 ∧ t.eng.atg.cmdBusy = .idle ∧
        t.eng.pdk p = { x with wkeyState := .empty, erasing := false } ∧ t.eng.out = s.eng.out ++ [.cipherErase x.slot] ∧ others t)

/-- Writes of SYN_FLAG_CFG, SYN_FOLD_CFG and a cast seed load their fields and reset what they must. -/
def Obligations.FlagsFoldsAndSeedsAreConfigured : Prop :=
  ∀ (s : State) (w : RegWrite) (r : Region), s.Answers → TabInv s →
    let f := s.eng.syn.flagSel
    let fl := s.eng.flag f
    let g := s.eng.syn.foldSel
    let fo := s.eng.fold g
    let new := fo.load w
    let on := if w.half = .low then fo.enable else bitOf w.value 63
    let fold := fun (x : Fold) => ∃ t, exec (.foldCfgWrite w) s = .next t ∧ t.eng.fold g = x ∧
      (∀ h, h ≠ g → t.eng.fold h = s.eng.fold h) ∧ t.eng.syn.flags = s.eng.syn.flags ∧ t.eng.syn.waits = s.eng.syn.waits ∧ t.mem = s.mem
    let seed : BitVec 32 := w.value.extractLsb' 0 32
    (∃ t, exec (.flagCfgWrite w) s = .next t ∧
      t.eng.flag f = { fl with
        value := false, scope := .context
        owned := if w.half = .low then fl.owned else bitOf w.value 63
        paddock := if w.half = .low then fl.paddock else w.value.extractLsb' 32 12
        owner := if w.half = .high then fl.owner else w.value.extractLsb' 0 20 } ∧
      (∀ h, h ≠ f → t.eng.flag h = s.eng.flag h) ∧ (∀ x ∈ t.eng.syn.waits, x.flag ≠ f) ∧ t.eng.syn.folds = s.eng.syn.folds ∧
      t.mem = s.mem) ∧
    (w.half = .both → new.root = bitOf w.value 62 ∧ new.paddock = w.value.extractLsb' 50 12 ∧ new.rflagEn = bitOf w.value 49 ∧
      new.rflagAlt = bitOf w.value 48 ∧ new.releaseFlag = w.value.extractLsb' 18 18 ∧ new.expect = w.value.extractLsb' 0 16) ∧
    (fo.enable = true → on = true → exec (.foldCfgWrite w) s = .next s) ∧
    (fo.enable = true → on = false → fold { fo with
      enable := false, count := 0, children := [], scopeMin := .context, state := .disabled }) ∧
    (fo.enable = false → on = true → s.eng.foldReady new = true → fold { new with
      enable := true, count := 0, children := [], episode := 0, state := .counting, scopeMin := .context }) ∧
    (fo.enable = false → on = false ∨ s.eng.foldReady new = false → fold new) ∧
    (w.half ≠ .high → seed ≠ 0 → ∃ t, exec (.lfsrSeedWrite r w) s = .next t ∧
      (∀ q : Region, t.eng.cst.lfsr.getD q.toNat 1 = if q = r then seed else s.eng.cst.lfsr.getD q.toNat 1) ∧
      t.eng.cst.seeds = s.eng.cst.seeds ∧ t.eng.ctxs = s.eng.ctxs ∧ t.mem = s.mem) ∧
    (w.half = .high ∨ seed = 0 → exec (.lfsrSeedWrite r w) s = .next s)

/-- INVALIDATE sends its messages and ends with the last acknowledgement, and REKEY_SWEEP and SCRUB start, wait or are refused. -/
def Obligations.InvalidateSweepAndScrubBegin : Prop :=
  ∀ (s : State) (h : Word) (j : Job), s.Live → s.eng.job h = some j → j.stage = .running → s.eng.active (.region j.lead) = true →
    s.eng.halted = false → s.eng.failedBytes j = none →
    let done := fun (i : Instr) (st : Status) => ∃ t j', exec i s = .next t ∧ t.eng.job h = some j' ∧ j'.stage = .finished ∧
      j'.status = st ∧ j'.detail = 0 ∧ t.eng.pdks = s.eng.pdks ∧ t.eng.svc.sweeps = s.eng.svc.sweeps ∧ t.mem = s.mem
    (j.opcode = opInvalidate →
      let va := fld (j.w 1) 47 0
      let len := fld (j.w 2) 39 0
      let dies : List DieNum := ((List.range 4).filter fun d => bitOf (j.w 3) d).map (BitVec.ofNat 2)
      (s.eng.serves j = false → exec (.invalidate h) s = .next s) ∧
      (∀ l q n pa, s.eng.serves j = true → s.eng.earlierDataDone j = true → s.eng.mute = false → j.emitted = 0 → j.fault = none → j.invals = [] → 0 < len →
        s.eng.tlbHit j.lead j.paddock va = some l → va % 2 ^ l.log2 + len ≤ 2 ^ l.log2 →
        s.eng.translate j.lead j.paddock va 0 len { write := false, stackOnly := true } = .ok q → q.dest = .stack n pa →
        ∃ t j', exec (.invalidate h) s = .next t ∧ t.eng.job h = some j' ∧ j'.emitted = len ∧ j'.invals = dies ∧ t.mem = s.mem ∧
          (dies ≠ [] → j'.stage = .running ∧
            t.eng.out = s.eng.out ++ (dies.map fun d => .die d (.invalidate (s.eng.portFor d pa) pa len)))) ∧
      (∀ d, j.checked = true → j.fault = none → j.emitted = len → d ∈ j.invals →
        (j.invals.erase d = [] → done (.invalidateAck h d) stOk) ∧
        (j.invals.erase d ≠ [] → ∃ t j', exec (.invalidateAck h d) s = .next t ∧ t.eng.job h = some j' ∧ j'.stage = .running ∧
          j'.invals = j.invals.erase d ∧ t.mem = s.mem))) ∧
    (∀ (i : Instr) (scrub : Bool), (i = .rekeySweep h ∧ j.opcode = opRekeySweep ∧ scrub = false ∨
        i = .scrub h ∧ j.opcode = opScrub ∧ scrub = true) →
      let p := j.sweepOf
      let held := if scrub then s.eng.scrubBusy p else (s.eng.pdk p).sweeping || (s.eng.pdk p).scrubbing
      ((s.eng.ctx j.ctx).operator = false → done i stNotPermitted) ∧
      (∀ n, (s.eng.ctx j.ctx).operator = true → s.eng.svc.restarting = false → s.eng.sweepTurn j = true → s.eng.freeSlot = some n →
        (s.eng.svc.scratch = 0 → done i stNotPermitted) ∧
        (s.eng.svc.scratch ≠ 0 → held = true → done i stBusy) ∧
        (s.eng.svc.scratch ≠ 0 → held = false → ∃ t j' w, exec i s = .next t ∧ t.eng.job h = some j' ∧ j'.stage = .waiting ∧
          t.eng.svc.sweeps = s.eng.svc.sweeps ++ [w] ∧ w.handle = h ∧ w.slot = n ∧ w.paddock = p ∧ w.scrub = scrub ∧
          (t.eng.pdk p).scrubbing = (scrub || (s.eng.pdk p).scrubbing) ∧
          (t.eng.pdk p).sweeping = (!scrub || (s.eng.pdk p).sweeping) ∧ t.mem = s.mem)))

/-- A sweep copies its granule to the scratch granule and back under the new epoch, a scrub writes zeros, and a held read is served from scratch. -/
def Obligations.SweepStepsMoveTheGranule : Prop :=
  ∀ (s : State), s.Live → MemInv s → TabInv s →
    (∀ (slot : BitVec 2) (w : Sweep), s.eng.svc.sweeps.find? (fun x => x.slot = slot) = some w → s.eng.svc.restarting = false →
      s.eng.halted = false →
      let sc := s.eng.scratchAddr w w.scratchB
      let ep := Tag.epoch w.paddock w.toE
      let writes := fun (at_ : Nat) (f : Nat → Byte) (nx : Sweep → Prop) => ∃ t w', exec (.sweepGranuleAdvance slot []) s = .next t ∧
        t.eng.svc.sweeps.find? (fun x => x.slot = slot) = some w' ∧ nx w' ∧
        (∀ k, k < 65536 → t.mem.byte ep (at_ + k) = f k) ∧
        (∀ g b, (b < at_ ∨ at_ + 65536 ≤ b) → t.mem.byte g b = s.mem.byte g b) ∧ t.eng.jobs = s.eng.jobs ∧ t.eng.ctxs = s.eng.ctxs
      (w.phase = .copying → s.eng.granuleReady w.pa = .yes →
        writes sc (fun k => s.mem.byte (.epoch w.paddock w.fromE) (w.pa + k)) (fun w' => w' = { w with phase := .recorded })) ∧
      (w.phase = .recorded → ∃ t w', exec (.sweepGranuleAdvance slot []) s = .next t ∧ t.mem = s.mem ∧
        t.eng.svc.sweeps.find? (fun x => x.slot = slot) = some w' ∧ w'.va = w.va ∧ w'.scratchB = w.scratchB ∧
        w'.phase = if s.eng.cursorDurable w.handle then .writing else .recorded) ∧
      (w.phase = .writing → w.scrub = false → w.nextCopy ≠ some false → s.eng.granuleReady w.pa = .yes →
        writes w.pa (fun k => s.mem.byte ep (sc + k)) (fun w' => w'.va = w.va ∧
          w'.phase = if (s.eng.granuleAfter w).isSome then .closing else .leaf)) ∧
      (w.phase = .writing → w.scrub = true → s.eng.granuleReady w.pa = .yes → writes w.pa (fun _ => 0) (fun w' =>
        w' = match s.eng.granuleAfter w with | some g => w.moveTo g | none => { w with phase := .leaf })) ∧
      (∀ j, w.phase = .finish → s.eng.job w.handle = some j → ∃ t j', exec (.sweepGranuleAdvance slot []) s = .next t ∧
        t.eng.job w.handle = some j' ∧ j'.stage = .finished ∧ (j'.status, j'.detail) = w.outcome ∧
        (∀ x ∈ t.eng.svc.sweeps, x.handle ≠ w.handle) ∧
        (w.scrub = false → (t.eng.pdk w.paddock).sweeping = false) ∧
        (w.scrub = true → (t.eng.pdk w.paddock).scrubbing = false ∧ (t.eng.pdk w.paddock).enable = false ∧
          (t.eng.pdk w.paddock).live = BitVec.ofNat 16 (2 ^ w.toE.toNat)) ∧ t.mem = s.mem)) ∧
    (∀ (h : Word) (st : StreamId) (k x : Nat) (j : Job) (q : Req) (v : Nat) (bad : Bool), StreamId.isWrite st = false →
      (∀ p, (k, El.same p) ∉ j.els st) → s.eng.job h = some j → j.opcode ≤ opPutInline → j.el st k = .fly q v bad → s.eng.stagedBits s.mem q (j.width st) = some x →
      (st = .idx → min j.asked j.total ≤ j.emitted ∨ j.indexOf (j.walkAt j.emitted) = [k]) →
      ∃ t j', exec (.lockReadTimeout (.job h st k 1)) s = .next t ∧ t.eng.job h = some j' ∧
        (j'.el st k = .got x bad ∨ st = .idx ∧ j.emitted < j'.emitted) ∧ t.mem = s.mem)

/-- FLT_MODE is taken only along R357, an injection is armed only in TEST, and a pop drops the oldest history entry. That arming notes the structure's contents,
and first applies what an earlier injection still has to, is how the model finds the next write of the structure: its choice, log 83. -/
def Obligations.ModesInjectionsAndPopsFollowTheirRules : Prop :=
  ∀ (s : State) (w : RegWrite), s.Live →
    let new : BitVec 2 := w.value.extractLsb' 0 2
    let mode := s.eng.flt.mode
    let quiet := s.eng.ctxs.all fun c => decide (c.2.state = .disabled)
    let taken := (new = 1 ∧ (mode = 0 ∨ mode = 2 ∧ quiet = true)) ∨ (new = 2 ∧ (mode = 0 ∨ mode = 1) ∧ quiet = true)
    let bits : BitVec 2 := w.value.extractLsb' 4 2
    let st : Byte := w.value.extractLsb' 6 8
    let inst : BitVec 6 := w.value.extractLsb' 14 6
    let sub : BitVec 4 := w.value.extractLsb' 20 4
    (w.half ≠ .high → taken → exec (.fltModeWrite w) s =
      (let e := if mode = 2 then s.eng.disarm else s.eng
       .next { s with eng := { e with flt := { e.flt with mode := new } } })) ∧
    (w.half = .high ∨ ¬ taken → exec (.fltModeWrite w) s = .next s) ∧
    (w.half ≠ .high → mode = 2 → exec (.fltInjectArm w) s =
      (let e := s.eng.injectSeen
       .next { s with eng := { e with flt := { e.flt with inject := { e.flt.inject with
        armed := decide (bits ≠ 0), bits := bits, structId := st, inst := inst, sub := sub, snap := e.stored sub inst st } } } })) ∧
    (s.eng.disarm.flt.inject.armed = false ∧ s.eng.disarm.jobs = s.eng.jobs) ∧
    (mode ≠ 2 → exec (.fltInjectArm w) s = .next s) ∧
    (w.half ≠ .high → exec (.histPop w) s = .next { s with eng := { s.eng with flt := { s.eng.flt with
      hist := s.eng.flt.hist.drop 1 } } }) ∧
    (w.half = .high → exec (.histPop w) s = .next s)

/-- ENG_ALERT_L is asserted by a forced alert, held by PENDING, and keeps its minimum low and high times. -/
def Obligations.AlertPinFollowsR371 : Prop :=
  ∀ (s : State) (w : RegWrite), s.Live →
    let a := s.eng.flt.alert
    let mode := s.eng.flt.mode
    let kept := fun (t : State) => t.eng.jobs = s.eng.jobs ∧ t.eng.ctxs = s.eng.ctxs ∧ t.eng.flt.hist = s.eng.flt.hist ∧ t.mem = s.mem
    let passed := fun (t : State) => s.eng.sameJobs t.eng ∧ s.eng.sameCtxs t.eng ∧ t.eng.flt.hist = s.eng.flt.hist ∧ t.mem = s.mem
    (w.half ≠ .high → mode = 0 ∨ mode = 2 → (a.active = false → ∀ c, a.due ≠ some (false, c)) →
      ∃ t, exec (.alertForce w) s = .next t ∧ t.eng.flt.alert.pending = true ∧
        (t.eng.flt.alert.active = true ∨ ∃ c, t.eng.flt.alert.due = some (true, c)) ∧
        (a.active = false → a.due = none → ∃ c, t.eng.flt.alert.due = some (true, c) ∧ t.eng.flt.alert.lowUntil = c + 99 ∧
          a.highUntil ≤ c ∧ s.eng.aoCycle < c) ∧ kept t) ∧
    (mode = 1 ∨ mode = 3 → ∃ t, exec (.alertForce w) s = .next t ∧ (t.eng.flt.alert.pending = true → a.pending = true) ∧
      (t.eng.flt.alert.active = true → a.active = true) ∧ kept t) ∧
    (w.half ≠ .low → (w.half = .high ∨ bitOf w.value 0 = false ∨ mode = 1 ∨ mode = 3) →
      ∃ t, exec (.pendingClear w) s = .next t ∧ t.eng.flt.alert.active = a.active ∧ kept t ∧
        (a.causeAt ≠ some s.eng.aoCycle → t.eng.flt.alert.pending = false) ∧
        (a.causeAt = some s.eng.aoCycle → t.eng.flt.alert.pending = a.pending) ∧
        (a.causeAt ≠ some s.eng.aoCycle → a.active = true → a.due = none → a.lowUntil ≤ s.eng.aoCycle →
          t.eng.flt.alert.due = some (false, s.eng.aoCycle + 1))) ∧
    (a.active = true → a.due = none → ∃ t, exec .alertPulseEnd s = .next t ∧ t.eng.aoCycle = max s.eng.aoCycle (a.lowUntil + 1) ∧
      t.eng.flt.alert.active = (a.hold && a.pending) ∧ passed t) ∧
    (∀ c, a.due = some (true, c) → s.eng.aoCycle < c → ∃ t, exec .alertHighEnd s = .next t ∧ t.eng.aoCycle = c ∧
      t.eng.flt.alert.active = true ∧ t.eng.flt.alert.due = none ∧ t.eng.flt.alert.lowUntil = a.lowUntil ∧ passed t)

/-- An event takes its severity when it reaches FLT, acts by it, is entered, merged or lost by the limits, and losses of stacks and ports raise theirs. That the
severity is judged at the delivery, and when an event reaches FLT within its 1 to 8 cycles, is the model's choice, log 46. -/
def Obligations.FaultEventsReachFltAndAreEntered : Prop :=
  ∀ (s : State), s.Live →
    (∀ n v, (s.eng.flt.events.filter fun x => !x.reached)[n]? = some v →
      let v' : FEvent := { v with reached := true, sev := s.eng.severityOf v }
      let left := s.eng.flt.events.erase v
      let at_ := fun (t : State) => t.eng.aoCycle = max s.eng.aoCycle (v.cycle + faultDelay v.source) ∧
        s.eng.sameJobs t.eng ∧ t.mem = s.mem
      (1 ≤ faultDelay v.source ∧ faultDelay v.source ≤ 8) ∧
      (v'.sev = .log → ∃ t, exec (.faultEvent (.raised n)) s = .next t ∧ t.eng.flt.events = left ++ [v'] ∧ s.eng.sameCtxs t.eng ∧ at_ t) ∧
      (v'.sev = .ignore → ∃ t, exec (.faultEvent (.raised n)) s = .next t ∧ t.eng.flt.events = left ∧ s.eng.sameCtxs t.eng ∧ at_ t) ∧
      (v'.sev = .contained → ∃ t, exec (.faultEvent (.raised n)) s = .next t ∧ v' ∈ t.eng.flt.events ∧
        t.eng.aoCycle = max s.eng.aoCycle (v.cycle + faultDelay v.source) ∧ t.mem = s.mem ∧
        (let sub := srcSub v.source
         let inst := (srcInst v.source).toNat
         let code := srcCode v.source
         ({ s.eng with flt := { s.eng.flt with events := left ++ [v'] } } : Eng).overruled v' = false →
          (code = 7 → ∀ k, targetKey sub inst = some k → (t.eng.bistOf k).fenced = true ∧ (t.eng.bistOf k).active = false) ∧
          (code = 7 ∨ code = 0x12 → sub = subDrv → inst < 20 → (t.eng.drover (BitVec.ofNat 5 inst)).fenced = true) ∧
          (code = 7 → sub = subWlk → inst < 24 → BitVec.ofNat 5 inst ∈ t.eng.wlk.fenced) ∧
          (code = 4 → sub = subWlk → t.eng.regionFenced (v.detail.extractLsb' 8 2) = true))) ∧
      (v'.sev = .fatal → s.eng.flt.fatal = false → s.eng.svc.reset.auto = false →
        ∃ t, exec (.faultEvent (.raised n)) s = .next t ∧ t.eng.flt.events = left ++ [v'] ∧ t.eng.flt.fatal = true ∧
          t.eng.flt.firstSource = v.source ∧ t.eng.flt.alert.pending = true ∧ at_ t)) ∧
    (∀ v, firstEvent s.eng.flt.events = some v → v.reached = true → v.sev ≠ .ignore →
      (∀ x ∈ s.eng.flt.events, x.reached = true ∨ v.cycle + 16 < x.cycle + faultDelay x.source) →
      let old := s.eng.flt.hist
      let lim := if v.cls = .fatal then 64 else if v.cls = .contained then 60 else 48
      let merged := ∃ x, old.getLast? = some x ∧ merges v x = true
      ∃ t, exec .historyEntry s = .next t ∧ t.eng.flt.events = s.eng.flt.events.erase v ∧
        t.eng.aoCycle = max s.eng.aoCycle (v.cycle + 16) ∧ s.eng.sameJobs t.eng ∧ t.mem = s.mem ∧
        (¬ merged → old.length < lim → ∃ x, t.eng.flt.hist = old ++ [x] ∧ x.source = v.source ∧ x.stamp = v.stamp ∧ x.ctx = v.ctx ∧
          x.detail = v.detail ∧ x.cls = v.cls ∧ x.sev = v.sev ∧ x.mode = v.mode ∧ x.count = 1) ∧
        (¬ merged → lim ≤ old.length → t.eng.flt.hist = old ∧ t.eng.flt.lost = min (s.eng.flt.lost + 1) (2 ^ 32 - 1)) ∧
        (∀ x, old.getLast? = some x → merges v x = true →
          t.eng.flt.hist = old.dropLast ++ [{ x with count := min (x.count + 1) 65535 }] ∧ t.eng.flt.lost = s.eng.flt.lost)) ∧
    (∀ n : BitVec 5, n.toNat < 20 → ∃ t ev, exec (.stackLost n) s = .next t ∧ t.eng.flt.events = s.eng.flt.events ++ [ev] ∧
      ev.source = sourceOf subDrv (n.setWidth 6) 0x12 ∧ ev.stamp = s.eng.now ∧ ev.reached = false ∧
      (s.eng.flt.mode = 1 → s.eng.overruled (s.eng.newEvent subDrv (n.setWidth 6) 0x12 none 0) = false → (t.eng.drover n).fenced = true) ∧ (∀ k : BitVec 5, k.toNat < 20 → k ≠ n → t.eng.drover k = s.eng.drover k) ∧
      t.eng.jobs = s.eng.jobs ∧ t.mem = s.mem) ∧
    (∀ p : BitVec 5, ∃ ev, exec (.networkPortLost p) s =
        .next { s with eng := { s.eng with flt := { s.eng.flt with events := s.eng.flt.events ++ [ev] } } } ∧
      ev.source = sourceOf subNpi 0 0x10 ∧ ev.detail = p.setWidth 64 ∧ ev.stamp = s.eng.now)

/-- The watchdog restarts SVC or raises its Fatal event, a restart ends, and a fuse command is judged and programmed. -/
def Obligations.WatchdogRestartsAndFuses : Prop :=
  ∀ (s : State) (w : RegWrite) (mhz mv : BitVec 16), s.Live →
    (s.eng.flt.wdogEn = true → s.eng.svc.restarting = false → ∃ t ev, exec .watchdogExpiry s = .next t ∧
      t.eng.flt.events = s.eng.flt.events ++ [ev] ∧ t.eng.svc.lastExpiry = some t.eng.now ∧ t.mem = s.mem ∧
      let again := ∃ t0, s.eng.svc.lastExpiry = some t0 ∧
        (t.eng.now - t0).toNat ≤ 10 * (max 10 s.eng.flt.wdogPeriod.toNat * 1000000)
      (again → ev.source = sourceOf subSvc 0 0x11 ∧ t.eng.svc.restarting = false ∧ t.eng.svc.restarts = s.eng.svc.restarts) ∧
      (¬ again → ev.source = sourceOf subSvc 0 0x10 ∧ t.eng.svc.restarting = true ∧ t.eng.svc.restarts = s.eng.svc.restarts + 1)) ∧
    (s.eng.svc.restarting = true → ∃ t, exec .svcRestartDone s = .next t ∧ t.eng.svc.restarting = false ∧
      t.eng.svc.kick = s.eng.now ∧ t.mem = s.mem ∧
      (s.eng.svc.pod.role = 1 → ∃ m, Out.npi s.eng.svc.pod.bellwether (.join m) ∈ t.eng.out ∧ m.restarted = true ∧
        m.dev = s.eng.device)) ∧
    (w.half ≠ .high → s.eng.svc.fuseBusy = none →
      let i : BitVec 5 := w.value.extractLsb' 0 5
      let c := s.eng.svc.cands.getD i.toNat {}
      let res : BitVec 3 := if c.valid = false ∨ c.fused = true then 1 else if 96 ≤ s.eng.fuses.length then 2
        else if w.value.extractLsb' 8 8 ≠ (0xA5 : BitVec 8) then 3
        else if ¬ (720 ≤ s.eng.pins.vmonMv.toNat ∧ s.eng.pins.vmonMv.toNat ≤ 820) then 4 else 0
      exec (.fuseCmd w) s = .next { s with eng := { s.eng with svc := { s.eng.svc with
        fuseResult := res, fuseBusy := if res = 0 then some i else none, fuseAt := s.eng.now } } }) ∧
    (∀ i, s.eng.svc.fuseBusy = some i → ∃ t ev, exec .fuseDone s = .next t ∧ t.eng.svc.fuseBusy = none ∧
      t.eng.fuses = s.eng.fuses ++ [{ s.eng.svc.cands.getD i.toNat {} with fused := true }] ∧
      (t.eng.svc.cands.getD i.toNat {}).fused = true ∧ t.eng.flt.events = s.eng.flt.events ++ [ev] ∧
      (s.eng.svc.fuseAt.toNat + 10000100 < 2 ^ 64 → s.eng.svc.fuseAt.toNat + 10000000 ≤ t.eng.now.toNat) ∧
      ev.source = sourceOf subSvc 0 0x12 ∧ s.eng.sameJobs t.eng ∧ t.mem = s.mem) ∧
    exec (.clockSample mhz mv) s = .next { s with eng := { s.eng with
      pins := { s.eng.pins with engMhz := mhz, vmonMv := mv.setWidth 12 }
      svc := { s.eng.svc with clkMhz := mhz, clkMv := (mv.setWidth 12).setWidth 16, clkIn := decide (1600 ≤ mhz.toNat ∧ mhz.toNat ≤ 1850 ∧
        720 ≤ mv.toNat % 4096 ∧ mv.toNat % 4096 ≤ 820) } } }

/-- Self-test slices start on free unmasked targets, segments advance a visit, and a visit ends, is diagnosed, repairs or is discarded. That BIST_OVERDUE itself makes
the draw at the unit's arbiter, and with whom, is the model's choice, log 86. -/
def Obligations.SelfTestRunsSegmentByPiece : Prop :=
  ∀ (s : State) (b : BistTarget) (e : SegmentEnd), s.Live → TabInv s →
    let k := BistTarget.key b
    let x := s.eng.bistOf k
    let row := b.row.toNat
    let inst := b.inst.toNat
    (s.eng.bistRuns = true → ∃ t, exec .bistSliceStart s = .next t ∧ t.eng.svc.bistAt = t.eng.now ∧ t.mem = s.mem ∧
      (∀ q, (s.eng.bistOf q).active = true → (t.eng.bistOf q).active = true) ∧
      (∀ q, (t.eng.bistOf q).active = true → (s.eng.bistOf q).active = false → ∃ row inst, q = bistKey row inst ∧
        inst < bistCount row ∧ s.eng.svc.bistMask.getLsbD row = false ∧ s.eng.unitFenced row inst = false) ∧
      (s.eng.syn.waits = [] → s.eng.sameJobs t.eng)) ∧
    (s.eng.bistRuns = true → BistTarget.valid b = true → s.eng.unitFenced row inst = false → s.eng.svc.bistMask.getLsbD row = false →
      ∃ t, exec (.bistOverdue b) s = .next t ∧ (t.eng.bistOf k).overdue = true ∧ s.eng.sameJobs t.eng ∧ t.mem = s.mem ∧
        (x.active = false → testRow 1 row = false → testRow 2 row = false → s.eng.active (testDomain row inst) = true →
          s.eng.unitRivals row inst = [] → (t.eng.bistOf k).active = true ∧ (t.eng.bistOf k).granted = true)) ∧
    (BistTarget.valid b = true → s.eng.unitFenced row inst = false → x.active = true → s.eng.frozen = false → s.eng.svc.start.phase ≠ 6 →
      let sample := (1600 ≤ s.eng.pins.engMhz.toNat ∧ s.eng.pins.engMhz.toNat ≤ 1850) ∧
        (720 ≤ s.eng.pins.vmonMv.toNat ∧ s.eng.pins.vmonMv.toNat ≤ 820)
      let stops := s.eng.sliceStops b
      let last := sample ∧ stops = false ∧ 20 ≤ x.segment + 1 ∧ bistSlices row ≤ x.slice + 1
      let kept := fun (t : State) => (∀ q, q ≠ k → t.eng.bistOf q = s.eng.bistOf q) ∧ t.eng.jobs = s.eng.jobs ∧ t.mem = s.mem
      let ends := fun (q : Bist → Prop) => ∃ t, exec (.bistSegmentEnd b e) s = .next t ∧ q (t.eng.bistOf k) ∧
        (t.eng.bistOf k).active = false ∧ (t.eng.bistOf k).granted = false
      let raises := fun (c : BitVec 6) => ∃ t ev, exec (.bistSegmentEnd b e) s = .next t ∧ ev ∈ t.eng.flt.events ∧ srcCode ev.source = c
      let complete := fun (y : Bist) => y.last = s.eng.now ∧ y.slice = 0 ∧ y.segment = 0 ∧ y.overdue = false ∧ y.rerun = none
      (¬ sample → raises 9 ∧ ends fun y => y.slice = 0 ∧ y.segment = 0 ∧ y.invalid = x.invalid + 1 ∧ y.last = x.last) ∧
      (sample → stops = true → ends fun y => y.slice = x.slice ∧ y.segment = x.segment ∧ y.failed = x.failed ∧ y.last = x.last) ∧
      (sample → stops = false → x.segment + 1 < 20 → x.granted = false → ∃ t, exec (.bistSegmentEnd b e) s = .next t ∧
        t.eng.bistOf k = { x with segment := x.segment + 1, failed := x.failed || decide (e = .fail) } ∧ kept t) ∧
      (sample → stops = false → x.segment + 1 < 20 → x.granted = true → ends fun y => y.segment = x.segment + 1 ∧ y.slice = x.slice) ∧
      (sample → stops = false → 20 ≤ x.segment + 1 → x.slice + 1 < bistSlices row →
        ends fun y => y.segment = 0 ∧ y.slice = x.slice + 1 ∧ y.last = x.last) ∧
      (last → x.rerun = none → x.diag = false →
        (x.failed = false → e = .pass → ends complete) ∧
        (x.failed = true ∨ e ≠ .pass → ends fun y => y.diag = true ∧ y.overdue = true ∧ y.slice = 0 ∧ y.segment = 0 ∧ y.invalid = 0)) ∧
      (∀ st mac adr col, last → x.rerun = none → x.diag = true → e = .found [⟨st, mac, [(adr, col)]⟩] → (macroOf x st mac).rows < 2 →
        ends fun y => y.diag = false ∧ y.rerun = some [⟨st, mac, 1, adr⟩] ∧ (macroOf y st mac).rows = (macroOf x st mac).rows + 1) ∧
      (∀ r rs, last → x.rerun = some (r :: rs) →
        (x.failed = false → e = .pass → x.uncovered = none → raises 6 ∧ ends complete) ∧
        (x.failed = true ∨ e ≠ .pass ∨ x.uncovered ≠ none → raises 7 ∧ ends complete)))

/-- Pod registers, JOINs and verdicts: a worker joins its Bellwether, which judges it by identity, epoch and firmware. That any write of the half that holds ROLE
makes every peer ABSENT is the model's reading, log 49; what a JOIN's first mark, a repeat, a failed exchange and another IDENT do is log 95. -/
def Obligations.PodIsSetUpAndWorkersAreJudged : Prop :=
  ∀ (s : State) (w : RegWrite), s.Live → MemInv s → TabInv s → (∀ x ∈ s.eng.npi.peers, x.1 < 4096) →
    let pod := s.eng.svc.pod
    let joins := fun (t : State) (bw : DevNum) => ∃ m, Out.npi bw (.join m) ∈ t.eng.out ∧ m.dev = s.eng.device ∧ m.bellwether = bw ∧
      m.epoch = t.eng.svc.pod.epoch ∧ m.stale = t.eng.svc.pod.stale
    let peer := fun (t : State) (d : DevNum) => mapGet {} t.eng.npi.peers d.toNat
    let quiet := s.eng.ctxs.all fun c => decide (c.2.state = .disabled)
    let lo := pod.areaBase.toNat * 2 ^ 20 + 0x1000
    let records := fun (t : State) => (pod.areaBase = 0 → t.mem = s.mem) ∧
      ∀ g a, (a < lo ∨ lo + 128 * 4096 ≤ a) → t.mem.byte g a = s.mem.byte g a
    (w.half ≠ .low → (w.half = .high ∨ bitOf w.value 0 = false) → ∃ t, exec (.podCtlWrite w) s = .next t ∧
      t.eng.svc.pod.bellwether = w.value.extractLsb' 48 12 ∧ t.eng.svc.pod.notify = bitOf w.value 47 ∧
      t.eng.svc.pod.vector = w.value.extractLsb' 32 11 ∧
      t.eng.svc.pod.role = (if quiet then w.value.extractLsb' 62 2 else pod.role) ∧
      t.eng.svc.pod.beaconUs = (if w.half = .both then w.value.extractLsb' 16 16 else pod.beaconUs) ∧
      t.eng.npi.peers = [] ∧ t.eng.svc.pod.self = 0 ∧ t.eng.svc.pod.stale = false ∧
      (t.eng.svc.pod.role ≠ 1 → t.eng.flt.time.pendingNs = 0) ∧
      (t.eng.svc.pod.role = 1 → joins t t.eng.svc.pod.bellwether) ∧ (t.eng.svc.pod.role ≠ 2 → t.mem = s.mem) ∧ records t) ∧
    exec (.reverify w) s = exec (.podCtlWrite { w with value := w.value ||| 1 }) s ∧
    (w.half = .low → pod.role = 2 → ∃ t, exec (.reverify w) s = .next t ∧ records t ∧ ∀ d : DevNum,
      let old := peer s d
      let fw := s.eng.storedFirmware s.mem d
      let wrongEpoch := old.epoch ≠ pod.epoch
      let wrongFw := s.eng.firmwareOk s.mem fw.1 fw.2 = false
      let member := old.ident ≠ 0 ∧ (old.state ≠ 0 ∨ old.cause ≠ 0)
      let restart := old.state = 1 ∧ old.cause = 5
      (¬ member ∨ restart → peer t d = old) ∧
      (member → ¬ restart → wrongEpoch → peer t d = { old with state := 1, cause := 1 }) ∧
      (member → ¬ restart → ¬ wrongEpoch → wrongFw → peer t d = { old with state := 1, cause := 2 }) ∧
      (member → ¬ restart → ¬ wrongEpoch → ¬ wrongFw → old.state = 1 → peer t d = { old with state := 2, cause := 0 }) ∧
      (member → ¬ wrongEpoch → ¬ wrongFw → old.state ≠ 1 → peer t d = old)) ∧
    (w.half ≠ .high → ∃ t, exec (.podEpochWrite w) s = .next t ∧ t.eng.svc.pod.epoch = w.value.extractLsb' 0 32 ∧
      (pod.role = 1 → joins t pod.bellwether) ∧ t.eng.npi = s.eng.npi ∧ t.mem = s.mem) ∧
    (pod.role = 1 → pod.self = 0 ∨ pod.stale = true → ∃ t, exec .joinSend s = .next t ∧ joins t pod.bellwether ∧
      t.eng.svc.pod.joinAt = t.eng.now ∧ t.mem = s.mem) ∧
    (∀ j : JoinMsg, pod.role = 2 → j.bellwether = s.eng.device → j.stale = false → pod.joinQueue = [] → pod.judging.length < 8 →
      (∀ x ∈ pod.judging, x.dev ≠ j.dev) →
      let old := peer s j.dev
      let own := old.ident = 0 ∨ old.ident = j.ident
      let plain := own ∧ j.restarted = false ∧ j.first = false
      let back := plain ∧ old.state = 1 ∧ old.cause = 1 ∧ j.epoch = pod.epoch ∧ s.eng.recordPasses s.mem j.dev = true
      ∃ t, exec (.join j) s = .next t ∧ records t ∧ (∀ x : DevNum, x ≠ j.dev → peer t x = peer s x) ∧
        (¬ back → t.eng.svc.pod.judging = pod.judging ++ [j] ∧ Out.npi j.dev (.spdm (.getMeasurements true)) ∈ t.eng.out) ∧
        (back → t.eng.svc.pod.judging = pod.judging ∧ (peer t j.dev).state = 2) ∧ (¬ own → peer t j.dev = old) ∧
        (own → j.restarted = true → (peer t j.dev).state = 1 ∧ (peer t j.dev).cause = 5) ∧
        (own → j.restarted = false → j.first = true → (peer t j.dev).state = 0 ∧ (peer t j.dev).cause = 0) ∧
        (plain → 2 ≤ old.state.toNat → j.epoch ≠ pod.epoch → (peer t j.dev).state = 1 ∧ (peer t j.dev).cause = 1) ∧
        (plain → 2 ≤ old.state.toNat → j.epoch = pod.epoch → (peer t j.dev).state = old.state)) ∧
    (∀ (d : DevNum) (v : VerdictInput) (j : JoinMsg), pod.role = 2 → pod.judging.find? (fun x => x.dev = d) = some j →
      let old := peer s d
      let own := old.ident = 0 ∨ old.ident = v.ident
      let again := ∃ k ∈ pod.joinQueue, k.dev = d ∧ k.restarted = true
      (v.verified = false → ∃ t, exec (.verdict d v) s = .next t ∧ records t ∧
        peer t d = if old.state = 1 ∧ old.cause = 5 ∧ j.restarted = true then { old with state := 0, cause := 0 } else old) ∧
      (v.verified = true → ¬ own → ∃ t, exec (.verdict d v) s = .next t ∧ records t ∧
        peer t d = if old.state = 0 then { old with cause := 3 } else old) ∧
      (v.verified = true → own →
        ∃ t, exec (.verdict d v) s = .next t ∧ (peer t d).ident = v.ident ∧ (peer t d).epoch = j.epoch ∧
          (again → (peer t d).state = 1 ∧ (peer t d).cause = 5) ∧
          (¬ again → j.epoch ≠ pod.epoch → (peer t d).state = 1 ∧ (peer t d).cause = 1) ∧
          (¬ again → j.epoch = pod.epoch → s.eng.firmwareOk s.mem v.measure2 v.digest = false → (peer t d).state = 1 ∧ (peer t d).cause = 2) ∧
          (¬ again → j.epoch = pod.epoch → s.eng.firmwareOk s.mem v.measure2 v.digest = true → (peer t d).state = 2 ∧ (peer t d).cause = 0) ∧
          (pod.areaBase ≠ 0 → t.mem.byte .clear (s.eng.recordAddr d + 0x70) = BitVec.ofNat 8 ((peer t d).state.toNat + 16 * (peer t d).cause.toNat)) ∧
          (pod.areaBase ≠ 0 → t.mem.bytes .clear (s.eng.recordAddr d) 8 = leBytes 4 v.ident.toNat ++ leBytes 4 j.epoch.toNat) ∧
          (∀ g a, (a < s.eng.recordAddr d ∨ s.eng.recordAddr d + 128 ≤ a) → t.mem.byte g a = s.mem.byte g a)))

/-- Beacons carry the vector, a worker takes it and reports its time, an exchange gives skew and correction, and SPDM requests are answered. That halves of a
nanosecond are dropped towards zero is the model's choice, log 52; that the Bellwether compares, at its next beacon, the EPOCH last reported is log 59. -/
def Obligations.BeaconsAndTimeExchanges : Prop :=
  ∀ (s : State) (b : Beacon) (q : SyncReport) (a : SyncAnswer) (d : DevNum) (src : SpdmFrom) (k : SpdmKind), s.Live → MemInv s →
    s.eng.svc.power.dormant = false →
    let pod := s.eng.svc.pod
    let lo := pod.areaBase.toNat * 2 ^ 20 + 0x1000
    let records := fun (t : State) => (pod.areaBase = 0 → t.mem = s.mem) ∧
      ∀ g a, (a < lo ∨ lo + 128 * 4096 ≤ a) → t.mem.byte g a = s.mem.byte g a
    (pod.role = 2 → ∃ t, exec .beaconSend s = .next t ∧ t.eng.svc.pod.beaconSeq = pod.beaconSeq + 1 ∧
      t.eng.svc.pod.beaconAt = t.eng.now ∧ records t ∧
      (TabInv s → (∀ x ∈ s.eng.npi.peers, x.1 < 4096) → ∀ x : DevNum, x ≠ s.eng.device →
        let old := mapGet {} s.eng.npi.peers x.toNat
        let new := mapGet {} t.eng.npi.peers x.toNat
        (2 ≤ old.state.toNat → old.epoch ≠ pod.epoch → new.state = 1 ∧ new.cause = 1) ∧
        (old.state.toNat < 2 ∨ old.epoch = pod.epoch → new = old)) ∧
      ∀ x ∈ t.eng.vector, x.1 ≠ s.eng.device → ∃ m, Out.npi x.1 (.beacon m) ∈ t.eng.out ∧ m.dev = s.eng.device ∧ m.epoch = pod.epoch ∧
        m.seq = pod.beaconSeq + 1 ∧ m.stamp = t.eng.now ∧ m.states = t.eng.vector) ∧
    (pod.role = 1 → b.dev = pod.bellwether → ∃ t, exec (.beaconReceive b) s = .next t ∧ t.eng.npi.peers = vectorMap b ∧
      t.eng.svc.pod.self = (mapGet {} (vectorMap b) s.eng.device.toNat).state ∧ t.eng.svc.pod.stale = false ∧
      t.eng.flt.time.lastBeacon = s.eng.now ∧ t.eng.flt.time.open_ = some s.eng.now ∧
      (∃ m, Out.npi b.dev (.syncReq m) ∈ t.eng.out ∧ m.dev = s.eng.device ∧ m.t1 = s.eng.now ∧ m.epoch = pod.epoch) ∧ t.mem = s.mem) ∧
    (pod.role ≠ 1 ∨ b.dev ≠ pod.bellwether → ∃ t, exec (.beaconReceive b) s = .next t ∧ t.eng.svc.pod.rival = true ∧
      t.eng.npi.peers = s.eng.npi.peers ∧ t.eng.svc.pod.self = pod.self ∧ t.eng.flt.time = s.eng.flt.time ∧ t.mem = s.mem) ∧
    (pod.role = 2 → TabInv s → ∃ t, exec (.syncReq q) s = .next t ∧
      Out.npi q.dev (.syncRsp { dev := s.eng.device, t1 := q.t1, t2 := s.eng.now, t3 := s.eng.now }) ∈ t.eng.out ∧
      (2 ≤ (mapGet {} s.eng.npi.peers q.dev.toNat).state.toNat → q.epoch ≠ pod.epoch →
        (mapGet {} t.eng.npi.peers q.dev.toNat).state = 1 ∧ (mapGet {} t.eng.npi.peers q.dev.toNat).cause = 1) ∧
      (2 ≤ (mapGet {} s.eng.npi.peers q.dev.toNat).state.toNat → q.epoch = pod.epoch →
        (mapGet {} t.eng.npi.peers q.dev.toNat).state = if q.unsynced then 2 else 3) ∧ records t) ∧
    (pod.role = 1 → a.dev = pod.bellwether → s.eng.flt.time.open_ = some a.t1 →
      let theta := Int.tdiv (stampDiff a.t2 a.t1 + stampDiff a.t3 s.eng.now) 2
      let delta := stampDiff s.eng.now a.t1 - stampDiff a.t3 a.t2
      let seen := (delta :: s.eng.flt.time.deltas).take 64
      ∃ t, exec (.syncRsp a) s = .next t ∧ t.eng.flt.time.lost = 0 ∧ t.eng.flt.time.open_ = none ∧ t.eng.flt.time.deltas = seen ∧ t.mem = s.mem ∧
        (∀ dmin ∈ seen, (∀ y ∈ seen, dmin ≤ y) →
          t.eng.flt.time.skew = BitVec.ofNat 16 (min (theta.natAbs + (Int.tdiv (delta - dmin) 2).toNat) 65535)) ∧
        (theta ≤ 10000 → t.eng.flt.time.pendingNs = theta ∧ t.eng.now = s.eng.now) ∧
        (10000 < theta → t.eng.flt.time.pendingNs = 0 ∧ t.eng.now = s.eng.now + BitVec.ofInt 64 theta)) ∧
    (pod.role = 1 → pod.stale = false → ∃ t, exec .bellwetherStale s = .next t ∧ t.eng.svc.pod.stale = true ∧
      t.eng.flt.time.unsynced = true ∧ t.eng.npi.peers = s.eng.npi.peers ∧ t.mem = s.mem) ∧
    (pod.role = 2 → d ≠ s.eng.device → (mapGet {} s.eng.npi.peers d.toNat).state ≠ 0 →
      mapGet 0 pod.lastSync d.toNat + max 2 pod.lostN.toNat ≤ pod.beaconSeq → ∃ t, exec (.workerSilent d) s = .next t ∧
        (mapGet {} t.eng.npi.peers d.toNat).state = 0 ∧ (mapGet {} t.eng.npi.peers d.toNat).cause = 4 ∧
        (∀ x : DevNum, x ≠ d → mapGet {} t.eng.npi.peers x.toNat = mapGet {} s.eng.npi.peers x.toNat) ∧ records t) ∧
    (let p := s.eng.flt.time.pendingNs
     (pod.role = 1 → ∃ t, exec .timeCorrectionDone s = .next t ∧ t.eng.flt.time.pendingNs = 0 ∧
      t.eng.now = s.eng.now + BitVec.ofInt 64 (10 * p.natAbs + p) ∧ t.eng.aoCycle = s.eng.aoCycle + p.natAbs ∧ t.mem = s.mem) ∧
     (pod.role ≠ 1 → ∃ t, exec .timeCorrectionDone s = .next t ∧ t.eng.now = s.eng.now ∧ t.eng.aoCycle = s.eng.aoCycle ∧ t.mem = s.mem)) ∧
    (5 ≤ s.eng.svc.start.phase.toNat → s.eng.svc.restarting = false →
      (src ∈ s.eng.svc.spdm ∨ s.eng.svc.spdm.length < 8 → ∃ t a, exec (.spdmRequest src k) s = .next t ∧
        t.eng.out = s.eng.out ++ [.spdm src a] ∧ a ≠ .busy ∧ src ∈ t.eng.svc.spdm ∧ t.mem = s.mem ∧
        (k = .getVersion → a = .version 0x12) ∧ (k = .getDigests → a = .digest 0 (sha384 Config.certChain)) ∧
        (k = .getCertificate → a = .certificate 0 Config.certChain) ∧
        (k = .challenge → ∃ sig, a = .challenged (sha384 s.eng.svc.measures.flatten) sig) ∧
        (∀ signed, k = .getMeasurements signed → ∃ sig : Option (List Byte), sig.isSome = signed ∧
          a = .measured (s.eng.svc.measures.zipIdx.map fun x => (x.2 + 1, x.1)) sig) ∧
        (k = .other → a = .unsupported)) ∧
      (src ∉ s.eng.svc.spdm → 8 ≤ s.eng.svc.spdm.length → ∃ t, exec (.spdmRequest src k) s = .next t ∧
        t.eng.out = s.eng.out ++ [.spdm src .busy] ∧ t.eng.svc.spdm = s.eng.svc.spdm ∧ t.mem = s.mem))

/-- Domains are lowered without work and woken, the grant and the cap set LIMIT, and power registers load their fields. -/
def Obligations.PowerStatesFollowWorkAndBudget : Prop :=
  ∀ (s : State) (w : RegWrite) (r : Region) (d : Domain) (g : BitVec 12), s.Live →
    let p := s.eng.svc.power
    let kept := fun (t : State) => s.eng.sameJobs t.eng ∧ s.eng.sameCtxs t.eng ∧ t.mem = s.mem
    ((∀ x : Region, (s.eng.regionDom x).wantSince = none) →
      (s.eng.mayLower d .active 1 = true → ∃ t, exec (.activeToIdle d) s = .next t ∧ (t.eng.domOf d).st = .idle ∧
        (∀ x, x ≠ d → (t.eng.domOf x).st = (s.eng.domOf x).st) ∧ kept t) ∧
      (s.eng.mayLower d .idle 0 = true → s.eng.sleepDelay d ≠ 0 → ∃ t, exec (.idleToSleep d) s = .next t ∧
        (t.eng.domOf d).st = .sleep ∧ (∀ x, x ≠ d → (t.eng.domOf x).st = (s.eng.domOf x).st) ∧ kept t) ∧
      (p.engine.wantSince = none → p.total ≤ min g.toNat (min p.cap.toNat 0x960) → exec (.ppmGrantStb g) s =
        .next { s with eng := { s.eng with svc := { s.eng.svc with power := { p with grant := g } } } }) ∧
      (w.half ≠ .high → p.engine.wantSince = none → p.total ≤ min p.grant.toNat (min (w.value.extractLsb' 0 12).toNat 0x960) →
        exec (.capWrite w) s =
          .next { s with eng := { s.eng with svc := { s.eng.svc with power := { p with cap := w.value.extractLsb' 0 12 } } } }) ∧
      (∀ t0 rs, p.recalls = (r, t0) :: rs → ∃ t, exec .ppmReturn s = .next t ∧ t.eng.svc.power.recalls = rs ∧
        (t.eng.regionDom r).lent = ((s.eng.regionDom r).lent && !((s.eng.regionDom r).recalled && !rs.any fun y => y.1 = r)) ∧
        (∀ x, (t.eng.domOf x).st = (s.eng.domOf x).st) ∧ kept t)) ∧
    (∀ t0, (s.eng.domOf .engine).wakeDue = some t0 → ∃ t, exec (.wakeComplete .engine) s = .next t ∧
      (t.eng.domOf .engine).st = .active ∧ (t.eng.domOf .engine).wakeDue = none ∧ kept t) ∧
    (∀ t0, (s.eng.domOf (.region r)).wakeDue = some t0 → s.eng.active .engine = false → (s.eng.domOf .engine).wakeDue = none →
      ∃ t, exec (.wakeComplete (.region r)) s = .next t ∧ (t.eng.domOf (.region r)).wakeDue = some t0 ∧
        (∀ x : Region, (t.eng.regionDom x).st = (s.eng.regionDom x).st) ∧
        ((t.eng.domOf .engine).wakeDue.isSome = true ∨ (t.eng.domOf .engine).wantSince.isSome = true) ∧ kept t) ∧
    (∀ t0, (s.eng.domOf (.region r)).wakeDue = some t0 → s.eng.active .engine = true ∨ (s.eng.domOf .engine).wakeDue.isSome = true →
      s.eng.jobs = [] → s.eng.npi.serving = [] → s.eng.opi.serving = [] → s.eng.syn.events = [] → ∃ t, exec (.wakeComplete (.region r)) s = .next t ∧ (t.eng.domOf (.region r)).st = .active ∧
        (t.eng.domOf (.region r)).wakeDue = none ∧ (t.eng.domOf .engine).wakeDue = none ∧
        ((s.eng.domOf .engine).wakeDue.isSome → (t.eng.domOf .engine).st = .active) ∧
        (∀ x : Region, x ≠ r → (t.eng.regionDom x).st = (s.eng.regionDom x).st) ∧ kept t) ∧
    (∀ q t0 v, s.eng.frozen = false → s.eng.admitQueue = r :: q → (s.eng.regionDom r).wantSince = some t0 →
      (t0 + BitVec.ofNat 64 (1000 * max 1 p.rotateUs.toNat)).toNat ≤ s.eng.now.toNat → s.eng.serveQueue 4 = s.eng →
      (s.eng.byAge.filter fun x => x ≠ r && decide ((s.eng.regionDom x).st = .active) && (s.eng.regionDom x).wakeDue.isNone
        && decide (s.eng.floorOf (.region x) < 2)).head? = some v →
      ∃ t, exec .rotation s = .next t ∧ (t.eng.regionDom v).st ≠ .active ∧ kept t) ∧
    (∃ t, exec (.pwrCtlWrite r w) s = .next t ∧ (∀ x, x ≠ r → t.eng.regionCtl x = s.eng.regionCtl x) ∧ kept t ∧
      t.eng.regionCtl r = { s.eng.regionCtl r with
        minState := if w.half = .low then (s.eng.regionCtl r).minState else w.value.extractLsb' 48 2
        lendEn := if w.half = .low then (s.eng.regionCtl r).lendEn else bitOf w.value 40
        sleepDelay := if w.half = .high then (s.eng.regionCtl r).sleepDelay else w.value.extractLsb' 16 16
        idleDelay := if w.half = .high then (s.eng.regionCtl r).idleDelay else w.value.extractLsb' 0 16 }) ∧
    (∃ t, exec (.pwrEngWrite w) s = .next t ∧ kept t ∧
      t.eng.svc.power.dormantEn = (if w.half = .low then p.dormantEn else bitOf w.value 63) ∧
      t.eng.svc.power.engMin = (if w.half = .low then p.engMin else w.value.extractLsb' 48 2) ∧
      t.eng.svc.power.dormantDelay = (if w.half = .high then p.dormantDelay else w.value.extractLsb' 16 16) ∧
      t.eng.svc.power.rotateUs = (if w.half = .high then p.rotateUs else w.value.extractLsb' 0 8))

/-- Dormant is entered with cold caches, its exit takes 105,000 cycles, and accesses and messages wait for it. -/
def Obligations.DormantIsEnteredAndLeft : Prop :=
  ∀ (s : State) (x : DormantTrigger) (w : RegWrite) (d : DevNum), s.Live →
    let p := s.eng.svc.power
    let due := p.dormantExit.getD (s.eng.now + BitVec.ofNat 64 (s.eng.cyclesNs 105000))
    let left := (({ s.eng with svc := { s.eng.svc with power := { p with dormantExit := some due } } } : Eng).advanceTo due).exitDormant s.mem
    (s.eng.mayDormant = true → ∃ t, exec .dormantEntry s = .next t ∧ t.eng.svc.power.dormant = true ∧
      t.eng.svc.power.dormantExit = none ∧ t.eng.rfe.landing = [] ∧ t.eng.cxs.cache = [] ∧ t.eng.wlk.cache = [[], [], [], []] ∧
      t.eng.atg.tlb = [[], [], [], []] ∧ t.eng.atg.reach = [[], [], [], []] ∧ t.eng.syn = s.eng.syn ∧ s.eng.sameCtxs t.eng ∧
      ∀ g a, (a < p.saveBase.toNat * 2 ^ 23 ∨ (p.saveBase.toNat + 1) * 2 ^ 23 ≤ a) → t.mem.byte g a = s.mem.byte g a) ∧
    (p.dormant = true → s.eng.svc.start.ready = true → p.dormantExit = none → exec (.dormantExit x) s =
      .next { s with eng := { s.eng with svc := { s.eng.svc with power := { p with dormantExit := some due } } } }) ∧
    (s.eng.pins.engMhz = 1750 → s.eng.cyclesNs 105000 = 60000) ∧
    (p.dormant = false ∨ p.dormantExit.isSome = true → exec (.dormantExit x) s = .next s) ∧
    (∀ t0, p.dormantExit = some t0 → ∃ t, exec .dormantExitDone s = .next t ∧ t.eng.svc.power.dormant = false ∧
      t.eng.svc.power.dormantExit = none ∧ (∀ d, (t.eng.domOf d).st = .sleep) ∧ s.eng.sameCtxs t.eng ∧ t.mem = s.mem ∧
      ((∀ b n, p.savedAs = some (b, n) → let was := (Config.saveImage n).take saveSize
          s.mem.bytes .clear b was.length = was) → t.eng.syn = s.eng.syn)) ∧
    (p.dormant = true → s.eng.svc.start.ready = true → s.eng.svc.start.failed = false →
      left.svc.power.dormant = false ∧ (s.eng.heard s.mem d).svc.power.dormant = false ∧
      ∀ i ∈ [Instr.enable, .disable, .reset, .park, .resume, .vcInvOne w, .tlbInvRange w, .rotate w, .wkeyLoad w, .flagCfgWrite w,
        .foldCfgWrite w, .lfsrSeedWrite 0 w, .dieCfgWrite 0 w], exec i s = exec i { s with eng := left }) ∧
    (∀ (b : Beacon) (q : SyncReport) (j : JoinMsg) (y : PeerReq) (m : PeerSync) (f : BitVec 18), b.dev = d → q.dev = d → j.dev = d →
      y.dev = d → m.dev = d → ∀ i ∈ [Instr.beaconReceive b, .syncReq q, .join j, .peerGet y, .peerFlagSet m f, .peerResetNotice d],
        exec i s = exec i { s with eng := s.eng.heard s.mem d })

/-- OPI_DIE_CFG is judged by R464, ports come up and go down, and a die's access is translated, refused or answered. -/
def Obligations.DiesAreConfiguredAndServed : Prop :=
  ∀ (s : State) (d : DieNum) (v : Word) (p : BitVec 3) (a : DieAccess), s.Live →
    let c := s.eng.dieCfg d
    let mask : Byte := v.extractLsb' 0 8
    let sc : CtxNum := v.extractLsb' 32 20
    let ps := (List.range 8).filter fun i => mask.getLsbD i
    let good := ps.length ∈ [1, 2, 4, 8] ∧ (∀ x : DieNum, x ≠ d → (s.eng.dieCfg x).enable = true → (s.eng.dieCfg x).portMask &&& mask = 0) ∧
      (∀ i ∈ ps, s.eng.opi.ports.getD i none = some d)
    (s.Answers → c.enable = false → ∃ t, exec (.dieCfgWrite d ⟨.both, v⟩) s = .next t ∧
      (t.eng.dieCfg d).portMask = mask ∧ (t.eng.dieCfg d).syncCtx = sc ∧
      (bitOf v 62 = false → (t.eng.dieCfg d).enable = false ∧ (t.eng.dieCfg d).result = c.result) ∧
      (bitOf v 62 = true → good → (s.eng.ctx sc).state = .enabled → (t.eng.dieCfg d).enable = true ∧ (t.eng.dieCfg d).result = 0) ∧
      (bitOf v 62 = true → good → (s.eng.ctx sc).state ≠ .enabled → (t.eng.dieCfg d).enable = false ∧ (t.eng.dieCfg d).result = 2) ∧
      (bitOf v 62 = true → ¬ good → (t.eng.dieCfg d).enable = false ∧ (t.eng.dieCfg d).result = 1) ∧
      (∀ x, x ≠ d → t.eng.dieCfg x = s.eng.dieCfg x) ∧ t.eng.jobs = s.eng.jobs ∧ t.mem = s.mem) ∧
    (s.Answers → c.enable = true → bitOf v 62 = false → s.eng.dieBusy d = false → ∃ t, exec (.dieCfgWrite d ⟨.both, v⟩) s = .next t ∧
      (t.eng.dieCfg d).enable = false ∧ t.eng.jobs = s.eng.jobs ∧ t.mem = s.mem) ∧
    (∃ t, exec (.opiPortUp p d) s = .next t ∧ t.eng.opi.ports.getD p.toNat none = some d ∧
      (∀ q : BitVec 3, q ≠ p → t.eng.opi.ports.getD q.toNat none = s.eng.opi.ports.getD q.toNat none) ∧
      t.eng.opi.die = s.eng.opi.die ∧ t.eng.jobs = s.eng.jobs ∧ t.mem = s.mem) ∧
    (∃ t, exec (.diePortDown p) s = .next t ∧ t.eng.opi.ports.getD p.toNat none = none ∧
      (c.enable = true → c.portMask.getLsbD p.toNat = true → (t.eng.dieCfg d).enable = false)) ∧
    (s.eng.svc.power.dormant = false →
      ((s.eng.dieCfg a.die).enable = false → ∃ t, exec (.dieAccess a) s = .next t ∧
        t.eng.out = s.eng.out ++ [.die a.die (.answer a.id stAccessFault [])] ∧ t.eng.opi = s.eng.opi ∧ t.mem = s.mem) ∧
      ((s.eng.dieCfg a.die).enable = true → s.eng.flt.fatal = false → s.eng.active (.region a.die) = false ∨ s.eng.testing 5 a.die.toNat = true →
        ∃ t, exec (.dieAccess a) s = .next t ∧ { a := a, req := none } ∈ t.eng.opi.serving ∧ t.eng.jobs = s.eng.jobs ∧ t.mem = s.mem) ∧
      ((s.eng.dieCfg a.die).enable = true → s.eng.flt.fatal = false → s.eng.active (.region a.die) = true →
        s.eng.testing 5 a.die.toNat = false → (s.eng.pdk a.paddock).dieMask.getLsbD a.die.toNat = false →
        ∃ t, exec (.dieAccess a) s = .next t ∧ Out.die a.die (.answer a.id stPaddockFault []) ∈ t.eng.out ∧
          t.eng.jobs = s.eng.jobs ∧ t.mem = s.mem) ∧
      (∀ q, (s.eng.dieCfg a.die).enable = true → s.eng.flt.fatal = false → s.eng.active (.region a.die) = true →
        s.eng.testing 5 a.die.toNat = false → (s.eng.pdk a.paddock).dieMask.getLsbD a.die.toNat = true →
        s.eng.translate a.die a.paddock a.va.toNat 0 a.len { write := a.write, stackOnly := true } = .ok q →
        ∃ t, exec (.dieAccess a) s = .next t ∧
          { a := a, req := some (if s.eng.canServe q = true then q else { q with waiting := true }) } ∈ t.eng.opi.serving ∧
          t.eng.jobs = s.eng.jobs ∧ t.mem = s.mem))

/-- A peer's put, get or accumulate is taken, translated and answered, refused during a reset, or fails with PADDOCK_FAULT. -/
def Obligations.PeerRequestsAreServedOrRefused : Prop :=
  ∀ (s : State) (q : PeerReq) (i : Instr) (op : PeerOp), s.Live →
    ((∃ bs sc, i = .peerPut q bs sc ∧ op = .put sc) ∨ (i = .peerGet q ∧ op = .get) ∨
      (∃ o ty bs f ps, i = .peerAccumulate q o ty bs f ps ∧ op = .acc o ty f ps)) →
    let want : Want := match op with
      | .get => { write := false }
      | .put _ => { write := true }
      | .acc _ _ _ _ => { write := true, stackOnly := true }
    let r : Region := BitVec.ofNat 2 (q.va.toNat / 65536)
    (s.eng.svc.power.dormant = false →
      (s.eng.refusing = true → ∃ t, exec i s = .next t ∧ Out.npi q.dev (.refused q.id) ∈ t.eng.out ∧
        t.eng.npi.serving = s.eng.npi.serving ∧ t.eng.jobs = s.eng.jobs ∧ t.mem = s.mem) ∧
      (s.eng.refusing = false → s.eng.flt.fatal = false → s.eng.active (.region r) = false ∨ s.eng.testing 5 r.toNat = true →
        ∃ t y, exec i s = .next t ∧ t.eng.npi.serving = s.eng.npi.serving ++ [y] ∧ y.id = s.eng.npi.nextReq ∧ y.q = q ∧ y.op = op ∧
          y.req = none ∧ t.eng.jobs = s.eng.jobs ∧ t.mem = s.mem) ∧
      (s.eng.refusing = false → s.eng.flt.fatal = false → s.eng.active (.region r) = true → s.eng.testing 5 r.toNat = false →
        (s.eng.reaches s.mem r q.paddock q.dev).1 = false → (∀ x ∈ s.eng.npi.serving, x.id ≠ s.eng.npi.nextReq) →
        ∃ t, exec i s = .next t ∧ t.eng.npi.serving = s.eng.npi.serving ∧ t.eng.jobs = s.eng.jobs ∧ t.mem = s.mem ∧
          (op = .get → Out.npi q.dev (.data q.id stPaddockFault [] []) ∈ t.eng.out) ∧
          (op ≠ .get → Out.npi q.dev (.ack q.id stPaddockFault 0 0) ∈ t.eng.out)) ∧
      (∀ x n pa, s.eng.refusing = false → s.eng.flt.fatal = false → s.eng.active (.region r) = true → s.eng.testing 5 r.toNat = false →
        (s.eng.reaches s.mem r q.paddock q.dev).1 = true →
        s.eng.translate r q.paddock q.va.toNat q.bit.toNat ((q.bit.toNat + q.bits + 7) / 8) want = .ok x → x.dest = .stack n pa →
        ∃ t y, exec i s = .next t ∧ y ∈ t.eng.npi.serving ∧ y.id = s.eng.npi.nextReq ∧ y.q = q ∧ y.op = op ∧
          y.req = some { x with waiting := !s.eng.canServe x } ∧
          t.eng.npi.nextReq = s.eng.npi.nextReq + 1 ∧ t.eng.jobs = s.eng.jobs ∧ t.mem = s.mem)) ∧
    (∀ id y x n pa tg, s.eng.npi.serving.find? (fun z => z.id = id) = some y → y.q = q → y.op = op → y.req = some x →
      x.dest = .stack n pa → x.waiting = false →
      (op = .get → y.spoilt = [] → s.eng.atDrover x n false = .tag tg none → ∃ t, exec (.readReturn (.peer id) ⟨0, [], []⟩) s = .next t ∧
        t.eng.out = s.eng.out ++ [.npi q.dev (.data q.id stOk [] (s.mem.bytes tg pa ((q.bit.toNat + q.bits + 7) / 8)))] ∧
        t.mem = s.mem ∧ t.eng.jobs = s.eng.jobs) ∧
      (op ≠ .get → MemInv s → 0 < q.ebits → s.eng.atDrover x n true = .tag tg none → ∃ t c,
        exec (.writeAck (.peer id) ⟨0, [], 0, 0⟩) s = .next t ∧ Out.npi q.dev (.ack q.id stOk c y.replaced) ∈ t.eng.out ∧
        (∀ k, (k + 1) * q.ebits ≤ q.bits →
          let at_ := q.bit.toNat + k * q.ebits
          let sent := leNat y.bytes / 2 ^ at_ % 2 ^ q.ebits
          let old := s.mem.bitsAt tg (pa + at_ / 8) (at_ % 8) q.ebits
          t.mem.bitsAt tg (pa + at_ / 8) (at_ % 8) q.ebits = match op with
            | .acc o ty fill ps => (if ps.contains k then fill.toNat else accCombine ty o old sent) % 2 ^ q.ebits
            | _ => sent) ∧
        (∀ g b, (b < pa ∨ pa + (q.bit.toNat + q.bits + 7) / 8 ≤ b) → t.mem.byte g b = s.mem.byte g b) ∧ t.eng.jobs = s.eng.jobs))

/-- Results, withdrawals, retries, reset notices, deadlines, long waits and freed records act on the wait or release they name. -/
def Obligations.PeerAndWaitEventsEndWhatTheyMust : Prop :=
  ∀ (s : State) (d : DevNum) (c : CtxNum) (id : Nat) (st : Status) (det : Word) (h : Word) (j : Job), s.Live →
    let kept := fun (t : State) => t.eng.syn.flags = s.eng.syn.flags ∧ t.mem = s.mem
    let calm := fun (p : Wait → Prop) => (∀ w ∈ s.eng.syn.waits, p w → s.eng.active (.region (flagRegion w.flag)) = true ∧
        ((s.eng.regionCtl (flagRegion w.flag)).lendEn = false ∨ ∀ k ∈ s.eng.jobs, s.eng.longHeld k = false) ∧ w.firedBy s.eng.now = false) ∧
      ∀ v ∈ s.eng.syn.events, ∀ w, v.act.registers = some w → ¬ p w
    (s.eng.svc.power.dormant = false →
      (s.eng.jobs.find? (fun k => k.ctx = c && k.waitId = some id && k.stage = .waiting && k.syncSent && k.syncDev = d) = some j →
        s.eng.job j.handle = some j → j.answer = none →
        ∃ t j', exec (.remoteWaitResult d c id st det) s = .next t ∧ t.eng.job j.handle = some j' ∧ kept t ∧
          (s.eng.active (.region j.lead) = true → j'.stage = .finished ∧ j'.status = st ∧ j'.detail = det) ∧
          (s.eng.active (.region j.lead) = false → j'.stage = .waiting ∧ j'.answer = some (st, det, s.eng.now))) ∧
      (calm (fun w => w.who = .peer d c id) → ∃ t, exec (.waitWithdrawal d c id) s = .next t ∧
        (∀ w ∈ t.eng.syn.waits, w ∈ s.eng.syn.waits ∧ w.who ≠ .peer d c id) ∧
        (∀ w ∈ s.eng.syn.waits, (∀ x ∈ s.eng.syn.waits ++ s.eng.syn.held, x.who = .peer d c id → x.id ≠ w.id) → w ∈ t.eng.syn.waits) ∧
        t.eng.jobs = s.eng.jobs ∧ kept t) ∧
      (∀ w, s.eng.homeWaits.filter (fun x => x.who = .peer d c id) = [w] → (∀ x ∈ s.eng.syn.held, x.who ≠ .peer d c id) →
        s.eng.homeRuns (flagRegion w.flag) = false → ∃ t v, exec (.waitWithdrawal d c id) s = .next t ∧
          t.eng.syn.waits = s.eng.syn.waits ∧ t.eng.syn.events = s.eng.syn.events ++ [v] ∧ v.act = .ends w none ∧
          t.eng.jobs = s.eng.jobs ∧ kept t) ∧
      (calm (fun w => ∃ c' i', w.who = .peer d c' i') → ∃ t, exec (.peerResetNotice d) s = .next t ∧
        (∀ w ∈ t.eng.syn.waits, ∀ c' i', w.who ≠ .peer d c' i') ∧ kept t)) ∧
    (s.eng.mute = false → s.eng.job h = some j → j.opcode = opFlagWait → j.stage = .waiting → j.syncSent = true → j.answer = none →
      ∃ t, exec (.remoteWaitRetry h) s = .next t ∧ s.eng.sameJobs t.eng ∧ kept t ∧
        t.eng.out = s.eng.out ++ [.npi j.syncDev (.wait
          { dev := s.eng.device, src := ctxSrc j.ctx, ctx := j.ctx, id := j.waitId.getD 0, paddock := j.paddock,
            scope := scopeOf j.scopeCode, stamp := t.eng.now }
          ((j.w 1).extractLsb' 0 18) (bitOf (j.w 3) 0) ((j.w 2).extractLsb' 0 48))]) ∧
    (∀ o, s.eng.mute = false → s.eng.sentMsg id = some o → ∃ t, exec (.peerRefusalResend id) s = .next t ∧
      t.eng.out = s.eng.out ++ [o] ∧ s.eng.sameJobs t.eng ∧ kept t) ∧
    (s.eng.mute = true → exec (.peerRefusalResend id) s = .next s ∧ exec (.remoteWaitRetry h) s = .next s) ∧
    (∀ x f, s.eng.npi.heldSync.find? (fun y => y.m.dev = d && y.m.ctx = c) = some x → x.behind = [] → s.eng.atHome d c = false → x.op = .set f →
      (s.eng.homeRuns (flagRegion f) = true → s.eng.homeCheck x.m.dev false = none → s.eng.flagOpen f x.m.paddock = true →
        ∃ t, exec (.releasePassToSyn d c) s = .next t ∧ t.eng.npi.heldSync = s.eng.npi.heldSync.erase x ∧
          t.eng.flag f = { s.eng.flag f with value := true, scope := x.m.scope, lastDev := x.m.dev, lastSrc := x.m.src, changed := true } ∧
          (∀ g, g ≠ f → t.eng.flag g = s.eng.flag g) ∧ Out.npi x.m.dev (.ack x.m.id stOk 0 0) ∈ t.eng.out ∧ t.mem = s.mem) ∧
      (s.eng.homeRuns (flagRegion f) = false → ∃ t v, exec (.releasePassToSyn d c) s = .next t ∧
        t.eng.npi.heldSync = s.eng.npi.heldSync.erase x ∧ t.eng.syn.events = s.eng.syn.events ++ [v] ∧ v.act = .flag f true ∧ kept t)) ∧
    (∀ w, s.eng.syn.waits.find? (fun x => x.id = id) = some w →
      (∀ n, w.timeout = some n → w.who = .job h → s.eng.job h = some j → j.stage = .waiting → j.answer = none →
        s.eng.active (.region (flagRegion w.flag)) = true → s.eng.active (.region j.lead) = true →
        ∃ t j', exec (.waitDeadline id) s = .next t ∧
          (∀ x ∈ t.eng.syn.waits, x.id ≠ id) ∧ t.eng.job h = some j' ∧ j'.stage = .finished ∧ j'.status = stTimeout ∧ kept t) ∧
      (∀ n, w.timeout = some n → s.eng.homeRuns (flagRegion w.flag) = false → ∃ t v, exec (.waitDeadline id) s = .next t ∧
        (∀ x ∈ t.eng.syn.waits, x.id ≠ id) ∧ v ∈ t.eng.syn.events ∧ v.act = .expire w ∧ kept t) ∧
      (∀ n, w.timeout = some n → n < 4000 → exec (.longWait id) s = .next s) ∧
      ((∀ n, w.timeout = some n → 4000 ≤ n) →
        ∃ t x, exec (.longWait id) s = .next t ∧ x ∈ t.eng.syn.waits ∧ x.id = id ∧ x.long = true ∧ kept t)) ∧
    (∀ w, s.eng.syn.held.find? (fun x => x.id = id) = some w → s.eng.waitRecords (flagRegion w.flag) < 16384 →
      s.eng.homeRuns (flagRegion w.flag) = true → (∀ d' c' i', w.who = .peer d' c' i' → s.eng.homeCheck d' true = none) →
      s.eng.flagOpen w.flag (s.eng.waiterPaddock w.who) = true → (s.eng.flag w.flag).value = w.forClear → w.timeout ≠ some 0 →
      ∃ t x, exec (.waitRecordObtained id) s = .next t ∧ x ∈ t.eng.syn.waits ∧ x.id = id ∧ x.flag = w.flag ∧ x.who = w.who ∧
        x.start = s.eng.now ∧ (∀ y ∈ t.eng.syn.held, y.id ≠ id) ∧ kept t) ∧
    ((∀ k ∈ s.eng.jobs, k.unreachable d = k) → ∃ t, exec (.routeLost d) s = .next t ∧ d ∈ t.eng.npi.lost ∧ kept t ∧
      (∀ j ∈ s.eng.jobs, s.eng.job j.handle = some j → j.stage = .waiting → j.syncSent = true → j.syncDev = d → j.answer = none →
        ∃ j' ∈ t.eng.jobs, j'.handle = j.handle ∧ (j'.stage = .finished ∧ j'.status = stUnreachable ∨
          j.opcode = opFlagWait ∧ ∃ a r, j'.answer = some (stUnreachable, a, r))) ∧
      (∀ j ∈ s.eng.jobs, (∀ x ∈ s.eng.jobs, x.handle = j.handle → ¬ (x.stage = .waiting ∧ x.syncSent = true ∧ x.syncDev = d)) →
        ∃ j' ∈ t.eng.jobs, j'.handle = j.handle ∧ j'.stage = j.stage ∧ j'.status = j.status))

/-- An expired quantum is drawn again, a starved competitor is marked, and a holder asked to yield is saved or cut off. That a class A descriptor is cut off back to the
boundary like another, and what it has applied is not applied again, is the model's reading, log 40; that a competitor whose grants last one cycle leaves its level's
bit alone is log 22. -/
def Obligations.QuantaStarvationAndPreemption : Prop :=
  ∀ (s : State) (x : Holder) (h : Word) (j : Job) (c : CtxNum), s.Live → s.eng.halted = false →
    let kept := fun (t : State) => s.eng.sameCtxs t.eng ∧ t.mem = s.mem
    let starved := fun (t : State) (l : Nat) => t.eng.svc.arbStarved.getLsbD l = true ∧ kept t
    (let l := holderLevel x
     s.eng.holderJob x = some j → (s.eng.arbCfg l).quantum ≠ 0 → j.yieldAt = none →
        s.eng.waitersOf j l ≠ [] ∨ s.eng.testersOf j l ≠ [] →
      let draw := (s.eng.drawFor j.lead l (inOrder (j :: s.eng.waitersOf j l)) (s.eng.testersOf j l)).1
      (s.eng.storeFull j.lead = true → ∃ t, exec (.quantumExpiry x) s = .next t ∧ s.eng.sameJobs t.eng ∧ kept t) ∧
      (∀ k, s.eng.storeFull j.lead = false → draw = some (.job k) → ∃ t j', exec (.quantumExpiry x) s = .next t ∧
        t.eng.job j.handle = some j' ∧ kept t ∧
        (k.handle ≠ j.handle → j'.yieldAt = some t.eng.now ∧ j'.yieldTo = some k.handle ∧ j'.yieldLevel = l) ∧
        (k.handle = j.handle → j'.quantumOf l = t.eng.now)) ∧
      (∀ k, s.eng.storeFull j.lead = false → draw = some (.test k) → ∃ t j', exec (.quantumExpiry x) s = .next t ∧
        t.eng.job j.handle = some j' ∧ j'.yieldAt = some t.eng.now ∧ j'.yieldTo = none ∧ j'.yieldLevel = l ∧
        (t.eng.bistOf k).won = true ∧ kept t)) ∧
    (s.eng.job h = some j → s.eng.eligible j = true → j.starved = none → j.tickets ≠ 0 → s.eng.active (.region j.lead) = true →
      let l := if j.waitsAt 1 then 1 else 2
      (s.eng.arbCfg l).starve ≠ 0 → ∃ t j', exec (.starvation (.job h)) s = .next t ∧ t.eng.job h = some j' ∧
        j'.starved = some t.eng.now ∧ starved t l) ∧
    ((s.eng.arbCfg 3).starve ≠ 0 → s.eng.fetchReady c = true → (s.eng.ctx c).tickets ≠ 0 → s.eng.engineRuns = true →
      (∀ y ∈ s.eng.rfe.starvedCtx, y.1 ≠ c) → ∃ t, exec (.starvation (.ctx c)) s = .next t ∧
        t.eng.rfe.starvedCtx = s.eng.rfe.starvedCtx ++ [(c, t.eng.now)] ∧ s.eng.sameJobs t.eng ∧ starved t 3) ∧
    (∀ (l : Level) (n : Nat) (who : PortUser) (p : PortWait),
      s.eng.svc.ports.find? (fun p => p.level = l && p.port = n && p.who = who) = some p → (s.eng.arbCfg l.toNat).starve ≠ 0 →
      p.parked = none → p.starved = none → s.eng.portTickets p ≠ 0 → s.eng.portRuns n = true →
      ∃ t, exec (.starvation (.port l n who)) s = .next t ∧ s.eng.sameJobs t.eng ∧ starved t l.toNat ∧
        ∃ q ∈ t.eng.svc.ports, q.level = l ∧ q.port = n ∧ q.who = who ∧ q.starved = some t.eng.now) ∧
    (∀ b : BistTarget, let k := BistTarget.key b
      let l := testLevel b.row.toNat
      s.eng.active (testDomain b.row.toNat b.inst.toNat) = true → (s.eng.bistOf k).wants = true → (s.eng.bistOf k).starved = none → s.eng.svc.bistTickets ≠ 0 →
      (s.eng.arbCfg l).starve ≠ 0 → ∃ t, exec (.starvation (.test b)) s = .next t ∧
        (t.eng.bistOf k).starved = some t.eng.now ∧ starved t l) ∧
    (∀ l : Level, (s.eng.arbCfg l.toNat).starve ≠ 0 → ∃ t, exec (.starvation (.brief l)) s = .next t ∧ s.eng.sameJobs t.eng ∧
      t.eng.now = s.eng.now ∧ starved t l.toNat) ∧
    (∀ t0, s.eng.job h = some j → j.yieldAt = some t0 → j.walker.isSome = true → j.stage = .running →
      let saved := fun (i : Instr) => ∃ t j', exec i s = .next t ∧ t.eng.job h = some j' ∧ j'.stage = .queued ∧ j'.slot = true ∧
        j'.walker = none ∧ j'.units = 0 ∧ j'.compressor = (j.compressor && decide (j.yieldLevel ≠ 1)) ∧ j'.yieldAt = none ∧ kept t ∧
        (i = .cutoff h → (j.yieldLevel < 4 → t.eng.svc.arbCut.getLsbD j.yieldLevel = true) ∧
          (j.opcode ≠ opExpand → j'.emitted = j.cutTo))
      (s.eng.canSave j = true → saved (.preemptSave h)) ∧
      (s.eng.canSave j = false → exec (.preemptSave h) s = .next s) ∧
      (s.eng.canSave j = false → (s.eng.arbCfg j.yieldLevel).cutoff ≠ 0 → j.over = false → (j.cls = .a → j.cutReady = true) →
        saved (.cutoff h)))

/-- AO_RESET_L puts every register at its reset value, the phases follow each other to READY, and the supply check fails by its first bad input. What the reset keeps
(the memory map and the repair fuses) is the model's reading, logs 43 and 57; that an absent core supply fails the supply check as VOLTAGE is log 55. -/
def Obligations.ColdStartRunsItsPhases : Prop :=
  ∀ (s : State),
    let pins := s.eng.pins
    let reset := fun (high : Bool) => ({ State.reset.eng with
      pins := { pins with aoResetL := high }, memMap := s.eng.memMap, fuses := s.eng.fuses, freeCount := s.eng.freeCount
      out := s.eng.out } : Eng)
    let st := s.eng.svc.start
    let clockBad := ¬ (1600 ≤ pins.engMhz.toNat ∧ pins.engMhz.toNat ≤ 1850)
    let voltBad := ¬ (720 ≤ pins.vmonMv.toNat ∧ pins.vmonMv.toNat ≤ 820) ∨ pins.corePg = false
    let devBad := pins.devNumValid = false
    (s.Live → exec .aoResetLFall s = .next { s with eng := reset false }) ∧
    (pins.aoResetL = false → exec .aoResetLRise s = .next { s with eng := { reset true with
      svc := { State.reset.eng.svc with start := { phase := 1 } } } }) ∧
    (s.Live → st.ready = false → st.failed = false →
      let runs := fun (n : BitVec 4) => ∃ t, exec (.coldStartPhaseEnd .done) s = .next t ∧ t.eng.svc.start.phase = n ∧
        t.eng.svc.start.failed = false ∧ (n ≠ 9 → t.mem = s.mem) ∧ (n = 6 → t.eng.device = pins.devNum) ∧ (n = 8 → t.eng.cst.lfsr = t.eng.cst.seeds) ∧
        (n = 9 → t.eng.svc.start.ready = true ∧ t.eng.ctxs = [] ∧ t.eng.flt.wdogEn = true ∧ (∀ d, (t.eng.domOf d).st = .sleep) ∧
          (s.eng.storeEntry = none → t.mem = s.mem) ∧ ∀ k, s.eng.storeEntry = some k → t.mem = s.mem.zero k.base k.size)
      (∀ n : BitVec 4, 1 ≤ n.toNat → n.toNat ≤ 4 → st.phase = n → runs (n + 1)) ∧
      (st.phase = 5 → ¬ clockBad → ¬ voltBad → ¬ devBad → runs 6) ∧
      (st.phase = 5 → clockBad ∨ voltBad ∨ devBad → exec (.coldStartPhaseEnd .done) s = .next s) ∧
      (st.phase = 6 → s.eng.svc.power.dormant = false → s.eng.allVisited = true → (∀ c, s.eng.mayFail c = false) → runs 7) ∧
      (st.phase = 6 → s.eng.svc.power.dormant = true ∨ s.eng.allVisited = false → (∀ c, s.eng.mayFail c = false) → exec (.coldStartPhaseEnd .done) s = .next s) ∧
      (st.phase = 7 → runs 8) ∧ (st.phase = 8 → runs 9) ∧
      (∀ c, st.phase ≠ 0 → s.eng.mayFail c = true → ∃ t, exec (.coldStartPhaseEnd (.failed c)) s = .next t ∧
        t.eng.svc.start.failed = true ∧ t.eng.svc.start.cause = c ∧ t.eng.svc.start.phase = st.phase ∧ t.mem = s.mem) ∧
      (st.phase = 5 → clockBad ∨ voltBad ∨ devBad → ∃ t, exec .supplyCheckTimeout s = .next t ∧
        t.eng.svc.start.failed = true ∧ t.mem = s.mem ∧
        (clockBad → t.eng.svc.start.cause = 5) ∧ (¬ clockBad → voltBad → t.eng.svc.start.cause = 6) ∧
        (¬ clockBad → ¬ voltBad → t.eng.svc.start.cause = 7)))
end

