-- ==== Sys2Proof/Laws/Maps.lean ====
section
/-! SUPPORT. What reading a sparse map or a table gives after it is written, and that writing keeps the canonical form. -/

namespace Sys2Proof.Machine

variable {α : Type}

@[simp] theorem mapGet_nil (d : α) (k : Nat) : mapGet d [] k = d := rfl

/-- Keys beyond every listed one read as the default. -/
theorem mapGet_of_lt (d : α) (m : SMap α) (k : Nat) (h : ∀ p ∈ m, k < p.1) : mapGet d m k = d := by
  induction m with
  | nil => rfl
  | cons p m ih =>
    have hp := h p (by simp)
    have hne : ¬ p.1 = k := by omega
    simp only [mapGet, hne, if_false]
    exact ih fun q hq => h q (by simp [hq])

/-- What is read is the default or listed. -/
theorem mapGet_mem (d : α) (m : SMap α) (k : Nat) : mapGet d m k = d ∨ (k, mapGet d m k) ∈ m := by
  induction m with
  | nil => exact .inl rfl
  | cons p m ih =>
    rcases p with ⟨k', v⟩
    by_cases h : k' = k
    · subst h; right; simp [mapGet]
    · simp only [mapGet, h, if_false]
      rcases ih with ih | ih
      · exact .inl ih
      · exact .inr (List.mem_cons_of_mem _ ih)

variable [DecidableEq α]

/-- A write leaves every other key as it reads. -/
@[simp] theorem mapGet_mapSet_ne (d : α) (m : SMap α) (k k' : Nat) (v : α) (h : k' ≠ k) :
    mapGet d (mapSet d m k v) k' = mapGet d m k' := by
  have h' : ¬ k = k' := fun e => h e.symm
  induction m with
  | nil =>
    simp only [mapSet]
    split <;> simp [mapGet, h']
  | cons p m ih =>
    rcases p with ⟨k₁, v₁⟩
    simp only [mapSet]
    split
    · split <;> simp [mapGet, h']
    · split
      · rename_i h1 h2
        subst h2
        split <;> simp [mapGet, h']
      · by_cases h3 : k₁ = k' <;> simp [mapGet, h3, ih]

/-- A written key reads as what was written, if that is not the default. -/
theorem mapGet_mapSet_self_ne (d : α) (m : SMap α) (k : Nat) (v : α) (h : v ≠ d) : mapGet d (mapSet d m k v) k = v := by
  induction m with
  | nil => simp [mapSet, h, mapGet]
  | cons p m ih =>
    rcases p with ⟨k₁, v₁⟩
    simp only [mapSet, h, if_false]
    split
    · simp [mapGet]
    · split
      · simp [mapGet]
      · rename_i h1 h2
        simp [mapGet, h2, ih]

/-- A written key reads as what was written, in a map of canonical form. -/
theorem mapGet_mapSet_self (d : α) (m : SMap α) (k : Nat) (v : α) (w : MapWf d m) : mapGet d (mapSet d m k v) k = v := by
  by_cases h : v = d
  · subst h
    induction m with
    | nil => simp [mapSet]
    | cons p m ih =>
      rcases p with ⟨k₁, v₁⟩
      have wp := List.pairwise_cons.mp w.1
      have wm : MapWf v m := ⟨wp.2, fun q hq => w.2 q (List.mem_cons_of_mem _ hq)⟩
      simp only [mapSet, if_true]
      split
      · rename_i h1
        apply mapGet_of_lt
        intro q hq
        rcases List.mem_cons.mp hq with rfl | hq
        · exact h1
        · have := wp.1 q hq; simp at this; omega
      · split
        · rename_i h1 h2
          subst h2
          exact mapGet_of_lt _ _ _ fun q hq => wp.1 q hq
        · rename_i h1 h2
          simp only [mapGet, h2, if_false]
          exact ih wm
  · exact mapGet_mapSet_self_ne d m k v h

/-- A write keeps a lower bound of the keys. -/
theorem mapSet_lower (d : α) (m : SMap α) (k : Nat) (v : α) (b : Nat) (hm : ∀ p ∈ m, b < p.1) (hk : b < k) :
    ∀ p ∈ mapSet d m k v, b < p.1 := by
  induction m with
  | nil =>
    intro p hp
    simp only [mapSet] at hp
    split at hp
    · simp at hp
    · simp at hp; simp [hp, hk]
  | cons q m ih =>
    rcases q with ⟨k₁, v₁⟩
    have h1 := hm (k₁, v₁) (by simp)
    have hr : ∀ p ∈ m, b < p.1 := fun p hp => hm p (by simp [hp])
    intro p hp
    simp only [mapSet] at hp
    split at hp
    · split at hp
      · exact hm p hp
      · rcases List.mem_cons.mp hp with rfl | hp
        · exact hk
        · exact hm p hp
    · split at hp
      · split at hp
        · exact hr p hp
        · rcases List.mem_cons.mp hp with rfl | hp
          · exact hk
          · exact hr p hp
      · rcases List.mem_cons.mp hp with rfl | hp
        · exact h1
        · exact ih hr p hp

/-- A write keeps the canonical form. -/
theorem mapSet_wf (d : α) (m : SMap α) (k : Nat) (v : α) (w : MapWf d m) : MapWf d (mapSet d m k v) := by
  induction m with
  | nil =>
    simp only [mapSet]
    split
    · exact w
    · rename_i h
      exact ⟨by simp, by simp [h]⟩
  | cons p m ih =>
    rcases p with ⟨k₁, v₁⟩
    have wp := List.pairwise_cons.mp w.1
    have wm : MapWf d m := ⟨wp.2, fun q hq => w.2 q (List.mem_cons_of_mem _ hq)⟩
    have hv := w.2 (k₁, v₁) (by simp)
    simp only [mapSet]
    split
    · rename_i h1
      split
      · exact w
      · rename_i h2
        refine ⟨List.pairwise_cons.mpr ⟨?_, w.1⟩, ?_⟩
        · intro q hq
          rcases List.mem_cons.mp hq with rfl | hq
          · exact h1
          · have := wp.1 q hq; simp at this ⊢; omega
        · intro q hq
          rcases List.mem_cons.mp hq with rfl | hq
          · exact h2
          · exact w.2 q hq
    · split
      · split
        · exact wm
        · rename_i h1 h2 h3
          subst h2
          refine ⟨List.pairwise_cons.mpr ⟨wp.1, wp.2⟩, ?_⟩
          intro q hq
          rcases List.mem_cons.mp hq with rfl | hq
          · exact h3
          · exact wm.2 q hq
      · rename_i h1 h2
        have i := ih wm
        refine ⟨List.pairwise_cons.mpr ⟨?_, i.1⟩, ?_⟩
        · exact mapSet_lower d m k v k₁ wp.1 (by omega)
        · intro q hq
          rcases List.mem_cons.mp hq with rfl | hq
          · exact hv
          · exact i.2 q hq

@[simp] theorem mapGet_mapUpd_ne (d : α) (m : SMap α) (k k' : Nat) (f : α → α) (h : k' ≠ k) :
    mapGet d (mapUpd d m k f) k' = mapGet d m k' := mapGet_mapSet_ne d m k k' _ h

theorem mapGet_mapUpd_self (d : α) (m : SMap α) (k : Nat) (f : α → α) (w : MapWf d m) :
    mapGet d (mapUpd d m k f) k = f (mapGet d m k) := mapGet_mapSet_self d m k _ w

theorem mapUpd_wf (d : α) (m : SMap α) (k : Nat) (f : α → α) (w : MapWf d m) : MapWf d (mapUpd d m k f) :=
  mapSet_wf d m k _ w

omit [DecidableEq α] in
theorem mapWf_nil (d : α) : MapWf d [] := ⟨List.Pairwise.nil, by simp⟩

omit [DecidableEq α] in
/-- A key that a filter over keys keeps reads as before. -/
theorem mapGet_filter_true (d : α) (m : SMap α) (p : Nat → Bool) (k : Nat) (h : p k = true) :
    mapGet d (m.filter fun c => p c.1) k = mapGet d m k := by
  induction m with
  | nil => rfl
  | cons c m ih =>
    by_cases hk : c.1 = k
    · simp [List.filter, hk, h, mapGet]
    · by_cases hc : p c.1 = true <;> simp [List.filter, hc, mapGet, hk, ih]

omit [DecidableEq α] in
/-- A key that a filter over keys drops reads as the default. -/
theorem mapGet_filter_false (d : α) (m : SMap α) (p : Nat → Bool) (k : Nat) (h : p k = false) :
    mapGet d (m.filter fun c => p c.1) k = d := by
  induction m with
  | nil => rfl
  | cons c m ih =>
    by_cases hk : c.1 = k
    · simp [List.filter, hk, h, ih]
    · by_cases hc : p c.1 = true <;> simp [List.filter, hc, mapGet, hk, ih]


omit [DecidableEq α] in
/-- The canonical form keeps under a filter. -/
theorem mapWf_filter (d : α) (m : SMap α) (p : Nat × α → Bool) (w : MapWf d m) : MapWf d (m.filter p) :=
  ⟨w.1.filter _, fun q hq => w.2 q (List.mem_filter.mp hq).1⟩

/-! ### Tables -/

omit [DecidableEq α] in
@[simp] theorem padRow_length (d : α) (n : Nat) (l : List α) : (padRow d n l).length = n := by
  induction n generalizing l with
  | zero => rfl
  | succ n ih => simp [padRow, ih]

omit [DecidableEq α] in
theorem padRow_getD (d : α) (n : Nat) (l : List α) (i : Nat) (h : i < n) : (padRow d n l).getD i d = l.getD i d := by
  induction n generalizing l i with
  | zero => omega
  | succ n ih =>
    cases i with
    | zero => cases l <;> simp [padRow]
    | succ i =>
      have := ih l.tail i (by omega)
      cases l <;> simp_all [padRow]

omit [DecidableEq α] in
@[simp] theorem setRow_length (d : α) (n : Nat) (l : List α) (i : Nat) (x : α) : (setRow d n l i x).length = n := by
  simp [setRow]

omit [DecidableEq α] in
theorem setRow_getD (d : α) (n : Nat) (l : List α) (i k : Nat) (x : α) (hk : k < n) :
    (setRow d n l i x).getD k d = if k = i then x else l.getD k d := by
  unfold setRow
  by_cases h : k = i
  · subst h; simp [List.getD, hk]
  · have h' : ¬ i = k := fun e => h e.symm
    have := padRow_getD d n l k hk
    simp only [List.getD, List.getElem?_set, h, h', if_false] at this ⊢
    exact this

end Sys2Proof.Machine
end

