-- ==== Sys2Proof/Laws/Memory.lean ====
section
/-! SUPPORT. The stacks' memory: what a read gives after writes, that writes keep the canonical form, and that numbers survive
their bytes. -/

namespace Sys2Proof.Machine

/-! ### One byte -/

@[simp] theorem Memory.byte_setByte_ne (m : Memory) (g : Tag) (a : Nat) (x : Byte) (k : Tag) (b : Nat) (h : b ≠ a) :
    (m.setByte g a x).byte k b = m.byte k b := by
  simp [Memory.byte, Memory.setByte, h]

theorem Memory.byte_setByte_self (m : Memory) (w : m.wf) (g : Tag) (a : Nat) (x : Byte) :
    (m.setByte g a x).byte g a = x := by
  simp [Memory.byte, Memory.setByte, mapGet_mapSet_self _ _ _ _ w.1, mapGet_mapSet_self _ _ _ _ w.2]

theorem Memory.setByte_wf (m : Memory) (w : m.wf) (g : Tag) (a : Nat) (x : Byte) : (m.setByte g a x).wf :=
  ⟨mapSet_wf _ _ _ _ w.1, mapSet_wf _ _ _ _ w.2⟩

/-! ### Bytes written in a row -/

theorem Memory.write_wf (g : Tag) (bs : List Byte) (m : Memory) (a : Nat) (w : m.wf) : (m.write g a bs).wf := by
  induction bs generalizing m a with
  | nil => exact w
  | cons b bs ih => exact ih _ _ (Memory.setByte_wf m w g a b)

/-- Outside the bytes written a byte reads under every tag as before. -/
theorem Memory.byte_write_out (g : Tag) (bs : List Byte) (m : Memory) (a : Nat) (k : Tag) (b : Nat)
    (h : b < a ∨ a + bs.length ≤ b) : (m.write g a bs).byte k b = m.byte k b := by
  induction bs generalizing m a with
  | nil => rfl
  | cons x bs ih =>
    simp only [List.length_cons] at h
    simp only [Memory.write]
    rw [ih _ (a + 1) (by omega), Memory.byte_setByte_ne]
    omega

/-- A written byte reads under its tag as what was written. -/
theorem Memory.byte_write_in (g : Tag) (bs : List Byte) (m : Memory) (a : Nat) (w : m.wf) (i : Nat) (h : i < bs.length) :
    (m.write g a bs).byte g (a + i) = bs[i] := by
  induction bs generalizing m a i with
  | nil => simp at h
  | cons x bs ih =>
    simp only [Memory.write]
    cases i with
    | zero =>
      rw [Memory.byte_write_out g bs _ _ _ _ (by omega)]
      exact Memory.byte_setByte_self m w g a x
    | succ i =>
      have := ih (m.setByte g a x) (a + 1) (Memory.setByte_wf m w g a x) i (by simpa using h)
      rw [show a + 1 + i = a + (i + 1) by omega] at this
      simpa using this

@[simp] theorem Memory.bytes_length (m : Memory) (g : Tag) (a n : Nat) : (m.bytes g a n).length = n := by
  simp [Memory.bytes]

theorem Memory.bytes_getElem (m : Memory) (g : Tag) (a n i : Nat) (h : i < n) :
    (m.bytes g a n)[i]'(by simpa using h) = m.byte g (a + i) := by
  simp [Memory.bytes]

/-- The bytes written read back under their tag. -/
theorem Memory.bytes_write (g : Tag) (bs : List Byte) (m : Memory) (a : Nat) (w : m.wf) :
    (m.write g a bs).bytes g a bs.length = bs := by
  apply List.ext_getElem
  · simp
  · intro i h1 h2
    rw [Memory.bytes_getElem _ _ _ _ _ h2]
    exact Memory.byte_write_in g bs m a w i h2

/-- Bytes that lie outside what is written read as before. -/
theorem Memory.bytes_write_out (g : Tag) (bs : List Byte) (m : Memory) (a : Nat) (k : Tag) (b n : Nat)
    (h : b + n ≤ a ∨ a + bs.length ≤ b) : (m.write g a bs).bytes k b n = m.bytes k b n := by
  apply List.ext_getElem
  · simp
  · intro i h1 h2
    have hi : i < n := by simpa using h2
    rw [Memory.bytes_getElem _ _ _ _ _ hi, Memory.bytes_getElem _ _ _ _ _ hi]
    exact Memory.byte_write_out g bs m a k _ (by omega)

/-! ### A range zeroed -/

theorem Memory.zero_wf (m : Memory) (w : m.wf) (a n : Nat) : (m.zero a n).wf := ⟨mapWf_filter _ _ _ w.1, mapWf_filter _ _ _ w.2⟩

/-- Outside the range every byte reads under every tag as before. -/
theorem Memory.byte_zero_out (m : Memory) (a n : Nat) (k : Tag) (b : Nat) (h : b < a ∨ a + n ≤ b) :
    (m.zero a n).byte k b = m.byte k b := by
  have hp : (!(decide (a ≤ b) && decide (b < a + n))) = true := by
    rcases h with h | h <;> simp <;> omega
  simp only [Memory.byte, Memory.zero, mapGet_filter_true _ _ (fun k => !(decide (a ≤ k) && decide (k < a + n))) b hp]

/-- Inside the range every byte reads in the clear as unlisted memory does. -/
theorem Memory.byte_zero_in (m : Memory) (a n b : Nat) (h : a ≤ b) (h' : b < a + n) : (m.zero a n).byte .clear b = Memory.blank := by
  have hp : (!(decide (a ≤ b) && decide (b < a + n))) = false := by simp [h, h']
  have e1 := mapGet_filter_false Memory.blank m.cells (fun k => !(decide (a ≤ k) && decide (k < a + n))) b hp
  have e2 := mapGet_filter_false Tag.clear m.tags (fun k => !(decide (a ≤ k) && decide (k < a + n))) b hp
  simp only [Memory.byte, Memory.zero, e1, e2, if_true]

/-! ### Lists of writes -/

@[simp] theorem applyOps_nil (m : Memory) : applyOps m [] = m := rfl

@[simp] theorem applyOps_cons (m : Memory) (o : MemOp) (os : List MemOp) :
    applyOps m (o :: os) = applyOps (m.write o.tag o.addr o.bytes) os := rfl

@[simp] theorem applyOps_append (m : Memory) (xs ys : List MemOp) : applyOps m (xs ++ ys) = applyOps (applyOps m xs) ys := by
  simp [applyOps, List.foldl_append]

theorem applyOps_wf (os : List MemOp) (m : Memory) (w : m.wf) : (applyOps m os).wf := by
  induction os generalizing m with
  | nil => exact w
  | cons o os ih => exact ih _ (Memory.write_wf _ _ _ _ w)

/-- An address that no write covers reads as before. -/
theorem applyOps_byte_out (os : List MemOp) (m : Memory) (k : Tag) (b : Nat)
    (h : ∀ o ∈ os, b < o.addr ∨ o.addr + o.bytes.length ≤ b) : (applyOps m os).byte k b = m.byte k b := by
  induction os generalizing m with
  | nil => rfl
  | cons o os ih =>
    rw [applyOps_cons, ih _ fun x hx => h x (by simp [hx])]
    exact Memory.byte_write_out _ _ _ _ _ _ (h o (by simp))

/-! ### Numbers and bytes -/

@[simp] theorem leBytes_length (n v : Nat) : (leBytes n v).length = n := by
  induction n generalizing v with
  | zero => rfl
  | succ n ih => simp [leBytes, ih]

theorem leNat_leBytes (n v : Nat) : leNat (leBytes n v) = v % 256 ^ n := by
  induction n generalizing v with
  | zero => simp [leBytes, leNat, Nat.mod_one]
  | succ n ih =>
    have := Nat.mod_mul (x := v) (a := 256) (b := 256 ^ n)
    simp only [leBytes, leNat, ih, BitVec.toNat_ofNat, show (2 : Nat) ^ 8 = 256 from rfl]
    rw [Nat.pow_succ, Nat.mul_comm (256 ^ n) 256, this]

theorem leNat_lt (bs : List Byte) : leNat bs < 256 ^ bs.length := by
  induction bs with
  | nil => simp [leNat]
  | cons b bs ih =>
    have hb := b.isLt
    simp only [leNat, List.length_cons, Nat.pow_succ]
    omega

/-- A list of bytes is the bytes of its number. -/
theorem leBytes_leNat (bs : List Byte) : leBytes bs.length (leNat bs) = bs := by
  induction bs with
  | nil => rfl
  | cons b bs ih =>
    have hb := b.isLt
    simp only [List.length_cons, leBytes, leNat]
    congr 1
    · apply BitVec.eq_of_toNat_eq
      simp only [BitVec.toNat_ofNat]
      omega
    · rw [show (b.toNat + 256 * leNat bs) / 256 = leNat bs by omega]
      exact ih

@[simp] theorem Memory.putBits_length (m : Memory) (g : Tag) (a bit bits v : Nat) :
    (m.putBits g a bit bits v).bytes.length = (bit + bits + 7) / 8 := by
  simp [Memory.putBits]

@[simp] theorem Memory.putBits_addr (m : Memory) (g : Tag) (a bit bits v : Nat) : (m.putBits g a bit bits v).addr = a := rfl

@[simp] theorem Memory.putBits_tag (m : Memory) (g : Tag) (a bit bits v : Nat) : (m.putBits g a bit bits v).tag = g := rfl

end Sys2Proof.Machine
end

