-- ==== Sys2Proof/Laws/Journal.lean ====
section
/-! SUPPORT. Journal records: what a record's 32 bytes give back (12: R393, R394), and host memory that holds some bytes. -/

namespace Sys2Proof.Machine

@[simp] theorem JKind.ofCode_code (k : JKind) : JKind.ofCode k.code = some k := by cases k <;> rfl

theorem JKind.code_lt (k : JKind) : k.code < 16 := by cases k <;> decide

@[simp] theorem ofBit_mod (b : Bool) : ofBit b % 2 = ofBit b := by cases b <;> rfl

theorem ofBit_le (b : Bool) : ofBit b ≤ 1 := by cases b <;> decide

@[simp] theorem ofBit_eq_one (b : Bool) : decide (ofBit b = 1) = b := by cases b <;> rfl

/-- The fourth word of a record. -/
def JRec.word3 (r : JRec) : Nat :=
  r.kind.code + 16 * ofBit r.carried + 32 * ofBit r.adopted + 64 * ofBit r.doubt + 256 * r.kspec.toNat

theorem JRec.word3_lt (r : JRec) : r.word3 < 2 ^ 32 := by
  have h1 := r.kind.code_lt
  have h2 := ofBit_le r.carried
  have h3 := ofBit_le r.adopted
  have h4 := ofBit_le r.doubt
  have h5 := r.kspec.isLt
  unfold JRec.word3
  omega

/-- The first 28 bytes of a record. -/
def JRec.head (r : JRec) : List Byte := leBytes 8 r.jseq ++ leBytes 8 r.word1.toNat ++ leBytes 8 r.word2.toNat ++ leBytes 4 r.word3

theorem JRec.bytes_eq (r : JRec) : r.bytes = r.head ++ leBytes 4 (crc32c r.head).toNat := rfl

@[simp] theorem JRec.head_length (r : JRec) : r.head.length = 28 := by simp [JRec.head]

@[simp] theorem JRec.bytes_length (r : JRec) : r.bytes.length = 32 := by simp [JRec.bytes_eq]

/-- A record that stands at its position is read back whole. -/
theorem readRec_bytes (r : JRec) (size : Nat) (h : r.jseq < 2 ^ 64) : readRec size (r.jseq % 2 ^ size) r.bytes = some r := by
  have e1 : r.bytes.take 8 = leBytes 8 r.jseq := by simp [JRec.bytes_eq, JRec.head]
  have e2 : (r.bytes.drop 8).take 8 = leBytes 8 r.word1.toNat := by simp [JRec.bytes_eq, JRec.head]
  have e3 : (r.bytes.drop 16).take 8 = leBytes 8 r.word2.toNat := by
    have d : (leBytes 8 r.jseq).drop 16 = [] := List.drop_eq_nil_of_le (by simp)
    simp [JRec.bytes_eq, JRec.head, List.drop_append, d]
  have e4 : (r.bytes.drop 24).take 4 = leBytes 4 r.word3 := by
    have d : (leBytes 8 r.jseq).drop 24 = [] := List.drop_eq_nil_of_le (by simp)
    have d' : (leBytes 8 r.word1.toNat).drop 16 = [] := List.drop_eq_nil_of_le (by simp)
    simp [JRec.bytes_eq, JRec.head, List.drop_append, d, d']
  have e5 : r.bytes.take 28 = r.head := by simp [JRec.bytes_eq]
  have e6 : (r.bytes.drop 28).take 4 = leBytes 4 (crc32c r.head).toNat := by simp [JRec.bytes_eq]
  have hw := r.word3_lt
  have h1 := r.kind.code_lt
  have h2 := ofBit_le r.carried
  have h3 := ofBit_le r.adopted
  have h4 := ofBit_le r.doubt
  have hc := (crc32c r.head).isLt
  have hn : leNat (leBytes 4 r.word3) = r.word3 := by rw [leNat_leBytes]; omega
  have hk : r.word3 % 16 = r.kind.code := by unfold JRec.word3; omega
  have hca : r.word3 / 16 % 2 = ofBit r.carried := by unfold JRec.word3; omega
  have had : r.word3 / 32 % 2 = ofBit r.adopted := by unfold JRec.word3; omega
  have hdo : r.word3 / 64 % 2 = ofBit r.doubt := by unfold JRec.word3; omega
  have hks : r.word3 / 256 = r.kspec.toNat := by unfold JRec.word3; omega
  have hq : leNat (leBytes 8 r.jseq) = r.jseq := by rw [leNat_leBytes]; omega
  have hw1 : leNat (leBytes 8 r.word1.toNat) = r.word1.toNat := by
    rw [leNat_leBytes]; have := r.word1.isLt; omega
  have hw2 : leNat (leBytes 8 r.word2.toNat) = r.word2.toNat := by
    rw [leNat_leBytes]; have := r.word2.isLt; omega
  have hcr : leNat (leBytes 4 (crc32c r.head).toNat) = (crc32c r.head).toNat := by rw [leNat_leBytes]; omega
  unfold readRec
  simp only [e1, e2, e3, e4, e5, e6, hn, hk, hca, had, hdo, hks, hq, hw1, hw2, hcr, JKind.ofCode_code]
  simp

/-- Host memory that holds bytes from an address on. -/
def hostOf (a : Nat) (bs : List Byte) : HostBytes := bs.zipIdx.map fun x => (a + x.2, x.1)

theorem hostByte_hostOf (bs : List Byte) (a i : Nat) (h : i < bs.length) : hostByte (hostOf a bs) (a + i) = bs[i] := by
  have key : ∀ (bs : List Byte) (k i : Nat) (h : i < bs.length),
      ((bs.zipIdx k).map fun x => (a + x.2, x.1)).find? (fun c => decide (c.1 = a + (k + i))) = some (a + (k + i), bs[i]) := by
    intro bs
    induction bs with
    | nil => intro k i h; simp at h
    | cons b bs ih =>
      intro k i h
      cases i with
      | zero => simp
      | succ i =>
        have := ih (k + 1) i (by simpa using h)
        simp only [List.zipIdx_cons, List.map_cons]
        rw [List.find?_cons_of_neg (by simp), show k + (i + 1) = k + 1 + i by omega]
        simpa using this
  unfold hostByte hostOf
  have := key bs 0 i h
  simp only [Nat.zero_add] at this
  rw [this]

/-- Reading them back. -/
theorem hostBytesAt_hostOf (a : Nat) (bs : List Byte) : hostBytesAt (hostOf a bs) a bs.length = bs := by
  apply List.ext_getElem
  · simp [hostBytesAt]
  · intro i h1 h2
    simp [hostBytesAt, hostByte_hostOf bs a i h2]

end Sys2Proof.Machine
end

