-- ==== Sys2Proof/Laws/State.lean ====
section
/-! SUPPORT. What the named updates of the engine change and what they leave: one lemma per update for the fields it leaves, and
one per field it sets. -/

namespace Sys2Proof.Machine

/-! ### Fields an update leaves -/

@[simp] theorem Eng.emit_frame (e : Eng) (o : Out) :
    (e.emit o).pins = e.pins ∧ (e.emit o).now = e.now ∧ (e.emit o).aoCycle = e.aoCycle ∧ (e.emit o).memMap = e.memMap ∧
    (e.emit o).ctxs = e.ctxs ∧ (e.emit o).cxs = e.cxs ∧ (e.emit o).rfe = e.rfe ∧ (e.emit o).jobs = e.jobs ∧
    (e.emit o).jrn = e.jrn ∧ (e.emit o).wlk = e.wlk ∧ (e.emit o).atg = e.atg ∧ (e.emit o).pdks = e.pdks ∧
    (e.emit o).lay = e.lay ∧ (e.emit o).cst = e.cst ∧ (e.emit o).drv = e.drv ∧ (e.emit o).cdc = e.cdc ∧
    (e.emit o).npi = e.npi ∧ (e.emit o).opi = e.opi ∧ (e.emit o).syn = e.syn ∧ (e.emit o).svc = e.svc ∧
    (e.emit o).flt = e.flt ∧ (e.emit o).fuses = e.fuses ∧ (e.emit o).tally = e.tally ∧ (e.emit o).freeCount = e.freeCount :=
  ⟨rfl, rfl, rfl, rfl, rfl, rfl, rfl, rfl, rfl, rfl, rfl, rfl, rfl, rfl, rfl, rfl, rfl, rfl, rfl, rfl, rfl, rfl, rfl, rfl⟩

@[simp] theorem Eng.raise_frame (e : Eng) (sub : BitVec 4) (inst code : BitVec 6) (ctx : Option CtxNum) (d : Word) :
    (e.raise sub inst code ctx d).pins = e.pins ∧ (e.raise sub inst code ctx d).now = e.now ∧
    (e.raise sub inst code ctx d).aoCycle = e.aoCycle ∧ (e.raise sub inst code ctx d).memMap = e.memMap ∧
    (e.raise sub inst code ctx d).ctxs = e.ctxs ∧ (e.raise sub inst code ctx d).cxs = e.cxs ∧
    (e.raise sub inst code ctx d).rfe = e.rfe ∧ (e.raise sub inst code ctx d).jobs = e.jobs ∧
    (e.raise sub inst code ctx d).jrn = e.jrn ∧ (e.raise sub inst code ctx d).wlk = e.wlk ∧
    (e.raise sub inst code ctx d).atg = e.atg ∧ (e.raise sub inst code ctx d).pdks = e.pdks ∧
    (e.raise sub inst code ctx d).lay = e.lay ∧ (e.raise sub inst code ctx d).cst = e.cst ∧
    (e.raise sub inst code ctx d).drv = e.drv ∧ (e.raise sub inst code ctx d).cdc = e.cdc ∧
    (e.raise sub inst code ctx d).npi = e.npi ∧ (e.raise sub inst code ctx d).opi = e.opi ∧
    (e.raise sub inst code ctx d).syn = e.syn ∧ (e.raise sub inst code ctx d).svc = e.svc ∧
    (e.raise sub inst code ctx d).flt.mode = e.flt.mode ∧ (e.raise sub inst code ctx d).flt.fatal = e.flt.fatal ∧
    (e.raise sub inst code ctx d).flt.firstSource = e.flt.firstSource ∧
    (e.raise sub inst code ctx d).flt.alert = e.flt.alert ∧ (e.raise sub inst code ctx d).flt.wdogEn = e.flt.wdogEn ∧
    (e.raise sub inst code ctx d).flt.wdogPeriod = e.flt.wdogPeriod ∧
    (e.raise sub inst code ctx d).flt.inject = e.flt.inject ∧ (e.raise sub inst code ctx d).flt.time = e.flt.time ∧
    (e.raise sub inst code ctx d).flt.hist = e.flt.hist ∧ (e.raise sub inst code ctx d).flt.lost = e.flt.lost ∧
    (e.raise sub inst code ctx d).flt.severity = e.flt.severity ∧ (e.raise sub inst code ctx d).fuses = e.fuses ∧
    (e.raise sub inst code ctx d).tally = e.tally ∧ (e.raise sub inst code ctx d).freeCount = e.freeCount ∧
    (e.raise sub inst code ctx d).out = e.out :=
  ⟨rfl, rfl, rfl, rfl, rfl, rfl, rfl, rfl, rfl, rfl, rfl, rfl, rfl, rfl, rfl, rfl, rfl, rfl, rfl, rfl, rfl, rfl, rfl, rfl, rfl, rfl, rfl, rfl, rfl, rfl, rfl, rfl, rfl, rfl, rfl⟩

@[simp] theorem Eng.count_frame (e : Eng) (s : BitVec 4) (t n : Nat) :
    (e.count s t n).pins = e.pins ∧ (e.count s t n).now = e.now ∧ (e.count s t n).aoCycle = e.aoCycle ∧
    (e.count s t n).memMap = e.memMap ∧ (e.count s t n).ctxs = e.ctxs ∧ (e.count s t n).cxs = e.cxs ∧
    (e.count s t n).rfe = e.rfe ∧ (e.count s t n).jobs = e.jobs ∧ (e.count s t n).jrn = e.jrn ∧ (e.count s t n).wlk = e.wlk ∧
    (e.count s t n).atg = e.atg ∧ (e.count s t n).pdks = e.pdks ∧ (e.count s t n).lay = e.lay ∧ (e.count s t n).cst = e.cst ∧
    (e.count s t n).drv = e.drv ∧ (e.count s t n).cdc = e.cdc ∧ (e.count s t n).npi = e.npi ∧ (e.count s t n).opi = e.opi ∧
    (e.count s t n).syn = e.syn ∧ (e.count s t n).svc = e.svc ∧ (e.count s t n).flt = e.flt ∧
    (e.count s t n).fuses = e.fuses ∧ (e.count s t n).freeCount = e.freeCount ∧ (e.count s t n).out = e.out :=
  ⟨rfl, rfl, rfl, rfl, rfl, rfl, rfl, rfl, rfl, rfl, rfl, rfl, rfl, rfl, rfl, rfl, rfl, rfl, rfl, rfl, rfl, rfl, rfl, rfl⟩

@[simp] theorem Eng.setCtx_frame (e : Eng) (c : CtxNum) (x : Ctx) :
    (e.setCtx c x).pins = e.pins ∧ (e.setCtx c x).now = e.now ∧ (e.setCtx c x).aoCycle = e.aoCycle ∧
    (e.setCtx c x).memMap = e.memMap ∧ (e.setCtx c x).cxs = e.cxs ∧ (e.setCtx c x).rfe = e.rfe ∧
    (e.setCtx c x).jobs = e.jobs ∧ (e.setCtx c x).jrn = e.jrn ∧ (e.setCtx c x).wlk = e.wlk ∧ (e.setCtx c x).atg = e.atg ∧
    (e.setCtx c x).pdks = e.pdks ∧ (e.setCtx c x).lay = e.lay ∧ (e.setCtx c x).cst = e.cst ∧ (e.setCtx c x).drv = e.drv ∧
    (e.setCtx c x).cdc = e.cdc ∧ (e.setCtx c x).npi = e.npi ∧ (e.setCtx c x).opi = e.opi ∧ (e.setCtx c x).syn = e.syn ∧
    (e.setCtx c x).svc = e.svc ∧ (e.setCtx c x).flt = e.flt ∧ (e.setCtx c x).fuses = e.fuses ∧
    (e.setCtx c x).tally = e.tally ∧ (e.setCtx c x).freeCount = e.freeCount ∧ (e.setCtx c x).out = e.out :=
  ⟨rfl, rfl, rfl, rfl, rfl, rfl, rfl, rfl, rfl, rfl, rfl, rfl, rfl, rfl, rfl, rfl, rfl, rfl, rfl, rfl, rfl, rfl, rfl, rfl⟩

@[simp] theorem Eng.modCtx_frame (e : Eng) (c : CtxNum) (f : Ctx → Ctx) :
    (e.modCtx c f).pins = e.pins ∧ (e.modCtx c f).now = e.now ∧ (e.modCtx c f).aoCycle = e.aoCycle ∧
    (e.modCtx c f).memMap = e.memMap ∧ (e.modCtx c f).cxs = e.cxs ∧ (e.modCtx c f).rfe = e.rfe ∧
    (e.modCtx c f).jobs = e.jobs ∧ (e.modCtx c f).jrn = e.jrn ∧ (e.modCtx c f).wlk = e.wlk ∧ (e.modCtx c f).atg = e.atg ∧
    (e.modCtx c f).pdks = e.pdks ∧ (e.modCtx c f).lay = e.lay ∧ (e.modCtx c f).cst = e.cst ∧ (e.modCtx c f).drv = e.drv ∧
    (e.modCtx c f).cdc = e.cdc ∧ (e.modCtx c f).npi = e.npi ∧ (e.modCtx c f).opi = e.opi ∧ (e.modCtx c f).syn = e.syn ∧
    (e.modCtx c f).svc = e.svc ∧ (e.modCtx c f).flt = e.flt ∧ (e.modCtx c f).fuses = e.fuses ∧
    (e.modCtx c f).tally = e.tally ∧ (e.modCtx c f).freeCount = e.freeCount ∧ (e.modCtx c f).out = e.out :=
  ⟨rfl, rfl, rfl, rfl, rfl, rfl, rfl, rfl, rfl, rfl, rfl, rfl, rfl, rfl, rfl, rfl, rfl, rfl, rfl, rfl, rfl, rfl, rfl, rfl⟩

@[simp] theorem Eng.modPdk_frame (e : Eng) (p : PdkNum) (f : Paddock → Paddock) :
    (e.modPdk p f).pins = e.pins ∧ (e.modPdk p f).now = e.now ∧ (e.modPdk p f).aoCycle = e.aoCycle ∧
    (e.modPdk p f).memMap = e.memMap ∧ (e.modPdk p f).ctxs = e.ctxs ∧ (e.modPdk p f).cxs = e.cxs ∧
    (e.modPdk p f).rfe = e.rfe ∧ (e.modPdk p f).jobs = e.jobs ∧ (e.modPdk p f).jrn = e.jrn ∧ (e.modPdk p f).wlk = e.wlk ∧
    (e.modPdk p f).atg = e.atg ∧ (e.modPdk p f).lay = e.lay ∧ (e.modPdk p f).cst = e.cst ∧ (e.modPdk p f).drv = e.drv ∧
    (e.modPdk p f).cdc = e.cdc ∧ (e.modPdk p f).npi = e.npi ∧ (e.modPdk p f).opi = e.opi ∧ (e.modPdk p f).syn = e.syn ∧
    (e.modPdk p f).svc = e.svc ∧ (e.modPdk p f).flt = e.flt ∧ (e.modPdk p f).fuses = e.fuses ∧
    (e.modPdk p f).tally = e.tally ∧ (e.modPdk p f).freeCount = e.freeCount ∧ (e.modPdk p f).out = e.out :=
  ⟨rfl, rfl, rfl, rfl, rfl, rfl, rfl, rfl, rfl, rfl, rfl, rfl, rfl, rfl, rfl, rfl, rfl, rfl, rfl, rfl, rfl, rfl, rfl, rfl⟩

@[simp] theorem Eng.modJob_frame (e : Eng) (h : Word) (f : Job → Job) :
    (e.modJob h f).pins = e.pins ∧ (e.modJob h f).now = e.now ∧ (e.modJob h f).aoCycle = e.aoCycle ∧
    (e.modJob h f).memMap = e.memMap ∧ (e.modJob h f).ctxs = e.ctxs ∧ (e.modJob h f).cxs = e.cxs ∧
    (e.modJob h f).rfe = e.rfe ∧ (e.modJob h f).jrn = e.jrn ∧ (e.modJob h f).wlk = e.wlk ∧ (e.modJob h f).atg = e.atg ∧
    (e.modJob h f).pdks = e.pdks ∧ (e.modJob h f).lay = e.lay ∧ (e.modJob h f).cst = e.cst ∧ (e.modJob h f).drv = e.drv ∧
    (e.modJob h f).cdc = e.cdc ∧ (e.modJob h f).npi = e.npi ∧ (e.modJob h f).opi = e.opi ∧ (e.modJob h f).syn = e.syn ∧
    (e.modJob h f).svc = e.svc ∧ (e.modJob h f).flt = e.flt ∧ (e.modJob h f).fuses = e.fuses ∧
    (e.modJob h f).tally = e.tally ∧ (e.modJob h f).freeCount = e.freeCount ∧ (e.modJob h f).out = e.out :=
  ⟨rfl, rfl, rfl, rfl, rfl, rfl, rfl, rfl, rfl, rfl, rfl, rfl, rfl, rfl, rfl, rfl, rfl, rfl, rfl, rfl, rfl, rfl, rfl, rfl⟩

@[simp] theorem Eng.dropJob_frame (e : Eng) (h : Word) :
    (e.dropJob h).pins = e.pins ∧ (e.dropJob h).now = e.now ∧ (e.dropJob h).aoCycle = e.aoCycle ∧
    (e.dropJob h).memMap = e.memMap ∧ (e.dropJob h).ctxs = e.ctxs ∧ (e.dropJob h).cxs = e.cxs ∧ (e.dropJob h).rfe = e.rfe ∧
    (e.dropJob h).jrn = e.jrn ∧ (e.dropJob h).wlk = e.wlk ∧ (e.dropJob h).atg = e.atg ∧ (e.dropJob h).pdks = e.pdks ∧
    (e.dropJob h).lay = e.lay ∧ (e.dropJob h).cst = e.cst ∧ (e.dropJob h).drv = e.drv ∧ (e.dropJob h).cdc = e.cdc ∧
    (e.dropJob h).npi = e.npi ∧ (e.dropJob h).opi = e.opi ∧ (e.dropJob h).syn = e.syn ∧ (e.dropJob h).svc = e.svc ∧
    (e.dropJob h).flt = e.flt ∧ (e.dropJob h).fuses = e.fuses ∧ (e.dropJob h).tally = e.tally ∧
    (e.dropJob h).freeCount = e.freeCount ∧ (e.dropJob h).out = e.out :=
  ⟨rfl, rfl, rfl, rfl, rfl, rfl, rfl, rfl, rfl, rfl, rfl, rfl, rfl, rfl, rfl, rfl, rfl, rfl, rfl, rfl, rfl, rfl, rfl, rfl⟩

@[simp] theorem Eng.dropLines_frame (e : Eng) (a n : Nat) :
    (e.dropLines a n).pins = e.pins ∧ (e.dropLines a n).now = e.now ∧ (e.dropLines a n).aoCycle = e.aoCycle ∧
    (e.dropLines a n).memMap = e.memMap ∧ (e.dropLines a n).ctxs = e.ctxs ∧ (e.dropLines a n).cxs = e.cxs ∧
    (e.dropLines a n).rfe.caught = e.rfe.caught ∧ (e.dropLines a n).rfe.withheld = e.rfe.withheld ∧
    (e.dropLines a n).rfe.arb = e.rfe.arb ∧ (e.dropLines a n).rfe.starvedCtx = e.rfe.starvedCtx ∧
    (e.dropLines a n).rfe.waited = e.rfe.waited ∧ (e.dropLines a n).jobs = e.jobs ∧ (e.dropLines a n).jrn = e.jrn ∧
    (e.dropLines a n).wlk = e.wlk ∧ (e.dropLines a n).atg = e.atg ∧ (e.dropLines a n).pdks = e.pdks ∧
    (e.dropLines a n).lay = e.lay ∧ (e.dropLines a n).cst = e.cst ∧ (e.dropLines a n).drv = e.drv ∧
    (e.dropLines a n).cdc = e.cdc ∧ (e.dropLines a n).npi = e.npi ∧ (e.dropLines a n).opi = e.opi ∧
    (e.dropLines a n).syn = e.syn ∧ (e.dropLines a n).svc = e.svc ∧ (e.dropLines a n).flt = e.flt ∧
    (e.dropLines a n).fuses = e.fuses ∧ (e.dropLines a n).tally = e.tally ∧ (e.dropLines a n).freeCount = e.freeCount ∧
    (e.dropLines a n).out = e.out :=
  ⟨rfl, rfl, rfl, rfl, rfl, rfl, rfl, rfl, rfl, rfl, rfl, rfl, rfl, rfl, rfl, rfl, rfl, rfl, rfl, rfl, rfl, rfl, rfl, rfl, rfl, rfl, rfl, rfl, rfl⟩

@[simp] theorem Eng.hostPut_frame (e : Eng) (a : Nat) (bs : List Byte) :
    (e.hostPut a bs).pins = e.pins ∧ (e.hostPut a bs).now = e.now ∧ (e.hostPut a bs).aoCycle = e.aoCycle ∧
    (e.hostPut a bs).memMap = e.memMap ∧ (e.hostPut a bs).ctxs = e.ctxs ∧ (e.hostPut a bs).cxs = e.cxs ∧
    (e.hostPut a bs).rfe = e.rfe ∧ (e.hostPut a bs).jobs = e.jobs ∧ (e.hostPut a bs).jrn.base = e.jrn.base ∧
    (e.hostPut a bs).jrn.sizeLog2 = e.jrn.sizeLog2 ∧ (e.hostPut a bs).jrn.result = e.jrn.result ∧
    (e.hostPut a bs).jrn.state = e.jrn.state ∧ (e.hostPut a bs).jrn.busy = e.jrn.busy ∧
    (e.hostPut a bs).jrn.headSeq = e.jrn.headSeq ∧ (e.hostPut a bs).jrn.durableSeq = e.jrn.durableSeq ∧
    (e.hostPut a bs).jrn.tailSeq = e.jrn.tailSeq ∧ (e.hostPut a bs).jrn.recs = e.jrn.recs ∧
    (e.hostPut a bs).jrn.waiting = e.jrn.waiting ∧ (e.hostPut a bs).jrn.flushTo = e.jrn.flushTo ∧
    (e.hostPut a bs).wlk = e.wlk ∧ (e.hostPut a bs).atg = e.atg ∧ (e.hostPut a bs).pdks = e.pdks ∧
    (e.hostPut a bs).lay = e.lay ∧ (e.hostPut a bs).cst = e.cst ∧ (e.hostPut a bs).drv = e.drv ∧
    (e.hostPut a bs).cdc = e.cdc ∧ (e.hostPut a bs).npi = e.npi ∧ (e.hostPut a bs).opi = e.opi ∧
    (e.hostPut a bs).syn = e.syn ∧ (e.hostPut a bs).svc = e.svc ∧ (e.hostPut a bs).flt = e.flt ∧
    (e.hostPut a bs).fuses = e.fuses ∧ (e.hostPut a bs).tally = e.tally ∧ (e.hostPut a bs).freeCount = e.freeCount := by
  unfold Eng.hostPut; split <;> and_intros <;> rfl

@[simp] theorem Eng.releaseHeld_frame (e : Eng) :
    (e.releaseHeld).pins = e.pins ∧ (e.releaseHeld).now = e.now ∧ (e.releaseHeld).aoCycle = e.aoCycle ∧
    (e.releaseHeld).memMap = e.memMap ∧ (e.releaseHeld).ctxs = e.ctxs ∧ (e.releaseHeld).cxs = e.cxs ∧
    (e.releaseHeld).rfe = e.rfe ∧ (e.releaseHeld).jobs = e.jobs ∧ (e.releaseHeld).jrn.base = e.jrn.base ∧
    (e.releaseHeld).jrn.sizeLog2 = e.jrn.sizeLog2 ∧ (e.releaseHeld).jrn.result = e.jrn.result ∧
    (e.releaseHeld).jrn.state = e.jrn.state ∧ (e.releaseHeld).jrn.busy = e.jrn.busy ∧
    (e.releaseHeld).jrn.headSeq = e.jrn.headSeq ∧ (e.releaseHeld).jrn.durableSeq = e.jrn.durableSeq ∧
    (e.releaseHeld).jrn.tailSeq = e.jrn.tailSeq ∧ (e.releaseHeld).jrn.recs = e.jrn.recs ∧
    (e.releaseHeld).jrn.waiting = e.jrn.waiting ∧ (e.releaseHeld).jrn.flushTo = e.jrn.flushTo ∧ (e.releaseHeld).wlk = e.wlk ∧
    (e.releaseHeld).atg = e.atg ∧ (e.releaseHeld).pdks = e.pdks ∧ (e.releaseHeld).lay = e.lay ∧ (e.releaseHeld).cst = e.cst ∧
    (e.releaseHeld).drv = e.drv ∧ (e.releaseHeld).cdc = e.cdc ∧ (e.releaseHeld).npi = e.npi ∧ (e.releaseHeld).opi = e.opi ∧
    (e.releaseHeld).syn = e.syn ∧ (e.releaseHeld).svc = e.svc ∧ (e.releaseHeld).flt = e.flt ∧
    (e.releaseHeld).fuses = e.fuses ∧ (e.releaseHeld).tally = e.tally ∧ (e.releaseHeld).freeCount = e.freeCount := by
  unfold Eng.releaseHeld; split <;> and_intros <;> rfl

@[simp] theorem Eng.modPower_frame (e : Eng) (f : Power → Power) :
    (e.modPower f).pins = e.pins ∧ (e.modPower f).now = e.now ∧ (e.modPower f).aoCycle = e.aoCycle ∧
    (e.modPower f).memMap = e.memMap ∧ (e.modPower f).ctxs = e.ctxs ∧ (e.modPower f).cxs = e.cxs ∧
    (e.modPower f).rfe = e.rfe ∧ (e.modPower f).jobs = e.jobs ∧ (e.modPower f).jrn = e.jrn ∧ (e.modPower f).wlk = e.wlk ∧
    (e.modPower f).atg = e.atg ∧ (e.modPower f).pdks = e.pdks ∧ (e.modPower f).lay = e.lay ∧ (e.modPower f).cst = e.cst ∧
    (e.modPower f).drv = e.drv ∧ (e.modPower f).cdc = e.cdc ∧ (e.modPower f).npi = e.npi ∧ (e.modPower f).opi = e.opi ∧
    (e.modPower f).syn = e.syn ∧ (e.modPower f).svc.start = e.svc.start ∧ (e.modPower f).svc.clkIn = e.svc.clkIn ∧
    (e.modPower f).svc.clkMv = e.svc.clkMv ∧ (e.modPower f).svc.clkMhz = e.svc.clkMhz ∧
    (e.modPower f).svc.reset = e.svc.reset ∧ (e.modPower f).svc.scratch = e.svc.scratch ∧
    (e.modPower f).svc.sweeps = e.svc.sweeps ∧ (e.modPower f).svc.arbCut = e.svc.arbCut ∧
    (e.modPower f).svc.arbStarved = e.svc.arbStarved ∧ (e.modPower f).svc.arbEn = e.svc.arbEn ∧
    (e.modPower f).svc.arbVector = e.svc.arbVector ∧ (e.modPower f).svc.ports = e.svc.ports ∧
    (e.modPower f).svc.portArb = e.svc.portArb ∧ (e.modPower f).svc.unitArb = e.svc.unitArb ∧
    (e.modPower f).svc.arb = e.svc.arb ∧ (e.modPower f).svc.bistEn = e.svc.bistEn ∧
    (e.modPower f).svc.bistMask = e.svc.bistMask ∧ (e.modPower f).svc.bistTickets = e.svc.bistTickets ∧
    (e.modPower f).svc.bistVisit = e.svc.bistVisit ∧ (e.modPower f).svc.bistInterval = e.svc.bistInterval ∧
    (e.modPower f).svc.bist = e.svc.bist ∧ (e.modPower f).svc.bistAt = e.svc.bistAt ∧
    (e.modPower f).svc.bistSince = e.svc.bistSince ∧ (e.modPower f).svc.measures = e.svc.measures ∧
    (e.modPower f).svc.wheelAt = e.svc.wheelAt ∧ (e.modPower f).svc.fuseSel = e.svc.fuseSel ∧
    (e.modPower f).svc.cands = e.svc.cands ∧ (e.modPower f).svc.fuseBusy = e.svc.fuseBusy ∧
    (e.modPower f).svc.fuseAt = e.svc.fuseAt ∧ (e.modPower f).svc.fuseResult = e.svc.fuseResult ∧
    (e.modPower f).svc.pod = e.svc.pod ∧ (e.modPower f).svc.spdm = e.svc.spdm ∧
    (e.modPower f).svc.restarting = e.svc.restarting ∧ (e.modPower f).svc.restarts = e.svc.restarts ∧
    (e.modPower f).svc.lastExpiry = e.svc.lastExpiry ∧ (e.modPower f).svc.kick = e.svc.kick ∧ (e.modPower f).flt = e.flt ∧
    (e.modPower f).fuses = e.fuses ∧ (e.modPower f).tally = e.tally ∧ (e.modPower f).freeCount = e.freeCount ∧
    (e.modPower f).out = e.out :=
  ⟨rfl, rfl, rfl, rfl, rfl, rfl, rfl, rfl, rfl, rfl, rfl, rfl, rfl, rfl, rfl, rfl, rfl, rfl, rfl, rfl, rfl, rfl, rfl, rfl, rfl, rfl, rfl, rfl, rfl, rfl, rfl, rfl, rfl, rfl, rfl, rfl, rfl, rfl, rfl, rfl, rfl, rfl, rfl, rfl, rfl, rfl, rfl, rfl, rfl, rfl, rfl, rfl, rfl, rfl, rfl, rfl, rfl, rfl, rfl, rfl⟩

@[simp] theorem Eng.modRegion_frame (e : Eng) (r : Region) (f : Dom → Dom) :
    (e.modRegion r f).pins = e.pins ∧ (e.modRegion r f).now = e.now ∧ (e.modRegion r f).aoCycle = e.aoCycle ∧
    (e.modRegion r f).memMap = e.memMap ∧ (e.modRegion r f).ctxs = e.ctxs ∧ (e.modRegion r f).cxs = e.cxs ∧
    (e.modRegion r f).rfe = e.rfe ∧ (e.modRegion r f).jobs = e.jobs ∧ (e.modRegion r f).jrn = e.jrn ∧
    (e.modRegion r f).wlk = e.wlk ∧ (e.modRegion r f).atg = e.atg ∧ (e.modRegion r f).pdks = e.pdks ∧
    (e.modRegion r f).lay = e.lay ∧ (e.modRegion r f).cst = e.cst ∧ (e.modRegion r f).drv = e.drv ∧
    (e.modRegion r f).cdc = e.cdc ∧ (e.modRegion r f).npi = e.npi ∧ (e.modRegion r f).opi = e.opi ∧
    (e.modRegion r f).syn = e.syn ∧ (e.modRegion r f).svc.start = e.svc.start ∧ (e.modRegion r f).svc.clkIn = e.svc.clkIn ∧
    (e.modRegion r f).svc.clkMv = e.svc.clkMv ∧ (e.modRegion r f).svc.clkMhz = e.svc.clkMhz ∧
    (e.modRegion r f).svc.reset = e.svc.reset ∧ (e.modRegion r f).svc.scratch = e.svc.scratch ∧
    (e.modRegion r f).svc.sweeps = e.svc.sweeps ∧ (e.modRegion r f).svc.arbCut = e.svc.arbCut ∧
    (e.modRegion r f).svc.arbStarved = e.svc.arbStarved ∧ (e.modRegion r f).svc.arbEn = e.svc.arbEn ∧
    (e.modRegion r f).svc.arbVector = e.svc.arbVector ∧ (e.modRegion r f).svc.ports = e.svc.ports ∧
    (e.modRegion r f).svc.portArb = e.svc.portArb ∧ (e.modRegion r f).svc.unitArb = e.svc.unitArb ∧
    (e.modRegion r f).svc.arb = e.svc.arb ∧ (e.modRegion r f).svc.bistEn = e.svc.bistEn ∧
    (e.modRegion r f).svc.bistMask = e.svc.bistMask ∧ (e.modRegion r f).svc.bistTickets = e.svc.bistTickets ∧
    (e.modRegion r f).svc.bistVisit = e.svc.bistVisit ∧ (e.modRegion r f).svc.bistInterval = e.svc.bistInterval ∧
    (e.modRegion r f).svc.bist = e.svc.bist ∧ (e.modRegion r f).svc.bistAt = e.svc.bistAt ∧
    (e.modRegion r f).svc.bistSince = e.svc.bistSince ∧ (e.modRegion r f).svc.measures = e.svc.measures ∧
    (e.modRegion r f).svc.wheelAt = e.svc.wheelAt ∧ (e.modRegion r f).svc.fuseSel = e.svc.fuseSel ∧
    (e.modRegion r f).svc.cands = e.svc.cands ∧ (e.modRegion r f).svc.fuseBusy = e.svc.fuseBusy ∧
    (e.modRegion r f).svc.fuseAt = e.svc.fuseAt ∧ (e.modRegion r f).svc.fuseResult = e.svc.fuseResult ∧
    (e.modRegion r f).svc.pod = e.svc.pod ∧ (e.modRegion r f).svc.spdm = e.svc.spdm ∧
    (e.modRegion r f).svc.restarting = e.svc.restarting ∧ (e.modRegion r f).svc.restarts = e.svc.restarts ∧
    (e.modRegion r f).svc.lastExpiry = e.svc.lastExpiry ∧ (e.modRegion r f).svc.kick = e.svc.kick ∧
    (e.modRegion r f).flt = e.flt ∧ (e.modRegion r f).fuses = e.fuses ∧ (e.modRegion r f).tally = e.tally ∧
    (e.modRegion r f).freeCount = e.freeCount ∧ (e.modRegion r f).out = e.out :=
  ⟨rfl, rfl, rfl, rfl, rfl, rfl, rfl, rfl, rfl, rfl, rfl, rfl, rfl, rfl, rfl, rfl, rfl, rfl, rfl, rfl, rfl, rfl, rfl, rfl, rfl, rfl, rfl, rfl, rfl, rfl, rfl, rfl, rfl, rfl, rfl, rfl, rfl, rfl, rfl, rfl, rfl, rfl, rfl, rfl, rfl, rfl, rfl, rfl, rfl, rfl, rfl, rfl, rfl, rfl, rfl, rfl, rfl, rfl, rfl, rfl⟩

@[simp] theorem Eng.modDom_frame (e : Eng) (d : Domain) (f : Dom → Dom) :
    (e.modDom d f).pins = e.pins ∧ (e.modDom d f).now = e.now ∧ (e.modDom d f).aoCycle = e.aoCycle ∧
    (e.modDom d f).memMap = e.memMap ∧ (e.modDom d f).ctxs = e.ctxs ∧ (e.modDom d f).cxs = e.cxs ∧
    (e.modDom d f).rfe = e.rfe ∧ (e.modDom d f).jobs = e.jobs ∧ (e.modDom d f).jrn = e.jrn ∧ (e.modDom d f).wlk = e.wlk ∧
    (e.modDom d f).atg = e.atg ∧ (e.modDom d f).pdks = e.pdks ∧ (e.modDom d f).lay = e.lay ∧ (e.modDom d f).cst = e.cst ∧
    (e.modDom d f).drv = e.drv ∧ (e.modDom d f).cdc = e.cdc ∧ (e.modDom d f).npi = e.npi ∧ (e.modDom d f).opi = e.opi ∧
    (e.modDom d f).syn = e.syn ∧ (e.modDom d f).svc.start = e.svc.start ∧ (e.modDom d f).svc.clkIn = e.svc.clkIn ∧
    (e.modDom d f).svc.clkMv = e.svc.clkMv ∧ (e.modDom d f).svc.clkMhz = e.svc.clkMhz ∧
    (e.modDom d f).svc.reset = e.svc.reset ∧ (e.modDom d f).svc.scratch = e.svc.scratch ∧
    (e.modDom d f).svc.sweeps = e.svc.sweeps ∧ (e.modDom d f).svc.arbCut = e.svc.arbCut ∧
    (e.modDom d f).svc.arbStarved = e.svc.arbStarved ∧ (e.modDom d f).svc.arbEn = e.svc.arbEn ∧
    (e.modDom d f).svc.arbVector = e.svc.arbVector ∧ (e.modDom d f).svc.ports = e.svc.ports ∧
    (e.modDom d f).svc.portArb = e.svc.portArb ∧ (e.modDom d f).svc.unitArb = e.svc.unitArb ∧
    (e.modDom d f).svc.arb = e.svc.arb ∧ (e.modDom d f).svc.bistEn = e.svc.bistEn ∧
    (e.modDom d f).svc.bistMask = e.svc.bistMask ∧ (e.modDom d f).svc.bistTickets = e.svc.bistTickets ∧
    (e.modDom d f).svc.bistVisit = e.svc.bistVisit ∧ (e.modDom d f).svc.bistInterval = e.svc.bistInterval ∧
    (e.modDom d f).svc.bist = e.svc.bist ∧ (e.modDom d f).svc.bistAt = e.svc.bistAt ∧
    (e.modDom d f).svc.bistSince = e.svc.bistSince ∧ (e.modDom d f).svc.measures = e.svc.measures ∧
    (e.modDom d f).svc.wheelAt = e.svc.wheelAt ∧ (e.modDom d f).svc.fuseSel = e.svc.fuseSel ∧
    (e.modDom d f).svc.cands = e.svc.cands ∧ (e.modDom d f).svc.fuseBusy = e.svc.fuseBusy ∧
    (e.modDom d f).svc.fuseAt = e.svc.fuseAt ∧ (e.modDom d f).svc.fuseResult = e.svc.fuseResult ∧
    (e.modDom d f).svc.pod = e.svc.pod ∧ (e.modDom d f).svc.spdm = e.svc.spdm ∧
    (e.modDom d f).svc.restarting = e.svc.restarting ∧ (e.modDom d f).svc.restarts = e.svc.restarts ∧
    (e.modDom d f).svc.lastExpiry = e.svc.lastExpiry ∧ (e.modDom d f).svc.kick = e.svc.kick ∧ (e.modDom d f).flt = e.flt ∧
    (e.modDom d f).fuses = e.fuses ∧ (e.modDom d f).tally = e.tally ∧ (e.modDom d f).freeCount = e.freeCount ∧
    (e.modDom d f).out = e.out := by
  cases d <;> and_intros <;> rfl

@[simp] theorem Eng.modJrn_frame (e : Eng) (f : Jrn → Jrn) :
    (e.modJrn f).pins = e.pins ∧ (e.modJrn f).now = e.now ∧ (e.modJrn f).aoCycle = e.aoCycle ∧
    (e.modJrn f).memMap = e.memMap ∧ (e.modJrn f).ctxs = e.ctxs ∧ (e.modJrn f).cxs = e.cxs ∧ (e.modJrn f).rfe = e.rfe ∧
    (e.modJrn f).jobs = e.jobs ∧ (e.modJrn f).wlk = e.wlk ∧ (e.modJrn f).atg = e.atg ∧ (e.modJrn f).pdks = e.pdks ∧
    (e.modJrn f).lay = e.lay ∧ (e.modJrn f).cst = e.cst ∧ (e.modJrn f).drv = e.drv ∧ (e.modJrn f).cdc = e.cdc ∧
    (e.modJrn f).npi = e.npi ∧ (e.modJrn f).opi = e.opi ∧ (e.modJrn f).syn = e.syn ∧ (e.modJrn f).svc = e.svc ∧
    (e.modJrn f).flt = e.flt ∧ (e.modJrn f).fuses = e.fuses ∧ (e.modJrn f).tally = e.tally ∧
    (e.modJrn f).freeCount = e.freeCount ∧ (e.modJrn f).out = e.out :=
  ⟨rfl, rfl, rfl, rfl, rfl, rfl, rfl, rfl, rfl, rfl, rfl, rfl, rfl, rfl, rfl, rfl, rfl, rfl, rfl, rfl, rfl, rfl, rfl, rfl⟩

/-! ### Fields an update sets -/

@[simp] theorem Eng.emit_out (e : Eng) (o : Out) : (e.emit o).out = e.out ++ [o] := rfl
@[simp] theorem Eng.raise_events (e : Eng) (sub : BitVec 4) (inst code : BitVec 6) (ctx : Option CtxNum) (d : Word) :
    (e.raise sub inst code ctx d).flt.events = e.flt.events ++ [{ stamp := e.now, cycle := e.aoCycle, mode := e.flt.mode, source := sourceOf sub inst code, cls := classOf sub inst code, ctx := ctx, detail := d }] :=
  rfl
@[simp] theorem Eng.setCtx_ctxs (e : Eng) (c : CtxNum) (x : Ctx) : (e.setCtx c x).ctxs = mapSet {} e.ctxs c.toNat x := rfl
@[simp] theorem Eng.modPdk_pdks (e : Eng) (p : PdkNum) (f : Paddock → Paddock) :
    (e.modPdk p f).pdks = mapUpd {} e.pdks p.toNat f := rfl
@[simp] theorem Eng.count_tally (e : Eng) (s : BitVec 4) (t n : Nat) :
    (e.count s t n).tally = mapUpd 0 e.tally (tallyKey s t) (· + BitVec.ofNat 64 n) := rfl
@[simp] theorem Eng.modPower_power (e : Eng) (f : Power → Power) : (e.modPower f).svc.power = f e.svc.power := rfl
@[simp] theorem Eng.modJrn_jrn (e : Eng) (f : Jrn → Jrn) : (e.modJrn f).jrn = f e.jrn := rfl
@[simp] theorem Eng.modJob_jobs (e : Eng) (h : Word) (f : Job → Job) :
    (e.modJob h f).jobs = e.jobs.map fun j => if j.handle = h then f j else j := rfl
@[simp] theorem Eng.dropJob_jobs (e : Eng) (h : Word) : (e.dropJob h).jobs = e.jobs.filter (·.handle ≠ h) := rfl

/-! ### A context, a paddock, a descriptor after an update -/

theorem toNat_ne {w : Nat} {a b : BitVec w} (h : a ≠ b) : a.toNat ≠ b.toNat := fun e => h (BitVec.eq_of_toNat_eq e)

@[simp] theorem Eng.ctx_setCtx_ne (e : Eng) (c c' : CtxNum) (x : Ctx) (h : c' ≠ c) : (e.setCtx c x).ctx c' = e.ctx c' := by
  simp [Eng.ctx, toNat_ne h]

theorem Eng.ctx_setCtx_self (e : Eng) (c : CtxNum) (x : Ctx) (w : MapWf {} e.ctxs) : (e.setCtx c x).ctx c = x :=
  mapGet_mapSet_self _ _ _ _ w

theorem Eng.ctx_setCtx_some (e : Eng) (c : CtxNum) (x : Ctx) (h : x ≠ {}) : (e.setCtx c x).ctx c = x :=
  mapGet_mapSet_self_ne _ _ _ _ h

@[simp] theorem Eng.ctx_modCtx_ne (e : Eng) (c c' : CtxNum) (f : Ctx → Ctx) (h : c' ≠ c) :
    (e.modCtx c f).ctx c' = e.ctx c' := e.ctx_setCtx_ne c c' _ h

theorem Eng.ctx_modCtx_self (e : Eng) (c : CtxNum) (f : Ctx → Ctx) (w : MapWf {} e.ctxs) :
    (e.modCtx c f).ctx c = f (e.ctx c) := e.ctx_setCtx_self c _ w

@[simp] theorem Eng.pdk_modPdk_ne (e : Eng) (p q : PdkNum) (f : Paddock → Paddock) (h : q ≠ p) :
    (e.modPdk p f).pdk q = e.pdk q := by
  simp [Eng.pdk, toNat_ne h]

theorem Eng.pdk_modPdk_self (e : Eng) (p : PdkNum) (f : Paddock → Paddock) (w : MapWf {} e.pdks) :
    (e.modPdk p f).pdk p = f (e.pdk p) := mapGet_mapUpd_self _ _ _ _ w

/-- A descriptor found is in work under its handle. -/
theorem Eng.job_spec {e : Eng} {h : Word} {j : Job} (hj : e.job h = some j) : j ∈ e.jobs ∧ j.handle = h := by
  unfold Eng.job at hj
  exact ⟨List.mem_of_find?_eq_some hj, by simpa using List.find?_some hj⟩

/-- A change of a descriptor that keeps its handle is what is found under the handle. -/
theorem Eng.job_modJob_self {e : Eng} {h : Word} {j : Job} (f : Job → Job) (hj : e.job h = some j)
    (hf : ∀ x, (f x).handle = x.handle) : (e.modJob h f).job h = some (f j) := by
  unfold Eng.job at *
  rw [Eng.modJob_jobs]
  generalize e.jobs = l at *
  induction l with
  | nil => simp at hj
  | cons x xs ih =>
    by_cases hx : x.handle = h
    · simp [hx] at hj
      subst hj
      simp [hx, hf]
    · simp [hx] at hj
      simpa [hx] using ih hj

/-- Other descriptors are found as before. -/
@[simp] theorem Eng.job_modJob_ne (e : Eng) (h g : Word) (f : Job → Job) (hg : g ≠ h) (hf : ∀ x, (f x).handle = x.handle) :
    (e.modJob h f).job g = e.job g := by
  unfold Eng.job
  rw [Eng.modJob_jobs]
  generalize e.jobs = l
  induction l with
  | nil => rfl
  | cons x xs ih =>
    by_cases hx : x.handle = h
    · have h1 : ¬ h = g := fun e => hg e.symm
      simpa [hx, hf, h1] using ih
    · by_cases hxg : x.handle = g
      · simp [hxg, hg]
      · simpa [hx, hxg] using ih

/-- A dropped handle names no descriptor. -/
@[simp] theorem Eng.job_dropJob_self (e : Eng) (h : Word) : (e.dropJob h).job h = none := by
  simp [Eng.job]

end Sys2Proof.Machine
end

