-- ==== Sys2Proof/Laws/Sides.lean ====
section
/-! SUPPORT. What the shared operations of power and of the journal can do: each changes its own part, tallies and what leaves,
and nothing else. -/

namespace Sys2Proof.Machine

/-- What a wake, an admission or a lowering changes: power states, tallies, and what leaves. -/
def PowerSide (e e' : Eng) : Prop :=
  e' = { e with svc := { e.svc with power := e'.svc.power }, tally := e'.tally, out := e'.out } ∧ (MapWf 0 e.tally → MapWf 0 e'.tally)

theorem PowerSide.refl (e : Eng) : PowerSide e e := ⟨rfl, id⟩

theorem PowerSide.trans {e e' e'' : Eng} (h : PowerSide e e') (h' : PowerSide e' e'') : PowerSide e e'' := by
  refine ⟨?_, fun w => h'.2 (h.2 w)⟩
  have a := h.1
  have b := h'.1
  rw [a] at b
  exact b

theorem PowerSide.frame {e e' : Eng} (h : PowerSide e e') :
    e'.pins = e.pins ∧ e'.now = e.now ∧ e'.aoCycle = e.aoCycle ∧ e'.memMap = e.memMap ∧ e'.ctxs = e.ctxs ∧ e'.cxs = e.cxs ∧
    e'.rfe = e.rfe ∧ e'.jobs = e.jobs ∧ e'.jrn = e.jrn ∧ e'.wlk = e.wlk ∧ e'.atg = e.atg ∧ e'.pdks = e.pdks ∧
    e'.lay = e.lay ∧ e'.cst = e.cst ∧ e'.drv = e.drv ∧ e'.cdc = e.cdc ∧ e'.npi = e.npi ∧ e'.opi = e.opi ∧ e'.syn = e.syn ∧
    e'.svc.start = e.svc.start ∧ e'.svc.clkIn = e.svc.clkIn ∧ e'.svc.clkMv = e.svc.clkMv ∧ e'.svc.clkMhz = e.svc.clkMhz ∧
    e'.svc.reset = e.svc.reset ∧ e'.svc.scratch = e.svc.scratch ∧ e'.svc.sweeps = e.svc.sweeps ∧
    e'.svc.arbCut = e.svc.arbCut ∧ e'.svc.arbStarved = e.svc.arbStarved ∧ e'.svc.arbEn = e.svc.arbEn ∧
    e'.svc.arbVector = e.svc.arbVector ∧ e'.svc.ports = e.svc.ports ∧ e'.svc.portArb = e.svc.portArb ∧
    e'.svc.unitArb = e.svc.unitArb ∧ e'.svc.arb = e.svc.arb ∧ e'.svc.bistEn = e.svc.bistEn ∧
    e'.svc.bistMask = e.svc.bistMask ∧ e'.svc.bistTickets = e.svc.bistTickets ∧ e'.svc.bistVisit = e.svc.bistVisit ∧
    e'.svc.bistInterval = e.svc.bistInterval ∧ e'.svc.bist = e.svc.bist ∧ e'.svc.bistAt = e.svc.bistAt ∧
    e'.svc.bistSince = e.svc.bistSince ∧ e'.svc.measures = e.svc.measures ∧ e'.svc.wheelAt = e.svc.wheelAt ∧
    e'.svc.fuseSel = e.svc.fuseSel ∧ e'.svc.cands = e.svc.cands ∧ e'.svc.fuseBusy = e.svc.fuseBusy ∧
    e'.svc.fuseAt = e.svc.fuseAt ∧ e'.svc.fuseResult = e.svc.fuseResult ∧ e'.svc.pod = e.svc.pod ∧ e'.svc.spdm = e.svc.spdm ∧
    e'.svc.restarting = e.svc.restarting ∧ e'.svc.restarts = e.svc.restarts ∧ e'.svc.lastExpiry = e.svc.lastExpiry ∧
    e'.svc.kick = e.svc.kick ∧ e'.flt = e.flt ∧ e'.fuses = e.fuses ∧ e'.freeCount = e.freeCount := by
  and_intros <;> rw [h.1]

theorem mapUpd_tally_wf (e : Eng) (s : BitVec 4) (t n : Nat) (w : MapWf 0 e.tally) : MapWf 0 (e.count s t n).tally := by
  rw [Eng.count_tally]
  exact mapUpd_wf _ _ _ _ w

theorem Eng.count_side (e : Eng) (s : BitVec 4) (t n : Nat) : PowerSide e (e.count s t n) :=
  ⟨rfl, mapUpd_tally_wf e s t n⟩

theorem Eng.emit_side (e : Eng) (o : Out) : PowerSide e (e.emit o) := ⟨rfl, id⟩

theorem Eng.modPower_side (e : Eng) (f : Power → Power) : PowerSide e (e.modPower f) := ⟨rfl, id⟩

theorem Eng.modRegion_side (e : Eng) (r : Region) (f : Dom → Dom) : PowerSide e (e.modRegion r f) := ⟨rfl, id⟩

theorem Eng.modDom_side (e : Eng) (d : Domain) (f : Dom → Dom) : PowerSide e (e.modDom d f) := by
  cases d <;> exact ⟨rfl, id⟩

theorem Eng.enter_side (e : Eng) (d : Domain) (st : PState) : PowerSide e (e.enter d st) := e.modDom_side d _

theorem Eng.beginWake_side (e : Eng) (d : Domain) : PowerSide e (e.beginWake d) := by
  unfold Eng.beginWake
  dsimp only
  split
  · exact (e.modDom_side _ _).trans (Eng.count_side _ _ _ _)
  · exact (e.modDom_side _ _).trans (Eng.count_side _ _ _ _)
  · exact e.modDom_side _ _

theorem Eng.wakeEngine_side (e : Eng) : PowerSide e e.wakeEngine := by
  unfold Eng.wakeEngine
  dsimp only
  split
  · exact .refl e
  · split
    · exact e.beginWake_side _
    · exact e.modDom_side _ _

theorem Eng.lowerQuiet_side (e : Eng) (r : Region) : PowerSide e (e.lowerQuiet r) := by
  unfold Eng.lowerQuiet
  dsimp only
  repeat' split
  all_goals first | exact .refl e | exact e.enter_side _ _

theorem Eng.lowerUntil_side (p : Eng → Bool) (rs : List Region) (e : Eng) : PowerSide e (Eng.lowerUntil p rs e) := by
  induction rs generalizing e with
  | nil => exact .refl e
  | cons r rs ih =>
    unfold Eng.lowerUntil
    split
    · exact .refl e
    · exact (e.lowerQuiet_side r).trans (ih _)

theorem Eng.admitRegion_side (e : Eng) (r : Region) : PowerSide e (e.admitRegion r) := by
  unfold Eng.admitRegion
  exact (Eng.wakeEngine_side _).trans (Eng.beginWake_side _ _)

theorem Eng.serveQueue_side (e : Eng) (n : Nat) : PowerSide e (Eng.serveQueue n e) := by
  induction n generalizing e with
  | zero => exact .refl e
  | succ n ih =>
    unfold Eng.serveQueue
    split
    · exact .refl e
    · split
      · exact .refl e
      · split
        · exact (e.admitRegion_side _).trans (ih _)
        · dsimp only
          split
          · exact ((Eng.lowerUntil_side _ _ e).trans (Eng.admitRegion_side _ _)).trans (ih _)
          · exact .refl e

theorem Eng.beginExit_side (e : Eng) : PowerSide e e.beginExit := by
  unfold Eng.beginExit
  split
  · exact e.modPower_side _
  · exact .refl e

theorem Eng.wakeRegion_side (e : Eng) (r : Region) : PowerSide e (e.wakeRegion r) := by
  have h0 := e.modRegion_side r fun d => { d with busy := true }
  unfold Eng.wakeRegion
  dsimp only
  split
  · exact h0
  · refine h0.trans (.trans ?_ ((Eng.modRegion_side _ r _).trans (Eng.serveQueue_side _ 4)))
    split
    · exact ((Eng.modPower_side _ _).trans (Eng.modRegion_side _ _ _)).trans (Eng.emit_side _ _)
    · exact .refl _

theorem Eng.wakeMany_side (e : Eng) (rs : List Region) : PowerSide e (e.wakeMany rs) := by
  unfold Eng.wakeMany
  induction rs generalizing e with
  | nil => exact .refl e
  | cons r rs ih => exact (e.wakeRegion_side r).trans (ih _)

theorem Eng.lowerBusy_side (e : Eng) (r : Region) : PowerSide e (e.lowerBusy r) := by
  unfold Eng.lowerBusy
  dsimp only
  split
  · exact .refl e
  · exact (e.enter_side _ _).trans (Eng.modRegion_side _ _ _)

theorem Eng.lowerFurther_side (e : Eng) (r : Region) : PowerSide e (e.lowerFurther r) := by
  unfold Eng.lowerFurther
  split
  · exact e.enter_side _ _
  · exact .refl e

theorem Eng.fitWith_side (f : Eng → Region → Eng) (hf : ∀ e r, PowerSide e (f e r)) (rs : List Region) (e : Eng) :
    PowerSide e (Eng.fitWith f rs e) := by
  induction rs generalizing e with
  | nil => exact .refl e
  | cons r rs ih =>
    unfold Eng.fitWith
    split
    · exact .refl e
    · exact (hf e r).trans (ih _)

theorem Eng.limitChanged_side (e : Eng) : PowerSide e e.limitChanged := by
  unfold Eng.limitChanged
  split
  · exact .refl e
  · dsimp only
    refine .trans ?_ (Eng.serveQueue_side _ 4)
    have h := fun (a b : List Region) => ((Eng.fitWith_side _ Eng.lowerQuiet_side e.byAge e).trans
      (Eng.fitWith_side _ Eng.lowerBusy_side a _)).trans (Eng.fitWith_side _ Eng.lowerFurther_side b _)
    split
    · exact (h _ _).trans (Eng.wakeEngine_side _)
    · exact h _ _

theorem Eng.lendRegion_side (e : Eng) (r : Region) : PowerSide e (e.lendRegion r) := by
  unfold Eng.lendRegion
  dsimp only
  split
  · split
    · exact (((e.enter_side _ _).trans (Eng.modRegion_side _ _ _)).trans (Eng.count_side _ _ _ _)).trans (Eng.serveQueue_side _ 4)
    · split
      · exact (e.enter_side _ _).trans (Eng.serveQueue_side _ 4)
      · exact .refl e
  · exact .refl e

theorem Eng.noteWorkOf_side (e : Eng) (d : Domain) : PowerSide e (e.noteWorkOf d) := by
  have h : PowerSide e (if (e.domOf d).busy then e else e.modDom d fun x => { x with busy := true }) := by
    split
    · exact .refl e
    · exact e.modDom_side _ _
  unfold Eng.noteWorkOf
  split
  · cases d with
    | region r => exact h.trans (Eng.lendRegion_side _ r)
    | engine => exact h
  · split
    · exact e.modDom_side _ _
    · exact .refl e

theorem Eng.noteQuiet_side (e : Eng) (r : Region) : PowerSide e (e.noteQuiet r) := e.noteWorkOf_side _

theorem Eng.noteWork_side (e : Eng) : PowerSide e e.noteWork :=
  ((((e.noteWorkOf_side _).trans (Eng.noteWorkOf_side _ _)).trans (Eng.noteWorkOf_side _ _)).trans
    (Eng.noteWorkOf_side _ _)).trans (Eng.noteWorkOf_side _ _)

theorem Eng.engineFloor_side (e : Eng) : PowerSide e e.engineFloor := by
  unfold Eng.engineFloor
  dsimp only
  split
  · exact e.wakeEngine_side
  · exact .refl e

theorem Eng.floorRaised_side (e : Eng) (r : Region) : PowerSide e (e.floorRaised r) := by
  unfold Eng.floorRaised
  dsimp only
  split
  · exact e.wakeRegion_side r
  · exact .refl e

@[simp] theorem Eng.wakeRegion_frame (e : Eng) (r : Region) :
    (e.wakeRegion r).pins = e.pins ∧ (e.wakeRegion r).now = e.now ∧ (e.wakeRegion r).aoCycle = e.aoCycle ∧
    (e.wakeRegion r).memMap = e.memMap ∧ (e.wakeRegion r).ctxs = e.ctxs ∧ (e.wakeRegion r).cxs = e.cxs ∧
    (e.wakeRegion r).rfe = e.rfe ∧ (e.wakeRegion r).jobs = e.jobs ∧ (e.wakeRegion r).jrn = e.jrn ∧
    (e.wakeRegion r).wlk = e.wlk ∧ (e.wakeRegion r).atg = e.atg ∧ (e.wakeRegion r).pdks = e.pdks ∧
    (e.wakeRegion r).lay = e.lay ∧ (e.wakeRegion r).cst = e.cst ∧ (e.wakeRegion r).drv = e.drv ∧
    (e.wakeRegion r).cdc = e.cdc ∧ (e.wakeRegion r).npi = e.npi ∧ (e.wakeRegion r).opi = e.opi ∧
    (e.wakeRegion r).syn = e.syn ∧ (e.wakeRegion r).svc.start = e.svc.start ∧ (e.wakeRegion r).svc.clkIn = e.svc.clkIn ∧
    (e.wakeRegion r).svc.clkMv = e.svc.clkMv ∧ (e.wakeRegion r).svc.clkMhz = e.svc.clkMhz ∧
    (e.wakeRegion r).svc.reset = e.svc.reset ∧ (e.wakeRegion r).svc.scratch = e.svc.scratch ∧
    (e.wakeRegion r).svc.sweeps = e.svc.sweeps ∧ (e.wakeRegion r).svc.arbCut = e.svc.arbCut ∧
    (e.wakeRegion r).svc.arbStarved = e.svc.arbStarved ∧ (e.wakeRegion r).svc.arbEn = e.svc.arbEn ∧
    (e.wakeRegion r).svc.arbVector = e.svc.arbVector ∧ (e.wakeRegion r).svc.ports = e.svc.ports ∧
    (e.wakeRegion r).svc.portArb = e.svc.portArb ∧ (e.wakeRegion r).svc.unitArb = e.svc.unitArb ∧
    (e.wakeRegion r).svc.arb = e.svc.arb ∧ (e.wakeRegion r).svc.bistEn = e.svc.bistEn ∧
    (e.wakeRegion r).svc.bistMask = e.svc.bistMask ∧ (e.wakeRegion r).svc.bistTickets = e.svc.bistTickets ∧
    (e.wakeRegion r).svc.bistVisit = e.svc.bistVisit ∧ (e.wakeRegion r).svc.bistInterval = e.svc.bistInterval ∧
    (e.wakeRegion r).svc.bist = e.svc.bist ∧ (e.wakeRegion r).svc.bistAt = e.svc.bistAt ∧
    (e.wakeRegion r).svc.bistSince = e.svc.bistSince ∧ (e.wakeRegion r).svc.measures = e.svc.measures ∧
    (e.wakeRegion r).svc.wheelAt = e.svc.wheelAt ∧ (e.wakeRegion r).svc.fuseSel = e.svc.fuseSel ∧
    (e.wakeRegion r).svc.cands = e.svc.cands ∧ (e.wakeRegion r).svc.fuseBusy = e.svc.fuseBusy ∧
    (e.wakeRegion r).svc.fuseAt = e.svc.fuseAt ∧ (e.wakeRegion r).svc.fuseResult = e.svc.fuseResult ∧
    (e.wakeRegion r).svc.pod = e.svc.pod ∧ (e.wakeRegion r).svc.spdm = e.svc.spdm ∧
    (e.wakeRegion r).svc.restarting = e.svc.restarting ∧ (e.wakeRegion r).svc.restarts = e.svc.restarts ∧
    (e.wakeRegion r).svc.lastExpiry = e.svc.lastExpiry ∧ (e.wakeRegion r).svc.kick = e.svc.kick ∧
    (e.wakeRegion r).flt = e.flt ∧ (e.wakeRegion r).fuses = e.fuses ∧ (e.wakeRegion r).freeCount = e.freeCount :=
  (Eng.wakeRegion_side e r).frame

@[simp] theorem Eng.wakeMany_frame (e : Eng) (rs : List Region) :
    (e.wakeMany rs).pins = e.pins ∧ (e.wakeMany rs).now = e.now ∧ (e.wakeMany rs).aoCycle = e.aoCycle ∧
    (e.wakeMany rs).memMap = e.memMap ∧ (e.wakeMany rs).ctxs = e.ctxs ∧ (e.wakeMany rs).cxs = e.cxs ∧
    (e.wakeMany rs).rfe = e.rfe ∧ (e.wakeMany rs).jobs = e.jobs ∧ (e.wakeMany rs).jrn = e.jrn ∧ (e.wakeMany rs).wlk = e.wlk ∧
    (e.wakeMany rs).atg = e.atg ∧ (e.wakeMany rs).pdks = e.pdks ∧ (e.wakeMany rs).lay = e.lay ∧ (e.wakeMany rs).cst = e.cst ∧
    (e.wakeMany rs).drv = e.drv ∧ (e.wakeMany rs).cdc = e.cdc ∧ (e.wakeMany rs).npi = e.npi ∧ (e.wakeMany rs).opi = e.opi ∧
    (e.wakeMany rs).syn = e.syn ∧ (e.wakeMany rs).svc.start = e.svc.start ∧ (e.wakeMany rs).svc.clkIn = e.svc.clkIn ∧
    (e.wakeMany rs).svc.clkMv = e.svc.clkMv ∧ (e.wakeMany rs).svc.clkMhz = e.svc.clkMhz ∧
    (e.wakeMany rs).svc.reset = e.svc.reset ∧ (e.wakeMany rs).svc.scratch = e.svc.scratch ∧
    (e.wakeMany rs).svc.sweeps = e.svc.sweeps ∧ (e.wakeMany rs).svc.arbCut = e.svc.arbCut ∧
    (e.wakeMany rs).svc.arbStarved = e.svc.arbStarved ∧ (e.wakeMany rs).svc.arbEn = e.svc.arbEn ∧
    (e.wakeMany rs).svc.arbVector = e.svc.arbVector ∧ (e.wakeMany rs).svc.ports = e.svc.ports ∧
    (e.wakeMany rs).svc.portArb = e.svc.portArb ∧ (e.wakeMany rs).svc.unitArb = e.svc.unitArb ∧
    (e.wakeMany rs).svc.arb = e.svc.arb ∧ (e.wakeMany rs).svc.bistEn = e.svc.bistEn ∧
    (e.wakeMany rs).svc.bistMask = e.svc.bistMask ∧ (e.wakeMany rs).svc.bistTickets = e.svc.bistTickets ∧
    (e.wakeMany rs).svc.bistVisit = e.svc.bistVisit ∧ (e.wakeMany rs).svc.bistInterval = e.svc.bistInterval ∧
    (e.wakeMany rs).svc.bist = e.svc.bist ∧ (e.wakeMany rs).svc.bistAt = e.svc.bistAt ∧
    (e.wakeMany rs).svc.bistSince = e.svc.bistSince ∧ (e.wakeMany rs).svc.measures = e.svc.measures ∧
    (e.wakeMany rs).svc.wheelAt = e.svc.wheelAt ∧ (e.wakeMany rs).svc.fuseSel = e.svc.fuseSel ∧
    (e.wakeMany rs).svc.cands = e.svc.cands ∧ (e.wakeMany rs).svc.fuseBusy = e.svc.fuseBusy ∧
    (e.wakeMany rs).svc.fuseAt = e.svc.fuseAt ∧ (e.wakeMany rs).svc.fuseResult = e.svc.fuseResult ∧
    (e.wakeMany rs).svc.pod = e.svc.pod ∧ (e.wakeMany rs).svc.spdm = e.svc.spdm ∧
    (e.wakeMany rs).svc.restarting = e.svc.restarting ∧ (e.wakeMany rs).svc.restarts = e.svc.restarts ∧
    (e.wakeMany rs).svc.lastExpiry = e.svc.lastExpiry ∧ (e.wakeMany rs).svc.kick = e.svc.kick ∧ (e.wakeMany rs).flt = e.flt ∧
    (e.wakeMany rs).fuses = e.fuses ∧ (e.wakeMany rs).freeCount = e.freeCount :=
  (Eng.wakeMany_side e rs).frame

@[simp] theorem Eng.serveQueue_frame (e : Eng) (n : Nat) :
    (Eng.serveQueue n e).pins = e.pins ∧ (Eng.serveQueue n e).now = e.now ∧ (Eng.serveQueue n e).aoCycle = e.aoCycle ∧
    (Eng.serveQueue n e).memMap = e.memMap ∧ (Eng.serveQueue n e).ctxs = e.ctxs ∧ (Eng.serveQueue n e).cxs = e.cxs ∧
    (Eng.serveQueue n e).rfe = e.rfe ∧ (Eng.serveQueue n e).jobs = e.jobs ∧ (Eng.serveQueue n e).jrn = e.jrn ∧
    (Eng.serveQueue n e).wlk = e.wlk ∧ (Eng.serveQueue n e).atg = e.atg ∧ (Eng.serveQueue n e).pdks = e.pdks ∧
    (Eng.serveQueue n e).lay = e.lay ∧ (Eng.serveQueue n e).cst = e.cst ∧ (Eng.serveQueue n e).drv = e.drv ∧
    (Eng.serveQueue n e).cdc = e.cdc ∧ (Eng.serveQueue n e).npi = e.npi ∧ (Eng.serveQueue n e).opi = e.opi ∧
    (Eng.serveQueue n e).syn = e.syn ∧ (Eng.serveQueue n e).svc.start = e.svc.start ∧
    (Eng.serveQueue n e).svc.clkIn = e.svc.clkIn ∧ (Eng.serveQueue n e).svc.clkMv = e.svc.clkMv ∧
    (Eng.serveQueue n e).svc.clkMhz = e.svc.clkMhz ∧ (Eng.serveQueue n e).svc.reset = e.svc.reset ∧
    (Eng.serveQueue n e).svc.scratch = e.svc.scratch ∧ (Eng.serveQueue n e).svc.sweeps = e.svc.sweeps ∧
    (Eng.serveQueue n e).svc.arbCut = e.svc.arbCut ∧ (Eng.serveQueue n e).svc.arbStarved = e.svc.arbStarved ∧
    (Eng.serveQueue n e).svc.arbEn = e.svc.arbEn ∧ (Eng.serveQueue n e).svc.arbVector = e.svc.arbVector ∧
    (Eng.serveQueue n e).svc.ports = e.svc.ports ∧ (Eng.serveQueue n e).svc.portArb = e.svc.portArb ∧
    (Eng.serveQueue n e).svc.unitArb = e.svc.unitArb ∧ (Eng.serveQueue n e).svc.arb = e.svc.arb ∧
    (Eng.serveQueue n e).svc.bistEn = e.svc.bistEn ∧ (Eng.serveQueue n e).svc.bistMask = e.svc.bistMask ∧
    (Eng.serveQueue n e).svc.bistTickets = e.svc.bistTickets ∧ (Eng.serveQueue n e).svc.bistVisit = e.svc.bistVisit ∧
    (Eng.serveQueue n e).svc.bistInterval = e.svc.bistInterval ∧ (Eng.serveQueue n e).svc.bist = e.svc.bist ∧
    (Eng.serveQueue n e).svc.bistAt = e.svc.bistAt ∧ (Eng.serveQueue n e).svc.bistSince = e.svc.bistSince ∧
    (Eng.serveQueue n e).svc.measures = e.svc.measures ∧ (Eng.serveQueue n e).svc.wheelAt = e.svc.wheelAt ∧
    (Eng.serveQueue n e).svc.fuseSel = e.svc.fuseSel ∧ (Eng.serveQueue n e).svc.cands = e.svc.cands ∧
    (Eng.serveQueue n e).svc.fuseBusy = e.svc.fuseBusy ∧ (Eng.serveQueue n e).svc.fuseAt = e.svc.fuseAt ∧
    (Eng.serveQueue n e).svc.fuseResult = e.svc.fuseResult ∧ (Eng.serveQueue n e).svc.pod = e.svc.pod ∧
    (Eng.serveQueue n e).svc.spdm = e.svc.spdm ∧ (Eng.serveQueue n e).svc.restarting = e.svc.restarting ∧
    (Eng.serveQueue n e).svc.restarts = e.svc.restarts ∧ (Eng.serveQueue n e).svc.lastExpiry = e.svc.lastExpiry ∧
    (Eng.serveQueue n e).svc.kick = e.svc.kick ∧ (Eng.serveQueue n e).flt = e.flt ∧ (Eng.serveQueue n e).fuses = e.fuses ∧
    (Eng.serveQueue n e).freeCount = e.freeCount :=
  (Eng.serveQueue_side e n).frame

@[simp] theorem Eng.wakeEngine_frame (e : Eng)  :
    (e.wakeEngine).pins = e.pins ∧ (e.wakeEngine).now = e.now ∧ (e.wakeEngine).aoCycle = e.aoCycle ∧
    (e.wakeEngine).memMap = e.memMap ∧ (e.wakeEngine).ctxs = e.ctxs ∧ (e.wakeEngine).cxs = e.cxs ∧
    (e.wakeEngine).rfe = e.rfe ∧ (e.wakeEngine).jobs = e.jobs ∧ (e.wakeEngine).jrn = e.jrn ∧ (e.wakeEngine).wlk = e.wlk ∧
    (e.wakeEngine).atg = e.atg ∧ (e.wakeEngine).pdks = e.pdks ∧ (e.wakeEngine).lay = e.lay ∧ (e.wakeEngine).cst = e.cst ∧
    (e.wakeEngine).drv = e.drv ∧ (e.wakeEngine).cdc = e.cdc ∧ (e.wakeEngine).npi = e.npi ∧ (e.wakeEngine).opi = e.opi ∧
    (e.wakeEngine).syn = e.syn ∧ (e.wakeEngine).svc.start = e.svc.start ∧ (e.wakeEngine).svc.clkIn = e.svc.clkIn ∧
    (e.wakeEngine).svc.clkMv = e.svc.clkMv ∧ (e.wakeEngine).svc.clkMhz = e.svc.clkMhz ∧
    (e.wakeEngine).svc.reset = e.svc.reset ∧ (e.wakeEngine).svc.scratch = e.svc.scratch ∧
    (e.wakeEngine).svc.sweeps = e.svc.sweeps ∧ (e.wakeEngine).svc.arbCut = e.svc.arbCut ∧
    (e.wakeEngine).svc.arbStarved = e.svc.arbStarved ∧ (e.wakeEngine).svc.arbEn = e.svc.arbEn ∧
    (e.wakeEngine).svc.arbVector = e.svc.arbVector ∧ (e.wakeEngine).svc.ports = e.svc.ports ∧
    (e.wakeEngine).svc.portArb = e.svc.portArb ∧ (e.wakeEngine).svc.unitArb = e.svc.unitArb ∧
    (e.wakeEngine).svc.arb = e.svc.arb ∧ (e.wakeEngine).svc.bistEn = e.svc.bistEn ∧
    (e.wakeEngine).svc.bistMask = e.svc.bistMask ∧ (e.wakeEngine).svc.bistTickets = e.svc.bistTickets ∧
    (e.wakeEngine).svc.bistVisit = e.svc.bistVisit ∧ (e.wakeEngine).svc.bistInterval = e.svc.bistInterval ∧
    (e.wakeEngine).svc.bist = e.svc.bist ∧ (e.wakeEngine).svc.bistAt = e.svc.bistAt ∧
    (e.wakeEngine).svc.bistSince = e.svc.bistSince ∧ (e.wakeEngine).svc.measures = e.svc.measures ∧
    (e.wakeEngine).svc.wheelAt = e.svc.wheelAt ∧ (e.wakeEngine).svc.fuseSel = e.svc.fuseSel ∧
    (e.wakeEngine).svc.cands = e.svc.cands ∧ (e.wakeEngine).svc.fuseBusy = e.svc.fuseBusy ∧
    (e.wakeEngine).svc.fuseAt = e.svc.fuseAt ∧ (e.wakeEngine).svc.fuseResult = e.svc.fuseResult ∧
    (e.wakeEngine).svc.pod = e.svc.pod ∧ (e.wakeEngine).svc.spdm = e.svc.spdm ∧
    (e.wakeEngine).svc.restarting = e.svc.restarting ∧ (e.wakeEngine).svc.restarts = e.svc.restarts ∧
    (e.wakeEngine).svc.lastExpiry = e.svc.lastExpiry ∧ (e.wakeEngine).svc.kick = e.svc.kick ∧ (e.wakeEngine).flt = e.flt ∧
    (e.wakeEngine).fuses = e.fuses ∧ (e.wakeEngine).freeCount = e.freeCount :=
  (Eng.wakeEngine_side e ).frame

@[simp] theorem Eng.beginWake_frame (e : Eng) (d : Domain) :
    (e.beginWake d).pins = e.pins ∧ (e.beginWake d).now = e.now ∧ (e.beginWake d).aoCycle = e.aoCycle ∧
    (e.beginWake d).memMap = e.memMap ∧ (e.beginWake d).ctxs = e.ctxs ∧ (e.beginWake d).cxs = e.cxs ∧
    (e.beginWake d).rfe = e.rfe ∧ (e.beginWake d).jobs = e.jobs ∧ (e.beginWake d).jrn = e.jrn ∧ (e.beginWake d).wlk = e.wlk ∧
    (e.beginWake d).atg = e.atg ∧ (e.beginWake d).pdks = e.pdks ∧ (e.beginWake d).lay = e.lay ∧ (e.beginWake d).cst = e.cst ∧
    (e.beginWake d).drv = e.drv ∧ (e.beginWake d).cdc = e.cdc ∧ (e.beginWake d).npi = e.npi ∧ (e.beginWake d).opi = e.opi ∧
    (e.beginWake d).syn = e.syn ∧ (e.beginWake d).svc.start = e.svc.start ∧ (e.beginWake d).svc.clkIn = e.svc.clkIn ∧
    (e.beginWake d).svc.clkMv = e.svc.clkMv ∧ (e.beginWake d).svc.clkMhz = e.svc.clkMhz ∧
    (e.beginWake d).svc.reset = e.svc.reset ∧ (e.beginWake d).svc.scratch = e.svc.scratch ∧
    (e.beginWake d).svc.sweeps = e.svc.sweeps ∧ (e.beginWake d).svc.arbCut = e.svc.arbCut ∧
    (e.beginWake d).svc.arbStarved = e.svc.arbStarved ∧ (e.beginWake d).svc.arbEn = e.svc.arbEn ∧
    (e.beginWake d).svc.arbVector = e.svc.arbVector ∧ (e.beginWake d).svc.ports = e.svc.ports ∧
    (e.beginWake d).svc.portArb = e.svc.portArb ∧ (e.beginWake d).svc.unitArb = e.svc.unitArb ∧
    (e.beginWake d).svc.arb = e.svc.arb ∧ (e.beginWake d).svc.bistEn = e.svc.bistEn ∧
    (e.beginWake d).svc.bistMask = e.svc.bistMask ∧ (e.beginWake d).svc.bistTickets = e.svc.bistTickets ∧
    (e.beginWake d).svc.bistVisit = e.svc.bistVisit ∧ (e.beginWake d).svc.bistInterval = e.svc.bistInterval ∧
    (e.beginWake d).svc.bist = e.svc.bist ∧ (e.beginWake d).svc.bistAt = e.svc.bistAt ∧
    (e.beginWake d).svc.bistSince = e.svc.bistSince ∧ (e.beginWake d).svc.measures = e.svc.measures ∧
    (e.beginWake d).svc.wheelAt = e.svc.wheelAt ∧ (e.beginWake d).svc.fuseSel = e.svc.fuseSel ∧
    (e.beginWake d).svc.cands = e.svc.cands ∧ (e.beginWake d).svc.fuseBusy = e.svc.fuseBusy ∧
    (e.beginWake d).svc.fuseAt = e.svc.fuseAt ∧ (e.beginWake d).svc.fuseResult = e.svc.fuseResult ∧
    (e.beginWake d).svc.pod = e.svc.pod ∧ (e.beginWake d).svc.spdm = e.svc.spdm ∧
    (e.beginWake d).svc.restarting = e.svc.restarting ∧ (e.beginWake d).svc.restarts = e.svc.restarts ∧
    (e.beginWake d).svc.lastExpiry = e.svc.lastExpiry ∧ (e.beginWake d).svc.kick = e.svc.kick ∧ (e.beginWake d).flt = e.flt ∧
    (e.beginWake d).fuses = e.fuses ∧ (e.beginWake d).freeCount = e.freeCount :=
  (Eng.beginWake_side e d).frame

@[simp] theorem Eng.enter_frame (e : Eng) (d : Domain) (st : PState) :
    (e.enter d st).pins = e.pins ∧ (e.enter d st).now = e.now ∧ (e.enter d st).aoCycle = e.aoCycle ∧
    (e.enter d st).memMap = e.memMap ∧ (e.enter d st).ctxs = e.ctxs ∧ (e.enter d st).cxs = e.cxs ∧
    (e.enter d st).rfe = e.rfe ∧ (e.enter d st).jobs = e.jobs ∧ (e.enter d st).jrn = e.jrn ∧ (e.enter d st).wlk = e.wlk ∧
    (e.enter d st).atg = e.atg ∧ (e.enter d st).pdks = e.pdks ∧ (e.enter d st).lay = e.lay ∧ (e.enter d st).cst = e.cst ∧
    (e.enter d st).drv = e.drv ∧ (e.enter d st).cdc = e.cdc ∧ (e.enter d st).npi = e.npi ∧ (e.enter d st).opi = e.opi ∧
    (e.enter d st).syn = e.syn ∧ (e.enter d st).svc.start = e.svc.start ∧ (e.enter d st).svc.clkIn = e.svc.clkIn ∧
    (e.enter d st).svc.clkMv = e.svc.clkMv ∧ (e.enter d st).svc.clkMhz = e.svc.clkMhz ∧
    (e.enter d st).svc.reset = e.svc.reset ∧ (e.enter d st).svc.scratch = e.svc.scratch ∧
    (e.enter d st).svc.sweeps = e.svc.sweeps ∧ (e.enter d st).svc.arbCut = e.svc.arbCut ∧
    (e.enter d st).svc.arbStarved = e.svc.arbStarved ∧ (e.enter d st).svc.arbEn = e.svc.arbEn ∧
    (e.enter d st).svc.arbVector = e.svc.arbVector ∧ (e.enter d st).svc.ports = e.svc.ports ∧
    (e.enter d st).svc.portArb = e.svc.portArb ∧ (e.enter d st).svc.unitArb = e.svc.unitArb ∧
    (e.enter d st).svc.arb = e.svc.arb ∧ (e.enter d st).svc.bistEn = e.svc.bistEn ∧
    (e.enter d st).svc.bistMask = e.svc.bistMask ∧ (e.enter d st).svc.bistTickets = e.svc.bistTickets ∧
    (e.enter d st).svc.bistVisit = e.svc.bistVisit ∧ (e.enter d st).svc.bistInterval = e.svc.bistInterval ∧
    (e.enter d st).svc.bist = e.svc.bist ∧ (e.enter d st).svc.bistAt = e.svc.bistAt ∧
    (e.enter d st).svc.bistSince = e.svc.bistSince ∧ (e.enter d st).svc.measures = e.svc.measures ∧
    (e.enter d st).svc.wheelAt = e.svc.wheelAt ∧ (e.enter d st).svc.fuseSel = e.svc.fuseSel ∧
    (e.enter d st).svc.cands = e.svc.cands ∧ (e.enter d st).svc.fuseBusy = e.svc.fuseBusy ∧
    (e.enter d st).svc.fuseAt = e.svc.fuseAt ∧ (e.enter d st).svc.fuseResult = e.svc.fuseResult ∧
    (e.enter d st).svc.pod = e.svc.pod ∧ (e.enter d st).svc.spdm = e.svc.spdm ∧
    (e.enter d st).svc.restarting = e.svc.restarting ∧ (e.enter d st).svc.restarts = e.svc.restarts ∧
    (e.enter d st).svc.lastExpiry = e.svc.lastExpiry ∧ (e.enter d st).svc.kick = e.svc.kick ∧ (e.enter d st).flt = e.flt ∧
    (e.enter d st).fuses = e.fuses ∧ (e.enter d st).freeCount = e.freeCount :=
  (Eng.enter_side e d st).frame

@[simp] theorem Eng.noteQuiet_frame (e : Eng) (r : Region) :
    (e.noteQuiet r).pins = e.pins ∧ (e.noteQuiet r).now = e.now ∧ (e.noteQuiet r).aoCycle = e.aoCycle ∧
    (e.noteQuiet r).memMap = e.memMap ∧ (e.noteQuiet r).ctxs = e.ctxs ∧ (e.noteQuiet r).cxs = e.cxs ∧
    (e.noteQuiet r).rfe = e.rfe ∧ (e.noteQuiet r).jobs = e.jobs ∧ (e.noteQuiet r).jrn = e.jrn ∧ (e.noteQuiet r).wlk = e.wlk ∧
    (e.noteQuiet r).atg = e.atg ∧ (e.noteQuiet r).pdks = e.pdks ∧ (e.noteQuiet r).lay = e.lay ∧ (e.noteQuiet r).cst = e.cst ∧
    (e.noteQuiet r).drv = e.drv ∧ (e.noteQuiet r).cdc = e.cdc ∧ (e.noteQuiet r).npi = e.npi ∧ (e.noteQuiet r).opi = e.opi ∧
    (e.noteQuiet r).syn = e.syn ∧ (e.noteQuiet r).svc.start = e.svc.start ∧ (e.noteQuiet r).svc.clkIn = e.svc.clkIn ∧
    (e.noteQuiet r).svc.clkMv = e.svc.clkMv ∧ (e.noteQuiet r).svc.clkMhz = e.svc.clkMhz ∧
    (e.noteQuiet r).svc.reset = e.svc.reset ∧ (e.noteQuiet r).svc.scratch = e.svc.scratch ∧
    (e.noteQuiet r).svc.sweeps = e.svc.sweeps ∧ (e.noteQuiet r).svc.arbCut = e.svc.arbCut ∧
    (e.noteQuiet r).svc.arbStarved = e.svc.arbStarved ∧ (e.noteQuiet r).svc.arbEn = e.svc.arbEn ∧
    (e.noteQuiet r).svc.arbVector = e.svc.arbVector ∧ (e.noteQuiet r).svc.ports = e.svc.ports ∧
    (e.noteQuiet r).svc.portArb = e.svc.portArb ∧ (e.noteQuiet r).svc.unitArb = e.svc.unitArb ∧
    (e.noteQuiet r).svc.arb = e.svc.arb ∧ (e.noteQuiet r).svc.bistEn = e.svc.bistEn ∧
    (e.noteQuiet r).svc.bistMask = e.svc.bistMask ∧ (e.noteQuiet r).svc.bistTickets = e.svc.bistTickets ∧
    (e.noteQuiet r).svc.bistVisit = e.svc.bistVisit ∧ (e.noteQuiet r).svc.bistInterval = e.svc.bistInterval ∧
    (e.noteQuiet r).svc.bist = e.svc.bist ∧ (e.noteQuiet r).svc.bistAt = e.svc.bistAt ∧
    (e.noteQuiet r).svc.bistSince = e.svc.bistSince ∧ (e.noteQuiet r).svc.measures = e.svc.measures ∧
    (e.noteQuiet r).svc.wheelAt = e.svc.wheelAt ∧ (e.noteQuiet r).svc.fuseSel = e.svc.fuseSel ∧
    (e.noteQuiet r).svc.cands = e.svc.cands ∧ (e.noteQuiet r).svc.fuseBusy = e.svc.fuseBusy ∧
    (e.noteQuiet r).svc.fuseAt = e.svc.fuseAt ∧ (e.noteQuiet r).svc.fuseResult = e.svc.fuseResult ∧
    (e.noteQuiet r).svc.pod = e.svc.pod ∧ (e.noteQuiet r).svc.spdm = e.svc.spdm ∧
    (e.noteQuiet r).svc.restarting = e.svc.restarting ∧ (e.noteQuiet r).svc.restarts = e.svc.restarts ∧
    (e.noteQuiet r).svc.lastExpiry = e.svc.lastExpiry ∧ (e.noteQuiet r).svc.kick = e.svc.kick ∧ (e.noteQuiet r).flt = e.flt ∧
    (e.noteQuiet r).fuses = e.fuses ∧ (e.noteQuiet r).freeCount = e.freeCount :=
  (Eng.noteQuiet_side e r).frame

@[simp] theorem Eng.noteWork_frame (e : Eng)  :
    (e.noteWork).pins = e.pins ∧ (e.noteWork).now = e.now ∧ (e.noteWork).aoCycle = e.aoCycle ∧
    (e.noteWork).memMap = e.memMap ∧ (e.noteWork).ctxs = e.ctxs ∧ (e.noteWork).cxs = e.cxs ∧ (e.noteWork).rfe = e.rfe ∧
    (e.noteWork).jobs = e.jobs ∧ (e.noteWork).jrn = e.jrn ∧ (e.noteWork).wlk = e.wlk ∧ (e.noteWork).atg = e.atg ∧
    (e.noteWork).pdks = e.pdks ∧ (e.noteWork).lay = e.lay ∧ (e.noteWork).cst = e.cst ∧ (e.noteWork).drv = e.drv ∧
    (e.noteWork).cdc = e.cdc ∧ (e.noteWork).npi = e.npi ∧ (e.noteWork).opi = e.opi ∧ (e.noteWork).syn = e.syn ∧
    (e.noteWork).svc.start = e.svc.start ∧ (e.noteWork).svc.clkIn = e.svc.clkIn ∧ (e.noteWork).svc.clkMv = e.svc.clkMv ∧
    (e.noteWork).svc.clkMhz = e.svc.clkMhz ∧ (e.noteWork).svc.reset = e.svc.reset ∧
    (e.noteWork).svc.scratch = e.svc.scratch ∧ (e.noteWork).svc.sweeps = e.svc.sweeps ∧
    (e.noteWork).svc.arbCut = e.svc.arbCut ∧ (e.noteWork).svc.arbStarved = e.svc.arbStarved ∧
    (e.noteWork).svc.arbEn = e.svc.arbEn ∧ (e.noteWork).svc.arbVector = e.svc.arbVector ∧
    (e.noteWork).svc.ports = e.svc.ports ∧ (e.noteWork).svc.portArb = e.svc.portArb ∧
    (e.noteWork).svc.unitArb = e.svc.unitArb ∧ (e.noteWork).svc.arb = e.svc.arb ∧ (e.noteWork).svc.bistEn = e.svc.bistEn ∧
    (e.noteWork).svc.bistMask = e.svc.bistMask ∧ (e.noteWork).svc.bistTickets = e.svc.bistTickets ∧
    (e.noteWork).svc.bistVisit = e.svc.bistVisit ∧ (e.noteWork).svc.bistInterval = e.svc.bistInterval ∧
    (e.noteWork).svc.bist = e.svc.bist ∧ (e.noteWork).svc.bistAt = e.svc.bistAt ∧
    (e.noteWork).svc.bistSince = e.svc.bistSince ∧ (e.noteWork).svc.measures = e.svc.measures ∧
    (e.noteWork).svc.wheelAt = e.svc.wheelAt ∧ (e.noteWork).svc.fuseSel = e.svc.fuseSel ∧
    (e.noteWork).svc.cands = e.svc.cands ∧ (e.noteWork).svc.fuseBusy = e.svc.fuseBusy ∧
    (e.noteWork).svc.fuseAt = e.svc.fuseAt ∧ (e.noteWork).svc.fuseResult = e.svc.fuseResult ∧
    (e.noteWork).svc.pod = e.svc.pod ∧ (e.noteWork).svc.spdm = e.svc.spdm ∧ (e.noteWork).svc.restarting = e.svc.restarting ∧
    (e.noteWork).svc.restarts = e.svc.restarts ∧ (e.noteWork).svc.lastExpiry = e.svc.lastExpiry ∧
    (e.noteWork).svc.kick = e.svc.kick ∧ (e.noteWork).flt = e.flt ∧ (e.noteWork).fuses = e.fuses ∧
    (e.noteWork).freeCount = e.freeCount :=
  (Eng.noteWork_side e ).frame

@[simp] theorem Eng.limitChanged_frame (e : Eng)  :
    (e.limitChanged).pins = e.pins ∧ (e.limitChanged).now = e.now ∧ (e.limitChanged).aoCycle = e.aoCycle ∧
    (e.limitChanged).memMap = e.memMap ∧ (e.limitChanged).ctxs = e.ctxs ∧ (e.limitChanged).cxs = e.cxs ∧
    (e.limitChanged).rfe = e.rfe ∧ (e.limitChanged).jobs = e.jobs ∧ (e.limitChanged).jrn = e.jrn ∧
    (e.limitChanged).wlk = e.wlk ∧ (e.limitChanged).atg = e.atg ∧ (e.limitChanged).pdks = e.pdks ∧
    (e.limitChanged).lay = e.lay ∧ (e.limitChanged).cst = e.cst ∧ (e.limitChanged).drv = e.drv ∧
    (e.limitChanged).cdc = e.cdc ∧ (e.limitChanged).npi = e.npi ∧ (e.limitChanged).opi = e.opi ∧
    (e.limitChanged).syn = e.syn ∧ (e.limitChanged).svc.start = e.svc.start ∧ (e.limitChanged).svc.clkIn = e.svc.clkIn ∧
    (e.limitChanged).svc.clkMv = e.svc.clkMv ∧ (e.limitChanged).svc.clkMhz = e.svc.clkMhz ∧
    (e.limitChanged).svc.reset = e.svc.reset ∧ (e.limitChanged).svc.scratch = e.svc.scratch ∧
    (e.limitChanged).svc.sweeps = e.svc.sweeps ∧ (e.limitChanged).svc.arbCut = e.svc.arbCut ∧
    (e.limitChanged).svc.arbStarved = e.svc.arbStarved ∧ (e.limitChanged).svc.arbEn = e.svc.arbEn ∧
    (e.limitChanged).svc.arbVector = e.svc.arbVector ∧ (e.limitChanged).svc.ports = e.svc.ports ∧
    (e.limitChanged).svc.portArb = e.svc.portArb ∧ (e.limitChanged).svc.unitArb = e.svc.unitArb ∧
    (e.limitChanged).svc.arb = e.svc.arb ∧ (e.limitChanged).svc.bistEn = e.svc.bistEn ∧
    (e.limitChanged).svc.bistMask = e.svc.bistMask ∧ (e.limitChanged).svc.bistTickets = e.svc.bistTickets ∧
    (e.limitChanged).svc.bistVisit = e.svc.bistVisit ∧ (e.limitChanged).svc.bistInterval = e.svc.bistInterval ∧
    (e.limitChanged).svc.bist = e.svc.bist ∧ (e.limitChanged).svc.bistAt = e.svc.bistAt ∧
    (e.limitChanged).svc.bistSince = e.svc.bistSince ∧ (e.limitChanged).svc.measures = e.svc.measures ∧
    (e.limitChanged).svc.wheelAt = e.svc.wheelAt ∧ (e.limitChanged).svc.fuseSel = e.svc.fuseSel ∧
    (e.limitChanged).svc.cands = e.svc.cands ∧ (e.limitChanged).svc.fuseBusy = e.svc.fuseBusy ∧
    (e.limitChanged).svc.fuseAt = e.svc.fuseAt ∧ (e.limitChanged).svc.fuseResult = e.svc.fuseResult ∧
    (e.limitChanged).svc.pod = e.svc.pod ∧ (e.limitChanged).svc.spdm = e.svc.spdm ∧
    (e.limitChanged).svc.restarting = e.svc.restarting ∧ (e.limitChanged).svc.restarts = e.svc.restarts ∧
    (e.limitChanged).svc.lastExpiry = e.svc.lastExpiry ∧ (e.limitChanged).svc.kick = e.svc.kick ∧
    (e.limitChanged).flt = e.flt ∧ (e.limitChanged).fuses = e.fuses ∧ (e.limitChanged).freeCount = e.freeCount :=
  (Eng.limitChanged_side e ).frame

@[simp] theorem Eng.lendRegion_frame (e : Eng) (r : Region) :
    (e.lendRegion r).pins = e.pins ∧ (e.lendRegion r).now = e.now ∧ (e.lendRegion r).aoCycle = e.aoCycle ∧
    (e.lendRegion r).memMap = e.memMap ∧ (e.lendRegion r).ctxs = e.ctxs ∧ (e.lendRegion r).cxs = e.cxs ∧
    (e.lendRegion r).rfe = e.rfe ∧ (e.lendRegion r).jobs = e.jobs ∧ (e.lendRegion r).jrn = e.jrn ∧
    (e.lendRegion r).wlk = e.wlk ∧ (e.lendRegion r).atg = e.atg ∧ (e.lendRegion r).pdks = e.pdks ∧
    (e.lendRegion r).lay = e.lay ∧ (e.lendRegion r).cst = e.cst ∧ (e.lendRegion r).drv = e.drv ∧
    (e.lendRegion r).cdc = e.cdc ∧ (e.lendRegion r).npi = e.npi ∧ (e.lendRegion r).opi = e.opi ∧
    (e.lendRegion r).syn = e.syn ∧ (e.lendRegion r).svc.start = e.svc.start ∧ (e.lendRegion r).svc.clkIn = e.svc.clkIn ∧
    (e.lendRegion r).svc.clkMv = e.svc.clkMv ∧ (e.lendRegion r).svc.clkMhz = e.svc.clkMhz ∧
    (e.lendRegion r).svc.reset = e.svc.reset ∧ (e.lendRegion r).svc.scratch = e.svc.scratch ∧
    (e.lendRegion r).svc.sweeps = e.svc.sweeps ∧ (e.lendRegion r).svc.arbCut = e.svc.arbCut ∧
    (e.lendRegion r).svc.arbStarved = e.svc.arbStarved ∧ (e.lendRegion r).svc.arbEn = e.svc.arbEn ∧
    (e.lendRegion r).svc.arbVector = e.svc.arbVector ∧ (e.lendRegion r).svc.ports = e.svc.ports ∧
    (e.lendRegion r).svc.portArb = e.svc.portArb ∧ (e.lendRegion r).svc.unitArb = e.svc.unitArb ∧
    (e.lendRegion r).svc.arb = e.svc.arb ∧ (e.lendRegion r).svc.bistEn = e.svc.bistEn ∧
    (e.lendRegion r).svc.bistMask = e.svc.bistMask ∧ (e.lendRegion r).svc.bistTickets = e.svc.bistTickets ∧
    (e.lendRegion r).svc.bistVisit = e.svc.bistVisit ∧ (e.lendRegion r).svc.bistInterval = e.svc.bistInterval ∧
    (e.lendRegion r).svc.bist = e.svc.bist ∧ (e.lendRegion r).svc.bistAt = e.svc.bistAt ∧
    (e.lendRegion r).svc.bistSince = e.svc.bistSince ∧ (e.lendRegion r).svc.measures = e.svc.measures ∧
    (e.lendRegion r).svc.wheelAt = e.svc.wheelAt ∧ (e.lendRegion r).svc.fuseSel = e.svc.fuseSel ∧
    (e.lendRegion r).svc.cands = e.svc.cands ∧ (e.lendRegion r).svc.fuseBusy = e.svc.fuseBusy ∧
    (e.lendRegion r).svc.fuseAt = e.svc.fuseAt ∧ (e.lendRegion r).svc.fuseResult = e.svc.fuseResult ∧
    (e.lendRegion r).svc.pod = e.svc.pod ∧ (e.lendRegion r).svc.spdm = e.svc.spdm ∧
    (e.lendRegion r).svc.restarting = e.svc.restarting ∧ (e.lendRegion r).svc.restarts = e.svc.restarts ∧
    (e.lendRegion r).svc.lastExpiry = e.svc.lastExpiry ∧ (e.lendRegion r).svc.kick = e.svc.kick ∧
    (e.lendRegion r).flt = e.flt ∧ (e.lendRegion r).fuses = e.fuses ∧ (e.lendRegion r).freeCount = e.freeCount :=
  (Eng.lendRegion_side e r).frame

@[simp] theorem Eng.floorRaised_frame (e : Eng) (r : Region) :
    (e.floorRaised r).pins = e.pins ∧ (e.floorRaised r).now = e.now ∧ (e.floorRaised r).aoCycle = e.aoCycle ∧
    (e.floorRaised r).memMap = e.memMap ∧ (e.floorRaised r).ctxs = e.ctxs ∧ (e.floorRaised r).cxs = e.cxs ∧
    (e.floorRaised r).rfe = e.rfe ∧ (e.floorRaised r).jobs = e.jobs ∧ (e.floorRaised r).jrn = e.jrn ∧
    (e.floorRaised r).wlk = e.wlk ∧ (e.floorRaised r).atg = e.atg ∧ (e.floorRaised r).pdks = e.pdks ∧
    (e.floorRaised r).lay = e.lay ∧ (e.floorRaised r).cst = e.cst ∧ (e.floorRaised r).drv = e.drv ∧
    (e.floorRaised r).cdc = e.cdc ∧ (e.floorRaised r).npi = e.npi ∧ (e.floorRaised r).opi = e.opi ∧
    (e.floorRaised r).syn = e.syn ∧ (e.floorRaised r).svc.start = e.svc.start ∧ (e.floorRaised r).svc.clkIn = e.svc.clkIn ∧
    (e.floorRaised r).svc.clkMv = e.svc.clkMv ∧ (e.floorRaised r).svc.clkMhz = e.svc.clkMhz ∧
    (e.floorRaised r).svc.reset = e.svc.reset ∧ (e.floorRaised r).svc.scratch = e.svc.scratch ∧
    (e.floorRaised r).svc.sweeps = e.svc.sweeps ∧ (e.floorRaised r).svc.arbCut = e.svc.arbCut ∧
    (e.floorRaised r).svc.arbStarved = e.svc.arbStarved ∧ (e.floorRaised r).svc.arbEn = e.svc.arbEn ∧
    (e.floorRaised r).svc.arbVector = e.svc.arbVector ∧ (e.floorRaised r).svc.ports = e.svc.ports ∧
    (e.floorRaised r).svc.portArb = e.svc.portArb ∧ (e.floorRaised r).svc.unitArb = e.svc.unitArb ∧
    (e.floorRaised r).svc.arb = e.svc.arb ∧ (e.floorRaised r).svc.bistEn = e.svc.bistEn ∧
    (e.floorRaised r).svc.bistMask = e.svc.bistMask ∧ (e.floorRaised r).svc.bistTickets = e.svc.bistTickets ∧
    (e.floorRaised r).svc.bistVisit = e.svc.bistVisit ∧ (e.floorRaised r).svc.bistInterval = e.svc.bistInterval ∧
    (e.floorRaised r).svc.bist = e.svc.bist ∧ (e.floorRaised r).svc.bistAt = e.svc.bistAt ∧
    (e.floorRaised r).svc.bistSince = e.svc.bistSince ∧ (e.floorRaised r).svc.measures = e.svc.measures ∧
    (e.floorRaised r).svc.wheelAt = e.svc.wheelAt ∧ (e.floorRaised r).svc.fuseSel = e.svc.fuseSel ∧
    (e.floorRaised r).svc.cands = e.svc.cands ∧ (e.floorRaised r).svc.fuseBusy = e.svc.fuseBusy ∧
    (e.floorRaised r).svc.fuseAt = e.svc.fuseAt ∧ (e.floorRaised r).svc.fuseResult = e.svc.fuseResult ∧
    (e.floorRaised r).svc.pod = e.svc.pod ∧ (e.floorRaised r).svc.spdm = e.svc.spdm ∧
    (e.floorRaised r).svc.restarting = e.svc.restarting ∧ (e.floorRaised r).svc.restarts = e.svc.restarts ∧
    (e.floorRaised r).svc.lastExpiry = e.svc.lastExpiry ∧ (e.floorRaised r).svc.kick = e.svc.kick ∧
    (e.floorRaised r).flt = e.flt ∧ (e.floorRaised r).fuses = e.fuses ∧ (e.floorRaised r).freeCount = e.freeCount :=
  (Eng.floorRaised_side e r).frame

@[simp] theorem Eng.beginExit_frame (e : Eng)  :
    (e.beginExit).pins = e.pins ∧ (e.beginExit).now = e.now ∧ (e.beginExit).aoCycle = e.aoCycle ∧
    (e.beginExit).memMap = e.memMap ∧ (e.beginExit).ctxs = e.ctxs ∧ (e.beginExit).cxs = e.cxs ∧ (e.beginExit).rfe = e.rfe ∧
    (e.beginExit).jobs = e.jobs ∧ (e.beginExit).jrn = e.jrn ∧ (e.beginExit).wlk = e.wlk ∧ (e.beginExit).atg = e.atg ∧
    (e.beginExit).pdks = e.pdks ∧ (e.beginExit).lay = e.lay ∧ (e.beginExit).cst = e.cst ∧ (e.beginExit).drv = e.drv ∧
    (e.beginExit).cdc = e.cdc ∧ (e.beginExit).npi = e.npi ∧ (e.beginExit).opi = e.opi ∧ (e.beginExit).syn = e.syn ∧
    (e.beginExit).svc.start = e.svc.start ∧ (e.beginExit).svc.clkIn = e.svc.clkIn ∧ (e.beginExit).svc.clkMv = e.svc.clkMv ∧
    (e.beginExit).svc.clkMhz = e.svc.clkMhz ∧ (e.beginExit).svc.reset = e.svc.reset ∧
    (e.beginExit).svc.scratch = e.svc.scratch ∧ (e.beginExit).svc.sweeps = e.svc.sweeps ∧
    (e.beginExit).svc.arbCut = e.svc.arbCut ∧ (e.beginExit).svc.arbStarved = e.svc.arbStarved ∧
    (e.beginExit).svc.arbEn = e.svc.arbEn ∧ (e.beginExit).svc.arbVector = e.svc.arbVector ∧
    (e.beginExit).svc.ports = e.svc.ports ∧ (e.beginExit).svc.portArb = e.svc.portArb ∧
    (e.beginExit).svc.unitArb = e.svc.unitArb ∧ (e.beginExit).svc.arb = e.svc.arb ∧ (e.beginExit).svc.bistEn = e.svc.bistEn ∧
    (e.beginExit).svc.bistMask = e.svc.bistMask ∧ (e.beginExit).svc.bistTickets = e.svc.bistTickets ∧
    (e.beginExit).svc.bistVisit = e.svc.bistVisit ∧ (e.beginExit).svc.bistInterval = e.svc.bistInterval ∧
    (e.beginExit).svc.bist = e.svc.bist ∧ (e.beginExit).svc.bistAt = e.svc.bistAt ∧
    (e.beginExit).svc.bistSince = e.svc.bistSince ∧ (e.beginExit).svc.measures = e.svc.measures ∧
    (e.beginExit).svc.wheelAt = e.svc.wheelAt ∧ (e.beginExit).svc.fuseSel = e.svc.fuseSel ∧
    (e.beginExit).svc.cands = e.svc.cands ∧ (e.beginExit).svc.fuseBusy = e.svc.fuseBusy ∧
    (e.beginExit).svc.fuseAt = e.svc.fuseAt ∧ (e.beginExit).svc.fuseResult = e.svc.fuseResult ∧
    (e.beginExit).svc.pod = e.svc.pod ∧ (e.beginExit).svc.spdm = e.svc.spdm ∧
    (e.beginExit).svc.restarting = e.svc.restarting ∧ (e.beginExit).svc.restarts = e.svc.restarts ∧
    (e.beginExit).svc.lastExpiry = e.svc.lastExpiry ∧ (e.beginExit).svc.kick = e.svc.kick ∧ (e.beginExit).flt = e.flt ∧
    (e.beginExit).fuses = e.fuses ∧ (e.beginExit).freeCount = e.freeCount :=
  (Eng.beginExit_side e ).frame

/-! ### The journal -/

/-- What writing records changes: the tail and head, the records and those that wait, the flush, what is held for the host, tallies, and what leaves. -/
def JrnSide (e e' : Eng) : Prop :=
  e' = { e with
    jrn := { e.jrn with headSeq := e'.jrn.headSeq, tailSeq := e'.jrn.tailSeq, recs := e'.jrn.recs, waiting := e'.jrn.waiting, flushTo := e'.jrn.flushTo, heldOut := e'.jrn.heldOut }
    tally := e'.tally, out := e'.out } ∧ (MapWf 0 e.tally → MapWf 0 e'.tally)

theorem JrnSide.refl (e : Eng) : JrnSide e e := ⟨rfl, id⟩

theorem JrnSide.trans {e e' e'' : Eng} (h : JrnSide e e') (h' : JrnSide e' e'') : JrnSide e e'' := by
  refine ⟨?_, fun w => h'.2 (h.2 w)⟩
  have a := h.1
  have b := h'.1
  rw [a] at b
  exact b

theorem JrnSide.frame {e e' : Eng} (h : JrnSide e e') :
    e'.pins = e.pins ∧ e'.now = e.now ∧ e'.aoCycle = e.aoCycle ∧ e'.memMap = e.memMap ∧ e'.ctxs = e.ctxs ∧ e'.cxs = e.cxs ∧
    e'.rfe = e.rfe ∧ e'.jobs = e.jobs ∧ e'.jrn.base = e.jrn.base ∧ e'.jrn.sizeLog2 = e.jrn.sizeLog2 ∧
    e'.jrn.result = e.jrn.result ∧ e'.jrn.state = e.jrn.state ∧ e'.jrn.busy = e.jrn.busy ∧
    e'.jrn.durableSeq = e.jrn.durableSeq ∧ e'.wlk = e.wlk ∧ e'.atg = e.atg ∧ e'.pdks = e.pdks ∧ e'.lay = e.lay ∧
    e'.cst = e.cst ∧ e'.drv = e.drv ∧ e'.cdc = e.cdc ∧ e'.npi = e.npi ∧ e'.opi = e.opi ∧ e'.syn = e.syn ∧ e'.svc = e.svc ∧
    e'.flt = e.flt ∧ e'.fuses = e.fuses ∧ e'.freeCount = e.freeCount := by
  and_intros <;> rw [h.1]

theorem Eng.jFlush_side (e : Eng) : JrnSide e e.jFlush := by
  unfold Eng.jFlush
  split
  · exact ⟨rfl, id⟩
  · exact .refl e

theorem Eng.hostPut_jrnSide (e : Eng) (a : Nat) (bs : List Byte) : JrnSide e (e.hostPut a bs) := by
  unfold Eng.hostPut
  split <;> exact ⟨rfl, id⟩

theorem Eng.jWrite_side (e : Eng) (r : JRec) : JrnSide e (e.jWrite r) := by
  unfold Eng.jWrite
  dsimp only
  refine (e.hostPut_jrnSide _ _).trans (.trans (e' := Eng.modJrn _ _) ⟨rfl, id⟩ ⟨rfl, mapUpd_tally_wf _ _ _ _⟩)

theorem Eng.foldSide {β : Type} (f : Eng → β → Eng) (hf : ∀ e r, JrnSide e (f e r)) (rs : List β) (e : Eng) :
    JrnSide e (rs.foldl f e) := by
  induction rs generalizing e with
  | nil => exact .refl e
  | cons r rs ih => exact (hf e r).trans (ih _)

theorem Eng.jCarry_side (e : Eng) : JrnSide e e.jCarry := by
  unfold Eng.jCarry
  split
  · dsimp only
    exact (Eng.foldSide _ (fun e r => (e.jWrite_side _).trans ⟨rfl, mapUpd_tally_wf _ _ _ _⟩) _ _).trans ⟨rfl, id⟩
  · exact .refl e

theorem Eng.jPump_side (e : Eng) : JrnSide e e.jPump := by
  unfold Eng.jPump
  split
  · dsimp only
    exact ((JrnSide.trans (e' := Eng.modJrn _ _) ⟨rfl, id⟩ (Eng.foldSide _ Eng.jWrite_side _ _)).trans
      (Eng.jCarry_side _)).trans (Eng.jFlush_side _)
  · exact .refl e

theorem Eng.jAppend_side (e : Eng) (r : JRec) : JrnSide e (e.jAppend r) :=
  JrnSide.trans (e' := Eng.modJrn _ _) ⟨rfl, id⟩ (Eng.jPump_side _)

@[simp] theorem Eng.jAppend_frame (e : Eng) (r : JRec) :
    (e.jAppend r).pins = e.pins ∧ (e.jAppend r).now = e.now ∧ (e.jAppend r).aoCycle = e.aoCycle ∧
    (e.jAppend r).memMap = e.memMap ∧ (e.jAppend r).ctxs = e.ctxs ∧ (e.jAppend r).cxs = e.cxs ∧ (e.jAppend r).rfe = e.rfe ∧
    (e.jAppend r).jobs = e.jobs ∧ (e.jAppend r).jrn.base = e.jrn.base ∧ (e.jAppend r).jrn.sizeLog2 = e.jrn.sizeLog2 ∧
    (e.jAppend r).jrn.result = e.jrn.result ∧ (e.jAppend r).jrn.state = e.jrn.state ∧ (e.jAppend r).jrn.busy = e.jrn.busy ∧
    (e.jAppend r).jrn.durableSeq = e.jrn.durableSeq ∧ (e.jAppend r).wlk = e.wlk ∧ (e.jAppend r).atg = e.atg ∧
    (e.jAppend r).pdks = e.pdks ∧ (e.jAppend r).lay = e.lay ∧ (e.jAppend r).cst = e.cst ∧ (e.jAppend r).drv = e.drv ∧
    (e.jAppend r).cdc = e.cdc ∧ (e.jAppend r).npi = e.npi ∧ (e.jAppend r).opi = e.opi ∧ (e.jAppend r).syn = e.syn ∧
    (e.jAppend r).svc = e.svc ∧ (e.jAppend r).flt = e.flt ∧ (e.jAppend r).fuses = e.fuses ∧
    (e.jAppend r).freeCount = e.freeCount :=
  (Eng.jAppend_side e r).frame

@[simp] theorem Eng.jPump_frame (e : Eng)  :
    (e.jPump).pins = e.pins ∧ (e.jPump).now = e.now ∧ (e.jPump).aoCycle = e.aoCycle ∧ (e.jPump).memMap = e.memMap ∧
    (e.jPump).ctxs = e.ctxs ∧ (e.jPump).cxs = e.cxs ∧ (e.jPump).rfe = e.rfe ∧ (e.jPump).jobs = e.jobs ∧
    (e.jPump).jrn.base = e.jrn.base ∧ (e.jPump).jrn.sizeLog2 = e.jrn.sizeLog2 ∧ (e.jPump).jrn.result = e.jrn.result ∧
    (e.jPump).jrn.state = e.jrn.state ∧ (e.jPump).jrn.busy = e.jrn.busy ∧ (e.jPump).jrn.durableSeq = e.jrn.durableSeq ∧
    (e.jPump).wlk = e.wlk ∧ (e.jPump).atg = e.atg ∧ (e.jPump).pdks = e.pdks ∧ (e.jPump).lay = e.lay ∧ (e.jPump).cst = e.cst ∧
    (e.jPump).drv = e.drv ∧ (e.jPump).cdc = e.cdc ∧ (e.jPump).npi = e.npi ∧ (e.jPump).opi = e.opi ∧ (e.jPump).syn = e.syn ∧
    (e.jPump).svc = e.svc ∧ (e.jPump).flt = e.flt ∧ (e.jPump).fuses = e.fuses ∧ (e.jPump).freeCount = e.freeCount :=
  (Eng.jPump_side e ).frame

@[simp] theorem Eng.jFlush_frame (e : Eng)  :
    (e.jFlush).pins = e.pins ∧ (e.jFlush).now = e.now ∧ (e.jFlush).aoCycle = e.aoCycle ∧ (e.jFlush).memMap = e.memMap ∧
    (e.jFlush).ctxs = e.ctxs ∧ (e.jFlush).cxs = e.cxs ∧ (e.jFlush).rfe = e.rfe ∧ (e.jFlush).jobs = e.jobs ∧
    (e.jFlush).jrn.base = e.jrn.base ∧ (e.jFlush).jrn.sizeLog2 = e.jrn.sizeLog2 ∧ (e.jFlush).jrn.result = e.jrn.result ∧
    (e.jFlush).jrn.state = e.jrn.state ∧ (e.jFlush).jrn.busy = e.jrn.busy ∧ (e.jFlush).jrn.durableSeq = e.jrn.durableSeq ∧
    (e.jFlush).wlk = e.wlk ∧ (e.jFlush).atg = e.atg ∧ (e.jFlush).pdks = e.pdks ∧ (e.jFlush).lay = e.lay ∧
    (e.jFlush).cst = e.cst ∧ (e.jFlush).drv = e.drv ∧ (e.jFlush).cdc = e.cdc ∧ (e.jFlush).npi = e.npi ∧
    (e.jFlush).opi = e.opi ∧ (e.jFlush).syn = e.syn ∧ (e.jFlush).svc = e.svc ∧ (e.jFlush).flt = e.flt ∧
    (e.jFlush).fuses = e.fuses ∧ (e.jFlush).freeCount = e.freeCount :=
  (Eng.jFlush_side e ).frame

end Sys2Proof.Machine
end

