-- ==== Sys2Proof/Tests/Slice0.lean ====
section
/-! SUPPORT. Small tests of single commands, the refusals of WellFormed, and for every statement a state and operands that meet
its premises, at the boundaries of their ranges. Expected results come from the rules that the docstrings name. -/

namespace Sys2Proof.Tests

open Sys2Proof Sys2Proof.Machine

set_option Elab.async false

/-! ### Small states -/

/-- Vrelop after READY with every domain Active and JRN attached. -/
def up : Eng :=
  { State.reset.eng with
    pins := { aoResetL := true }
    jrn := { state := .attached, sizeLog2 := 20 }
    svc := { start := { phase := 9, ready := true }
             power := { dormant := false, region := List.replicate 4 { st := .active }, engine := { st := .active } } } }

def st (e : Eng) : State := { State.reset with eng := e }

/-- Context 3, ENABLED, with 16-entry rings: entries 5 and 6 are waiting. -/
def ring : Ctx :=
  { state := .enabled, sqLog2 := 4, cqLog2 := 4, sqBase := 0x10, cqBase := 0x20, spoolBase := 0x300, sqHead := 5, sqTail := 7
    tickets := 16 }

/-- The handle of entry 5 of context 3. -/
def h5 : Word := mkHandle 3 0 5

/-- A descriptor in work, as context 3's entry 5. -/
def job (op : Nat) (ws : List Word) : Job := { handle := h5, words := BitVec.ofNat 64 op :: ws, stage := .running }

def withCtx (x : Ctx) : Eng := up.setCtx 3 x

def withJob (j : Job) : State := st { withCtx ring with jobs := [j] }

/-- The state a command answers. -/
def after (i : Instr) (s : State) : State :=
  match exec i s with
  | .next t => t
  | _ => State.reset

/-- A view record of rank 1 over `n` elements. -/
def viewRec (dt n : Nat) : List Word :=
  [BitVec.ofNat 64 (0x101 + dt * 2 ^ 16), 0, BitVec.ofNat 64 (1 + n * 2 ^ 40), 0, 0, 0, 0, 0, 0, 0, BitVec.ofNat 64 (n * 2 ^ 24),
    0, 0, 0, 0, 0]

/-! ### Well-formed operands: a term that each check refuses -/

def peerReq : PeerReq := { dev := 9, ctx := 3, seq := 1, id := 4, paddock := 0, va := 0x10000, bit := 0, bits := 32, ebits := 16, stamp := 0 }
def both (v : Word) : RegWrite := ⟨.both, v⟩

theorem test_wellFormed_refuses : ([.landingCapture 0 [], .copy h5 0, .readReturn (.job h5 .src 0 0) ⟨0, [], []⟩,
    .readReturn (.peer 0) ⟨1, [], [0]⟩, .writeAck (.job h5 .dst 0 0) ⟨0, [], 0, 0⟩, .registerWrite 4 .w64 0,
    .registerWrite 2 .w32 0, .registerWrite 0 .w32 0x100000000, .rotate ⟨.low, 0x100000000⟩, .capWrite ⟨.high, 1⟩,
    .pwrCtlWrite 0 ⟨.high, 1⟩, .peerPut { peerReq with bits := 0 } [] false, .peerPut peerReq [0, 0, 0] false,
    .peerGet { peerReq with ebits := 0 }, .peerAccumulate peerReq 3 0 [0, 0, 0, 0] 0 [],
    .peerAccumulate peerReq 0 3 [0, 0, 0, 0] 0 [], .dieAccess ⟨0, 0, 0, 0, false, [], 0⟩, .dieAccess ⟨0, 0, 0, 0, true, [0], 2⟩,
    .quantumExpiry (.walker 24), .stackLost 20, .bistOverdue ⟨11, 0⟩, .bistSegmentEnd ⟨11, 0⟩ .pass,
    .beaconReceive ⟨1, 0, 0, 0, [(2, 3), (2, 1)]⟩, .clockSample 1700 4096] : List Instr).all (fun i => !i.wellFormed) = true := by decide +kernel

theorem test_wellFormed_accepts : ([.landingCapture 0 [0], .copy h5 1, .peerPut peerReq [0, 0, 0, 0] false, .stackLost 19,
    .quantumExpiry (.walker 23), .clockSample 1700 4095, .registerWrite 8 .w64 0, .registerWrite 4 .w32 0xFFFFFFFF, .bistOverdue ⟨10, 4⟩] : List Instr).all
    (fun i => i.wellFormed) = true := by decide +kernel

/-! ### Rings, fetch and dispatch: witnesses of the premises, with what R49 and R50 say of them -/

theorem test_submissionDoorbell_running : (st (withCtx ring)).Live ∧ (withCtx ring).engineRuns = true ∧
    ((withCtx ring).ctx 3).state = .enabled ∧ ((withCtx ring).ctx 3).refetch = none := by decide +kernel

/-- R49 at its edge: HEAD 5 with 16 entries takes TAIL 21 and no more. -/
theorem test_submissionDoorbell_edge : ((after (.submissionDoorbell 3 .both 21) (st (withCtx ring))).eng.ctx 3).sqTail = 21 ∧
    ((after (.submissionDoorbell 3 .both 22) (st (withCtx ring))).eng.ctx 3).parkCause = .tailRange := by decide +kernel

/-- R49: 6 lies behind TAIL 7 and moves nothing. -/
theorem test_submissionDoorbell_stale : idxDist 6 ring.sqHead < idxDist ring.sqTail ring.sqHead ∧
    ((after (.submissionDoorbell 3 .both 6) (st (withCtx ring))).eng.ctx 3).sqTail = 7 := by decide +kernel

/-- A waiting refetch that has not stalled, and a parked ring, meet the premise too. -/
theorem test_submissionDoorbell_others :
    ((st (withCtx { ring with refetch := some ⟨1, 0, false, none, false⟩ })).eng.ctx 3).refetch = some ⟨1, 0, false, none, false⟩ ∧
    ((st (withCtx { ring with state := .parked })).eng.ctx 3).state = .parked := by decide +kernel

/-- R50 at its edge: with TAIL 4 and HEAD 1 a head of 1 is taken and a head of 0 is not. -/
theorem test_completionDoorbell_edge :
    ((after (.completionDoorbell 3 .both 1) (st (withCtx { ring with cqTail := 4, cqHead := 1 }))).eng.ctx 3).cqHead = 1 ∧
    ((after (.completionDoorbell 3 .both 0) (st (withCtx { ring with cqTail := 4, cqHead := 1 }))).eng.ctx 3).cqHead = 1 := by
  decide +kernel

theorem test_doorbell_closed : ((st (withCtx { ring with state := .closing })).eng.ctx 3).state = .closing ∧ (up.ctx 3).state = .disabled ∧
    (0x100000000 : Word).extractLsb' 32 32 ≠ 0 ∧ (withCtx { ring with state := .closing }).engineRuns = true := by decide +kernel

/-- R48: a write elsewhere in the context's 256 bytes is ignored and counted. -/
theorem test_doorbell_elsewhere : mapGet 0 (after (.submissionDoorbell 3 .other 9) (st (withCtx ring))).eng.tally (tallyKey subRfe 0) = 1 ∧
    ((after (.submissionDoorbell 3 .other 9) (st (withCtx ring))).eng.ctx 3).sqTail = 7 := by decide +kernel

/-- The engine domain in Sleep, and a catcher with room or with the context in it. -/
def asleep : Eng := { up with svc := { up.svc with power := { up.svc.power with engine := {} } } }

theorem test_catcher_premises : (st asleep).Live ∧ asleep.engineRuns = false ∧ asleep.rfe.caught.length < 256 ∧
    ({ asleep with rfe := { caught := [{ ctx := 3 }] } } : Eng).rfe.caught.any (·.ctx = 3) = true := by decide +kernel

theorem test_catcher_records : (after (.submissionDoorbell 3 .both 9) (st asleep)).eng.rfe.caught = [{ ctx := 3, sq := some 9 }] := by
  decide +kernel

def caught (k : Caught) : Eng := { withCtx ring with rfe := { caught := [k] } }

theorem test_recorded_premises : (caught { ctx := 3, sq := some 9 }).engineRuns = true ∧ (caught { ctx := 3, sq := some 9 }).accepts = true ∧ (caught { ctx := 3, cq := some 9 }).accepts = true ∧
    (caught { ctx := 3, sq := some 9 }).rfe.caught.find? (·.ctx = 3) = some { ctx := 3, sq := some 9 } ∧
    (caught { ctx := 3, cq := some 9 }).rfe.caught.find? (·.ctx = 3) = some { ctx := 3, cq := some 9 } := by decide +kernel

def withDie (x : Ctx) : Eng := { withCtx x with opi := { die := [{ enable := true, portMask := 1, syncCtx := 3 }, {}, {}, {}], ports := some 0 :: List.replicate 7 none } }

theorem test_dieDoorbell_premises : ((withDie { ring with dieDb := true }).opi.die.getD 0 {}).enable = true ∧
    ((withDie { ring with dieDb := true }).ctx 3).dieDb = true ∧ ((withDie ring).ctx 3).dieDb = false := by decide +kernel

/-- A NOP at entry 5, in the landing buffer. -/
def entry5 : List Byte := List.replicate 120 0 ++ [5, 0, 1, 0, 0, 0, 0, 0]

def landed (x : Ctx) (bs : List Byte) : Eng := { withCtx x with rfe := { landing := [(517, bs)] } }

theorem test_landing_premises : ({ withCtx ring with cxs := { cache := [3] } } : Eng).lineOfRing 66176 = true ∧ 66176 = 128 * 517 ∧ entry5.length = 128 := by decide +kernel

theorem test_memInv_premise : MemInv (st up) := by unfold MemInv; decide +kernel

theorem test_tabInv_premise : TabInv (withJob (job 0 [])) := by unfold TabInv; decide +kernel

theorem test_landing_captures : (after (.landingCapture 66176 entry5) (st { withCtx ring with cxs := { cache := [3] } })).eng.landed 66176
    = some entry5 := by decide +kernel

theorem test_fetch_premises : (landed ring entry5).accepts = true ∧ (landed ring entry5).fetchers.map (·.who) = [3] ∧
    (landed ring entry5).cxs.cache.length < 32768 ∧ ((landed ring entry5).touchCtx {} 3).mem {} = {} ∧
    entryVisible ((landed ring entry5).ctx 3) ((landed ring entry5).readEntry {} 3 5 []) [] = true ∧
    entryExt ((landed ring entry5).readEntry {} 3 5 []) = 0 := by decide +kernel

theorem test_fetch_puts_in_work : (after (.descriptorFetch ⟨false, []⟩) (st (landed ring entry5))).eng.jobs.map (·.handle) = [h5] ∧
    ((after (.descriptorFetch ⟨false, []⟩) (st (landed ring entry5))).eng.ctx 3).sqHead = 6 := by decide +kernel

theorem test_fetchResume_premises :
    let e := landed { ring with refetch := some ⟨0, 0, false, none, true⟩ } entry5
    e.fetchStopped 3 = false ∧ (e.ctx 3).refetch = some ⟨0, 0, false, none, true⟩ ∧ e.accepts = true := by decide +kernel

/-- R64 at its edge: the eighth timed refetch spends the budget of 8, the seventh does not. -/
theorem test_timedRefetch_edge :
    let e := fun (n : Nat) => landed { ring with refetch := some ⟨n, 0, false, none, false⟩ } (List.replicate 128 0)
    (e 7).fetchStopped 3 = false ∧ (e 7).accepts = true ∧ entryVisible ((e 7).ctx 3) ((e 7).readEntry {} 3 5 []) [] = false ∧
    ((after (.timedRefetch 3 ⟨false, []⟩) (st (e 7))).eng.ctx 3).refetch = some ⟨8, 1000, false, some 0, false⟩ ∧
    ((after (.timedRefetch 3 ⟨false, []⟩) (st (e 6))).eng.ctx 3).refetch = some ⟨7, 1000, false, none, false⟩ := by decide +kernel

theorem test_ringStall_parks :
    let s := st (withCtx { ring with refetch := some ⟨8, 0, false, some 0, false⟩ })
    (s.eng.ctx 3).refetch = some ⟨8, 0, false, some 0, false⟩ ∧
    ((after (.ringStall 3) s).eng.ctx 3).state = .parked ∧ ((after (.ringStall 3) s).eng.ctx 3).parkRetries = 8 := by decide +kernel

theorem test_dispatch_premises :
    let s := fun (op : Nat) => withJob { job op [0, 0, 0, 0] with stage := .fetched }
    (s opCopy).eng.mayBegin { job opCopy [0, 0, 0, 0] with stage := .fetched } = true ∧ (s opCopy).eng.halted = false ∧
    (s opCopy).eng.accepts = true ∧ (s opNop).eng.accepts = true ∧ (s opCopy).eng.testing 5 (homeRegion 3).toNat = false ∧ (job opCopy []).usesWalker = true ∧ (job opNop []).usesWalker = false ∧ knownOpcode (job opNop []).opcode = true ∧
    (s opNop).eng.mayBegin { job opNop [0, 0, 0, 0] with stage := .fetched } = true := by decide +kernel

theorem test_dispatch_runs : ((after (.dispatch h5 {}) (withJob { job opNop [0, 0, 0, 0] with stage := .fetched })).eng.job h5).map
    (·.stage) = some .running := by decide +kernel

/-- R414: what a lost unit sent back is dispatched in the region it stood at. -/
theorem test_dispatch_stays :
    let j : Job := { job opCopy [0, 0, 0, 0] with stage := .fetched, stay := true, lead := 2 }
    (withJob j).eng.regionFenced 2 = false ∧ ((after (.dispatch h5 {}) (withJob j)).eng.job h5).map (·.lead) = some 2 := by decide +kernel

/-- A queued COPY whose drawn walker is the region's first. -/
def queued : Job := { job opCopy [0, 0, 0, 0] with stage := .queued, lead := 3, tickets := 1 }

theorem test_walkerGrant_premises : (withJob queued).eng.freeWalker 3 = some 18 ∧ ((withJob queued).eng.drawWalker 3).1 = some queued ∧ (withJob queued).eng.testing 6 3 = false ∧
    (withJob queued).eng.active (.region 3) = true ∧ (withJob queued).eng.regionFenced 3 = false := by decide +kernel

/-! ### Data descriptors -/

/-- A granted descriptor with its view records read: sources and destinations of 4 elements, 4 indices. -/
def dataJob (op : Nat) (ws : List Word) (dt : Nat) : Job :=
  { job op ws with viewWords := [some (viewRec dt 4), some (viewRec dt 4), some (viewRec 9 4)], walker := some 18, lead := 3 }

def dataJobs : List Job :=
  [dataJob opCopy [0, 0x1000, 0, 0x2000] 2, dataJob opTransform [0, 0x1000, 0, 0x2000] 2,
    dataJob opGather [0, 0x1000, 0, 0x2000, 0, 0x3000] 2, dataJob opScatter [0, 0x1000, 0, 0x2000, 0, 0x3000] 2,
    dataJob opScatterAcc [0, 0x1000, 0, 0x2000, 0, 0x3000] 1, dataJob opReduce [0, 0x1000, 0, 0x2000] 1,
    { dataJob 0x107 [0, 0x1000, 4] 0x10 with payload := List.replicate 128 0, viewWords := [some (viewRec 0x10 4)] }]

theorem test_data_premises : ∀ j ∈ dataJobs, (withJob j).Live ∧ (withJob j).eng.job h5 = some j ∧ j.walker.isSome = true ∧
    (withJob j).eng.serves j = true ∧ (withJob j).eng.halted = false ∧ (withJob j).eng.failedChecks j = none ∧
    j.yieldAt = none ∧ j.fault = none ∧ j.poisoned = false ∧ j.idxEl = [] ∧ j.tile = false ∧
    j.total = 4 := by decide +kernel

theorem test_data_opcodes : dataJobs.map (·.opcode) = [opCopy, opTransform, opGather, opScatter, opScatterAcc, opReduce, opPutInline] := by
  decide +kernel

/-- The first position of a gather needs the first index value, that of a copy none; a gather that has not read it asks for it. -/
theorem test_data_index :
    let g := dataJob opGather [0, 0x1000, 0, 0x2000, 0, 0x3000] 2
    g.indexOf (g.walkAt 0) = [0] ∧ (dataJob opCopy [0, 0x1000, 0, 0x2000] 2).indexOf 0 = [] ∧
    ((after (.gather h5 1) (withJob g)).eng.job h5).map (fun j => decide (0 < j.emitted) || decide (j.el .idx 0 ≠ .idle)) = some true := by
  decide +kernel

/-- Without a view record each fails with BAD_VIEW of record 0. -/
theorem test_data_fail_premises : ∀ j ∈ dataJobs, (withJob { j with viewWords := [] }).eng.failedChecks { j with viewWords := [] }
    = some (stBadView, 0) := by decide +kernel

theorem test_copy_reaches : ((after (.copy h5 3) (withJob (dataJob opCopy [0, 0x1000, 0, 0x2000] 2))).eng.job h5).map (·.emitted) = some 3 := by
  decide +kernel

/-! ### Cerhus -/

/-- A COMPRESS of one 1-table LOSSLESS block. -/
def compressJob : Job :=
  { dataJob opCompress [0, 0x1000, 0, 0x2000, 1] 2 with viewWords := [some (viewRec 2 4), some (viewRec 0x10 0x4000)] }

theorem test_compress_premises : (withJob compressJob).eng.failedChecks compressJob = none ∧ compressJob.rawCount = 4 ∧
    compressJob.imageBlockCount = 1 ∧ (withJob compressJob).eng.serves compressJob = true ∧ compressJob.fault = none ∧
    compressJob.poisoned = false ∧ compressJob.yieldAt = none ∧ compressJob.pass < 3 := by decide +kernel

/-- Every byte of the first half in 8 bits. -/
def smallChoice : CompressChoice := ⟨[⟨List.replicate 256 8, List.replicate 256 0⟩], []⟩

theorem test_compressPassEnd_premises :
    choiceOk compressJob.srcView.dtype compressJob.cMode compressJob.maxTables compressJob.rankMax compressJob.imageBlockCount smallChoice
      = true ∧ ({ compressJob with pass := 1, emitted := 4 } : Job).srcSettled = true ∧ compressJob.reread = false ∧
    ({ compressJob with pass := 2, choice := smallChoice, coded := [[]] } : Job).dstSettled = true := by decide +kernel

def expandJob : Job :=
  { dataJob opExpand [0, 0x1000, 0, 0x2000, 0] 2 with viewWords := [some (viewRec 0x10 0x4000), some (viewRec 2 4)] }

theorem test_expand_premises : (withJob expandJob).eng.failedChecks expandJob = none ∧ (withJob expandJob).eng.serves expandJob = true ∧
    expandJob.yieldAt = none ∧ expandJob.poisoned = false ∧ expandJob.pass = 0 := by
  decide +kernel

/-- One block of an image whose header has been read: every byte read is 0, so that its directory entry is corrupt. -/
def expanding : Job :=
  { expandJob with
    pass := 1, checked := true
    words := [9, 0, 0x1000, 0, 0x2000, 2 ^ 38]
    srcEl := (List.range 700).map fun i => (i, .got 0 false) }

theorem test_expandBlock_premises : expanding.opcode = opExpand ∧ 0 ∈ expanding.blocksLeft ∧ expanding.blockHead 0 = .corrupt := by
  decide +kernel

/-! ### Translation, reads and writes -/

/-- A paddock whose first gigabyte is one leaf at address 0, readable and writable, under epoch 0. -/
def pdk0 : Paddock := { ptRoot := 0x30, enable := true, l1Log2 := 10 }

def withPdk (p : Paddock) (e : Eng) : Eng := { e with pdks := [(0, p)] }

def mapped (e : Eng) : State := { st (withPdk pdk0 e) with mem := { cells := [(0x30000, 0x0F)] } }

theorem test_pageWalkDone_premises : walkFrom (mapped up).mem 0x30 0x20000 = .leaf 0 ⟨30, 0, 0, false, true, true⟩ := by
  decide +kernel

theorem test_pageWalkDone_fills :
    (after (.pageWalkDone 1 0 0x20000 none) (mapped { up with atg := { walks := [[], [⟨0, 2, 0x30⟩], [], []] } })).eng.tlbHit 1 0 0x20000
      = some ⟨30, 0, 0, false, true, true⟩ := by decide +kernel

/-- An element in flight to stack 0, and one in flight to the host. -/
def toStack : Req := { dest := .stack 0 0x2001, bit := 4, tag := .epoch 0 0, va := 0x2001 }
def toHost : Req := { dest := .host 0x5000, bit := 0, tag := .clear, va := 0x5000 }

def reading (q : Req) : Job := { dataJob opCopy [0, 0x1000, 0, 0x2000] 2 with checked := true, srcEl := [(1, .fly q 0 false)] }
def writing (op dt : Nat) (q : Req) (v : Nat) : Job :=
  { dataJob op [0, 0x1000, 0, 0x2000] dt with checked := true, emitted := 4, dstEl := [(1, .fly q v false)] }

theorem test_readReturn_premises : (withJob (reading toStack)).eng.atDrover toStack 0 false = .tag (.epoch 0 0) none ∧
    (withJob (reading toHost)).eng.canServe toHost = true ∧ (reading toHost).el .src 1 = .fly toHost 0 false ∧
    min (reading toStack).asked (reading toStack).total ≤ (reading toStack).emitted ∧
    ∀ x ∈ [StreamId.idx, .src, .scaleIn], StreamId.isWrite x = false := by decide +kernel

/-- The 16 bits from bit 4 of 0x2001 on, and the 16 bits of a host reply. -/
theorem test_readReturn_value :
    let m : Memory := { cells := [(0x2001, 0xA0), (0x2002, 0xCB), (0x2003, 0x0D)], tags := [(0x2001, .epoch 0 0), (0x2002, .epoch 0 0), (0x2003, .epoch 0 0)] }
    ((after (.readReturn (.job h5 .src 1 1) ⟨0, [], []⟩) { withJob (reading toStack) with mem := m }).eng.job h5).map (·.el .src 1)
      = some (.got 0xDCBA false) ∧
    ((after (.readReturn (.job h5 .src 1 1) ⟨0, [], [0x34, 0x12]⟩) (withJob (reading toHost))).eng.job h5).map (·.el .src 1)
      = some (.got 0x1234 false) := by decide +kernel

theorem test_writeAck_premises : (withJob (writing opCopy 2 toStack 0x1234)).eng.atDrover toStack 0 true = .tag (.epoch 0 0) none ∧
    (writing opCopy 2 toStack 0x1234).el .dst 1 = .fly toStack 0x1234 false ∧ (writing opCopy 2 toStack 0x1234).width .dst = 16 ∧
    (writing opReduce 1 { toStack with bit := 0 } 0x3F800000).accEn = true ∧ (writing opCopy 2 toStack 0).again = [] ∧
    toStack.waiting = false := by decide +kernel

/-- FP32 1.0 added to the 2.0 that stands there is 3.0; a 16-bit write in the middle of bytes keeps their other bits. -/
theorem test_writeAck_stores :
    let m : Memory := { cells := [(0x2004, 0x40)], tags := [(0x2001, .epoch 0 0), (0x2002, .epoch 0 0), (0x2003, .epoch 0 0), (0x2004, .epoch 0 0)] }
    (after (.writeAck (.job h5 .dst 1 1) ⟨0, [], 0, 0⟩) { withJob (writing opReduce 1 { toStack with bit := 0 } 0x3F800000) with mem := m }).mem.bytes
      (.epoch 0 0) 0x2001 4 = [0, 0, 0x40, 0x40] ∧
    (after (.writeAck (.job h5 .dst 1 1) ⟨0, [], 0, 0⟩) { withJob (writing opCopy 2 toStack 0x1234) with
      mem := { cells := [(0x2001, 0x0F), (0x2003, 0xF0)], tags := [(0x2001, .epoch 0 0), (0x2002, .epoch 0 0), (0x2003, .epoch 0 0)] } }).mem.bytes
      (.epoch 0 0) 0x2001 3 = [0x4F, 0x23, 0xF1] := by decide +kernel

/-- R196: a 4-bit element, the rest of its stream issued, keeps the bits of its byte on both sides. -/
theorem test_writeAck_nibble :
    let j := writing opCopy 8 toStack 0x5
    let m : Memory := { cells := [(0x2001, 0xAF)], tags := [(0x2001, .epoch 0 0)] }
    let t := (after (.writeAck (.job h5 .dst 1 1) ⟨0, [], 0, 0⟩) { withJob (writing opCopy 8 { toStack with bit := 2 } 0x5) with mem := m }).mem
    j.dstView.ebits = 4 ∧ j.open .dst = [] ∧ min j.asked j.total ≤ j.emitted ∧
    t.bitsAt (.epoch 0 0) 0x2001 2 4 = 5 ∧ t.bitsAt (.epoch 0 0) 0x2001 0 2 = 3 ∧ t.bitsAt (.epoch 0 0) 0x2001 6 2 = 2 := by decide +kernel

/-- Chunks 0, 1 and 3 complete, the last one 60 us later: the timer marks the range 0 to 1 alone, 100 us after its first chunk. -/
def ranges : Job := { writing opReduce 1 toStack 0 with cls := .a, doneChunks := [(0, 5), (1, 9), (3, 60005)] }

theorem test_appliedTimer_marks : (withJob ranges).eng.job h5 = some ranges ∧ ranges.openSince = some 5 ∧
    ((after (.appliedTimer h5) (withJob ranges)).eng.job h5).map (fun j => (j.marked, j.doneChunks)) = some ([(0, 2)], [(3, 60005)]) := by
  decide +kernel

/-! ### Simple descriptors, flags, waits and folds -/

theorem test_simple_premises : ∀ j ∈ [job opNop [], job opQuery [h5, 0], job opQuery [0, 1], job opFence []],
    (withJob j).eng.failedBytes j = none ∧ (withJob j).eng.active (.region j.lead) = true ∧ (withJob j).eng.halted = false := by
  decide +kernel

/-- QUERY of a handle: another generation, another paddock, and the handle of the query itself, which executes. -/
theorem test_query_answers :
    let r := fun (j : Job) => ((after (.query h5) (withJob j)).eng.job h5).map fun j => (j.status, j.detail)
    r (job opQuery [mkHandle 3 1 5, 0]) = some (stStale, 0) ∧ r { job opQuery [h5, 0] with paddock := 1 } = some (stNotPermitted, 0) ∧
    r (job opQuery [mkHandle 3 0 4, 0]) = some (stOk, 4) := by decide +kernel

theorem test_fenceDone_completes :
    let j : Job := { job opFence [] with stage := .waiting }
    (withJob j).eng.releaseReady j 2 0 = true ∧
    ((after (.fenceDone h5) (withJob j)).eng.job h5).map (·.stage) = some .finished := by decide +kernel

/-- Flag 7 and fold 2 of this device, in paddock 0. -/
def withSyn (fl : Flag) (fo : Fold) (j : Job) : State :=
  st { withCtx ring with jobs := [j], syn := { flags := [(7, fl)], folds := [(2, fo)] } }

def flag7 : Flag := { owned := true, value := true }
def fold2 : Fold := { enable := true, root := true, state := .counting, expect := 4 }

theorem test_flagOp_premises : ∀ j ∈ [job 0x40010 [7], job 0x40011 [7]],
    (withSyn flag7 {} j).eng.failedBytes j = none ∧ j.syncDev = (withSyn flag7 {} j).eng.device ∧ j.marked = [] ∧
    (withSyn flag7 {} j).eng.releaseReady j j.scopeCode j.syncDev = true ∧ (withSyn flag7 {} j).eng.flagOpen 7 j.paddock = true ∧
    (withSyn { owned := true } {} j).eng.flagOpen 7 j.paddock = true := by decide +kernel

/-- Region 1 asleep, with a flag and a fold homed there. -/
def lowHome (j : Job) : State :=
  st { withCtx ring with
    jobs := [j]
    svc := { up.svc with power := { up.svc.power with region := [{ st := .active }, {}, { st := .active }, { st := .active }] } }
    syn := { flags := [(0x10007, { owned := true, value := true })], folds := [(0x4002, { enable := true, root := true, state := .counting, expect := 4 })] } }

theorem test_lowHome_premises : (∀ j ∈ [job 0x40010 [0x10007], job 0x40011 [0x10007], job opFlagWait [0x10007, 100, 1]],
    (lowHome j).eng.failedBytes j = none ∧ j.syncDev = (lowHome j).eng.device ∧ (lowHome j).eng.flagOpen 0x10007 j.paddock = true ∧
    (lowHome j).eng.active (.region (flagRegion 0x10007)) = false ∧ (lowHome j).eng.active (.region j.lead) = true ∧
    (lowHome j).eng.homeRuns (flagRegion 0x10007) = false ∧ (lowHome j).eng.releaseReady j j.scopeCode j.syncDev = true) ∧
    (lowHome (job opFoldArrive [0x4002, 3])).eng.failedBytes (job opFoldArrive [0x4002, 3]) = none ∧
    (lowHome (job opFoldArrive [0x4002, 3])).eng.foldOpen 0x4002 0 = true ∧
    (lowHome (job opFoldArrive [0x4002, 3])).eng.active (.region (foldRegion 0x4002)) = false := by decide +kernel

/-- R34: an operation for a home that is lowered waits there as an event, with the descriptor not yet complete. -/
theorem test_lowHome_keeps : (after (.flagClear h5) (lowHome (job 0x40011 [0x10007]))).eng.syn.events.map (·.act) = [.flag 0x10007 false] ∧
    ((after (.flagClear h5) (lowHome (job 0x40011 [0x10007]))).eng.flag 0x10007).value = true ∧
    ((after (.flagClear h5) (lowHome (job 0x40011 [0x10007]))).eng.job h5).map (·.stage) = some .waiting := by decide +kernel

/-- R254, R255: a clear of a clear flag is FLAG_UNDERFLOW. -/
theorem test_flagClear_both :
    ((after (.flagClear h5) (withSyn flag7 {} (job 0x40011 [7]))).eng.flag 7).value = false ∧
    ((after (.flagClear h5) (withSyn { owned := true } {} (job 0x40011 [7]))).eng.job h5).map (·.status) = some stUnderflow := by
  decide +kernel

/-- A wait for the flag clear (WAIT_FOR 1) with a timeout, one that tests once, and one for the flag set, which is met. -/
theorem test_flagWait_premises : ∀ j ∈ [job opFlagWait [7, 100, 1], job opFlagWait [7, 0, 1], job opFlagWait [7, 100, 0]],
    (withSyn flag7 {} j).eng.failedBytes j = none ∧ j.syncDev = (withSyn flag7 {} j).eng.device ∧
    (withSyn flag7 {} j).eng.flagOpen 7 j.paddock = true ∧ (withSyn flag7 {} j).eng.waitRecords (flagRegion 7) < 16384 := by decide +kernel

theorem test_flagWait_stages :
    let r := fun (j : Job) => ((after (.flagWait h5) (withSyn flag7 {} j)).eng.job h5).map fun j => (j.stage, j.status)
    r (job opFlagWait [7, 100, 1]) = some (.waiting, 0) ∧ r (job opFlagWait [7, 0, 1]) = some (.finished, stTimeout) ∧
    r (job opFlagWait [7, 100, 0]) = some (.finished, stOk) := by decide +kernel

/-- R249: a flag last changed by another device and held at CONTEXT scope is narrower than the wait's effective scope, POD. -/
theorem test_flagWait_narrow : ((after (.flagWait h5) (withSyn { flag7 with changed := true, lastDev := 9 } {} (job opFlagWait [7, 100, 0]))).eng.job h5).map
    (fun j => (j.stage, j.status, j.detail)) = some (.finished, stNarrow, 0) := by decide +kernel

theorem test_foldArrive_premises : ∀ j ∈ [job opFoldArrive [2, 3], job opFoldArrive [2, 4], job opFoldArrive [2, 5]],
    (withSyn {} fold2 j).eng.failedBytes j = none ∧ (withSyn {} fold2 j).eng.foldOpen 2 0 = true ∧
    (withSyn {} fold2 j).eng.releaseReady j 0 0 = true := by decide +kernel

/-- EXPECT 4: three arrivals count, the fourth starts the next episode, a fifth overflows. -/
theorem test_foldArrive_counts :
    let r := fun (n : Word) => after (.foldArrive h5) (withSyn {} fold2 (job opFoldArrive [2, n]))
    ((r 3).eng.fold 2).count = 3 ∧ ((r 4).eng.fold 2).episode = 1 ∧ ((r 4).eng.fold 2).count = 0 ∧
    ((r 5).eng.job h5).map (·.status) = some stFoldOverflow := by decide +kernel

/-! ### Dies and peers at the homes -/

def dieSyn (fl : Flag) : State := st { withDie ring with syn := { flags := [(7, fl)] } }

theorem test_dieFlag_premises : ((dieSyn flag7).eng.dieCfg 0).enable = true ∧ (dieSyn flag7).eng.svc.reset.phase = .none ∧
    (dieSyn flag7).eng.homeRuns (flagRegion 7) = true ∧ (dieSyn flag7).eng.svc.power.dormant = false ∧ ((dieSyn flag7).eng.flag 7).value = true ∧
    (dieSyn flag7).eng.flagOpen 7 ((dieSyn flag7).eng.ctx 3).paddock = true ∧
    (dieSyn {}).eng.flagOpen 7 ((dieSyn {}).eng.ctx 3).paddock = false ∧ (dieSyn flag7).eng.dieWaits 0 = 0 ∧
    (dieSyn flag7).eng.waitRecords (flagRegion 7) = 0 := by decide +kernel

theorem test_dieSet_answers : (after (.dieSet 0 7) (dieSyn { owned := true })).eng.out = [.die 0 (.dieAck 7 stOk)] ∧
    ((after (.dieSet 0 7) (dieSyn { owned := true })).eng.flag 7).scope = .device := by decide +kernel

/-- Device 9 is a MEMBER of this Bellwether's pod, device 10 is not in it. -/
def podSyn (fl : Flag) (fo : Fold) : State :=
  st { up with
    svc := { up.svc with pod := { role := 2 } }
    npi := { peers := [(9, { state := 3 })] }
    syn := { flags := [(7, fl)], folds := [(2, fo)] } }

def peerSync : PeerSync := { dev := 9, src := 3, ctx := 3, id := 77, paddock := 0, scope := .pod, stamp := 0 }

theorem test_peerFlag_premises : (podSyn flag7 {}).eng.refusing = false ∧ (podSyn flag7 {}).eng.homeRuns (flagRegion 7) = true ∧
    (podSyn flag7 {}).eng.svc.power.dormant = false ∧ (podSyn flag7 {}).eng.atHome 9 3 = false ∧ (podSyn flag7 {}).eng.waitRecords (flagRegion 7) = 0 ∧ (podSyn flag7 {}).eng.homeCheck 9 false = none ∧
    (podSyn flag7 {}).eng.homeCheck 9 true = none ∧ (podSyn flag7 {}).eng.flagOpen 7 0 = true ∧
    badPeer ((podSyn flag7 {}).eng.peerState 10) = true ∧ badPeer ((podSyn flag7 {}).eng.peerState 9) = false := by decide +kernel

theorem test_peerFlagSet_answers : (after (.peerFlagSet peerSync 7) (podSyn { owned := true } {})).eng.out = [.npi 9 (.ack 77 stOk 0 0)] ∧
    ((after (.peerFlagSet peerSync 7) (podSyn { owned := true } {})).eng.flag 7).value = true := by decide +kernel

theorem test_dieWait_registers : ((after (.dieWait 0 7 true 100 5) (dieSyn flag7)).eng.syn.waits.map fun w => (w.flag, w.forClear, w.who))
    = [(7, true, .die 0 5)] := by decide +kernel

theorem test_foldMessages_premises :
    let s := podSyn {} fold2
    s.eng.regionFenced (foldRegion 2) = false ∧ s.eng.active (.region (foldRegion 2)) = true ∧ s.eng.svc.power.dormant = false ∧ (s.eng.fold 2).state = .counting ∧ (s.eng.fold 2).count + 3 < (s.eng.fold 2).expect.toNat + 0 ∧
    s.eng.bellwether = true ∧ s.eng.device ≠ 9 ∧ ((podSyn {} { fold2 with state := .forwarded, parentDev := 9 }).eng.fold 2).parentDev = 9 := by
  decide +kernel

theorem test_foldMessages_count : ((after (.peerFoldArrival peerSync 2 3) (podSyn {} fold2)).eng.fold 2).count = 3 ∧
    ((after (.forwardedArrival peerSync 2 6) (podSyn {} fold2)).eng.fold 2).children = [(9, 6)] ∧
    ((after (.foldRelease 9 2 .pod 0) (podSyn {} { fold2 with state := .forwarded, parentDev := 9, count := 4 })).eng.fold 2).episode = 1 := by
  decide +kernel

/-! ### Completions and contexts -/

/-- Entry 5, finished with OK and accepted. -/
def finished : Job := { job opNop [] with stage := .finished, accepted := true, ready := some 9 }

theorem test_postCompletion_premises : (withJob finished).eng.cqRoom 3 = true ∧ (withJob finished).eng.nextJob 3 = some finished ∧
    finished.postable = true ∧ ((withJob finished).eng.ctx 3).cqInHost = false ∧ (withJob finished).eng.halted = false ∧
    ((withJob finished).eng.ctx 3).spooled = 0 ∧ ((withJob finished).eng.ctx 3).outstanding ≤ 1 ∧
    1 < ((st { withCtx { ring with outstanding := 2 } with jobs := [finished] }).eng.ctx 3).outstanding := by decide +kernel

theorem test_completion_untested : (withJob finished).eng.testing 8 0 = false := by decide +kernel

theorem test_spoolDrain_premises :
    let s := st { withCtx { ring with spooled := 1 } with jobs := [{ finished with stage := .spooled }] }
    s.eng.oldestSpooled 3 = some { finished with stage := .spooled } ∧ s.eng.cqRoom 3 = true := by decide +kernel

/-- R69: handle, tag 0, status 0, PHASE 1, DETAIL 0 and STAMP 9 at the ring's first slot. -/
theorem test_postCompletion_record : (after (.postCompletion 3) (withJob finished)).mem.bytes .clear 0x20000 32 =
    [5, 0, 0, 0, 0, 0x30, 0, 0, 0, 0, 0, 0, 0, 0, 1, 0, 0, 0, 0, 0, 0, 0, 0, 0, 9, 0, 0, 0, 0, 0, 0, 0] := by decide +kernel

/-- A full ring of 16: TAIL 16 past HEAD 0; and a spool that holds a record. -/
theorem test_spool_premises :
    let s := st { withCtx { ring with cqTail := 16 } with jobs := [finished] }
    s.eng.cqRoom 3 = false ∧ s.eng.nextJob 3 = some finished ∧
    (st { withCtx { ring with cqTail := 15 } with jobs := [finished] }).eng.cqRoom 3 = true ∧
    ((st (withCtx { ring with spooled := 1 })).eng.ctx 3).spooled ≠ 0 := by decide +kernel

def closing (k : Closing) : State := st { withCtx { ring with state := .closing, closing := some k } with cxs := { sel := 3, busy := .closing 3 } }

theorem test_contextClosed_premises : ((closing .byReset).eng.ctx 3).state = .closing ∧ ((closing .byReset).eng.ctx 3).outstanding = 0 ∧
    ((closing .byDisable).eng.ctx 3).closing = some .byDisable := by decide +kernel

theorem test_contextClosed_gen : ((after (.contextClosed 3) (closing .byReset)).eng.ctx 3).gen = 1 ∧
    ((after (.contextClosed 3) (closing .byDisable)).eng.ctx 3).gen = 0 ∧
    (after (.contextClosed 3) (closing .byReset)).eng.cxs.busy = .idle := by decide +kernel

def selected (x : Ctx) : State := st { withPdk pdk0 (withCtx x) with cxs := { sel := 3 } }

theorem test_contextCommands_premises : (selected ring).eng.svc.power.dormant = false ∧ ring.owed = [] ∧ (selected ring).eng.answers subCxs = true ∧ (selected ring).eng.cxs.busy = .idle ∧
    (selected ring).eng.ctxConfigOk { ring with state := .disabled } = true ∧
    (selected ring).eng.ctxConfigOk { ring with state := .disabled, sqLog2 := 3 } = false ∧
    ((selected { ring with state := .parked }).eng.ctx 3).state = .parked := by decide +kernel

theorem test_contextCommands_states :
    ((after .enable (selected { ring with state := .disabled })).eng.ctx 3).state = .enabled ∧
    ((after .enable (selected { ring with state := .disabled })).eng.ctx 3).sqHead = 0 ∧
    ((after .disable (selected ring)).eng.ctx 3).state = .closing ∧ ((after .park (selected ring)).eng.ctx 3).parkCause = .operator ∧
    ((after .resume (selected { ring with state := .parked })).eng.ctx 3).state = .enabled ∧
    (after .resume (selected ring)).eng.cxs.result = 1 := by decide +kernel

theorem test_reset_cancels :
    let w : Job := { job opFlagWait [7, 100, 1] with stage := .waiting }
    let sw := st { withCtx ring with cxs := { sel := 3 }, jobs := [w] }
    w.answer = none ∧ ((after .reset sw).eng.job h5).map (·.status) = some stCancelled ∧
    let s := st { withCtx ring with cxs := { sel := 3 }, jobs := [{ job opCopy [] with stage := .fetched }] }
    (s.eng.ctx 3).state ≠ .closing ∧ (∀ j ∈ s.eng.jobs, j.yieldAt = none) ∧ ((after .reset s).eng.job h5).map (·.status) = some stCancelled ∧
    (after .reset s).eng.cxs.busy = .closing 3 := by decide +kernel

/-- A descriptor queued behind others has not begun; a FLAG_WAIT registered here, with every region Active and no long wait, is cancelled too. -/
theorem test_reset_queued :
    let q : Job := { job opCopy [0, 0x1000, 0, 0x2000] with stage := .queued }
    let w : Job := { job opFlagWait [7, 100, 1] with stage := .waiting }
    let x : Wait := { id := 2, flag := 7, who := .job h5, forClear := true, timeout := some 100, scope := .context, start := 0, dist := .sameRegion, long := false }
    let s := st { withCtx ring with cxs := { sel := 3 }, jobs := [w], syn := { flags := [(7, flag7)], waits := [x] } }
    q.begun = false ∧ ((after .reset (st { withCtx ring with cxs := { sel := 3 }, jobs := [q] })).eng.job h5).map (·.status) = some stCancelled ∧
    (∀ r ∈ regions, s.eng.active (.region r) = true) ∧ (∀ k ∈ s.eng.jobs, s.eng.longHeld k = false) ∧ x.firedBy s.eng.now = false ∧
    ((after .reset s).eng.job h5).map (·.status) = some stCancelled ∧ (after .reset s).eng.syn.waits = [] := by decide +kernel

/-! ### JRN and engine resets -/

/-- Records 0 and 1 are written, a flush of both is under way, and record 1 is the ACCEPT of entry 5. -/
def flushing : State :=
  st { withCtx ring with
    jobs := [job opNop []]
    jrn := { state := .attached, sizeLog2 := 20, tailSeq := 2, flushTo := some 2, recs := [{ (job opNop []).acceptRec with jseq := 1 }] } }

theorem test_journalFlush_accepts : flushing.eng.jrn.flushTo = some 2 ∧
    (after (.journalFlushReturn true) flushing).eng.jrn.durableSeq = 2 ∧
    ((after (.journalFlushReturn true) flushing).eng.job h5).map (·.accepted) = some true ∧
    ((after (.journalFlushReturn false) flushing).eng.job h5).map (·.accepted) = some false := by decide +kernel

def withJrn (j : Jrn) : State := st { up with jrn := j }

theorem test_journal_premises : ({ base := 1, sizeLog2 := 12 } : Jrn).configOk = true ∧ ({ base := 1, sizeLog2 := 11 } : Jrn).configOk = false ∧
    ({ base := 1, sizeLog2 := 28 } : Jrn).configOk = true ∧ ({ base := 1, sizeLog2 := 29 } : Jrn).configOk = false ∧
    (withJrn { base := 1, sizeLog2 := 12 }).eng.jrn.busy = false ∧ (withJrn { state := .held }).eng.jrn.state = .held := by decide +kernel

/-- An empty region ends ADOPT with NO_JOURNAL; the region's own header is what another device left. -/
theorem test_adoptDone_premises :
    let s := withJrn { base := 1, sizeLog2 := 12, state := .adopting, busy := true }
    s.eng.jrn.busy = true ∧ s.eng.hostUp = true ∧ newestOf .attach (s.eng.jrn.readRegion []) = none := by decide +kernel

theorem test_adoptDone_empty : (after (.adoptDone []) (withJrn { base := 1, sizeLog2 := 12, state := .adopting, busy := true })).eng.jrn.result = 3 := by
  decide +kernel

def inPhase (p : ResetPhase) (r : EngReset := {}) : State := st { up with svc := { up.svc with reset := { r with phase := p } } }

theorem test_engineReset_premises : (st up).eng.mayReset = true ∧ (st up).eng.answers subSvc = true ∧ (st up).eng.hostUp = true ∧
    (st up).eng.svc.power.dormant = false ∧ (st up).eng.flt.fatal = false ∧ (st up).eng.svc.reset.phase = .none ∧
    (st up).eng.jrn.state = .attached ∧ (inPhase .settle).eng.settleDrained = true ∧ (inPhase .settle).eng.pins.engResetL = true ∧ (inPhase .wait).eng.svc.reset.phase = .wait ∧
    ((inPhase .settle { byPin := true }).eng.svc.reset.byPin = true) := by decide +kernel

/-- A settle of SETTLE_MS that has or has not passed, with SVC running, and one while SVC restarts. -/
theorem test_settle_times :
    let late := st { (inPhase .settle).eng with now := 0xFFFFFFFFFFFF }
    let busy := st { (inPhase .settle).eng with svc := { (inPhase .settle).eng.svc with restarting := true } }
    (inPhase .settle).eng.svc.restarting = false ∧ (inPhase .settle).eng.now.toNat ≤ (inPhase .settle).eng.settleBy.toNat ∧
    late.eng.settleBy.toNat < late.eng.now.toNat ∧ (after (.settleDone true) (inPhase .settle)).eng.svc.reset.settled = true ∧
    (after (.settleDone true) late).eng.svc.reset.settled = false ∧ (after (.settleDone true) busy).eng.svc.reset.phase = .settle := by
  decide +kernel

/-- The reset phase with JRN attached: it ends while the host is reachable, and waits while it is not. -/
theorem test_resetPhaseEnd_premises :
    let down := st { (inPhase .resetting).eng with pins := { up.pins with hostLinkUp := false } }
    (inPhase .resetting).eng.svc.reset.phase = .resetting ∧ (inPhase .resetting).eng.hostUp = true ∧
    (inPhase .resetting).eng.jrn.state ≠ .detached ∧ down.eng.svc.reset.phase = .resetting ∧ down.eng.jrn.state ≠ .detached ∧
    down.eng.hostUp = false ∧ down.Live := by decide +kernel

theorem test_memInv_resetting : MemInv (inPhase .resetting) := by unfold MemInv; decide +kernel

theorem test_engineReset_phases : (after (.engResetReq ⟨.both, 1⟩) (st up)).eng.svc.reset.phase = .settle ∧
    (after (.settleDone true) (inPhase .settle)).eng.svc.reset.phase = .resetting ∧
    (after (.resetPhaseEnd []) (inPhase .resetting)).eng.svc.reset.phase = .replay ∧
    (after .engResetLRise (inPhase .waitReplay)).eng.svc.reset.phase = .replay ∧
    (after .replayEnd (inPhase .replay { mode := 1 })).eng.flt.mode = 1 := by decide +kernel

theorem test_host_premises : (∀ p ∈ (st up).eng.svc.ports, p.port ≠ 6) ∧ (withJrn { state := .held }).eng.jrn.state = .held ∧
    (inPhase .none).eng.svc.reset.phase ≠ .settle ∧ (st up).eng.jrn.state = .attached ∧
    (st { up with pins := { up.pins with hostLinkUp := false } }).eng.pins.hostLinkUp = false ∧
    (withJrn { state := .adopting, busy := true }).eng.jrn.state ≠ .attached := by decide +kernel

theorem test_hostLink_releases :
    (after (.hostLinkChange true) (st { up with pins := { up.pins with hostLinkUp := false }, jrn := { up.jrn with heldOut := [⟨8, [1]⟩] } })).eng.out
      = [.host ⟨8, [1]⟩] := by decide +kernel

/-! ### Registers of the data path and of the homes -/

theorem test_registerWrite_premises : (st up).Answers ∧ (st up).eng.cxs.busy = .idle ∧ (withJrn {}).eng.jrn.state = .detached ∧
    (0x10004 : BitVec 21).toNat % 8 ≠ 0 := by decide +kernel

theorem test_registerWrite_plain : (after (.registerWrite 0x10000 .w64 0xFFFFFFFF) (st up)).eng.cxs.sel = 0xFFFFF ∧
    (after (.registerWrite 0x20000 .w64 0x200C) (withJrn {})).eng.jrn.base = 2 ∧
    (after (.registerWrite 0x20000 .w64 0x200C) (st up)).eng.jrn.base = 0 := by decide +kernel

/-- R7, R263: a write of the low half of SYN_FOLD_PARENT loads bits 31:28 of the parent's device and keeps the rest; write-1-to-clear bits; a
paddock that is being scrubbed keeps ENABLE. -/
theorem test_registerWrite_fields :
    let s := st { withPdk { pdk0 with scrubbing := true } up with
      syn := { folds := [(0, { parentDev := 0xABC, parentFold := 1 })] }, svc := { up.svc with arbCut := 15, arbStarved := 15 } }
    (s.eng.fold 0).enable = false ∧ ((after (.registerWrite 0xB0028 .w32 0x50000007) s).eng.fold 0).parentDev = 0xAB5 ∧
    ((after (.registerWrite 0xB0028 .w32 0x50000007) s).eng.fold 0).parentFold = 7 ∧
    (after (.registerWrite 0xC0020 .w64 0x102) s).eng.svc.arbCut = 14 ∧ (after (.registerWrite 0xC0020 .w64 0x102) s).eng.svc.arbStarved = 13 ∧
    ((after (.registerWrite 0x40114 .w32 0) s).eng.pdk 0).enable = true ∧ (s.eng.ctx s.eng.cxs.sel).state = .disabled := by decide +kernel

def cachedViews (busy : Bool) : State :=
  st { up with wlk := { cache := [[⟨1, 2, []⟩, ⟨1, 3, []⟩], [⟨4, 2, []⟩], [], []], inv := { busy := busy } } }

theorem test_viewInvalidation_premises : (cachedViews false).eng.wlk.inv.busy = false ∧ (cachedViews true).eng.wlk.inv.busy = true := by decide +kernel

theorem test_viewInvalidation_one : (after (.vcInvOne (both 0x100000001000002)) (cachedViews false)).eng.wlk.cache =
    [[⟨1, 2, []⟩, ⟨1, 3, []⟩], [⟨4, 2, []⟩], [], []] ∧
    (after (.vcInvOne (both 0x100001000000002)) (cachedViews false)).eng.wlk.cache = [[⟨1, 3, []⟩], [⟨4, 2, []⟩], [], []] := by decide +kernel

def cachedLeaves (busy : Bool) : State :=
  st { up with atg := { tlb := [[⟨1, 0x10000, ⟨16, 0, 0, false, true, true⟩⟩, ⟨1, 0x20000, ⟨16, 0, 0, false, true, true⟩⟩], [], [], []]
                        invVa := 1, invBusy := busy, invOp := 3 } }

theorem test_tlbInvalidation_premises :
    let busy := fun (s : State) => (s.eng.dropLeaves s.eng.atg.invHits).anyReq (fun _ q => q.oldLeaf)
    (cachedLeaves true).eng.atg.invBusy = true ∧ busy (cachedLeaves true) = false ∧
    busy (st { (cachedLeaves true).eng with jobs := [reading { toStack with oldLeaf := true }] }) = true := by decide +kernel

/-- A range of one 64 KiB page at 0x10000 leaves the leaf at 0x20000. -/
theorem test_tlbInvalidation_range : ((after (.tlbInvRange (both 0x110001000000000)) (cachedLeaves false)).eng.tlbOf 0).map (·.va) = [0x20000] := by
  decide +kernel

/-- Paddock 0 is selected: epoch 0 live and written, epoch 1 not. -/
def chosen (p : Paddock) (b : PdkBusy) : State := st { withPdk p up with atg := { cmdBusy := b } }

theorem test_epochCommands_premises : (chosen pdk0 .idle).eng.atg.cmdBusy = .idle ∧ pdk0.live.getLsbD 0 = true ∧ pdk0.live.getLsbD 1 = false ∧
    ({ pdk0 with sweeping := true } : Paddock).sweeping = true ∧ ({ pdk0 with live := 3 } : Paddock).live.getLsbD 1 = true := by decide +kernel

theorem test_rotate_retire :
    ((after (.rotate (both 0x101)) (chosen pdk0 .idle)).eng.pdk 0).live = 3 ∧ ((after (.rotate (both 0x101)) (chosen pdk0 .idle)).eng.pdk 0).writeEpoch = 1 ∧
    (after (.rotate (both 0x001)) (chosen pdk0 .idle)).eng.atg.cmdResult = 2 ∧
    (after (.retire (both 0x102)) (chosen { pdk0 with live := 3 } .idle)).eng.atg.cmdBusy = .census 1 ∧
    (after (.retire (both 0x002)) (chosen pdk0 .idle)).eng.atg.cmdResult = 2 := by decide +kernel

/-- A paddock without a page table has no page of any epoch. -/
theorem test_censusDone_none :
    let s := chosen { pdk0 with ptRoot := 0, live := 3 } (.census 1)
    s.eng.atg.cmdBusy = .census 1 ∧ (after (.censusDone []) s).eng.atg.cmdBusy = .retiring 1 ∧
    s.eng.anyReq (fun pn q => pn = 0 && q.epoch = some (0, 1)) = false ∧
    ((after .pdkCmdDone (chosen { pdk0 with live := 3 } (.retiring 1))).eng.pdk 0).live = 1 := by decide +kernel

theorem test_reachInv_premises : (chosen pdk0 .reach).eng.atg.cmdBusy = .reach ∧
    (chosen pdk0 .reach).eng.anyReq (fun pn q => pn = 0 && q.oldReach) = false := by decide +kernel

theorem test_weightKey_premises :
    let bad := fun (p : Paddock) => decide (p.policy = 0) || decide (p.wkeyState = .loaded) || (chosen p .idle).eng.slotTaken 0 p.slot
    bad pdk0 = true ∧ bad { pdk0 with policy := 1 } = false ∧ bad { pdk0 with policy := 1, wkeyState := .loaded } = true ∧
    (chosen pdk0 .wkeyLoad).eng.atg.cmdBusy = .wkeyLoad ∧
    (chosen pdk0 .wkeyErase).eng.anyReq (fun pn q => pn = 0 && q.tag.inSlot pdk0.slot) = false := by decide +kernel

theorem test_weightKey_states :
    ((after (.wkeyLoadDone (.unwrapped 5)) (chosen { pdk0 with policy := 1 } .wkeyLoad)).eng.pdk 0).wkeyState = .loaded ∧
    ((after (.wkeyLoad (both 4)) (chosen pdk0 .idle)).eng.pdk 0).wkeyState = .refused ∧
    (after (.wkeyLoadDone .notMember) (chosen { pdk0 with policy := 1 } .wkeyLoad)).eng.atg.cmdResult = 3 ∧
    ((after .pdkCmdDone (chosen { pdk0 with wkeyState := .loaded, erasing := true } .wkeyErase)).eng.pdk 0).wkeyState = .empty := by
  decide +kernel

theorem test_synConfig_premises :
    let s := st { up with syn := { folds := [(0, fold2)] } }
    s.Answers ∧ (s.eng.fold 0).enable = true ∧ ((st up).eng.fold 0).enable = false ∧
    (st up).eng.foldReady (({} : Fold).load (both 0x8000000000000004)) = true ∧
    (st up).eng.foldReady (({} : Fold).load (both 0x8000000000000000)) = false := by decide +kernel

theorem test_synConfig_loads :
    ((after (.foldCfgWrite (both 0xC000000000000004)) (st up)).eng.fold 0).state = .counting ∧
    ((after (.flagCfgWrite (both 0x8000000200000003)) (st up)).eng.flag 0).owner = 3 ∧
    (after (.lfsrSeedWrite 2 (both 0x55)) (st up)).eng.cst.lfsr = [1, 1, 0x55, 1] ∧
    (after (.lfsrSeedWrite 2 (both 0)) (st up)).eng.cst.lfsr = [1, 1, 1, 1] := by decide +kernel

/-! ### INVALIDATE, sweeps and scrubs -/

/-- INVALIDATE of 256 bytes at 0x20000 for dies 0 and 2. -/
def invJob : Job := job opInvalidate [0x20000, 0x100, 5]

/-- Dies 0 and 2 attached at port 0 and 1. -/
def attached (e : Eng) : Eng :=
  { e with opi := { die := [{ enable := true, portMask := 1 }, {}, { enable := true, portMask := 2 }, {}], ports := some 0 :: some 2 :: List.replicate 6 none } }

def invState (j : Job) : State :=
  st (attached { withPdk pdk0 (withCtx ring) with jobs := [j], atg := { tlb := [[⟨0, 0, ⟨30, 0, 0, false, true, true⟩⟩], [], [], []] } })

theorem test_invalidate_premises : (invState invJob).eng.serves invJob = true ∧
    (st (attached { withPdk pdk0 (withCtx { ring with state := .parked }) with jobs := [invJob], svc := { up.svc with power := {} } })).eng.serves invJob = false ∧ (invState invJob).eng.failedBytes invJob = none ∧ (invState invJob).eng.earlierDataDone invJob = true ∧
    (invState invJob).eng.mute = false ∧ (invState invJob).eng.tlbHit 0 0 0x20000 = some ⟨30, 0, 0, false, true, true⟩ ∧
    (invState invJob).eng.translate 0 0 0x20000 0 0x100 { write := false, stackOnly := true }
      = .ok ⟨.stack 0 0x20000, 0, .epoch 0 0, some (0, 0), 0x20000, false, false, false, none⟩ := by decide +kernel

theorem test_invalidate_messages : (after (.invalidate h5) (invState invJob)).eng.out =
    [.die 0 (.invalidate 0 0x20000 0x100), .die 2 (.invalidate 1 0x20000 0x100)] := by decide +kernel

theorem test_invalidateAck_last :
    let j : Job := { invJob with checked := true, emitted := 0x100, invals := [0, 2] }
    (j.invals.erase 0 = [2]) ∧ ((after (.invalidateAck h5 0) (invState j)).eng.job h5).map (·.stage) = some .running ∧
    ((after (.invalidateAck h5 2) (invState { j with invals := [2] })).eng.job h5).map (·.stage) = some .finished := by decide +kernel

/-- REKEY_SWEEP of paddock 0 from epoch 1 to the written epoch 0, and SCRUB of paddock 1. -/
def sweepJob : Job := job opRekeySweep [0x010000]
def scrubJob : Job := job opScrub [1]

def sweepState (op : Bool) (scratch : BitVec 45) (j : Job) : State :=
  st { withPdk { pdk0 with live := 3 } (withCtx { ring with operator := op }) with jobs := [j], svc := { up.svc with scratch := scratch } }

theorem test_sweep_premises : ∀ j ∈ [sweepJob, scrubJob], (sweepState true 2 j).eng.failedBytes j = none ∧
    (sweepState true 2 j).eng.sweepTurn j = true ∧ (sweepState true 2 j).eng.freeSlot = some 0 ∧
    ((sweepState true 2 j).eng.ctx j.ctx).operator = true ∧ (sweepState true 2 j).eng.scrubBusy 1 = false := by decide +kernel

theorem test_sweep_outcomes :
    ((after (.rekeySweep h5) (sweepState false 2 sweepJob)).eng.job h5).map (·.status) = some stNotPermitted ∧
    ((after (.rekeySweep h5) (sweepState true 0 sweepJob)).eng.job h5).map (·.status) = some stNotPermitted ∧
    ((after (.rekeySweep h5) (sweepState true 2 sweepJob)).eng.pdk 0).sweeping = true ∧
    ((after (.scrub h5) (sweepState true 2 scrubJob)).eng.pdk 1).scrubbing = true ∧
    (sweepState true 2 scrubJob).eng.scrubBusy 0 = true := by decide +kernel

/-- A sweep in slot 0 at the granule 0x20000 of stack 0. -/
def sweepAt (ph : SweepPhase) (scrub : Bool) : Sweep := { handle := h5, slot := 0, scrub := scrub, paddock := 0, fromE := 1, toE := 0, phase := ph, va := 0x20000, pa := 0x20000, log2 := 30 }

def swept (w : Sweep) : State :=
  st { withPdk { pdk0 with live := 3, sweeping := true } (withCtx ring) with
    jobs := [{ sweepJob with stage := .waiting }], svc := { up.svc with scratch := 2, sweeps := [w] } }

theorem test_sweepStep_premises : (swept (sweepAt .copying false)).eng.svc.sweeps.find? (fun x => x.slot = 0) = some (sweepAt .copying false) ∧
    (swept (sweepAt .copying false)).eng.granuleReady 0x20000 = .yes ∧ (sweepAt .writing false).nextCopy ≠ some false ∧
    (swept (sweepAt .finish false)).eng.halted = false ∧ (swept (sweepAt .finish false)).eng.svc.restarting = false := by decide +kernel

/-- R305: a RECORDED sweep writes once its record is durable, and waits before that. -/
theorem test_sweep_recorded :
    let r := fun (s : State) => (after (.sweepGranuleAdvance 0 []) s).eng.svc.sweeps.map (·.phase)
    let held := st { (swept (sweepAt .recorded false)).eng with jrn := { up.jrn with recs := [cursorRec h5 0x20000 0 true false false] } }
    (swept (sweepAt .recorded false)).eng.cursorDurable h5 = true ∧ r (swept (sweepAt .recorded false)) = [.writing] ∧
    held.eng.cursorDurable h5 = false ∧ r held = [.recorded] := by decide +kernel

theorem test_sweep_finishes : ((after (.sweepGranuleAdvance 0 []) (swept (sweepAt .finish false))).eng.job h5).map (·.status) = some stOk ∧
    ((after (.sweepGranuleAdvance 0 []) (swept (sweepAt .finish false))).eng.pdk 0).sweeping = false := by decide +kernel

theorem test_lockRead_alone (q : Req) (p : Nat) : (1, El.same p) ∉ (reading q).els .src := by
  simp [reading, Job.els]

/-- A read of epoch 1 held on the granule that is being written back. -/
theorem test_lockRead_premises :
    let q : Req := { dest := .stack 0 0x20002, bit := 0, tag := .epoch 0 1, epoch := some (0, 1), va := 0x20002, held := some 0 }
    let s : State := { st { (swept (sweepAt .writing false)).eng with jobs := [reading q] } with
      mem := { cells := [(0x100002, 0x34), (0x100003, 0x12)], tags := [(0x100002, .epoch 0 0), (0x100003, .epoch 0 0)] } }
    s.eng.stagedBits s.mem q 16 = some 0x1234 ∧ min (reading q).asked (reading q).total ≤ (reading q).emitted ∧ (reading q).width .src = 16 ∧
    ((after (.lockReadTimeout (.job h5 .src 1 1)) s).eng.job h5).map (·.el .src 1) = some (.got 0x1234 false) := by decide +kernel

/-! ### FLT -/

def withFlt (f : Flt) : State := st { up with flt := f }

theorem test_fltMode_premises : (st up).eng.ctxs.all (fun c => decide (c.2.state = .disabled)) = true ∧
    (st (withCtx ring)).eng.ctxs.all (fun c => decide (c.2.state = .disabled)) = false ∧ (withFlt { mode := 2 }).eng.flt.mode = 2 := by decide +kernel

theorem test_fltMode_steps : (after (.fltModeWrite (both 2)) (st up)).eng.flt.mode = 2 ∧
    (after (.fltModeWrite (both 2)) (st (withCtx ring))).eng.flt.mode = 0 ∧ (after (.fltModeWrite (both 1)) (st (withCtx ring))).eng.flt.mode = 1 ∧
    (after (.fltModeWrite (both 0)) (withFlt { mode := 1 })).eng.flt.mode = 1 := by decide +kernel

/-- BITS 2, STRUCT 1, INSTANCE 3, SUBSYSTEM 9. -/
theorem test_fltInject_fields :
    let i := (after (.fltInjectArm (both 0x90C060)) (withFlt { mode := 2 })).eng.flt.inject
    (i.armed, i.sub, i.inst, i.structId, i.bits) = (true, 9, 3, 1, 2) ∧
    (after (.fltInjectArm (both 0x90C060)) (withFlt { mode := 1 })).eng.flt.inject = {} := by decide +kernel

theorem test_histPop_drops : (after (.histPop (both 0)) (withFlt { hist := [{ source := 1 }, { source := 2 }] })).eng.flt.hist = [{ source := 2 }] := by
  decide +kernel

theorem test_alert_premises : (withFlt {}).eng.flt.mode = 0 ∧ (withFlt { alert := { active := true, pending := true, lowUntil := 7 } }).eng.flt.alert.active = true ∧
    (withFlt { alert := { due := some (true, 9) } }).eng.flt.alert.due = some (true, 9) ∧ (withFlt {}).eng.aoCycle < 9 ∧
    (withFlt { alert := { causeAt := some 0 } }).eng.flt.alert.causeAt = some (withFlt {}).eng.aoCycle ∧ bitOf (both 0).value 0 = false := by decide +kernel

/-- R371 at its edge: low from cycle 1 to cycle 100; released in cycle 101 unless HOLD and PENDING are 1; a clear in the cycle of a cause is lost. -/
theorem test_alert_times :
    (after (.alertForce (both 0x101)) (withFlt {})).eng.flt.alert.due = some (true, 1) ∧
    (after (.alertForce (both 0x101)) (withFlt {})).eng.flt.alert.lowUntil = 100 ∧
    (after .alertPulseEnd (withFlt { alert := { active := true, pending := true, lowUntil := 100 } })).eng.flt.alert.active = true ∧
    (after .alertPulseEnd (withFlt { alert := { active := true, lowUntil := 100 } })).eng.flt.alert.highUntil = 111 ∧
    (after (.pendingClear ⟨.high, 0⟩) (withFlt { alert := { active := true, pending := true } })).eng.flt.alert.due = some (false, 1) ∧
    (after (.pendingClear ⟨.high, 0⟩) (withFlt { alert := { pending := true, causeAt := some 0 } })).eng.flt.alert.pending = true ∧
    (after .alertHighEnd (withFlt { alert := { due := some (true, 9), lowUntil := 108 } })).eng.aoCycle = 9 := by decide +kernel

/-- A CONTAINED event of DRV, a NOTICE, and a FATAL one of SVC, on their way. -/
def event (sub : BitVec 4) (code : BitVec 6) (c : FClass) (mode : BitVec 2) : FEvent := { stamp := 0, source := sourceOf sub 0 code, cls := c, mode := mode }

theorem test_faultEvent_premises : ∀ x ∈ [(event subRfe 0x10 .notice 1, Severity.log), (event subSvc 0x11 .fatal 1, .fatal)],
    (withFlt { events := [x.1] }).eng.severityOf x.1 = x.2 ∧
    6 ≤ (srcCode x.1.source).toNat ∧ ((withFlt { events := [x.1] }).eng.flt.events.filter fun v => !v.reached) = [x.1] ∧
    (withFlt {}).eng.svc.reset.auto = false := by decide +kernel

/-- R360: in TEST the register says IGNORE for a source, and in SERVICE the class decides. -/
theorem test_faultEvent_severities :
    let ignoring : Flt := { severity := List.replicate 28 0 }
    Severity.ofCode 0 = .ignore ∧ (withFlt ignoring).eng.severityOf (event subRfe 0x10 .notice 2) = .ignore ∧
    (withFlt {}).eng.flt.fatal = false ∧ (withFlt {}).eng.svc.reset.auto = false := by decide +kernel

/-- R353, R359: what is found unrepairable is fenced, the walker of target row 1 with it; a FATAL event of the same cycle takes the place of that (R20). -/
theorem test_faultEvent_contained :
    let x := event subWlk 7 .contained 1
    let v : FEvent := { x with reached := true, sev := .contained }
    let on := fun (vs : List FEvent) => (withFlt { events := vs }).eng
    (on [x]).severityOf x = .contained ∧ targetKey subWlk 0 = some 64 ∧ (on [v]).overruled v = false ∧
    ((on [v]).eventActs {} v).wlk.fenced = [0] ∧ (((on [v]).eventActs {} v).bistOf 64).fenced = true ∧
    ((on [v, event subSvc 0x11 .fatal 1]).eventActs {} v).wlk.fenced = [] := by decide +kernel

def held (n : Nat) : List HistEntry := List.replicate n { source := 5 }
def arrived (c : FClass) (src : BitVec 16) : FEvent := { stamp := 7, source := src, cls := c, reached := true, sev := .log }

theorem test_historyEntry_premises : firstEvent [arrived .notice 3] = some (arrived .notice 3) ∧
    merges (arrived .corrected 5) ({ source := 5, stamp := 7 } : HistEntry) = true ∧
    merges (arrived .notice 5) ({ source := 5, stamp := 7 } : HistEntry) = false := by decide +kernel

/-- R366 at its edges: a NOTICE is entered as the 48th entry and not as the 49th, a CONTAINED event as the 60th. -/
theorem test_historyEntry_limits :
    let r := fun (c : FClass) (n : Nat) => (after .historyEntry (withFlt { events := [arrived c 3], hist := held n })).eng.flt
    (r .notice 47).hist.length = 48 ∧ (r .notice 48).hist.length = 48 ∧ (r .notice 48).lost = 1 ∧ (r .contained 59).hist.length = 60 ∧
    (r .contained 60).lost = 1 ∧ (r .fatal 63).hist.length = 64 ∧ (r .fatal 64).lost = 1 := by decide +kernel

theorem test_historyEntry_merges :
    (after .historyEntry (withFlt { events := [arrived .corrected 5], hist := held 64 })).eng.flt.hist.getLast?.map (·.count) = some 2 ∧
    (after .historyEntry (withFlt { events := [arrived .corrected 5], hist := held 1 })).eng.aoCycle = 16 := by decide +kernel

theorem test_stackLost_fences : ((after (.stackLost 19) (withFlt { mode := 1 })).eng.drover 19).fenced = true ∧
    ((after (.stackLost 19) (withFlt { mode := 1 })).eng.drover 18).fenced = false ∧ (withFlt { mode := 1 }).eng.flt.mode = 1 ∧
    (withFlt { mode := 1 }).eng.overruled ((withFlt { mode := 1 }).eng.newEvent subDrv 19 0x12 none 0) = false := by decide +kernel

theorem test_watchdog_premises : (withFlt { wdogEn := true }).eng.flt.wdogEn = true ∧ (withFlt {}).eng.svc.restarting = false ∧
    (st { up with svc := { up.svc with restarting := true, pod := { role := 1 } } }).eng.svc.pod.role = 1 := by decide +kernel

def cand : FuseCand := { valid := true, kind := 1, addr := 3 }
def fusing (mv : BitVec 12) (n : Nat) : State :=
  st { up with pins := { up.pins with vmonMv := mv }, svc := { up.svc with cands := {} :: cand :: List.replicate 30 {} }, fuses := List.replicate n cand }

theorem test_fuseCmd_results :
    let r := fun (mv : BitVec 12) (n : Nat) (v : Word) => (after (.fuseCmd (both v)) (fusing mv n)).eng.svc.fuseResult
    r 720 95 0xA500 = 1 ∧ r 720 96 0xA501 = 2 ∧ r 720 95 0xA401 = 3 ∧ r 719 95 0xA501 = 4 ∧ r 720 95 0xA501 = 0 ∧ r 820 95 0xA501 = 0 ∧
    r 821 95 0xA501 = 4 := by decide +kernel

theorem test_fuseDone_programs :
    let s := st { (fusing 750 0).eng with svc := { (fusing 750 0).eng.svc with fuseBusy := some 1 } }
    s.eng.svc.fuseBusy = some 1 ∧ (after .fuseDone s).eng.fuses = [{ cand with fused := true }] ∧ (after .fuseDone s).eng.now = 10000000 := by
  decide +kernel

theorem test_clockSample_edges : (after (.clockSample 1600 720) (st up)).eng.svc.clkIn = true ∧
    (after (.clockSample 1850 820) (st up)).eng.svc.clkIn = true ∧ (after (.clockSample 1851 820) (st up)).eng.svc.clkIn = false ∧
    (after (.clockSample 1599 820) (st up)).eng.svc.clkIn = false ∧ (after (.clockSample 1600 821) (st up)).eng.svc.clkIn = false := by decide +kernel

/-- A tested walker: target row 1, instance 0, key 64. -/
def testing (b : Bist) : State := st { up with svc := { up.svc with bist := [(64, b)] } }

theorem test_bist_premises : (st up).eng.bistRuns = true ∧ BistTarget.valid ⟨1, 23⟩ = true ∧ BistTarget.valid ⟨1, 24⟩ = false ∧
    BistTarget.key ⟨1, 0⟩ = 64 ∧ (testing { active := true }).eng.halted = false ∧ (testing { active := true }).eng.frozen = false ∧
    (testing { active := true }).eng.svc.start.phase ≠ 6 := by decide +kernel

theorem test_tabInv_bist : TabInv (testing { active := true }) := by unfold TabInv; decide +kernel

/-- R12, R379: the sample's edges, and a free unit whose slice does not stop; with a descriptor on the walker it does. -/
theorem test_bistSegmentEnd_premises :
    let at_ := fun (mhz : BitVec 16) (mv : BitVec 12) => (1600 ≤ mhz.toNat ∧ mhz.toNat ≤ 1850) ∧ (720 ≤ mv.toNat ∧ mv.toNat ≤ 820)
    at_ up.pins.engMhz up.pins.vmonMv ∧ at_ 1600 720 ∧ at_ 1850 820 ∧ ¬ at_ 1599 750 ∧ ¬ at_ 1700 821 ∧
    (testing { active := true }).eng.sliceStops ⟨1, 0⟩ = false ∧
    (st { (testing { active := true }).eng with jobs := [{ job opCopy [] with walker := some 0 }] }).eng.sliceStops ⟨1, 0⟩ = true ∧
    bistSlices 1 = 1 ∧ bistSlices 0 = 8 ∧ (macroOf ({} : Bist) 1 2).rows = 0 := by decide +kernel

/-- The twentieth segment ends the slice, and the last slice the visit: a failed one is diagnosed, a found cell takes a spare row, and the visit run
again confirms it or not. -/
theorem test_bistSegmentEnd_edge :
    let r := fun (b : Bist) (x : SegmentEnd) => (after (.bistSegmentEnd ⟨1, 0⟩ x) (testing b)).eng.bistOf 64
    let codes := fun (b : Bist) (x : SegmentEnd) => (after (.bistSegmentEnd ⟨1, 0⟩ x) (testing b)).eng.flt.events.map fun v => srcCode v.source
    (r { active := true, segment := 18 } .pass).segment = 19 ∧ (r { active := true, segment := 18 } .fail).failed = true ∧
    (r { active := true, granted := true } .pass).active = false ∧
    (r { active := true, segment := 19 } .pass).active = false ∧ (r { active := true, segment := 19 } .pass).diag = false ∧
    (r { active := true, segment := 19, failed := true } .pass).diag = true ∧
    (r { active := true, segment := 19, diag := true } (.found [⟨1, 2, [(7, 9)]⟩])).rerun = some [⟨1, 2, 1, 7⟩] ∧
    codes { active := true, segment := 19, rerun := some [⟨1, 2, 1, 7⟩] } .pass = [6] ∧
    codes { active := true, segment := 19, rerun := some [⟨1, 2, 1, 7⟩] } .fail = [7] := by decide +kernel

/-- Target row 0 takes eight slices: the twentieth segment of the first one ends that slice alone. -/
theorem test_bistSlices :
    ((after (.bistSegmentEnd ⟨0, 0⟩ .pass) (st { up with svc := { up.svc with bist := [(0, { active := true, segment := 19 })] } })).eng.bistOf 0).slice = 1 := by
  decide +kernel

theorem test_bistOverdue_premises : (st up).eng.unitFenced 0 0 = false ∧ (st up).eng.svc.bistMask.getLsbD 0 = false ∧ testRow 1 0 = false ∧
    testRow 2 0 = false ∧ (st up).eng.active (testDomain 0 0) = true ∧ (st up).eng.unitRivals 0 0 = [] ∧ ((st up).eng.bistOf 0).active = false ∧ (st up).eng.syn.waits = [] := by
  decide +kernel

theorem test_bistOverdue_marks : ((after (.bistOverdue ⟨1, 0⟩) (testing {})).eng.bistOf 64).overdue = true := by decide +kernel

/-! ### Pods and time -/

def withPod (p : Pod) (peers : SMap PeerStat := []) (f : Flt := {}) : State :=
  st { up with svc := { up.svc with pod := p }, npi := { peers := peers }, flt := f }

def joinMsg : JoinMsg := { dev := 9, ident := 5, epoch := 7, bellwether := 0, stale := false, restarted := false, first := false }

/-- A Bellwether of epoch 7 with a pod area, judging device 9; the area's one required FIRMWARE digest is all zeros. -/
def judging : Pod := { role := 2, epoch := 7, areaBase := 1, reqCount := 1, judging := [joinMsg] }

def zeros48 : List Byte := List.replicate 48 0

theorem test_verdict_premises : judging.judging.find? (fun x => x.dev = 9) = some joinMsg ∧
    (withPod judging).eng.firmwareOk {} zeros48 zeros48 = true ∧ (withPod judging).eng.firmwareOk {} (1 :: zeros48.tail) zeros48 = false ∧
    (mapGet {} (withPod judging [(9, { state := 3, ident := 5 })]).eng.npi.peers 9).ident = 5 := by decide +kernel

/-- R429: verified and current is UNSYNCED, an older epoch is MISMATCHED by EPOCH, other firmware by FIRMWARE; unverified leaves the entry (log 95), and another IDENT leaves it, with cause IDENTITY where it is ABSENT. -/
theorem test_verdict_states :
    let r := fun (p : Pod) (v : VerdictInput) => let x := mapGet {} (after (.verdict 9 v) (withPod p [(9, { state := 3, ident := 5 })])).eng.npi.peers 9
      (x.state, x.cause)
    r judging ⟨true, 5, zeros48, zeros48⟩ = (2, 0) ∧ r { judging with epoch := 8 } ⟨true, 5, zeros48, zeros48⟩ = (1, 1) ∧
    r judging ⟨true, 5, 1 :: zeros48.tail, zeros48⟩ = (1, 2) ∧ r judging ⟨false, 5, zeros48, zeros48⟩ = (3, 0) ∧
    r judging ⟨true, 6, zeros48, zeros48⟩ = (3, 0) ∧
    (mapGet {} (after (.verdict 9 ⟨true, 6, zeros48, zeros48⟩) (withPod judging [(9, { ident := 5 })])).eng.npi.peers 9).cause = 3 := by decide +kernel

theorem test_podCtl_premises : (∀ x ∈ (withPod judging [(9, { state := 3 })]).eng.npi.peers, x.1 < 4096) ∧
    ((withPod judging [(9, { state := 3 })]).eng.judge {} 0 zeros48 zeros48).1 = 1 ∧
    ((withPod { judging with epoch := 0 } [(9, { state := 3 })]).eng.judge {} 0 zeros48 zeros48).1 = 2 := by decide +kernel

theorem test_podCtl_joins : ((after (.podCtlWrite (both 0x4009000000640A00)) (st up)).eng.out.map fun o => match o with
      | .npi d (.join m) => (d, m.bellwether)
      | _ => (0, 0)) = [(9, 9)] ∧
    (mapGet {} (after (.reverify ⟨.low, 0⟩) (withPod judging [(9, { state := 3, ident := 5 })])).eng.npi.peers 9).state = 1 ∧
    (mapGet {} (after (.reverify ⟨.low, 0⟩) (withPod { judging with epoch := 0 } [(9, { state := 1, cause := 1, ident := 5 })])).eng.npi.peers 9).state = 2 := by
  decide +kernel

theorem test_podEpoch_loads : (after (.podEpochWrite (both 7)) (withPod { role := 1, bellwether := 9 })).eng.svc.pod.epoch = 7 := by decide +kernel

theorem test_join_premises : ({ role := 1 } : Pod).self = 0 ∧ joinMsg.stale = false ∧ joinMsg.bellwether = (withPod { role := 2 }).eng.device ∧
    (after (.join joinMsg) (withPod { role := 2 })).eng.svc.pod.judging = [joinMsg] ∧
    (after .joinSend (withPod { role := 1, bellwether := 9 })).eng.svc.pod.joinAt = 100000 := by decide +kernel

/-- R429, R432, R433 and log 95: what a JOIN makes of its worker's entry; a worker MISMATCHED by EPOCH alone comes back without a judgement. -/
theorem test_join_states :
    let s := fun (o : PeerStat) => withPod { judging with judging := [] } [(9, o)]
    let r := fun (o : PeerStat) (j : JoinMsg) => let t := after (.join j) (s o)
      ((mapGet {} t.eng.npi.peers 9).state, (mapGet {} t.eng.npi.peers 9).cause, t.eng.svc.pod.judging.length)
    r { state := 3, ident := 5, epoch := 7 } { joinMsg with restarted := true } = (1, 5, 1) ∧
    r { state := 3, ident := 5, epoch := 7 } { joinMsg with first := true } = (0, 0, 1) ∧
    r { state := 3, ident := 5, epoch := 7 } { joinMsg with epoch := 6 } = (1, 1, 1) ∧
    r { state := 3, ident := 6, epoch := 7 } { joinMsg with restarted := true } = (3, 0, 1) ∧
    (s { state := 1, cause := 1, ident := 5 }).eng.recordPasses {} 9 = true ∧ r { state := 1, cause := 1, ident := 5 } joinMsg = (2, 0, 0) := by
  decide +kernel

theorem test_reverify_restart : mapGet {} (after (.reverify ⟨.low, 0⟩) (withPod judging [(9, { state := 1, cause := 5, ident := 5 })])).eng.npi.peers 9
    = { state := 1, cause := 5, ident := 5 } := by decide +kernel

def beacon : Beacon := { dev := 9, epoch := 7, seq := 3, stamp := 0, states := [(0, 2), (9, 3)] }

theorem test_beacon_premises : (withPod { role := 1 }).eng.svc.power.dormant = false ∧ (withPod { role := 1, bellwether := 9 }).eng.svc.pod.bellwether = beacon.dev ∧
    (withPod { role := 2 } [(9, { state := 3 })]).eng.vector = [(9, 3), (0, 3)] ∧
    (mapGet {} (withPod { role := 2 } [(9, { state := 3 })]).eng.npi.peers 9).state = 3 := by decide +kernel

theorem test_beacon_epoch_premise :
    let s := withPod { role := 2, epoch := 7 } [(9, { state := 3, epoch := 6 })]
    TabInv s ∧ (∀ x ∈ s.eng.npi.peers, x.1 < 4096) ∧ (9 : DevNum) ≠ s.eng.device := by unfold TabInv; decide +kernel

theorem test_beacon_taken : (after (.beaconReceive beacon) (withPod { role := 1, bellwether := 9 })).eng.svc.pod.self = 2 ∧
    (after (.beaconReceive beacon) (withPod { role := 1, bellwether := 8 })).eng.svc.pod.rival = true ∧
    (after .beaconSend (withPod { role := 2 } [(9, { state := 3 })])).eng.now = 100000 ∧
    (mapGet {} (after .beaconSend (withPod { role := 2, epoch := 7 } [(9, { state := 3, epoch := 6 })])).eng.npi.peers 9).cause = 1 := by
  decide +kernel

/-- θ = ((t2 − t1) + (t3 − t4)) / 2 with t1 = 0, t4 = 0: 10,000 is corrected, 10,001 is stepped. -/
theorem test_syncRsp_edge :
    let r := fun (n : Word) => (after (.syncRsp ⟨9, 0, n, n⟩) (withPod { role := 1, bellwether := 9 } [] { time := { open_ := some 0 } })).eng
    (r 10000).now = 0 ∧ (r 10000).flt.time.pendingNs = 10000 ∧ (r 10001).now = 10001 ∧ (r 10001).flt.time.pendingNs = 0 ∧
    (r 10000).flt.time.skew = 10000 ∧ (r 10000).flt.time.deltas = [0] := by decide +kernel

theorem test_syncReq_answers : (after (.syncReq ⟨9, 8, 44, false⟩) (withPod { role := 2, epoch := 7 } [(9, { state := 3 })])).eng.out =
      [.npi 9 (.syncRsp ⟨0, 44, 0, 0⟩)] ∧
    (mapGet {} (after (.syncReq ⟨9, 8, 44, false⟩) (withPod { role := 2, epoch := 7 } [(9, { state := 3 })])).eng.npi.peers 9).cause = 1 := by
  decide +kernel

/-- LOST_N 10: silent at the tenth beacon without an exchange. -/
theorem test_silence_edge :
    let r := fun (n : Nat) => (mapGet {} (after (.workerSilent 9) (withPod { role := 2, beaconSeq := n } [(9, { state := 3 })])).eng.npi.peers 9).state
    r 9 = 3 ∧ r 10 = 0 ∧ (after .bellwetherStale (withPod { role := 1, bellwether := 9 })).eng.svc.pod.stale = true := by decide +kernel

/-- A correction of 3 ns ends after 3 AO cycles of 9 or 11 ns; only a worker has one. -/
theorem test_timeCorrection_done : (after .timeCorrectionDone (withPod { role := 1 } [] { time := { pendingNs := -3 } })).eng.now = 27 ∧
    (after .timeCorrectionDone (withPod { role := 1 } [] { time := { pendingNs := 3 } })).eng.now = 33 ∧
    (after .timeCorrectionDone (withPod { role := 2 } [] { time := { pendingNs := 3 } })).eng.now = 0 := by decide +kernel

/-- Eight requesters are served, a ninth is Busy. -/
theorem test_spdm_edge :
    let s := fun (n : Nat) => st { up with svc := { up.svc with spdm := (List.range n).map fun i => .peer (BitVec.ofNat 12 (20 + i)) } }
    (after (.spdmRequest .host .getVersion) (s 7)).eng.out = [.spdm .host (.version 0x12)] ∧
    (after (.spdmRequest .host .getVersion) (s 8)).eng.out = [.spdm .host .busy] ∧
    (after (.spdmRequest (.peer 20) .getVersion) (s 8)).eng.out = [.spdm (.peer 20) (.version 0x12)] ∧
    5 ≤ (s 8).eng.svc.start.phase.toNat ∧ (s 8).eng.svc.restarting = false ∧ SpdmFrom.host ∉ (s 8).eng.svc.spdm := by decide +kernel

/-! ### Power -/

def withPower (p : Power) : State := st { up with svc := { up.svc with power := p } }
def power : Power := up.svc.power

theorem test_power_premises : (st up).eng.mayLower (.region 0) .active 1 = true ∧
    (withPower { power with region := List.replicate 4 { st := .idle } }).eng.mayLower (.region 0) .idle 0 = true ∧
    (st up).eng.sleepDelay (.region 0) ≠ 0 ∧ power.total ≤ min 0x960 (min power.cap.toNat 0x960) ∧ power.engine.wantSince = none ∧
    (∀ x ∈ regions, ((st up).eng.regionDom x).wantSince = none) := by decide +kernel

theorem test_power_lowers : ((after (.activeToIdle (.region 0)) (st up)).eng.domOf (.region 0)).st = .idle ∧
    ((after (.idleToSleep (.region 0)) (withPower { power with region := List.replicate 4 { st := .idle } })).eng.domOf (.region 0)).st = .sleep ∧
    ((after (.wakeComplete (.region 0)) (withPower { power with region := { st := .idle, wakeDue := some 40 } :: List.replicate 3 {} })).eng.domOf
      (.region 0)).st = .active := by decide +kernel

/-- A region and the engine wake together; nothing waits there. -/
theorem test_power_wakes :
    let s := withPower { power with region := { st := .idle, wakeDue := some 1400 } :: List.replicate 3 {}, engine := { wakeDue := some 1400 } }
    (s.eng.domOf (.region 0)).wakeDue = some 1400 ∧ (s.eng.domOf .engine).wakeDue = some 1400 ∧ s.eng.jobs = [] ∧ s.eng.npi.serving = [] ∧
    s.eng.opi.serving = [] ∧ s.eng.syn.events = [] ∧ ((after (.wakeComplete (.region 0)) s).eng.domOf .engine).st = .active ∧
    ((after (.wakeComplete .engine) s).eng.domOf .engine).st = .active := by decide +kernel

/-- R342: a region does not become Active before the engine domain, which is asked to wake. -/
theorem test_power_engineFirst :
    let s := withPower { power with region := { st := .idle, wakeDue := some 40 } :: List.replicate 3 {}, engine := {} }
    s.eng.active .engine = false ∧ (s.eng.domOf .engine).wakeDue = none ∧
    ((after (.wakeComplete (.region 0)) s).eng.domOf (.region 0)).st = .idle ∧
    ((after (.wakeComplete (.region 0)) s).eng.domOf .engine).wakeDue.isSome = true := by decide +kernel

/-- R349, R450: a second loan of region 1, made before its first recall has returned, outlasts that return. -/
theorem test_power_secondLoan :
    let s := withPower { power with recalls := [(1, 0)], region := [{ st := .active }, { st := .sleep, lent := true }, {}, {}] }
    ((after .ppmReturn s).eng.regionDom 1).lent = true := by decide +kernel

theorem test_power_return :
    let s := withPower { power with recalls := [(1, 0)], region := [{ st := .active }, { st := .sleep, lent := true, recalled := true }, {}, {}] }
    s.eng.svc.power.recalls = [(1, 0)] ∧ ((after .ppmReturn s).eng.regionDom 1).lent = false ∧
    (after .ppmReturn s).eng.svc.power.recalls = [] := by decide +kernel

/-- LIMIT lets three regions be Active: region 3 asks, and region 0 has been Active longest. -/
def crowded : Eng :=
  { withCtx ring with
    now := 50000
    jobs := [{ job opCopy [] with lead := 0 }, { job opCopy [] with handle := mkHandle 3 0 6, lead := 1 },
             { job opCopy [] with handle := mkHandle 3 0 7, lead := 2 }]
    svc := { up.svc with power := { power with
      grant := 1910, region := [{ st := .active }, { st := .active, since := 1 }, { st := .active, since := 2 }, { st := .sleep, since := 3, wantSince := some 5 }] } } }

theorem test_pwrCtl_loads : (after (.pwrCtlWrite 1 (both 0x0002010000200030)) (st up)).eng.regionCtl 1 = ⟨2, true, 0x20, 0x30⟩ ∧
    (after (.pwrEngWrite (both 0x8001000000050007)) (st up)).eng.svc.power.rotateUs = 7 := by decide +kernel

theorem test_dormant_premises :
    let p : Power := { dormant := false, dormantEn := true, saveBase := 1 }
    (withPower p).eng.mayDormant = true ∧
    (after (.dormantExit .arrival) (withPower { p with dormant := true })).eng.svc.power.dormantExit = some 60000 ∧
    (withPower { p with dormant := true }).eng.svc.start.ready = true ∧ (withPower { p with dormant := true }).eng.svc.start.failed = false ∧
    (withPower p).eng.pins.engMhz = 1750 := by decide +kernel

theorem test_dormantExitDone_sleeps :
    let s := withPower { dormant := true, dormantExit := some 60000 }
    (after .dormantExitDone s).eng.svc.power.dormant = false ∧ (after .dormantExitDone s).eng.now = 60000 ∧
    s.eng.svc.power.dormantExit.isSome = true := by decide +kernel

/-! ### Compute dies and peers -/

def portsUp : State := st { withCtx ring with opi := { die := [{}, {}, {}, {}], ports := [some 0, some 0, some 0, none, none, none, none, some 1] } }

theorem test_dieCfg_premises : portsUp.Answers ∧ (portsUp.eng.dieCfg 0).enable = false ∧ (portsUp.eng.ctx 3).state = .enabled ∧
    ((st (withDie ring)).eng.dieCfg 0).enable = true ∧ (st (withDie ring)).eng.dieBusy 0 = false := by decide +kernel

/-- R464: 1 or 2 ports of the die succeed, 3 ports or another die's do not, nor a DISABLED sync context. -/
theorem test_dieCfg_results :
    let r := fun (v : Word) => (after (.dieCfgWrite 0 (both v)) portsUp).eng.dieCfg 0
    (r 0x4000000300000001).enable = true ∧ (r 0x4000000300000003).enable = true ∧ (r 0x4000000300000007).result = 1 ∧
    (r 0x4000000300000081).result = 1 ∧ (r 0x4000000400000001).result = 2 ∧ (r 0x0000000300000001).enable = false ∧
    ((after (.dieCfgWrite 0 (both 0)) (st (withDie ring))).eng.dieCfg 0).enable = false := by decide +kernel

theorem test_ports_change : (after (.opiPortUp 7 2) portsUp).eng.opi.ports.getD 7 none = some 2 ∧
    ((after (.diePortDown 0) (st (withDie ring))).eng.dieCfg 0).enable = false := by decide +kernel

def access : DieAccess := { die := 0, id := 5, paddock := 0, va := 0x20000, write := false, bytes := [], len := 8 }
def dieMapped (mask : BitVec 4) : State :=
  st { withDie ring with
    pdks := [(0, { pdk0 with dieMask := mask })], atg := { tlb := [[⟨0, 0, ⟨30, 0, 0, false, true, true⟩⟩], [], [], []] } }

theorem test_dieAccess_premises : ((dieMapped 1).eng.dieCfg 1).enable = false ∧ ((dieMapped 0).eng.pdk 0).dieMask.getLsbD 0 = false ∧
    (dieMapped 1).eng.svc.power.dormant = false ∧ (dieMapped 1).eng.active (.region access.die) = true ∧ (dieMapped 1).eng.testing 5 0 = false ∧
    (st { (dieMapped 1).eng with svc := { up.svc with power := { power with region := [] } } }).eng.active (.region access.die) = false ∧
    (dieMapped 1).eng.canServe { dest := .stack 0 0x20000, bit := 0, tag := .clear, va := 0 } = true ∧
    (dieMapped 1).eng.translate 0 0 0x20000 0 8 { write := false, stackOnly := true }
      = .ok ⟨.stack 0 0x20000, 0, .epoch 0 0, some (0, 0), 0x20000, false, false, false, none⟩ ∧ (dieMapped 1).eng.flt.fatal = false := by decide +kernel

theorem test_dieAccess_answers : (after (.dieAccess { access with die := 1 }) (dieMapped 1)).eng.out = [.die 1 (.answer 5 stAccessFault [])] ∧
    (after (.dieAccess access) (dieMapped 0)).eng.out = [.die 0 (.answer 5 stPaddockFault [])] ∧
    (after (.dieAccess access) (dieMapped 1)).eng.opi.serving.length = 1 := by decide +kernel

/-- Paddock 0 may reach device 9 by its bitmap at 0x200, and its second 64 KiB is cached in slice 1. -/
def peerMapped (mode : WkeyState := .empty) : State :=
  { st { up with
      pdks := [(0, { pdk0 with reachBase := 1, wkeyState := mode })]
      atg := { tlb := [[], [⟨0, 0, ⟨30, 0, 0, false, true, true⟩⟩], [], []] } } with mem := { cells := [(0x201, 2)] } }

theorem test_peerRequest_premises : peerMapped.eng.svc.power.dormant = false ∧ peerMapped.eng.testing 5 1 = false ∧ peerMapped.eng.active (.region 1) = true ∧ peerMapped.eng.npi.serving = [] ∧
    (st { up with svc := { up.svc with power := { power with region := [] } } }).eng.active (.region 1) = false ∧ peerMapped.eng.refusing = false ∧ (inPhase .resetting).eng.refusing = true ∧
    (peerMapped.eng.reaches peerMapped.mem 1 0 9).1 = true ∧ (peerMapped.eng.reaches peerMapped.mem 1 0 8).1 = false ∧
    peerMapped.eng.translate 1 0 0x10000 0 4 { write := true, stackOnly := true }
      = .ok ⟨.stack 0 0x10000, 0, .epoch 0 0, some (0, 0), 0x10000, false, false, false, none⟩ := by decide +kernel

theorem test_peerRequest_answers :
    (after (.peerPut peerReq [1, 2, 3, 4] false) peerMapped).eng.npi.serving.length = 1 ∧
    (after (.peerGet { peerReq with dev := 8 }) peerMapped).eng.out = [.npi 8 (.data 4 stPaddockFault [] [])] ∧
    (after (.peerGet peerReq) (inPhase .resetting)).eng.out = [.npi 9 (.refused 4)] := by decide +kernel

def serving (op : PeerOp) : State :=
  { st { up with npi := { nextReq := 1, serving := [{ id := 0, q := peerReq, op := op, bytes := [1, 2, 3, 4], req := some ⟨.stack 0 0x10000, 0, .epoch 0 0, some (0, 0), 0x10000, false, false, false, none⟩ }] } } with
    mem := { tags := (List.range 4).map fun i => (0x10000 + i, .epoch 0 0) } }

theorem test_peerServed_premises : (serving .get).eng.npi.serving.find? (fun z => z.id = 0) =
      some { id := 0, q := peerReq, op := .get, bytes := [1, 2, 3, 4], req := some ⟨.stack 0 0x10000, 0, .epoch 0 0, some (0, 0), 0x10000, false, false, false, none⟩ } ∧
    (serving .get).eng.atDrover ⟨.stack 0 0x10000, 0, .epoch 0 0, some (0, 0), 0x10000, false, false, false, none⟩ 0 true = .tag (.epoch 0 0) none ∧
    0 < peerReq.ebits := by decide +kernel

theorem test_peerServed_done : (after (.writeAck (.peer 0) ⟨0, [], 0, 0⟩) (serving (.put false))).mem.bytes (.epoch 0 0) 0x10000 4 = [1, 2, 3, 4] ∧
    (after (.writeAck (.peer 0) ⟨0, [], 0, 0⟩) (serving (.put false))).eng.out = [.npi 9 (.ack 4 stOk 0 0)] := by decide +kernel

/-- R171, R167: an INT32 contribution of 3 to a 2, and a poisoned one, in whose place FILL stands. -/
theorem test_peerServed_accumulates :
    let s := fun (ps : List Nat) => st { up with npi := { nextReq := 1, serving := [{
        id := 0, q := { peerReq with ebits := 32 }, op := .acc 0 2 9 ps, bytes := [3, 0, 0, 0]
        req := some ⟨.stack 0 0x10000, 0, .epoch 0 0, some (0, 0), 0x10000, false, false, false, none⟩ }] } }
    let t := fun (ps : List Nat) => (after (.writeAck (.peer 0) ⟨0, [], 0, 0⟩)
      { s ps with mem := { cells := [(0x10000, 2)], tags := (List.range 4).map fun i => (0x10000 + i, .epoch 0 0) } }).mem
    (t []).bitsAt (.epoch 0 0) 0x10000 0 32 = 5 ∧ (t [0]).bitsAt (.epoch 0 0) 0x10000 0 32 = 9 := by decide +kernel

theorem test_memInv_serving : MemInv (serving (.put false)) := by unfold MemInv; decide +kernel

/-! ### Waits of peers, deadlines and routes -/

/-- A FLAG_WAIT of entry 5 that stands at device 9. -/
def remoteWait : Job := { job opFlagWait [0x240007, 100, 0] with stage := .waiting, syncSent := true, waitId := some 6 }

/-- Its lead region asleep, in FATAL state. -/
def lowLead (j : Job) : State :=
  st { (withJob j).eng with svc := { up.svc with power := { power with region := [] } }, flt := { fatal := true } }

theorem test_remoteWait_premises : remoteWait.syncDev = 9 ∧ remoteWait.answer = none ∧ (withJob remoteWait).eng.mute = false ∧
    (withJob remoteWait).eng.svc.power.dormant = false ∧ (withJob remoteWait).eng.active (.region remoteWait.lead) = true ∧
    (lowLead remoteWait).eng.active (.region remoteWait.lead) = false ∧ (lowLead remoteWait).eng.mute = true ∧
    (withJob remoteWait).eng.jobs.find? (fun k => k.ctx = 3 && k.waitId = some 6 && k.stage = .waiting && k.syncSent && k.syncDev = 9) = some remoteWait := by
  decide +kernel

theorem test_remoteWait_ends : ((after (.remoteWaitResult 9 3 6 stOrphaned 7) (withJob remoteWait)).eng.job h5).map (fun j => (j.status, j.detail))
      = some (stOrphaned, 7) ∧
    ((after (.routeLost 9) (withJob remoteWait)).eng.job h5).map (·.status) = some stUnreachable ∧
    ((after (.remoteWaitResult 9 3 6 stOrphaned 7) (lowLead remoteWait)).eng.job h5).map (·.answer) = some (some (stOrphaned, 7, 0)) ∧
    (after (.remoteWaitRetry h5) (withJob remoteWait)).eng.out.length = 1 ∧ (after (.remoteWaitRetry h5) (lowLead remoteWait)).eng.out = [] ∧
    remoteWait.unreachable 9 = remoteWait := by decide +kernel

def waitOf (who : Waiter) : Wait := { id := 2, flag := 7, who := who, forClear := true, timeout := some 100, scope := .context, start := 0, dist := .sameRegion, long := false }

def waiting (who : Waiter) : State :=
  st { withCtx ring with jobs := [{ job opFlagWait [7, 100, 1] with stage := .waiting }], syn := { flags := [(7, flag7)], waits := [waitOf who] } }

theorem test_waits_premises : (waiting (.job h5)).eng.syn.waits.find? (fun x => x.id = 2) = some (waitOf (.job h5)) ∧
    (waitOf (.job h5)).timeout = some 100 ∧ (waiting (.job h5)).eng.active (.region (flagRegion 7)) = true ∧
    (waiting (.job h5)).eng.homeRuns (flagRegion 7) = true ∧ (waiting (.peer 9 3 77)).eng.svc.power.dormant = false ∧
    (st { (waiting (.job h5)).eng with svc := { up.svc with power := { power with region := [] } } }).eng.homeRuns (flagRegion 7) = false := by
  decide +kernel

theorem test_waits_end : ((after (.waitDeadline 2) (waiting (.job h5))).eng.job h5).map (·.status) = some stTimeout ∧
    (after (.waitDeadline 2) (waiting (.job h5))).eng.now = 110 ∧
    (after (.longWait 2) (waiting (.job h5))).eng.now = 0 ∧ (waitOf (.peer 9 3 77)).firedBy 0 = false ∧
    (after (.waitWithdrawal 9 3 77) (waiting (.peer 9 3 77))).eng.syn.waits = [] ∧
    (after (.peerResetNotice 9) (waiting (.peer 9 3 77))).eng.syn.waits = [] := by decide +kernel

/-- The deadline lies ahead, the home is Active, and no wait is long; a wait without a deadline can become long; at a lowered home a withdrawal
stands as an event. -/
theorem test_waits_calm :
    let s := waiting (.peer 9 3 77)
    let low := st { s.eng with svc := { up.svc with power := { power with region := [] } } }
    let endless := st { s.eng with syn := { s.eng.syn with waits := [{ waitOf (.job h5) with timeout := none }] } }
    (∀ k ∈ s.eng.jobs, s.eng.longHeld k = false) ∧ s.eng.syn.events = [] ∧ s.eng.syn.held = [] ∧
    low.eng.homeWaits.filter (fun x => x.who = .peer 9 3 77) = [waitOf (.peer 9 3 77)] ∧ low.eng.homeRuns (flagRegion 7) = false ∧
    (after (.waitWithdrawal 9 3 77) low).eng.syn.events.map (·.act) = [.ends (waitOf (.peer 9 3 77)) none] ∧
    (after (.longWait 2) endless).eng.syn.waits.map (·.long) = [true] ∧ (after (.longWait 2) endless).eng.now = 4000 := by decide +kernel

/-- R257: the wait that is sent again bears its number and the descriptor's flag, direction and timeout. -/
theorem test_remoteWait_again : (after (.remoteWaitRetry h5) (withJob remoteWait)).eng.out =
    [.npi 9 (.wait { dev := 0, src := 3, ctx := 3, id := 6, paddock := 0, scope := .context, stamp := 1000 } 7 false 100)] := by decide +kernel

theorem test_heldWait_obtains :
    let s := st { withCtx ring with jobs := [{ job opFlagWait [7, 100, 1] with stage := .waiting }], syn := { flags := [(7, flag7)], held := [waitOf (.job h5)] } }
    s.eng.syn.held.find? (fun x => x.id = 2) = some (waitOf (.job h5)) ∧ s.eng.flagOpen 7 (s.eng.waiterPaddock (.job h5)) = true ∧
    s.eng.waitRecords (flagRegion 7) < 16384 ∧ (s.eng.flag 7).value = true ∧ (after (.waitRecordObtained 2) s).eng.syn.held = [] := by decide +kernel

theorem test_heldRelease_passes :
    let s := st { (podSyn { owned := true } {}).eng with npi := { peers := [(9, { state := 3 })], heldSync := [⟨peerSync, .set 7, []⟩] } }
    s.eng.npi.heldSync.find? (fun y => y.m.dev = 9 && y.m.ctx = 3) = some ⟨peerSync, .set 7, []⟩ ∧ s.eng.homeCheck 9 false = none ∧
    s.eng.atHome 9 3 = false ∧ s.eng.flagOpen 7 0 = true ∧ ((after (.releasePassToSyn 9 3) s).eng.flag 7).value = true := by decide +kernel

theorem test_resend_again :
    let s := st { up with npi := { nextReq := 5 }, out := [.npi 9 (.get peerReq)] }
    s.eng.sentMsg 4 = some (.npi 9 (.get peerReq)) ∧ (after (.peerRefusalResend 4) s).eng.out.length = 2 := by decide +kernel

/-! ### Arbitration -/

/-- Walker 18 is held by entry 5, and entry 6 waits for a walker. -/
def holder : Job := { dataJob opCopy [0, 0x1000, 0, 0x2000] 2 with tickets := 1 }
def waiter : Job := { dataJob opCopy [0, 0x1000, 0, 0x2000] 2 with handle := mkHandle 3 0 6, stage := .queued, walker := none, tickets := 1 }

def contended (j : Job) : State := st { withCtx ring with jobs := [j, waiter] }

theorem test_quantum_premises : (contended holder).eng.holderJob (.walker 18) = some holder ∧
    ((contended holder).eng.arbCfg (holderLevel (.walker 18))).quantum ≠ 0 ∧ (contended holder).eng.storeFull 3 = false ∧
    holder.yieldAt = none ∧ (contended holder).eng.halted = false ∧
    ((contended holder).eng.jobs.filter fun j => (contended holder).eng.eligible j && j.lead = holder.lead && j.waitsAt 2
      && decide (j.handle ≠ holder.handle)) = [waiter] ∧ (contended holder).eng.testersOf holder 2 = [] := by decide +kernel

/-- A self-test target of walker 18 (row 1, key 82) that is overdue. -/
def overdue : State := st { (contended holder).eng with svc := { up.svc with bist := [(82, { overdue := true })] } }

theorem test_overdue_premises : overdue.eng.testersOf holder 2 = [82] ∧ BistTarget.key ⟨1, 18⟩ = 82 ∧ testLevel 1 = 2 ∧
    overdue.eng.active (testDomain 1 18) = true ∧
    (overdue.eng.bistOf 82).wants = true ∧ (overdue.eng.bistOf 82).starved = none ∧ overdue.eng.svc.bistTickets ≠ 0 ∧
    (overdue.eng.arbCfg 2).starve ≠ 0 ∧ (overdue.eng.arbCfg 1).starve ≠ 0 := by decide +kernel

/-- A request stream of entry 5 that waits at the port of region 0. -/
def atPort : State := st { (contended holder).eng with svc := { up.svc with ports := [{ level := 1, port := 0, who := .job h5 }] } }

theorem test_port_premises : atPort.eng.portTickets { level := 1, port := 0, who := .job h5 } ≠ 0 ∧ atPort.eng.portRuns 0 = true ∧
    (atPort.eng.arbCfg (1)).starve ≠ 0 := by decide +kernel

theorem test_quantum_storeFull :
    let s := st { (contended holder).eng with jobs := holder :: waiter :: (List.range 32).map fun i =>
      { job opCopy [] with handle := mkHandle 9 0 (BitVec.ofNat 32 i), stage := .queued, lead := 3, slot := true } }
    s.eng.storeFull 3 = true := by decide +kernel

theorem test_starvation_premises : (contended holder).eng.eligible waiter = true ∧ waiter.starved = none ∧ waiter.tickets ≠ 0 ∧
    (contended holder).eng.active (.region waiter.lead) = true ∧ waiter.waitsAt 1 = false ∧ (landed ring entry5).engineRuns = true ∧
    (landed ring entry5).rfe.starvedCtx = [] ∧ ((contended holder).eng.arbCfg 1).starve ≠ 0 ∧
    ((contended holder).eng.arbCfg 2).starve ≠ 0 ∧ ((contended holder).eng.arbCfg 3).starve ≠ 0 ∧
    (landed ring entry5).fetchReady 3 = true ∧ ((landed ring entry5).ctx 3).tickets ≠ 0 := by decide +kernel

theorem test_starvation_brief : (after (.starvation (.brief 0)) (contended holder)).eng.svc.arbStarved = 1 ∧
    ((contended holder).eng.arbCfg 0).starve ≠ 0 := by decide +kernel

theorem test_starvation_marks : (after (.starvation (.job waiter.handle)) (contended holder)).eng.svc.arbStarved = 4 ∧
    (after (.starvation (.ctx 3)) (st (landed ring entry5))).eng.svc.arbStarved = 8 := by decide +kernel

/-- A holder asked to yield that has reached position 2 of 4, with a source read still awaited; and one that has drained. -/
def yielding : Job := { holder with checked := true, yieldAt := some 0, emitted := 2, srcEl := [(0, .got 0 false), (1, .todo)], dstEl := [(0, .done), (1, .todo)] }
def drained : Job := { yielding with srcEl := [(0, .got 0 false)], dstEl := [(0, .done), (1, .done)] }
def accumulating : Job := { yielding with words := BitVec.ofNat 64 opReduce :: yielding.words.tail, cls := .a }

theorem test_preempt_premises : (contended drained).eng.canSave drained = true ∧ (contended yielding).eng.canSave yielding = false ∧
    (contended accumulating).eng.canSave accumulating = false ∧ accumulating.cutReady = true ∧ yielding.over = false ∧
    ((contended yielding).eng.arbCfg yielding.yieldLevel).cutoff ≠ 0 ∧ yielding.walker.isSome = true := by decide +kernel

theorem test_preempt_saves : ((after (.preemptSave h5) (contended drained)).eng.job h5).map (fun j => (j.stage, j.slot)) = some (.queued, true) ∧
    ((after (.cutoff h5) (contended accumulating)).eng.job h5).map (·.emitted) = some 0 ∧
    (after (.cutoff h5) (contended yielding)).eng.svc.arbCut = 4 := by decide +kernel

/-! ### Cold start -/

def starting (n : BitVec 4) (p : Pins := { aoResetL := true }) : State := st { State.reset.eng with pins := p, svc := { start := { phase := n } } }

theorem test_coldStart_premises : State.reset.eng.pins.aoResetL = false ∧ (starting 4).Live ∧ (starting 5).eng.svc.start.failed = false ∧
    (starting 5 { aoResetL := true, engMhz := 1599 }).Live ∧ (starting 5 { aoResetL := true, vmonMv := 821 }).Live ∧
    (starting 5 { aoResetL := true, devNumValid := false }).Live ∧ (starting 2).eng.mayFail 2 = true ∧ (starting 2).eng.mayFail 1 = false ∧
    (∀ c, (starting 6).eng.mayFail c = false) ∧ (starting 6).eng.svc.power.dormant = true ∧ (starting 6).eng.allVisited = true ∧
    (st { (starting 6).eng with svc := { start := { phase := 6 }, power := { dormant := false } } }).eng.svc.power.dormant = false ∧
    (starting 8).eng.storeEntry ≠ none ∧ (st { (starting 8).eng with memMap := [] }).eng.storeEntry = none := by decide +kernel

theorem test_coldStart_phases : (after .aoResetLRise State.reset).eng.svc.start.phase = 1 ∧
    (after (.coldStartPhaseEnd .done) (starting 5 { aoResetL := true, devNum := 77 })).eng.device = 77 ∧
    (after (.coldStartPhaseEnd .done) (starting 5 { aoResetL := true, engMhz := 1599 })).eng.svc.start.phase = 5 ∧
    (after (.coldStartPhaseEnd (.supply true true 9)) (starting 5 { aoResetL := true, corePg := false })).eng.device = 9 ∧
    (after (.coldStartPhaseEnd .done) (starting 8)).eng.svc.start.ready = true := by decide +kernel

theorem test_supplyCheck_causes :
    let r := fun (p : Pins) => (after .supplyCheckTimeout (starting 5 p)).eng.svc.start.cause
    r { aoResetL := true, engMhz := 1851, devNumValid := false } = 5 ∧ r { aoResetL := true, corePg := false } = 6 ∧
    r { aoResetL := true, devNumValid := false } = 7 := by decide +kernel

/-! ### Sorted queues -/

theorem crowded_byAge : crowded.byAge = regions := List.mergeSort_of_pairwise (by decide +kernel)

theorem test_rotation_premises : crowded.frozen = false ∧ crowded.admitQueue = [3] ∧ (crowded.regionDom 3).wantSince = some 5 ∧
    (5 + BitVec.ofNat 64 (1000 * max 1 crowded.svc.power.rotateUs.toNat)).toNat ≤ crowded.now.toNat := by
  refine ⟨by decide +kernel, ?_, by decide +kernel, by decide +kernel⟩
  exact (List.mergeSort_of_pairwise (by decide +kernel)).trans (by decide +kernel)

/-- The serving of the queue changes nothing, and region 0 is the one that turns. -/
theorem test_rotation_victim : crowded.serveQueue 4 = crowded ∧
    (crowded.byAge.filter fun x => x ≠ 3 && decide ((crowded.regionDom x).st = .active) && (crowded.regionDom x).wakeDue.isNone
      && decide (crowded.floorOf (.region x) < 2)).head? = some 0 := by
  refine ⟨?_, by rw [crowded_byAge]; decide +kernel⟩
  have hq := test_rotation_premises.2.1
  have hf := test_rotation_premises.1
  have ha : crowded.admits 3 = false := by decide +kernel
  unfold Eng.serveQueue
  simp only [hf, hq, ha, crowded_byAge]
  have hl : (Eng.lowerUntil (fun x => x.admits 3) (regions.filter fun x => !decide (x = 3)) crowded).admits 3 = false := by decide +kernel
  have hl' := Bool.eq_false_iff.mp hl
  simp
  exact fun h => absurd h hl'

theorem contended_waitersOf : (contended holder).eng.waitersOf holder 2 = [waiter] := by
  unfold Eng.waitersOf inOrder
  rw [test_quantum_premises.2.2.2.2.2.1, List.mergeSort_singleton]

/-- The draw of a quantum's end among the holder and its one waiter, by the state of the walker queue's LFSR. -/
def drawn (seed : BitVec 32) (s : State) : Eng := { s.eng with wlk := { s.eng.wlk with queue := List.replicate 4 { lfsr := seed } } }

theorem test_quantum_competitors : inOrder (holder :: (contended holder).eng.waitersOf holder 2) = [holder, waiter] := by
  rw [contended_waitersOf]
  exact List.mergeSort_of_pairwise (by decide +kernel)

/-- The holder, its waiter, or an overdue target wins. -/
theorem test_quantum_winners : ((drawn 0xFFFFFFFF (contended holder)).drawFor 3 2 [holder, waiter] []).1 = some (.job holder) ∧
    ((drawn 1 (contended holder)).drawFor 3 2 [holder, waiter] []).1 = some (.job waiter) ∧ holder.lead = 3 ∧
    ((drawn 1 overdue).drawFor 3 2 [holder, waiter] [82]).1 = some (.test 82) := by decide +kernel

/-! ### Adoption -/

/-- A journal region of 4,096 records at page 1. -/
def adopting : Jrn := { state := .adopting, busy := true, base := 1, sizeLog2 := 12 }

/-- Its host memory: one ATTACH record at position 0. -/
def oneAttach (ident : BitVec 32) : HostBytes := hostOf 4096 (attachRec 0 ident 0).bytes

theorem attach_readRegion (ident : BitVec 32) : adopting.readRegion (oneAttach ident) = [attachRec 0 ident 0] := by
  have h1 : hostBytesAt (oneAttach ident) 4096 32 = (attachRec 0 ident 0).bytes := by
    have := hostBytesAt_hostOf 4096 (attachRec 0 ident 0).bytes
    rwa [JRec.bytes_length] at this
  have h2 : ((((oneAttach ident).map (·.1)).filter fun a => decide (4096 ≤ a) && decide (a < 4096 + 32 * 4096)).map
      fun a => (a - 4096) / 32).dedup = [0] := by
    have hz : (oneAttach ident).map (·.1) = (List.range 32).map (4096 + ·) := by
      have hl : (attachRec 0 ident 0).bytes.length = 32 := JRec.bytes_length _
      apply List.ext_getElem
      · simp [oneAttach, hostOf]
      · intro i a b
        simp [oneAttach, hostOf]
    rw [hz]
    decide +kernel
  show (List.filterMap _ _) = _
  have e : adopting.base.toNat * 4096 = 4096 := by decide
  have e' : adopting.size = 4096 := by decide
  have e'' : adopting.sizeLog2.toNat = 12 := by decide
  simp only [e, e', e'', h2]
  have := readRec_bytes (attachRec 0 ident 0) 12 (by show 0 < 2 ^ 64; decide)
  simp only [List.filterMap_cons, List.filterMap_nil, Nat.mul_zero, Nat.add_zero, h1]
  have hq : (attachRec 0 ident 0).jseq % 2 ^ 12 = 0 := rfl
  rw [hq] at this
  rw [this]

/-- ADOPT of this region finds an ATTACH record, of this device's identity or of another's; and an empty region none. -/
theorem test_adopt_premises : (st { up with jrn := adopting }).eng.hostUp = true ∧
    newestOf .attach (adopting.readRegion []) = none ∧
    (∀ ident, newestOf .attach (adopting.readRegion (oneAttach ident)) = some (attachRec 0 ident 0)) ∧
    (∀ ident, (attachRec 0 ident 0).word1.extractLsb' 32 32 = ident) ∧ ownIdent + 1 ≠ ownIdent := by
  refine ⟨by decide +kernel, by decide +kernel, fun ident => by rw [attach_readRegion]; rfl, fun ident => ?_, ?_⟩
  · show ((ident ++ (0 : BitVec 20)) ++ (0 : BitVec 12)).extractLsb' 32 32 = ident
    ext i hi
    simp only [BitVec.getElem_extractLsb', BitVec.getLsbD_append]
    have h1 : ¬ 32 + i < 12 := by omega
    have h2 : ¬ 32 + i - 12 < 20 := by omega
    have h3 : 32 + i - 12 - 20 = i := by omega
    simp [h1, h2, h3, BitVec.getLsbD_eq_getElem hi]
  · bv_omega

end Sys2Proof.Tests
end

section
/-! How a command acts on a state whose AO_RESET_L is high (R452), and where a register access acts at once (R346, R467). -/

namespace Sys2Proof.Machine

theorem onEng_live {s : State} (h : s.Live) (f : Memory → Eng → Eng) :
    onEng s f = .next { s with eng := f s.mem s.eng } := by
  simp [onEng, h]

theorem onEng_eq {s : State} (h : s.Live) {f : Memory → Eng → Eng} {e : Eng} (he : f s.mem s.eng = e) :
    onEng s f = .next { s with eng := e } := by
  rw [onEng_live h, he]

theorem onMem_live {s : State} (h : s.Live) (f : Memory → Eng → Eff) :
    onMem s f = .next { s with eng := (f s.mem s.eng).eng, mem := applyOps s.mem (f s.mem s.eng).ops } := by
  simp [onMem, h]

/-- A command that leaves the engine as it is leaves the state, whatever AO_RESET_L is. -/
theorem onEng_id (s : State) {f : Memory → Eng → Eng} (h : f s.mem s.eng = s.eng) : onEng s f = .next s := by
  simp [onEng, h]

/-- In the AO domain an access acts at once. -/
theorem Eng.access_ao (e : Eng) (m : Memory) {sub : BitVec 4} (h : aoPage sub = true) (f : Eng → Eng) :
    e.access m sub f = f e := by
  simp [Eng.access, Eng.answers, Eng.reach, h]

/-- Where every page answers, an access acts at once. -/
theorem State.Answers.access {s : State} (h : s.Answers) (m : Memory) (sub : BitVec 4) (f : Eng → Eng) :
    s.eng.access m sub f = f s.eng := by
  obtain ⟨-, hr, hf, hd⟩ := h
  simp [Eng.access, Eng.answers, Eng.reach, Eng.ended, hr, hf, hd]

/-! ### Fields of a register after a write (R7) -/

/-- What a write leaves in the field of `n` bits from bit `lo` on, for a field that lies in one half or a write of both. -/
def fieldOf {n : Nat} (h : Half) (v : Word) (lo : Nat) (old : BitVec n) : BitVec n :=
  if (h = .low ∧ 32 ≤ lo) ∨ (h = .high ∧ lo + n ≤ 32) then old else v.extractLsb' lo n

theorem toNat_pack_single (lo old : Nat) : (pack [(lo, old)]).toNat = old * 2 ^ lo % 2 ^ 64 := by
  simp [pack]

theorem ofNat_fld (v : Word) (lo n : Nat) (hn : 0 < n) : BitVec.ofNat n (fld v (lo + n - 1) lo) = v.extractLsb' lo n := by
  apply BitVec.eq_of_toNat_eq
  rw [BitVec.toNat_ofNat, BitVec.extractLsb'_toNat, fld, show lo + n - 1 + 1 - lo = n by omega, Nat.mod_mod, Nat.shiftRight_eq_div_pow]

theorem extractLsb'_pack {n : Nat} (lo : Nat) (h : lo + n ≤ 64) (old : BitVec n) :
    (pack [(lo, old.toNat)]).extractLsb' lo n = old := by
  apply BitVec.eq_of_toNat_eq
  have hlt : old.toNat * 2 ^ lo < 2 ^ 64 := calc
    old.toNat * 2 ^ lo < 2 ^ n * 2 ^ lo := Nat.mul_lt_mul_of_pos_right old.isLt (Nat.two_pow_pos lo)
    _ = 2 ^ (n + lo) := (Nat.pow_add 2 n lo).symm
    _ ≤ 2 ^ 64 := Nat.pow_le_pow_right (by decide) (by omega)
  rw [BitVec.extractLsb'_toNat, toNat_pack_single, Nat.mod_eq_of_lt hlt, Nat.shiftRight_eq_div_pow,
    Nat.mul_div_cancel _ (Nat.two_pow_pos lo), Nat.mod_eq_of_lt old.isLt]

/-- The bits of the mask that keeps the low half. -/
theorem getLsbD_lowMask (i : Nat) : (0xFFFFFFFF : Word).getLsbD i = decide (i < 32) := by
  have : (0xFFFFFFFF : Word) = (BitVec.allOnes 32).setWidth 64 := by decide
  rw [this, BitVec.getLsbD_setWidth, BitVec.getLsbD_allOnes]
  by_cases h : i < 32 <;> simp [h]; omega

/-- The bits of the mask that keeps the high half. -/
theorem getLsbD_highMask (i : Nat) : (0xFFFFFFFF00000000 : Word).getLsbD i = (decide (32 ≤ i) && decide (i < 64)) := by
  have : (0xFFFFFFFF00000000 : Word) = ~~~ (0xFFFFFFFF : Word) := by decide
  rw [this, BitVec.getLsbD_not, getLsbD_lowMask]
  by_cases h : i < 32
  · simp [h, Nat.not_le_of_lt h]
  · simp [h, Nat.le_of_not_lt h]

/-- Two halves put together: the low one of `v`, the high one of `m`. -/
theorem getLsbD_halves (m v : Word) (i : Nat) (hi : i < 64) :
    ((m &&& 0xFFFFFFFF00000000) ||| (v &&& 0xFFFFFFFF)).getLsbD i = if i < 32 then v.getLsbD i else m.getLsbD i := by
  rw [BitVec.getLsbD_or, BitVec.getLsbD_and, BitVec.getLsbD_and, getLsbD_lowMask, getLsbD_highMask]
  by_cases h : i < 32
  · simp [h, Nat.not_le_of_lt h]
  · simp [h, Nat.le_of_not_lt h, hi]

theorem extractLsb'_congr {x y : Word} {lo n : Nat} (h : ∀ i, lo ≤ i → i < lo + n → x.getLsbD i = y.getLsbD i) :
    x.extractLsb' lo n = y.extractLsb' lo n := by
  ext i hi
  simpa using h (lo + i) (by omega) (by omega)

/-- A field is the written value where the write addresses its half, and else what it was. -/
theorem ofNat_wrField {n : Nat} (h : Half) (v : Word) (hi lo : Nat) (old : BitVec n) (hn : 0 < n) (hhi : hi = lo + n - 1)
    (h64 : lo + n ≤ 64) (one : h = .both ∨ lo + n ≤ 32 ∨ 32 ≤ lo) :
    BitVec.ofNat n (wrField h v hi lo old.toNat) = fieldOf h v lo old := by
  subst hhi
  have same : (pack [(lo, old.toNat)]).extractLsb' lo n = old := extractLsb'_pack lo h64 old
  unfold wrField fieldOf
  rw [ofNat_fld _ _ _ hn]
  cases h with
  | both => simp
  | low =>
    rcases one with h | h | h
    · cases h
    · rw [if_neg (by simp; omega)]
      refine extractLsb'_congr fun i _ _ => ?_
      rw [getLsbD_halves _ _ i (by omega), if_pos (by omega)]
    · rw [if_pos (.inl ⟨rfl, h⟩)]
      refine (extractLsb'_congr fun i _ _ => ?_).trans same
      rw [getLsbD_halves _ _ i (by omega), if_neg (by omega)]
  | high =>
    dsimp only
    rw [BitVec.or_comm]
    rcases one with h | h | h
    · cases h
    · rw [if_pos (.inr ⟨rfl, h⟩)]
      refine (extractLsb'_congr fun i _ _ => ?_).trans same
      rw [getLsbD_halves _ _ i (by omega), if_pos (by omega)]
    · rw [if_neg (by simp; omega)]
      refine extractLsb'_congr fun i _ _ => ?_
      rw [getLsbD_halves _ _ i (by omega), if_neg (by omega)]

/-- A bit after a write. -/
theorem wrBit_eq (h : Half) (v : Word) (i : Nat) (old : Bool) :
    wrBit h v i old = if (h = .low ∧ 32 ≤ i) ∨ (h = .high ∧ i < 32) then old else v.getLsbD i := by
  unfold wrBit bitOf
  by_cases hi : i < 32
  · cases h <;> simp [halfCovers, hi, Nat.not_le_of_lt hi]
  · cases h <;> simp [halfCovers, hi, Nat.le_of_not_lt hi]

end Sys2Proof.Machine
end

section
/-! WLK_VC_INV (R84). -/

namespace Sys2Proof.Machine

/-- The fields of WLK_VC_INV after a write of some halves. -/
def VcInv.written (i : VcInv) (w : RegWrite) : VcInv :=
  { i with paddock := fieldOf w.half w.value 36 i.paddock, view := fieldOf w.half w.value 0 i.view }

/-- A write of WLK_VC_INV with an OP loads the fields; where BUSY is 0 and OP's half is written, it also starts a removal. -/
theorem vcInv_answers {s : State} (ha : s.Answers) (m : Memory) (w : RegWrite) (op : BitVec 2) :
    s.eng.vcInv m w op =
      let i := s.eng.wlk.inv.written w
      let j : VcInv := { i with busy := true, op := op, ofPaddock := i.paddock, ofView := i.view }
      if i.busy || !halfCovers w.half 56 then { s.eng with wlk := { s.eng.wlk with inv := i } }
      else ({ s.eng with wlk := { s.eng.wlk with inv := j } } : Eng).dropViews j.hits := by
  have hp := ofNat_wrField w.half w.value 47 36 s.eng.wlk.inv.paddock (by decide) (by decide) (by decide) (.inr (.inr (by decide)))
  have hv := ofNat_wrField w.half w.value 23 0 s.eng.wlk.inv.view (by decide) (by decide) (by decide) (.inr (.inl (by decide)))
  unfold Eng.vcInv
  rw [ha.access]
  simp only [hp, hv]
  rfl

/-- What a removal of each OP matches. -/
theorem hits_one (i : VcInv) (h : i.op = 1) : i.hits = fun x => decide (x.paddock = i.ofPaddock ∧ x.view = i.ofView) := by
  funext x
  simp [VcInv.hits, h]

theorem hits_paddock (i : VcInv) (h : i.op = 2) : i.hits = fun x => decide (x.paddock = i.ofPaddock) := by
  funext x
  simp [VcInv.hits, h]

theorem hits_every (i : VcInv) (h : i.op = 3) : i.hits = fun _ => true := by
  funext x
  simp [VcInv.hits, h]

/-- Once records are removed, none that is cached matches. -/
theorem dropViews_clear (e : Eng) (p : VcEntry → Bool) : ∀ c ∈ (e.dropViews p).wlk.cache, ∀ x ∈ c, p x = false := by
  intro c hc x hx
  obtain ⟨d, -, rfl⟩ := List.mem_map.mp hc
  simpa using (List.mem_filter.mp hx).2

/-- Settles O40 (R84): the entries go at the write of OP, and once more at VC_INV_DONE (log 37). -/
theorem viewRecordsAreInvalidated : Obligations.ViewRecordsAreInvalidated := by
  intro s w ha i p v started
  have hl : s.Live := ha.1
  have hw : i.written w = { i with paddock := p, view := v } := by
    simp only [VcInv.written, fieldOf, p, v]
    cases w.half <;> simp
  refine ⟨fun hb hh => ?_, fun hor c hc => ?_, fun hb => ?_⟩
  · have hc : halfCovers w.half 56 = true := by
      cases h : w.half with
      | low => exact absurd h hh
      | high => rfl
      | both => rfl
    have starts (op : BitVec 2) : onEng s (fun m e => e.vcInv m w op) =
        started op (VcInv.hits { i with paddock := p, view := v, busy := true, op := op, ofPaddock := p, ofView := v }) := by
      have hn : ¬ (i.busy || !halfCovers w.half 56) = true := by simp [i, hb, hc]
      refine onEng_eq hl ((vcInv_answers ha _ w op).trans ?_)
      rw [hw]
      exact if_neg hn
    refine ⟨(starts 1).trans ?_, (starts 2).trans ?_, (starts 3).trans ?_⟩
    · rw [hits_one _ rfl]
    · rw [hits_paddock _ rfl]
    · rw [hits_every _ rfl]
  · have loads (op : BitVec 2) : onEng s (fun m e => e.vcInv m w op) =
        .next { s with eng := { s.eng with wlk := { s.eng.wlk with inv := { i with paddock := p, view := v } } } } := by
      have hy : (i.busy || !halfCovers w.half 56) = true := by rcases hor with h | h <;> simp [i, h, halfCovers]
      refine onEng_eq hl ((vcInv_answers ha _ w op).trans ?_)
      rw [hw]
      exact if_pos hy
    simp only [List.mem_cons, List.not_mem_nil, or_false] at hc
    rcases hc with rfl | rfl | rfl <;> exact loads _
  · exact ⟨_, (onEng_eq hl (if_pos hb) : execVcInvDone s = _), rfl, dropViews_clear _ i.hits, rfl, rfl⟩

end Sys2Proof.Machine
end

section
/-! REGISTER_WRITE: the row that a write of a register is, and what a write of a register without a row changes (R7, R466 to R468). -/

namespace Sys2Proof.Machine

/-! ### A write finds its row -/

/-- A 64-bit write at an offset, or a 32-bit write of one of its halves. -/
def writeAt (off : BitVec 21) (v : Word) : Half → Instr
  | .both => .registerWrite off .w64 v
  | .low => .registerWrite off .w32 v
  | .high => .registerWrite (off + 4) .w32 v

/-- What such a write carries: the 32 bits of a high half in their place. -/
def carried (v : Word) (h : Half) : RegWrite := ⟨h, if h = .high then v <<< 32 else v⟩

/-- What a write of the register at `reg` does. -/
def regWritten (reg : BitVec 21) (w : RegWrite) (s : State) : Answer :=
  match rowOf reg.toNat w with
  | some row => row s
  | none => onEng s fun m e => e.access m (pageOf reg) fun e =>
      if reg.getLsbD 20 then e else e.plainWrite m (pageOf reg) (reg.toNat % 0x10000) w

theorem execRegisterWrite_eq {off reg : BitVec 21} {size : AccSize} {h : Half} (ha : accessHalf off size = some (reg, h)) (v : Word)
    (s : State) : execRegisterWrite off size v s = regWritten reg (carried v h) s := by
  unfold execRegisterWrite
  rw [ha]
  rfl

/-- An aligned write addresses its register. -/
theorem exec_writeAt (off : BitVec 21) (h8 : off.toNat % 8 = 0) (v : Word) (h : Half) (s : State) :
    exec (writeAt off v h) s = regWritten off (carried v h) s := by
  cases h with
  | both => exact execRegisterWrite_eq (by simp [accessHalf, h8]) v s
  | low => exact execRegisterWrite_eq (by simp [accessHalf, h8]) v s
  | high =>
    have h4 : (off + 4).toNat % 8 = 4 := by
      have := off.isLt
      rw [BitVec.toNat_add, show (4 : BitVec 21).toNat = 4 from rfl]
      omega
    refine execRegisterWrite_eq ?_ v s
    simp only [accessHalf, h4]
    simp

theorem exec_writeAt_row {off : BitVec 21} {i : RegWrite → Instr} (v : Word) (s : State) (h8 : off.toNat % 8 = 0)
    (hr : ∀ w, rowOf off.toNat w = some (exec (i w))) (h : Half) : exec (writeAt off v h) s = exec (i (carried v h)) s := by
  rw [exec_writeAt off h8, regWritten, hr]

/-- A register without a row, whose page answers, takes the write itself. -/
theorem exec_writeAt_plain {s : State} (hs : s.Answers) {off : BitVec 21} (v : Word) {h : Half} {e : Eng} (h8 : off.toNat % 8 = 0)
    (hr : rowOf off.toNat (carried v h) = none) (h20 : off.getLsbD 20 = false)
    (he : s.eng.plainWrite s.mem (pageOf off) (off.toNat % 0x10000) (carried v h) = e) :
    exec (writeAt off v h) s = .next { s with eng := e } := by
  rw [exec_writeAt off h8, regWritten, hr]
  refine onEng_eq hs.1 ?_
  rw [hs.access, h20]
  exact he

/-- An access that addresses no register leaves the state. -/
theorem execRegisterWrite_none {off : BitVec 21} {size : AccSize} (ha : accessHalf off size = none) (v : Word) (s : State) :
    execRegisterWrite off size v s = .next s := by
  unfold execRegisterWrite
  rw [ha]
  exact onEng_id s rfl

/-! ### Fields -/

theorem wr_eq {n : Nat} (w : RegWrite) (lo : Nat) (old : BitVec n) (h : 0 < n ∧ lo + n ≤ 64 ∧ (lo + n ≤ 32 ∨ 32 ≤ lo)) :
    wr w lo old = fieldOf w.half w.value lo old :=
  ofNat_wrField w.half w.value _ lo old h.1 rfl h.2.1 (.inr h.2.2)

theorem wr_both {n : Nat} (v : Word) (lo : Nat) (old : BitVec n) (h : 0 < n ∧ lo + n ≤ 64) :
    wr ⟨.both, v⟩ lo old = v.extractLsb' lo n :=
  (ofNat_wrField .both v _ lo old h.1 rfl h.2 (.inl rfl)).trans (by simp [fieldOf])

/-- A bit after a write. -/
def bitAfter (h : Half) (v : Word) (i : Nat) (old : Bool) : Bool :=
  if (h = .low ∧ 32 ≤ i) ∨ (h = .high ∧ i < 32) then old else v.getLsbD i

theorem wr1_eq (w : RegWrite) (i : Nat) (old : Bool) : wr1 w i old = bitAfter w.half w.value i old := wrBit_eq _ _ _ _

/-- A W1C bit that a write sets. -/
theorem w1_bit (w : RegWrite) (i : Nat) (hi : i < 64) : (w1 w 1 i).getLsbD 0 = bitAfter w.half w.value i false := by
  unfold w1 bitAfter
  rw [wr_eq w i _ (by omega), fieldOf]
  have : i + 1 ≤ 32 ↔ i < 32 := by omega
  simp only [this]
  split <;> simp

/-- PARENT_DEV lies across both halves: each half of a write changes its own part (R264). -/
theorem wr_parentDev_low (v : Word) (old : DevNum) : wr ⟨.low, v⟩ 28 old = old.extractLsb' 4 8 ++ v.extractLsb' 28 4 := by
  have hp (i : Nat) (hi : i < 12) : (pack [(28, old.toNat)]).getLsbD (28 + i) = old.getLsbD i := by
    have := congrArg (fun x => x.getLsbD i) (extractLsb'_pack 28 (by decide) old)
    simpa [hi] using this
  unfold wr wrField
  rw [ofNat_fld _ 28 12 (by decide)]
  ext i hi
  rw [BitVec.getElem_extractLsb', getLsbD_halves _ _ _ (by omega), BitVec.getElem_append]
  by_cases h : i < 4
  · simp [h, show 28 + i < 32 by omega]
  · rw [if_neg (by omega), hp i hi, dif_neg h]
    simp [show 4 + (i - 4) = i by omega]

theorem wr_parentDev_high (v : Word) (old : DevNum) : wr ⟨.high, v <<< 32⟩ 28 old = v.extractLsb' 0 8 ++ old.extractLsb' 0 4 := by
  have hp (i : Nat) (hi : i < 12) : (pack [(28, old.toNat)]).getLsbD (28 + i) = old.getLsbD i := by
    have := congrArg (fun x => x.getLsbD i) (extractLsb'_pack 28 (by decide) old)
    simpa [hi] using this
  unfold wr wrField
  rw [ofNat_fld _ 28 12 (by decide)]
  ext i hi
  dsimp only
  rw [BitVec.getElem_extractLsb', BitVec.or_comm, getLsbD_halves _ _ _ (by omega), BitVec.getElem_append]
  by_cases h : i < 4
  · rw [if_pos (by omega), hp i hi, dif_pos h]
    simp
  · rw [if_neg (by omega), dif_neg h]
    simp [show 28 + i < 64 by omega, show ¬ 28 + i < 32 by omega, show 28 + i - 32 = i - 4 by omega]
    exact (BitVec.getLsbD_eq_getElem (by omega)).symm

theorem wr_parentDev_both (v : Word) (old : DevNum) : wr ⟨.both, v⟩ 28 old = v.extractLsb' 28 12 := wr_both v 28 old (by decide)

/-! ### What the writes of single registers change -/

theorem atgWrite_sel (e : Eng) (w : RegWrite) : e.atgWrite 0 w =
    if e.atg.cmdBusy = .idle then { e with atg := { e.atg with sel := fieldOf w.half w.value 0 e.atg.sel } } else e := by
  rw [← wr_eq w 0 _ (by decide)]
  rfl

theorem npiWrite_sel (e : Eng) (w : RegWrite) : e.npiWrite 0 w =
    { e with npi := { e.npi with sel := fieldOf w.half w.value 0 e.npi.sel } } := by
  rw [← wr_eq w 0 _ (by decide)]
  rfl

theorem synWrite_foldSel (e : Eng) (w : RegWrite) : e.synWrite 0x18 w =
    { e with syn := { e.syn with foldSel := fieldOf w.half w.value 0 e.syn.foldSel } } := by
  rw [← wr_eq w 0 _ (by decide)]
  rfl

theorem svcWrite_fuseSel (e : Eng) (m : Memory) (w : RegWrite) : e.svcWrite m 0xA8 w =
    { e with svc := { e.svc with fuseSel := fieldOf w.half w.value 0 e.svc.fuseSel } } := by
  rw [← wr_eq w 0 _ (by decide)]
  rfl

theorem svcWrite_arbNotify (e : Eng) (m : Memory) (w : RegWrite) : e.svcWrite m 0x28 w =
    { e with svc := { e.svc with
      arbEn := bitAfter w.half w.value 16 e.svc.arbEn, arbVector := fieldOf w.half w.value 0 e.svc.arbVector } } := by
  rw [← wr_eq w 0 _ (by decide), ← wr1_eq]
  rfl

theorem svcWrite_bistCtl (e : Eng) (m : Memory) (w : RegWrite) : e.svcWrite m 0xA0 w =
    { e with svc := { e.svc with
      bistEn := bitAfter w.half w.value 63 e.svc.bistEn, bistMask := fieldOf w.half w.value 40 e.svc.bistMask
      bistTickets := fieldOf w.half w.value 32 e.svc.bistTickets, bistVisit := fieldOf w.half w.value 16 e.svc.bistVisit
      bistInterval := fieldOf w.half w.value 0 e.svc.bistInterval } } := by
  rw [← wr_eq w 40 _ (by decide), ← wr_eq w 32 _ (by decide), ← wr_eq w 16 _ (by decide), ← wr_eq w 0 _ (by decide), ← wr1_eq]
  rfl

/-- The fields of an SVC_ARB_CFG after a write. -/
theorem arbCfg_regWrite (c : ArbCfg) (w : RegWrite) : c.regWrite w =
    { remote := fieldOf w.half w.value 48 c.remote, svc := fieldOf w.half w.value 40 c.svc
      cutoff := fieldOf w.half w.value 32 c.cutoff, starve := fieldOf w.half w.value 12 c.starve
      quantum := fieldOf w.half w.value 0 c.quantum } := by
  rw [← wr_eq w 48 _ (by decide), ← wr_eq w 40 _ (by decide), ← wr_eq w 32 _ (by decide), ← wr_eq w 12 _ (by decide),
    ← wr_eq w 0 _ (by decide)]
  rfl

theorem svcWrite_arbCfg (e : Eng) (m : Memory) (w : RegWrite) (l : Fin 4) : e.svcWrite m (0x40 + 8 * l) w =
    { e with svc := { e.svc with arb := setRow {} 4 e.svc.arb l ((e.svc.arb.getD l {}).regWrite w) } } := by
  fin_cases l <;> rfl

theorem pdk_regWrite_ctl (p : Paddock) (w : RegWrite) : p.regWrite 0x10 w =
    { p with enable := if p.scrubbing then p.enable else bitAfter w.half w.value 63 p.enable
             dieMask := fieldOf w.half w.value 32 p.dieMask } := by
  rw [← wr_eq w 32 _ (by decide), ← wr1_eq]
  rfl

theorem pdk_regWrite_wkey (p : Paddock) (w : RegWrite) : p.regWrite 0x38 w =
    if p.enable = false ∧ p.wkeyState = .empty then
      { p with slot := fieldOf w.half w.value 8 p.slot, policy := fieldOf w.half w.value 0 p.policy } else p := by
  rw [← wr_eq w 8 _ (by decide), ← wr_eq w 0 _ (by decide)]
  by_cases h : p.enable = false ∧ p.wkeyState = .empty
  · rw [if_pos h]
    exact if_pos (by simpa using h)
  · rw [if_neg h]
    exact if_neg (by simpa using h)

theorem pdk_regWrite_vt (p : Paddock) (v : Word) : p.regWrite 0 ⟨.both, v⟩ =
    { p with vtBase := v.extractLsb' 12 52, vtLog2 := v.extractLsb' 0 5 } := by
  rw [← wr_both v 12 p.vtBase (by decide), ← wr_both v 0 p.vtLog2 (by decide)]
  rfl

theorem pdk_regWrite_pt (p : Paddock) (v : Word) : p.regWrite 8 ⟨.both, v⟩ =
    { p with ptRoot := v.extractLsb' 12 52, l1Log2 := v.extractLsb' 0 5 } := by
  rw [← wr_both v 12 p.ptRoot (by decide), ← wr_both v 0 p.l1Log2 (by decide)]
  rfl

theorem ctx_regWrite_ctl (x : Ctx) (w : RegWrite) : x.regWrite 0 w =
    { x with tickets := fieldOf w.half w.value 8 x.tickets, dieDb := bitAfter w.half w.value 4 x.dieDb
             paddock := if x.state = .disabled then fieldOf w.half w.value 40 x.paddock else x.paddock
             operator := if x.state = .disabled then bitAfter w.half w.value 5 x.operator else x.operator } := by
  rw [← wr_eq w 8 _ (by decide), ← wr_eq w 40 _ (by decide), ← wr1_eq, ← wr1_eq]
  by_cases h : x.state = .disabled <;> simp [Ctx.regWrite, h]

theorem ctx_regWrite_size (x : Ctx) (w : RegWrite) : x.regWrite 0x18 w =
    { x with retryBudget := fieldOf w.half w.value 48 x.retryBudget, notify := bitAfter w.half w.value 16 x.notify
             vector := fieldOf w.half w.value 0 x.vector
             sqLog2 := if x.state = .disabled then fieldOf w.half w.value 40 x.sqLog2 else x.sqLog2
             cqLog2 := if x.state = .disabled then fieldOf w.half w.value 32 x.cqLog2 else x.cqLog2 } := by
  rw [← wr_eq w 48 _ (by decide), ← wr_eq w 40 _ (by decide), ← wr_eq w 32 _ (by decide), ← wr_eq w 0 _ (by decide), ← wr1_eq]
  by_cases h : x.state = .disabled <;> simp [Ctx.regWrite, h]

theorem fltWrite_lost (e : Eng) (w : RegWrite) : e.fltWrite 0x50 w =
    { e with flt := { e.flt with lost := if fieldOf w.half w.value 32 (0 : BitVec 32) = 0 then e.flt.lost else 0 } } := by
  rw [← wr_eq w 32 _ (by decide)]
  by_cases h : wr w 32 (0 : BitVec 32) = 0
  · rw [if_pos h]
    exact if_neg (not_not_intro h)
  · rw [if_neg h]
    exact if_pos h

theorem fltWrite_wdog (e : Eng) (w : RegWrite) : e.fltWrite 0x18 w =
    if e.flt.mode = 0 ∨ e.flt.mode = 2 then { e with flt := { e.flt with wdogPeriod := fieldOf w.half w.value 0 e.flt.wdogPeriod } }
    else e := by
  rw [← wr_eq w 0 _ (by decide)]
  by_cases h : e.flt.mode = 0 ∨ e.flt.mode = 2
  · rw [if_pos h]
    exact if_pos (by simpa using h)
  · rw [if_neg h]
    exact if_neg (by simpa using h)

theorem fltWrite_severity (e : Eng) (v : Word) (i : Fin 28) : e.fltWrite (0x100 + 8 * i) ⟨.both, v⟩ =
    { e with flt := { e.flt with severity := e.flt.severity.modify i fun _ => v } } := by
  have hv (u : Word) : wr ⟨.both, v⟩ 0 u = v := (wr_both v 0 u (by decide)).trans (by simp)
  have he : e.fltWrite (0x100 + 8 * i) ⟨.both, v⟩ =
      { e with flt := { e.flt with severity := e.flt.severity.modify i fun u => wr ⟨.both, v⟩ 0 u } } := by
    fin_cases i <;> rfl
  simp only [he, hv]

theorem svcWrite_arbStat (e : Eng) (m : Memory) (w : RegWrite) : e.svcWrite m 0x20 w =
    { e with svc := { e.svc with
      arbCut := e.svc.arbCut &&& ~~~ fieldOf w.half w.value 8 (0 : BitVec 4)
      arbStarved := e.svc.arbStarved &&& ~~~ fieldOf w.half w.value 0 (0 : BitVec 4) } } := by
  rw [← wr_eq w 8 _ (by decide), ← wr_eq w 0 _ (by decide)]
  rfl

theorem svcWrite_podStat (e : Eng) (m : Memory) (w : RegWrite) : e.svcWrite m 0xC8 w =
    e.modPod fun p => { p with
      rival := p.rival && !bitAfter w.half w.value 60 false, changed := p.changed && !bitAfter w.half w.value 59 false } := by
  rw [← w1_bit w 60 (by decide), ← w1_bit w 59 (by decide)]
  rfl

/-- What a write of SYN_FOLD_LINK makes PARENT_DEV. -/
def parentDevAfter (h : Half) (v : Word) (old : DevNum) : DevNum :=
  match h with
  | .both => v.extractLsb' 28 12
  | .low => old.extractLsb' 4 8 ++ v.extractLsb' 28 4
  | .high => v.extractLsb' 0 8 ++ old.extractLsb' 0 4

theorem wr_parentDev (v : Word) (h : Half) (old : DevNum) : wr (carried v h) 28 old = parentDevAfter h v old := by
  cases h
  · exact wr_parentDev_both v old
  · exact wr_parentDev_low v old
  · exact wr_parentDev_high v old

theorem synWrite_link (e : Eng) (v : Word) (h : Half) : e.synWrite 0x28 (carried v h) =
    if (e.fold e.syn.foldSel).enable then e
    else e.setFold e.syn.foldSel { e.fold e.syn.foldSel with
      parentDev := parentDevAfter h v (e.fold e.syn.foldSel).parentDev
      parentFold := fieldOf h (carried v h).value 0 (e.fold e.syn.foldSel).parentFold } := by
  have hf (old : BitVec 16) : fieldOf h (carried v h).value 0 old = wr (carried v h) 0 old := (wr_eq (carried v h) 0 old (by decide)).symm
  rw [← wr_parentDev, hf]
  rfl

end Sys2Proof.Machine
end

section
/-! REGISTER_WRITE finds its row. -/

namespace Sys2Proof.Machine

/-- A table entry written with what it reads leaves the table, where that has its canonical form. -/
theorem mapSet_mapGet_self {α : Type} [DecidableEq α] (d : α) (m : SMap α) (k : Nat) (w : MapWf d m) :
    mapSet d m k (mapGet d m k) = m := by
  induction m with
  | nil => simp [mapSet]
  | cons p m ih =>
    obtain ⟨k', x⟩ := p
    have hx : x ≠ d := w.2 (k', x) (by simp)
    have wp := List.pairwise_cons.mp w.1
    have wm : MapWf d m := ⟨wp.2, fun q hq => w.2 q (List.mem_cons_of_mem _ hq)⟩
    rcases Nat.lt_trichotomy k k' with h | h | h
    · have hne : k' ≠ k := by omega
      have hd : mapGet d m k = d := mapGet_of_lt d m k fun q hq => Nat.lt_trans h (wp.1 q hq)
      simp [mapSet, mapGet, h, hne, hd]
    · subst h
      simp [mapSet, mapGet, hx]
    · have h1 : ¬ k < k' := by omega
      have hne : k' ≠ k := by omega
      simp [mapSet, mapGet, h1, hne, ih wm]

theorem modCtx_id {e : Eng} (w : MapWf {} e.ctxs) {c : CtxNum} {f : Ctx → Ctx} (h : f (e.ctx c) = e.ctx c) : e.modCtx c f = e := by
  have hs : mapSet {} e.ctxs c.toNat (e.ctx c) = e.ctxs := mapSet_mapGet_self {} e.ctxs c.toNat w
  unfold Eng.modCtx Eng.setCtx
  rw [h, hs]

theorem modCtx_congr {e : Eng} {c : CtxNum} {f g : Ctx → Ctx} (h : f (e.ctx c) = g (e.ctx c)) : e.modCtx c f = e.modCtx c g :=
  congrArg (e.setCtx c) h

/-- A context's ring and spool bases take no write while it is not DISABLED (R43). -/
theorem ctx_regWrite_bases {x : Ctx} (h : x.state ≠ .disabled) (w : RegWrite) :
    x.regWrite 0x08 w = x ∧ x.regWrite 0x20 w = x ∧ x.regWrite 0x30 w = x := by
  simp [Ctx.regWrite, h]

theorem ctx_regWrite_sqBase {x : Ctx} (h : x.state = .disabled) (v : Word) : x.regWrite 0x08 ⟨.both, v⟩ =
    { x with sqBase := v.extractLsb' 12 52, sqInHost := v.getLsbD 0 } := by
  rw [← wr_both v 12 x.sqBase (by decide)]
  exact if_pos (decide_eq_true h)

theorem ctx_regWrite_cqBase {x : Ctx} (h : x.state = .disabled) (v : Word) : x.regWrite 0x20 ⟨.both, v⟩ =
    { x with cqBase := v.extractLsb' 12 52, cqInHost := v.getLsbD 0 } := by
  rw [← wr_both v 12 x.cqBase (by decide)]
  exact if_pos (decide_eq_true h)

theorem ctx_regWrite_spoolBase {x : Ctx} (h : x.state = .disabled) (v : Word) : x.regWrite 0x30 ⟨.both, v⟩ =
    { x with spoolBase := v.extractLsb' 19 45 } := by
  rw [← wr_both v 19 x.spoolBase (by decide)]
  exact if_pos (decide_eq_true h)

/-- OP in the low four bits, and in bits 57:56. -/
theorem fld_low4 (v : Word) : fld v 3 0 = (v.extractLsb' 0 4).toNat := by
  simp [fld, BitVec.extractLsb'_toNat]

theorem fld_op2 (v : Word) : fld v 57 56 = (v.extractLsb' 56 2).toNat := by
  simp [fld, BitVec.extractLsb'_toNat, Nat.shiftRight_eq_div_pow]

/-- A 64-bit write of CXS_CTX_CMD is the row of its OP (R41). -/
theorem rowOf_ctxCmd {v : Word} {n : BitVec 4} (h : v.extractLsb' 0 4 = n) : rowOf 0x10008 ⟨.both, v⟩ = match n.toNat with
    | 1 => some (exec .enable) | 2 => some (exec .disable) | 3 => some (exec .reset) | 4 => some (exec .park)
    | 5 => some (exec .resume) | _ => none := by
  rw [← h, ← fld_low4]
  rfl

/-- A 64-bit write of JRN_CTL is the row of its OP (R391). -/
theorem rowOf_jrnCtl {v : Word} {n : BitVec 4} (h : v.extractLsb' 0 4 = n) : rowOf 0x20008 ⟨.both, v⟩ = match n.toNat with
    | 1 => some (exec .fresh) | 2 => some (exec .adopt) | 3 => some (exec .reattach) | _ => none := by
  rw [← h, ← fld_low4]
  rfl

/-- A 64-bit write of WLK_VC_INV is the row of its OP (R84). -/
theorem rowOf_vcInv {v : Word} {n : BitVec 2} (h : v.extractLsb' 56 2 = n) : rowOf 0x30000 ⟨.both, v⟩ = match n.toNat with
    | 1 => some (exec (.vcInvOne ⟨.both, v⟩)) | 2 => some (exec (.vcInvPaddock ⟨.both, v⟩))
    | 3 => some (exec (.vcInvEvery ⟨.both, v⟩)) | _ => none := by
  rw [← h, ← fld_op2]
  rfl

/-- A 64-bit write of ATG_TLB_INV_CTL is the row of its OP (R113). -/
theorem rowOf_tlbInv {v : Word} {n : BitVec 2} (h : v.extractLsb' 56 2 = n) : rowOf 0x40010 ⟨.both, v⟩ = match n.toNat with
    | 1 => some (exec (.tlbInvRange ⟨.both, v⟩)) | 2 => some (exec (.tlbInvPaddock ⟨.both, v⟩))
    | 3 => some (exec (.tlbInvEvery ⟨.both, v⟩)) | _ => none := by
  rw [← h, ← fld_op2]
  rfl

/-- A 64-bit write of ATG_PDK_CMD is the row of its OP (R299). -/
theorem rowOf_pdkCmd {v : Word} {n : BitVec 4} (h : v.extractLsb' 0 4 = n) : rowOf 0x40128 ⟨.both, v⟩ = match n.toNat with
    | 1 => some (exec (.rotate ⟨.both, v⟩)) | 2 => some (exec (.retire ⟨.both, v⟩)) | 3 => some (exec (.reachInv ⟨.both, v⟩))
    | 4 => some (exec (.wkeyLoad ⟨.both, v⟩)) | 5 => some (exec (.wkeyErase ⟨.both, v⟩)) | _ => none := by
  rw [← h, ← fld_low4]
  rfl

/-- A 64-bit write that has a row is that row. -/
theorem exec_write64_row {s : State} {off : BitVec 21} {v : Word} {i : Instr} (h8 : off.toNat % 8 = 0)
    (hr : rowOf off.toNat ⟨.both, v⟩ = some (exec i)) : exec (.registerWrite off .w64 v) s = exec i s := by
  refine (exec_writeAt off h8 v .both s).trans ?_
  rw [regWritten, show carried v .both = ⟨.both, v⟩ from rfl, hr]

theorem jrnWrite_base (e : Eng) (v : Word) (h : e.jrn.state = .detached) : e.jrnWrite 0 ⟨.both, v⟩ =
    { e with jrn := { e.jrn with base := v.extractLsb' 12 52, sizeLog2 := v.extractLsb' 0 5 } } := by
  rw [← wr_both v 12 e.jrn.base (by decide), ← wr_both v 0 e.jrn.sizeLog2 (by decide)]
  exact if_pos (decide_eq_true h)

theorem jrnWrite_attached (e : Eng) (w : RegWrite) (h : e.jrn.state ≠ .detached) : e.jrnWrite 0 w = e :=
  if_neg (by simpa using h)

theorem cxsWrite_sel (e : Eng) (v : Word) (h : e.cxs.busy = .idle) : e.cxsWrite 0 ⟨.both, v⟩ =
    { e with cxs := { e.cxs with sel := v.extractLsb' 0 20 } } := by
  rw [← wr_both v 0 e.cxs.sel (by decide)]
  exact if_pos h

theorem synWrite_flagSel (e : Eng) (v : Word) : e.synWrite 0 ⟨.both, v⟩ =
    { e with syn := { e.syn with flagSel := v.extractLsb' 0 18 } } := by
  rw [← wr_both v 0 e.syn.flagSel (by decide)]
  rfl

/-- Where AO_RESET_L is high, a write of a register of the AO domain without a row acts at once. -/
theorem exec_writeAt_ao {s : State} (hl : s.Live) {off : BitVec 21} (v : Word) {h : Half} {e : Eng} (h8 : off.toNat % 8 = 0)
    (hr : rowOf off.toNat (carried v h) = none) (h20 : off.getLsbD 20 = false) (hp : aoPage (pageOf off) = true)
    (he : s.eng.plainWrite s.mem (pageOf off) (off.toNat % 0x10000) (carried v h) = e) :
    exec (writeAt off v h) s = .next { s with eng := e } := by
  rw [exec_writeAt off h8, regWritten, hr]
  refine onEng_eq hl ?_
  rw [Eng.access_ao _ _ hp, h20]
  exact he

theorem arbCfgWrite_at {s : State} (hs : s.Answers) (v : Word) (h : Half) (l : Fin 4) :
    exec (writeAt (BitVec.ofNat 21 (0xC0040 + 8 * l)) v h) s = .next { s with eng := { s.eng with svc := { s.eng.svc with
      arb := setRow {} 4 s.eng.svc.arb l ((s.eng.svc.arb.getD l {}).regWrite (carried v h)) } } } := by
  have he := svcWrite_arbCfg s.eng s.mem (carried v h) l
  fin_cases l <;> exact exec_writeAt_plain hs v (by decide) rfl (by decide) he

theorem severityWrite_at {s : State} (hs : s.Answers) (v : Word) (i : Fin 28) :
    exec (writeAt (BitVec.ofNat 21 (0xD0100 + 8 * i)) v .both) s = .next { s with eng := { s.eng with flt := { s.eng.flt with
      severity := s.eng.flt.severity.modify i fun _ => v } } } := by
  have he := fltWrite_severity s.eng v i
  fin_cases i <;> exact exec_writeAt_plain hs v (h := .both) (by decide) rfl (by decide) he

/-- Settles O39: a write that has a row is that row (R466), and one that has none changes the fields of its register that the
half reaches (R7, R467, R468). -/
theorem registerWriteFindsItsRow : Obligations.RegisterWriteFindsItsRow := by
  intro s v w op op2
  refine ⟨⟨fun h => ?_, fun h => ?_, fun h => ?_, fun h => ?_, fun h => ?_⟩, ⟨fun h => ?_, fun h => ?_, fun h => ?_⟩,
    ⟨fun h => ⟨?_, ?_⟩, fun h => ⟨?_, ?_⟩, fun h => ⟨?_, ?_⟩⟩, ⟨fun h => ?_, fun h => ?_, fun h => ?_, fun h => ?_, fun h => ?_⟩,
    ⟨?_, ?_, ?_, ?_, ?_⟩, fun hs hb => ?_, fun hs => ?_, fun hl hd => ?_, fun hd => ?_, fun off => ⟨?_, fun h8 => ?_⟩, ?_⟩
  iterate 5 exact exec_write64_row (by decide) (rowOf_ctxCmd h)
  iterate 3 exact exec_write64_row (by decide) (rowOf_jrnCtl h)
  iterate 3
    · exact exec_write64_row (by decide) (rowOf_vcInv h)
    · exact exec_write64_row (by decide) (rowOf_tlbInv h)
  iterate 5 exact exec_write64_row (by decide) (rowOf_pdkCmd h)
  iterate 5 exact exec_write64_row (by decide) rfl
  · exact exec_writeAt_plain hs v (h := .both) (by decide) rfl (by decide) (cxsWrite_sel s.eng v hb)
  · exact exec_writeAt_plain hs v (h := .both) (by decide) rfl (by decide) (synWrite_flagSel s.eng v)
  · exact exec_writeAt_ao hl v (h := .both) (by decide) rfl (by decide) (by decide) (jrnWrite_base s.eng v hd)
  · refine (exec_writeAt 0x20000 (by decide) v .both s).trans ?_
    refine (onEng_id s ?_ : onEng s (fun m e => e.access m (pageOf 0x20000) (·.jrnWrite 0 (carried v .both))) = _)
    rw [Eng.access_ao _ _ (by decide)]
    exact jrnWrite_attached s.eng _ hd
  · exact (execRegisterWrite_none rfl v s : execRegisterWrite off .other v s = _)
  · exact (execRegisterWrite_none (off := off) (size := .w64) (if_neg h8) v s : execRegisterWrite off .w64 v s = _)
  · intro at_ wv row f b puts e x g
    have at_eq (off : BitVec 21) (h : Half) : at_ off h = writeAt off v h := by cases h <;> rfl
    have isRow {off : BitVec 21} {i : RegWrite → Instr} (h8 : off.toNat % 8 = 0) (hr : ∀ w, rowOf off.toNat w = some (exec (i w))) :
        row off i := fun h => (congrArg (exec · s) (at_eq off h)).trans (exec_writeAt_row v s h8 hr h)
    refine ⟨isRow (by decide) fun _ => rfl, isRow (by decide) fun _ => rfl, isRow (by decide) fun _ => rfl,
      isRow (by decide) fun _ => rfl, isRow (by decide) fun _ => rfl, isRow (by decide) fun _ => rfl,
      isRow (by decide) fun _ => rfl, isRow (by decide) fun _ => rfl, fun r => ?_, fun hs h => ?_⟩
    · fin_cases r <;> exact ⟨isRow (by decide) fun _ => rfl, isRow (by decide) fun _ => rfl, isRow (by decide) fun _ => rfl⟩
    · have plain {off : BitVec 21} {h : Half} {e : Eng} (h8 : off.toNat % 8 = 0) (hr : rowOf off.toNat (carried v h) = none)
          (h20 : off.getLsbD 20 = false)
          (he : s.eng.plainWrite s.mem (pageOf off) (off.toNat % 0x10000) (carried v h) = e) : puts off h e :=
        (congrArg (exec · s) (at_eq off h)).trans (exec_writeAt_plain hs v h8 hr h20 he)
      refine ⟨fun hi => ?_, fun hi => ?_, ?_, ?_, ?_, ?_, ?_, fun l => ?_, ?_, ?_, ?_, ?_, fun hd => ⟨?_, ?_, ?_⟩, fun ⟨hc, _⟩ hd off ho => ?_,
        ?_, ?_, fun hg => ?_, fun hg => ?_, fun hm => ?_, fun h0 h2 => ?_, fun i => ?_, ?_, ?_, ?_⟩
      · exact plain (by decide) rfl (by decide) ((atgWrite_sel e (carried v h)).trans (if_pos hi))
      · exact plain (by decide) rfl (by decide) ((atgWrite_sel e (carried v h)).trans (if_neg hi))
      · exact plain (by decide) rfl (by decide) (npiWrite_sel e (carried v h))
      · exact plain (by decide) rfl (by decide) (synWrite_foldSel e (carried v h))
      · exact plain (by decide) rfl (by decide) (svcWrite_fuseSel e s.mem (carried v h))
      · exact plain (by decide) rfl (by decide) (svcWrite_arbNotify e s.mem (carried v h))
      · exact plain (by decide) rfl (by decide) (svcWrite_bistCtl e s.mem (carried v h))
      · refine ⟨_, (congrArg (exec · s) (at_eq _ h)).trans (arbCfgWrite_at hs v h l), fun i => ?_, rfl, rfl, rfl⟩
        refine (setRow_getD ({} : ArbCfg) 4 s.eng.svc.arb l i _ i.isLt).trans ?_
        rw [arbCfg_regWrite]
        simp only [Fin.val_inj]
        rfl
      · exact plain (by decide) rfl (by decide) (congrArg (e.modPdk e.atg.sel) (funext fun k => pdk_regWrite_ctl k (carried v h)))
      · exact plain (by decide) rfl (by decide) (congrArg (e.modPdk e.atg.sel) (funext fun k => pdk_regWrite_wkey k (carried v h)))
      · exact plain (by decide) rfl (by decide) (congrArg (e.modCtx e.cxs.sel) (funext fun k => ctx_regWrite_ctl k (carried v h)))
      · exact plain (by decide) rfl (by decide) (congrArg (e.modCtx e.cxs.sel) (funext fun k => ctx_regWrite_size k (carried v h)))
      · exact plain (h := .both) (by decide) rfl (by decide) (modCtx_congr (e := e) (c := e.cxs.sel) (f := (·.regWrite 0x08 (carried v .both))) (ctx_regWrite_sqBase hd v))
      · exact plain (h := .both) (by decide) rfl (by decide) (modCtx_congr (e := e) (c := e.cxs.sel) (f := (·.regWrite 0x20 (carried v .both))) (ctx_regWrite_cqBase hd v))
      · exact plain (h := .both) (by decide) rfl (by decide) (modCtx_congr (e := e) (c := e.cxs.sel) (f := (·.regWrite 0x30 (carried v .both))) (ctx_regWrite_spoolBase hd v))
      · obtain ⟨hsq, hcq, hsp⟩ := ctx_regWrite_bases hd (carried v h)
        fin_cases ho
        · exact plain (by decide) rfl (by decide) (modCtx_id (e := e) (c := e.cxs.sel) (f := (·.regWrite 0x08 (carried v h))) hc hsq)
        · exact plain (by decide) rfl (by decide) (modCtx_id (e := e) (c := e.cxs.sel) (f := (·.regWrite 0x20 (carried v h))) hc hcq)
        · exact plain (by decide) rfl (by decide) (modCtx_id (e := e) (c := e.cxs.sel) (f := (·.regWrite 0x30 (carried v h))) hc hsp)
      · exact plain (h := .both) (by decide) rfl (by decide) (congrArg (e.modPdk e.atg.sel) (funext fun k => pdk_regWrite_vt k v))
      · exact plain (h := .both) (by decide) rfl (by decide) (congrArg (e.modPdk e.atg.sel) (funext fun k => pdk_regWrite_pt k v))
      · refine plain (by decide) rfl (by decide) ((synWrite_link e v h).trans ?_)
        rw [if_neg (by simpa using hg)]
        rfl
      · exact plain (by decide) rfl (by decide) ((synWrite_link e v h).trans (if_pos hg))
      · exact plain (by decide) rfl (by decide) ((fltWrite_wdog e (carried v h)).trans (if_pos hm))
      · exact plain (by decide) rfl (by decide) ((fltWrite_wdog e (carried v h)).trans (if_neg (not_or.mpr ⟨h0, h2⟩)))
      · exact (congrArg (exec · s) (at_eq _ .both)).trans (severityWrite_at hs v i)
      · exact plain (by decide) rfl (by decide) (svcWrite_arbStat e s.mem (carried v h))
      · exact plain (by decide) rfl (by decide) (svcWrite_podStat e s.mem (carried v h))
      · exact plain (by decide) rfl (by decide) (fltWrite_lost e (carried v h))

end Sys2Proof.Machine
end

section
/-! What waits, homes, descriptors and power leave as it is: each changes descriptors, flags, folds, ports, power states, tallies, the journal and what
leaves, and raises events of its own. -/

namespace Sys2Proof.Machine

/-- The events with a code below 16, those of self-test among them (R362, R382). -/
def Flt.lowEvents (t : Flt) : List FEvent := t.events.filter fun v => decide ((srcCode v.source).toNat < 16)

/-- A JOIN (R429). -/
def Out.isJoin : Out → Bool
  | .npi _ (.join _) => true
  | _ => false

/-- What of the engine stays as it is where waits end, homes apply what reaches them, descriptors go on, and power follows. -/
def Eng.steady (e : Eng) : Eng where
  pins := e.pins
  now := e.now
  aoCycle := e.aoCycle
  memMap := e.memMap
  wlk := { fenced := e.wlk.fenced }
  lay := e.lay
  cdc := { fenced := e.cdc.fenced }
  drv := (List.range 20).map fun n => { fenced := (e.drv.getD n {}).fenced }
  npi := { peers := e.npi.peers }
  syn := { lostRegions := e.syn.lostRegions }
  svc := { e.svc with power := {}, ports := [], portArb := [], sweeps := [] }
  flt := { e.flt with events := e.flt.lowEvents }
  fuses := e.fuses
  out := e.out.filter Out.isJoin

theorem PowerSide.steady {e e' : Eng} (h : PowerSide e e') (ho : e'.out.filter Out.isJoin = e.out.filter Out.isJoin) :
    e'.steady = e.steady := by
  unfold Eng.steady
  rw [ho, h.1]

theorem JrnSide.steady {e e' : Eng} (h : JrnSide e e') (ho : e'.out.filter Out.isJoin = e.out.filter Out.isJoin) :
    e'.steady = e.steady := by
  unfold Eng.steady
  rw [ho, h.1]

theorem steady_foldl {β : Type} {f : Eng → β → Eng} (hf : ∀ e x, (f e x).steady = e.steady) (l : List β) (e : Eng) :
    (l.foldl f e).steady = e.steady := by
  induction l generalizing e with
  | nil => rfl
  | cons x l ih => exact (ih _).trans (hf e x)

theorem srcCode_sourceOf (sub : BitVec 4) (inst code : BitVec 6) : srcCode (sourceOf sub inst code) = code := by
  have h (i : Nat) (hi : i < 6) : (sub ++ inst ++ code : BitVec (4 + 6 + 6)).getLsbD i = code[i] := by
    rw [BitVec.getLsbD_append, if_pos hi, BitVec.getLsbD_eq_getElem hi]
  ext i hi
  unfold srcCode
  rw [BitVec.getElem_extractLsb', Nat.zero_add]
  exact h i hi

/-- An event with a code of 16 or more leaves the events of self-test. -/
theorem raise_steady (e : Eng) (sub : BitVec 4) (inst code : BitVec 6) (ctx : Option CtxNum) (detail : Word) (h : 16 ≤ code.toNat) :
    (e.raise sub inst code ctx detail).steady = e.steady := by
  have hl : (e.raise sub inst code ctx detail).flt.lowEvents = e.flt.lowEvents := by
    simp [Flt.lowEvents, Eng.raise, srcCode_sourceOf, h]
  unfold Eng.steady
  rw [hl]
  rfl

theorem emit_steady (e : Eng) {o : Out} (h : o.isJoin = false) : (e.emit o).steady = e.steady := by
  have ho : (e.emit o).out.filter Out.isJoin = e.out.filter Out.isJoin := by simp [h]
  unfold Eng.steady
  rw [ho]
  rfl

theorem count_steady (e : Eng) (s : BitVec 4) (t n : Nat) : (e.count s t n).steady = e.steady := rfl

theorem modJob_steady (e : Eng) (h : Word) (f : Job → Job) : (e.modJob h f).steady = e.steady := rfl

/-! ### Power -/

theorem modDom_steady (e : Eng) (d : Domain) (f : Dom → Dom) : (e.modDom d f).steady = e.steady := by
  cases d <;> rfl

theorem enter_steady (e : Eng) (d : Domain) (st : PState) : (e.enter d st).steady = e.steady := modDom_steady _ _ _

theorem beginWake_out (e : Eng) (d : Domain) : (e.beginWake d).out = e.out := by
  unfold Eng.beginWake
  extract_lets x e₁
  have h₁ : e₁.out = e.out := by cases d <;> rfl
  split <;> exact h₁

/-- The engine domain's wake sends nothing. -/
theorem wakeEngine_out (e : Eng) : e.wakeEngine.out = e.out := by
  unfold Eng.wakeEngine
  extract_lets d
  split
  · rfl
  · split
    · exact beginWake_out e _
    · rfl

theorem wakeEngine_steady (e : Eng) : e.wakeEngine.steady = e.steady := e.wakeEngine_side.steady (by rw [wakeEngine_out])

theorem admitRegion_steady (e : Eng) (r : Region) : (e.admitRegion r).steady = e.steady :=
  ((Eng.beginWake_side _ _).steady (by rw [beginWake_out])).trans (wakeEngine_steady e)

theorem lowerQuiet_steady (e : Eng) (r : Region) : (e.lowerQuiet r).steady = e.steady := by
  unfold Eng.lowerQuiet
  extract_lets d
  split
  · rfl
  · split
    · split
      · rfl
      · exact enter_steady _ _ _
    · split
      · split
        · exact enter_steady _ _ _
        · rfl
      · rfl

theorem lowerUntil_steady (p : Eng → Bool) (rs : List Region) (e : Eng) : (Eng.lowerUntil p rs e).steady = e.steady := by
  induction rs generalizing e with
  | nil => rfl
  | cons r rs ih =>
    unfold Eng.lowerUntil
    split
    · rfl
    · exact (ih _).trans (lowerQuiet_steady e r)

theorem serveQueue_steady (n : Nat) (e : Eng) : (Eng.serveQueue n e).steady = e.steady := by
  induction n generalizing e with
  | zero => rfl
  | succ n ih =>
    unfold Eng.serveQueue
    split
    · rfl
    · split
      · rfl
      · split
        · exact (ih _).trans (admitRegion_steady _ _)
        · extract_lets e'
          split
          · exact (ih _).trans ((admitRegion_steady _ _).trans (lowerUntil_steady _ _ _))
          · rfl

theorem wakeRegion_steady (e : Eng) (r : Region) : (e.wakeRegion r).steady = e.steady := by
  unfold Eng.wakeRegion
  extract_lets e₁ d e₂
  split
  · rfl
  · have h₂ : e₂.steady = e₁.steady := by
      unfold e₂
      split
      · exact emit_steady _ rfl
      · rfl
    exact (serveQueue_steady 4 _).trans h₂

theorem lendRegion_steady (e : Eng) (r : Region) : (e.lendRegion r).steady = e.steady := by
  unfold Eng.lendRegion
  extract_lets c d
  split
  · split
    · exact (serveQueue_steady 4 _).trans (enter_steady _ _ _)
    · split
      · exact (serveQueue_steady 4 _).trans (enter_steady _ _ _)
      · rfl
  · rfl

theorem noteWorkOf_steady (e : Eng) (d : Domain) : (e.noteWorkOf d).steady = e.steady := by
  have h : (if (e.domOf d).busy then e else e.modDom d fun x => { x with busy := true }).steady = e.steady := by
    split
    · rfl
    · exact modDom_steady _ _ _
  unfold Eng.noteWorkOf
  split
  · cases d with
    | region r => exact (lendRegion_steady _ r).trans h
    | engine => exact h
  · split
    · exact modDom_steady _ _ _
    · rfl

theorem noteWork_steady (e : Eng) : e.noteWork.steady = e.steady := steady_foldl noteWorkOf_steady _ e

/-! ### The journal -/

theorem hostPut_steady (e : Eng) (a : Nat) (bs : List Byte) : (e.hostPut a bs).steady = e.steady := by
  unfold Eng.hostPut
  split
  · exact emit_steady _ rfl
  · rfl

theorem jWrite_steady (e : Eng) (r : JRec) : (e.jWrite r).steady = e.steady := hostPut_steady _ _ _

theorem jFlush_steady (e : Eng) : e.jFlush.steady = e.steady := by
  unfold Eng.jFlush
  split
  · exact emit_steady e rfl
  · rfl

theorem jCarry_steady (e : Eng) : e.jCarry.steady = e.steady := by
  unfold Eng.jCarry
  split
  · extract_lets lim old e₁
    have h₁ : e₁.steady = e.steady := steady_foldl (fun e r => (count_steady _ _ _ _).trans (jWrite_steady e _)) _ e
    exact h₁
  · rfl

theorem jPump_steady (e : Eng) : e.jPump.steady = e.steady := by
  unfold Eng.jPump
  split
  · exact (jFlush_steady _).trans ((jCarry_steady _).trans (steady_foldl jWrite_steady _ _))
  · rfl

theorem jAppend_steady (e : Eng) (r : JRec) : (e.jAppend r).steady = e.steady := jPump_steady _

/-! ### Requests -/

theorem wakeFor_steady (e : Eng) (q : Req) : (e.wakeFor q).steady = e.steady := by
  unfold Eng.wakeFor
  split
  · exact wakeRegion_steady _ _
  · rfl

/-! ### The end of a descriptor -/

theorem handOver_steady (e : Eng) (j : Job) : (e.handOver j).steady = e.steady := by
  unfold Eng.handOver
  split <;> rfl

theorem release_steady (e : Eng) (h : Word) : (e.release h).steady = e.steady := by
  unfold Eng.release
  split
  · rfl
  · exact handOver_steady _ _

theorem finish_steady (e : Eng) (h : Word) (st : Status) (d : Word) : (e.finish h st d).steady = e.steady :=
  (noteWorkOf_steady _ _).trans (release_steady e h)

theorem writeApplied_steady (e : Eng) (h : Word) (pick : Nat × Nat × Word → Bool) : (e.writeApplied h pick).steady = e.steady := by
  unfold Eng.writeApplied
  split
  · rfl
  · exact steady_foldl (fun e r => jAppend_steady e _) _ _

/-! ### Waits -/

theorem waitEnds_steady (e : Eng) (h : Word) (st : Status) (d t : Word) : (e.waitEnds h st d t).steady = e.steady := by
  unfold Eng.waitEnds
  split
  · rfl
  · split
    · rfl
    · split
      · exact finish_steady e h st d
      · exact wakeRegion_steady _ _

theorem answerWait_steady (e : Eng) (w : Wait) (st : Status) (d t : Word) : (e.answerWait w st d t).steady = e.steady := by
  have hp : (if st = stUnsynced || st = stPodMismatch then e.podRefused else e).steady = e.steady := by split <;> rfl
  unfold Eng.answerWait
  dsimp only
  split
  · exact (waitEnds_steady _ _ _ _ _).trans hp
  · exact (emit_steady _ rfl).trans hp
  · exact (emit_steady _ rfl).trans hp

theorem tallyWait_steady (e : Eng) (r : Region) (st : Status) : (e.tallyWait r st).steady = e.steady := by
  unfold Eng.tallyWait
  repeat' split
  all_goals rfl

theorem endWait_steady (e : Eng) (w : Wait) (st : Status) (d t : Word) : (e.endWait w st d t).steady = e.steady :=
  (answerWait_steady _ _ _ _ _).trans (tallyWait_steady _ _ _)

theorem timeoutWait_steady (e : Eng) (w : Wait) : (e.timeoutWait w).steady = e.steady := endWait_steady _ _ _ _ _

theorem dropWait_steady (e : Eng) (w : Wait) (how : Option (Status × Word)) : (e.dropWait w how).steady = e.steady := by
  cases how with
  | none => rfl
  | some x => exact endWait_steady _ _ _ _ _

theorem endEarly_steady (e : Eng) (t : Word) (w : Wait) (how : Option (Status × Word)) : (e.endEarly t w how).steady = e.steady := by
  unfold Eng.endEarly
  split
  · exact timeoutWait_steady e w
  · exact dropWait_steady e w how

theorem orphanAll_steady (e : Eng) (t : Word) (p : Wait → Bool) : (e.orphanAll t p).steady = e.steady :=
  steady_foldl (fun e w => endEarly_steady e t w _) _ _

theorem releaseWait_steady (e : Eng) (fl : Flag) (t : Word) (w : Wait) : (e.releaseWait fl t w).steady = e.steady := by
  unfold Eng.releaseWait
  split
  · exact timeoutWait_steady e w
  · exact endWait_steady _ _ _ _ _

theorem beginWait_steady (e : Eng) (w : Wait) : (e.beginWait w).steady = e.steady := by
  unfold Eng.beginWait
  extract_lets r w e₁ e₂ fl
  have he : e₂.steady = e.steady := by
    unfold e₂
    split <;> rfl
  split
  · exact (endWait_steady _ _ _ _ _).trans he
  · split
    · exact (timeoutWait_steady _ _).trans he
    · exact he

theorem arriveWait_steady (e : Eng) (w : Wait) (pk : PdkNum) : (e.arriveWait w pk).steady = e.steady := by
  unfold Eng.arriveWait
  dsimp only
  split
  · exact answerWait_steady _ _ _ _ _
  · split
    · exact beginWait_steady _ _
    · split
      · exact (emit_steady _ rfl).trans (by split <;> rfl)
      · rfl

/-! ### Flags and folds -/

theorem applyChange_steady (e : Eng) (f : BitVec 18) (v : Bool) (scope : Scope) (dev : DevNum) (src : BitVec 24) (t : Word) :
    (e.applyChange f v scope dev src t).steady = e.steady :=
  steady_foldl (fun e w => releaseWait_steady e _ t w) _ _

theorem flagOp_steady (e : Eng) (f : BitVec 18) (v : Bool) (x : SyncSrc) : (e.flagOp f v x).2.steady = e.steady := by
  unfold Eng.flagOp
  dsimp only
  split
  · rfl
  · split
    · exact raise_steady _ _ _ _ _ _ (by decide)
    · exact applyChange_steady _ _ _ _ _ _ _

theorem releaseKids_steady (e : Eng) (x : SyncSrc) (kids : List (DevNum × BitVec 16)) : (e.releaseKids x kids).1.steady = e.steady :=
  steady_foldl (fun e (c : DevNum × BitVec 16) => emit_steady e (o := .npi c.1 (.release c.2 x.scope)) rfl) _ _

theorem foldReleases_steady (e : Eng) (g : BitVec 16) (scope : Scope) : (e.foldReleases g scope).1.steady = e.steady := by
  unfold Eng.foldReleases
  dsimp only
  split
  · rfl
  · exact releaseKids_steady _ _ _

theorem foldAccepts_steady (e : Eng) (g : BitVec 16) (n : Nat) (scope : Scope) (child : Option (DevNum × BitVec 16)) :
    (e.foldAccepts g n scope child).1.steady = e.steady := by
  unfold Eng.foldAccepts
  extract_lets fo fo' e₁ e₂
  have h₁ : e₁.steady = e.steady := rfl
  have h₂ : e₂.steady = e.steady := rfl
  split
  · exact h₁
  · split
    · exact (foldReleases_steady _ _ _).trans h₁
    · split
      · exact h₂
      · split
        · exact h₂
        · exact (emit_steady _ rfl).trans h₂

theorem rejectChild_steady (e : Eng) (g child : BitVec 16) (d : DevNum) : (e.rejectChild g child d).steady = e.steady :=
  raise_steady _ _ _ _ _ _ (by decide)

theorem childArrives_steady (e : Eng) (g child : BitVec 16) (x : SyncSrc) : (e.childArrives g child x).1.steady = e.steady := by
  unfold Eng.childArrives
  dsimp only
  split
  · exact rejectChild_steady _ _ _ _
  · split
    · exact rejectChild_steady _ _ _ _
    · exact foldAccepts_steady _ _ _ _ _

theorem releaseArrives_steady (e : Eng) (g : BitVec 16) (scope : Scope) : (e.releaseArrives g scope).1.steady = e.steady := by
  unfold Eng.releaseArrives
  split
  · exact foldReleases_steady _ _ _
  · rfl

theorem foldOp_steady (e : Eng) (g : BitVec 16) (n : Nat) (x : SyncSrc) : (e.foldOp g n x).2.1.steady = e.steady := by
  unfold Eng.foldOp
  dsimp only
  split
  · rfl
  · split
    · exact raise_steady _ _ _ _ _ _ (by decide)
    · exact foldAccepts_steady _ _ _ _ _

/-! ### Homes -/

theorem homeAnswered_steady (e : Eng) (h : Word) (st : Status) : (e.homeAnswered h st).steady = e.steady := by
  unfold Eng.homeAnswered
  split
  · rfl
  · refine (finish_steady _ _ _ _).trans ?_
    split
    · exact writeApplied_steady _ _ _
    · rfl

theorem replyTo_steady (e : Eng) (y : SyncReply) (st : Status) : (e.replyTo y st).steady = e.steady := by
  cases y with
  | job h => exact homeAnswered_steady e h st
  | none => rfl
  | peer _ _ | die _ _ => exact emit_steady e rfl

theorem refuseEvent_steady (e : Eng) (v : HomeEvent) (st : Status) (d : DevNum) : (e.refuseEvent v st d).steady = e.steady := by
  unfold Eng.refuseEvent
  split
  · exact answerWait_steady _ _ _ _ _
  · exact rejectChild_steady _ _ _ _
  · exact replyTo_steady _ _ _

theorem applyEvent_steady (e : Eng) (v : HomeEvent) : (e.applyEvent v).1.steady = e.steady := by
  unfold Eng.applyEvent
  split
  · exact refuseEvent_steady _ _ _ _
  · dsimp only
    split
    · exact (replyTo_steady _ _ _).trans (flagOp_steady _ _ _ _)
    · exact (replyTo_steady _ _ _).trans (foldOp_steady _ _ _ _)
    · exact arriveWait_steady _ _ _
    · exact childArrives_steady _ _ _ _
    · exact releaseArrives_steady _ _ _
    · refine (releaseKids_steady _ _ _).trans ?_
      split
      · rfl
      · exact applyChange_steady _ _ _ _ _ _ _
    · exact timeoutWait_steady _ _
    · dsimp only
      split
      · exact endEarly_steady _ _ _ _
      · rfl
    · exact orphanAll_steady _ _ _

theorem homeRun_steady (n : Nat) (vs : List HomeEvent) (e : Eng) : (Eng.homeRun n vs e).steady = e.steady := by
  induction n generalizing vs e with
  | zero => rfl
  | succ n ih =>
    cases vs with
    | nil => rfl
    | cons v vs =>
      unfold Eng.homeRun
      dsimp only
      split
      · exact (ih _ _).trans ((noteWorkOf_steady _ _).trans ((applyEvent_steady _ _).trans (wakeRegion_steady _ _)))
      · exact (ih _ _).trans (wakeRegion_steady e _)

theorem homeGo_steady (e : Eng) (v : HomeEvent) : (e.homeGo v).steady = e.steady := homeRun_steady _ _ _

theorem endWaits_steady (e : Eng) (p : Wait → Bool) (how : Option (Status × Word)) : (e.endWaits p how).steady = e.steady :=
  (steady_foldl (fun e _ => homeGo_steady e _) _ _).trans (steady_foldl (fun e w => dropWait_steady e w how) _ _)

end Sys2Proof.Machine
end

section
/-! What passing time leaves as it is, and how far it goes (R9, R10, R435). -/

namespace Sys2Proof.Machine

/-- The engine without what is counted as time passes: the tallies, cycles without a grant, refetches suspended, and the pin and the injection that
follow in their own time. -/
def Eng.uncounted (e : Eng) : Eng := { e with
  tally := []
  jobs := e.jobs.map fun j => { j with waited := 0 }
  ctxs := e.ctxs.map fun c => (c.1, { c.2 with refetch := c.2.refetch.map fun (r : Refetch) => { r with suspended := false } })
  rfe := { e.rfe with waited := [] }
  svc := { e.svc with ports := [], bist := e.svc.bist.map fun x => (x.1, { x.2 with waited := 0 }) }
  flt := { e.flt with inject := {}, alert := {} } }

/-- The engine without the stamp and the correction. -/
def Eng.stampless (e : Eng) : Eng := { e with
  now := 0
  aoCycle := 0
  flt := { e.flt with time := { e.flt.time with pendingNs := 0 } } }

/-- The engine without what passing time changes. -/
def Eng.untimed (e : Eng) : Eng := e.uncounted.stampless

theorem uncounted_foldl {β : Type} {f : Eng → β → Eng} (hf : ∀ e x, (f e x).uncounted = e.uncounted) (l : List β) (e : Eng) :
    (l.foldl f e).uncounted = e.uncounted := by
  induction l generalizing e with
  | nil => rfl
  | cons x l ih => exact (ih _).trans (hf e x)

theorem countWaits_uncounted (e : Eng) (n : Nat) : (e.countWaits n).uncounted = e.uncounted := by
  have hj (p : Job → Bool) : (e.jobs.map fun j => if p j then { j with waited := j.waited + n } else j).map
      (fun j => { j with waited := 0 }) = e.jobs.map fun j => { j with waited := 0 } := by
    rw [List.map_map]
    refine List.map_congr_left fun j _ => ?_
    rw [Function.comp_apply]
    split <;> rfl
  have hb (p : Nat × Bist → Bool) : (e.svc.bist.map fun x => if p x then (x.1, { x.2 with waited := x.2.waited + n }) else x).map
      (fun x => (x.1, { x.2 with waited := 0 })) = e.svc.bist.map fun x => (x.1, { x.2 with waited := 0 }) := by
    rw [List.map_map]
    refine List.map_congr_left fun x _ => ?_
    rw [Function.comp_apply]
    split <;> rfl
  unfold Eng.uncounted Eng.countWaits
  simp only [hj, hb]

theorem tallyCycles_uncounted (e : Eng) (n : Nat) : (e.tallyCycles n).uncounted = e.uncounted := by
  have hi (c : Prop) [Decidable c] (x : Eng) (s : BitVec 4) (t : Nat) : (if c then x.count s t n else x).uncounted = x.uncounted := by
    split <;> rfl
  unfold Eng.tallyCycles
  extract_lets x y
  refine (uncounted_foldl (fun x k => hi _ x subDrv (140 + k)) _ y).trans
    ((uncounted_foldl (fun x (r : Region) => ?_) [0, 1, 2, 3] x).trans (hi _ e subJrn 3))
  exact (hi _ _ _ _).trans ((hi _ _ _ _).trans (hi _ _ _ _))

theorem suspendStopped_uncounted (e : Eng) : e.suspendStopped.uncounted = e.uncounted := by
  have hc : e.suspendStopped.ctxs.map (fun c => (c.1, { c.2 with refetch := c.2.refetch.map fun (r : Refetch) => { r with suspended := false } })) =
      e.ctxs.map fun c => (c.1, { c.2 with refetch := c.2.refetch.map fun (r : Refetch) => { r with suspended := false } }) := by
    unfold Eng.suspendStopped
    dsimp only
    rw [List.map_map]
    refine List.map_congr_left fun c _ => ?_
    rw [Function.comp_apply]
    split
    · next r hr =>
      split
      · simp [hr]
      · rfl
    · rfl
  unfold Eng.uncounted
  rw [hc]
  rfl

theorem injectSeen_uncounted (e : Eng) : e.injectSeen.uncounted = e.uncounted := by
  unfold Eng.injectSeen
  extract_lets i n w
  split <;> rfl

theorem alertTick_uncounted (e : Eng) (c : Nat) : (e.alertTick c).uncounted = e.uncounted := by
  unfold Eng.alertTick
  split
  · extract_lets e₁
    split
    · split <;> rfl
    · rfl
  · rfl

/-- What passes in `n` AO cycles: nothing but what is counted, the stamp, and the correction absorbed (R435). -/
theorem elapse_eq (e : Eng) (n : Nat) : ∃ x : Eng, x.uncounted = e.uncounted ∧
    let k := min (n : Int) e.slewNs.natAbs
    let step := if e.slewNs < 0 then -k else k
    e.elapse n = { x with
      now := e.now + BitVec.ofInt 64 (10 * (n : Int) + step)
      aoCycle := e.aoCycle + n
      flt := { x.flt with time := { x.flt.time with pendingNs := x.flt.time.pendingNs - step } } } := by
  refine ⟨if n = 0 then e else ((((e.countWaits (e.cyclesIn n)).tallyCycles (e.cyclesIn n)).suspendStopped).injectSeen).alertTick (e.aoCycle + n),
    ?_, rfl⟩
  split
  · rfl
  · exact (alertTick_uncounted _ _).trans ((injectSeen_uncounted _).trans ((suspendStopped_uncounted _).trans
      ((tallyCycles_uncounted _ _).trans (countWaits_uncounted _ _))))

theorem elapse_untimed (e : Eng) (n : Nat) : (e.elapse n).untimed = e.untimed := by
  obtain ⟨x, hx, he⟩ := elapse_eq e n
  rw [he]
  have h : x.untimed = e.untimed := congrArg Eng.stampless hx
  exact h

theorem advanceTo_untimed (e : Eng) (t : Word) : (e.advanceTo t).untimed = e.untimed := by
  unfold Eng.advanceTo
  split
  · exact elapse_untimed _ _
  · rfl

/-- The stamp moves by no less than `d` ns in the cycles until it is `d` ns later, and by less than 100 ns more (R435). -/
theorem elapse_cyclesFor_now (e : Eng) (d : Nat) : ∃ m, d ≤ m ∧ m < d + 100 ∧ (e.elapse (e.cyclesFor d)).now = e.now + BitVec.ofNat 64 m := by
  have hz : ∃ m : Nat, d ≤ m ∧ m < d + 100 ∧ (10 * (e.cyclesFor d : Int) + if e.slewNs < 0 then -min (e.cyclesFor d : Int) e.slewNs.natAbs
      else min (e.cyclesFor d : Int) e.slewNs.natAbs) = m := by
    unfold Eng.cyclesFor
    generalize e.slewNs = p
    dsimp only
    rcases Int.lt_trichotomy p 0 with hp | hp | hp
    · rw [if_pos hp, if_neg (by omega), if_pos hp]
      split
      · exact ⟨9 * ((d + 9 - 1) / 9), by omega⟩
      · exact ⟨9 * p.natAbs + 10 * ((d - 9 * p.natAbs + 9) / 10), by omega⟩
    · subst hp
      exact ⟨10 * ((d + 9) / 10), by simp; omega⟩
    · have h0 : ¬ p < 0 := by omega
      rw [if_neg h0, if_neg (by omega), if_neg h0]
      split
      · exact ⟨11 * ((d + 11 - 1) / 11), by omega⟩
      · exact ⟨11 * p.natAbs + 10 * ((d - 11 * p.natAbs + 9) / 10), by omega⟩
  obtain ⟨m, h1, h2, h3⟩ := hz
  refine ⟨m, h1, h2, ?_⟩
  rw [← BitVec.ofInt_natCast, ← h3]
  rfl

/-- Time moved forward to a stamp has come to it, while the stamp does not wrap. -/
theorem le_advanceTo_now (e : Eng) (t : Word) (h : t.toNat + 100 < 2 ^ 64) : t.toNat ≤ (e.advanceTo t).now.toNat := by
  unfold Eng.advanceTo
  split
  · next hlt =>
    obtain ⟨m, h1, h2, h3⟩ := elapse_cyclesFor_now e (t - e.now).toNat
    have hd : (t - e.now).toNat = t.toNat - e.now.toNat := BitVec.toNat_sub_of_le (BitVec.le_def.mpr (Nat.le_of_lt hlt))
    rw [h3, BitVec.toNat_add, BitVec.toNat_ofNat]
    omega
  · omega

end Sys2Proof.Machine
end

section
/-! The watchdog, the end of an SVC restart, repair fuses and clock samples (R373, R374, R383, R458). -/

namespace Sys2Proof.Machine

/-! ### An expiry of the watchdog -/

/-- An expiry comes within ten periods of the one before (R373). -/
def Eng.expiresAgain (e : Eng) : Prop :=
  ∃ t, e.svc.lastExpiry = some t ∧ (e.now - t).toNat ≤ 10 * (max 10 e.flt.wdogPeriod.toNat * 1000000)

theorem svcExpiry_again {e : Eng} (h : e.expiresAgain) : e.svcExpiry =
    ({ e with svc := { e.svc with lastExpiry := some e.now, kick := e.now } } : Eng).raise subSvc 0 0x11 none 0 := by
  obtain ⟨t, ht, hn⟩ := h
  unfold Eng.svcExpiry
  rw [ht]
  exact if_pos (decide_eq_true hn)

theorem svcExpiry_restart {e : Eng} (h : ¬ e.expiresAgain) : e.svcExpiry =
    ({ e with svc := { e.svc with
      lastExpiry := some e.now, kick := e.now, restarting := true, restarts := e.svc.restarts + 1
      bist := e.svc.bist.foldl (fun t b => mapSet {} t b.1 { b.2 with active := false }) e.svc.bist } } : Eng).raise subSvc 0 0x10 none
        (BitVec.ofNat 64 ((e.svc.restarts + 1) % 65536)) := by
  unfold Eng.svcExpiry
  extract_lets again e₁ n e₂
  have ha : ¬ again = true := by
    unfold again
    split
    · next t ht => exact fun hn => h ⟨t, ht, of_decide_eq_true hn⟩
    · exact Bool.false_ne_true
  exact if_neg ha

/-- What an expiry does, whichever of the two it is. -/
theorem svcExpiry_cases (e : Eng) : ∃ ev, e.svcExpiry.flt.events = e.flt.events ++ [ev] ∧ e.svcExpiry.svc.lastExpiry = some e.svcExpiry.now ∧
    e.svcExpiry.now = e.now ∧
    (e.expiresAgain → ev.source = sourceOf subSvc 0 0x11 ∧ e.svcExpiry.svc.restarting = e.svc.restarting ∧
      e.svcExpiry.svc.restarts = e.svc.restarts) ∧
    (¬ e.expiresAgain → ev.source = sourceOf subSvc 0 0x10 ∧ e.svcExpiry.svc.restarting = true ∧
      e.svcExpiry.svc.restarts = e.svc.restarts + 1) := by
  by_cases h : e.expiresAgain
  · rw [svcExpiry_again h]
    exact ⟨_, rfl, rfl, rfl, fun _ => ⟨rfl, rfl, rfl⟩, fun hn => absurd h hn⟩
  · rw [svcExpiry_restart h]
    exact ⟨_, rfl, rfl, rfl, fun hp => absurd hp h, fun _ => ⟨rfl, rfl, rfl⟩⟩

/-- WATCHDOG_EXPIRY is an expiry at some later stamp. -/
theorem exec_watchdogExpiry {s : State} (hl : s.Live) (he : s.eng.flt.wdogEn = true) (hr : s.eng.svc.restarting = false) :
    ∃ e : Eng, e.untimed = ({ s.eng with freeCount := s.eng.freeCount + 1 } : Eng).untimed ∧
      exec .watchdogExpiry s = .next { s with eng := e.svcExpiry } := by
  let e₁ : Eng := ({ s.eng with freeCount := s.eng.freeCount + 1 } : Eng).advanceTo
    (({ s.eng with freeCount := s.eng.freeCount + 1 } : Eng).lastKick s.eng.freeCount + BitVec.ofNat 64 s.eng.flt.wdogNs)
  refine ⟨if e₁.svc.wheelAt = some e₁.aoCycle then e₁.elapse 1 else e₁, ?_, ?_⟩
  · split
    · exact (elapse_untimed _ _).trans (advanceTo_untimed _ _)
    · exact advanceTo_untimed _ _
  · change execWatchdogExpiry s = _
    refine onEng_eq hl (if_neg ?_)
    simp [he, hr]

theorem watchdogExpiry_restarts_or_raises {s : State} (hl : s.Live) (he : s.eng.flt.wdogEn = true) (hr : s.eng.svc.restarting = false) :
    ∃ t ev, exec .watchdogExpiry s = .next t ∧
      t.eng.flt.events = s.eng.flt.events ++ [ev] ∧ t.eng.svc.lastExpiry = some t.eng.now ∧ t.mem = s.mem ∧
      let again := ∃ t0, s.eng.svc.lastExpiry = some t0 ∧
        (t.eng.now - t0).toNat ≤ 10 * (max 10 s.eng.flt.wdogPeriod.toNat * 1000000)
      (again → ev.source = sourceOf subSvc 0 0x11 ∧ t.eng.svc.restarting = false ∧ t.eng.svc.restarts = s.eng.svc.restarts) ∧
      (¬ again → ev.source = sourceOf subSvc 0 0x10 ∧ t.eng.svc.restarting = true ∧ t.eng.svc.restarts = s.eng.svc.restarts + 1) := by
  obtain ⟨e, hu, hx⟩ := exec_watchdogExpiry hl he hr
  have hev : e.flt.events = s.eng.flt.events := congrArg (·.flt.events) hu
  have hlast : e.svc.lastExpiry = s.eng.svc.lastExpiry := congrArg (·.svc.lastExpiry) hu
  have hper : e.flt.wdogPeriod = s.eng.flt.wdogPeriod := congrArg (·.flt.wdogPeriod) hu
  have hres : e.svc.restarting = false := (congrArg (·.svc.restarting) hu).trans hr
  have hcnt : e.svc.restarts = s.eng.svc.restarts := congrArg (·.svc.restarts) hu
  obtain ⟨ev, h1, h2, h3, h4, h5⟩ := svcExpiry_cases e
  unfold Eng.expiresAgain at h4 h5
  rw [hlast, hper, hres, hcnt, ← h3] at h4
  rw [hlast, hper, hcnt, ← h3] at h5
  exact ⟨_, ev, hx, h1.trans (by rw [hev]), h2, rfl, h4, h5⟩

/-! ### The end of an SVC restart -/

theorem sweepScan_steady (e : Eng) (w : Sweep) (fs : List Found) : (e.sweepScan w fs).1.steady = e.steady := by
  induction fs generalizing e w with
  | nil => rfl
  | cons f fs ih =>
    unfold Eng.sweepScan
    split
    · exact (ih _ _).trans (raise_steady _ _ _ _ _ _ (by decide))
    · split
      · exact ih _ _
      · rfl
      · rfl

theorem sweepFrom_steady (e : Eng) (m : Memory) (w : Sweep) : (e.sweepFrom m w).steady = e.steady := sweepScan_steady e w _

theorem resumeSweep_steady (e : Eng) (m : Memory) (w : Sweep) : (e.resumeSweep m w).steady = e.steady := by
  unfold Eng.resumeSweep
  split
  · extract_lets w₁
    split
    · rfl
    · exact sweepFrom_steady _ _ _
  · extract_lets b va w₁ e₁
    have h₁ : e₁.steady = e.steady := sweepFrom_steady _ _ _
    split
    · split
      · exact h₁
      · exact h₁
    · exact h₁

theorem resumeSweeps_steady (e : Eng) (m : Memory) : (e.resumeSweeps m).steady = e.steady := steady_foldl (fun e w => resumeSweep_steady e m w) _ _

/-- What the end of an SVC restart has set, and said, stays as an engine reset goes on. -/
def Eng.restarted (e : Eng) : Bool × Word × List Out := (e.svc.restarting, e.svc.kick, e.out.filter Out.isJoin)

theorem restarted_of_steady {e e' : Eng} (h : e'.steady = e.steady) : e'.restarted = e.restarted :=
  congrArg (fun x : Eng => (x.svc.restarting, x.svc.kick, x.out)) h

theorem tellWaiters_steady (e : Eng) : e.tellWaiters.steady = e.steady := by
  unfold Eng.tellWaiters
  split
  · rfl
  · extract_lets theirs e₁ e₂
    have h₁ : e₁.steady = e.steady := orphanAll_steady _ _ _
    have h₂ : e₂.steady = e₁.steady := steady_foldl (fun e w => dropWait_steady e w _) _ _
    exact (steady_foldl (fun e j => emit_steady e rfl) _ _).trans (h₂.trans h₁)

theorem setFlag_restarted (e : Eng) (f : BitVec 18) (x : Flag) : (e.setFlag f x).restarted = e.restarted := rfl

theorem injectSeen_restarted (e : Eng) : e.injectSeen.restarted = e.restarted := by
  unfold Eng.injectSeen
  extract_lets i n w
  split <;> rfl

theorem clearSyn_restarted (e : Eng) : e.clearSyn.restarted = e.restarted := by
  have hf {β : Type} {f : Eng → β → Eng} (hf : ∀ e x, (f e x).restarted = e.restarted) (l : List β) (e : Eng) :
      (l.foldl f e).restarted = e.restarted := by
    induction l generalizing e with
    | nil => rfl
    | cons x l ih => exact (ih _).trans (hf e x)
  unfold Eng.clearSyn Eng.orphanDies
  extract_lets e₁ e₂
  have h₁ : e₁.restarted = e.restarted := hf (fun e w => by split <;> rfl) _ _
  have h₂ : e₂.restarted = e₁.restarted := hf (fun e x => setFlag_restarted e _ _) _ _
  exact (hf (fun e x => by split <;> rfl) _ _).trans (h₂.trans h₁)

theorem startResetPhase_restarted (e : Eng) : e.startResetPhase.restarted = e.restarted := by
  unfold Eng.startResetPhase
  have h : e.disarm.coldCaches.clearSyn.restarted = e.restarted := (clearSyn_restarted _).trans (injectSeen_restarted e)
  generalize e.disarm.coldCaches.clearSyn = x at h ⊢
  exact h

theorem endSettle_restarted (e : Eng) (settled : Bool) : (e.endSettle settled).restarted = e.restarted := by
  unfold Eng.endSettle
  extract_lets e₁ e₂
  have h₁ : e₁.restarted = e.restarted :=
    show e.tellWaiters.restarted = e.restarted from restarted_of_steady (tellWaiters_steady e)
  have h₂ : e₂.restarted = e₁.restarted := by
    unfold e₂
    split <;> rfl
  split
  · exact h₂.trans h₁
  · exact (startResetPhase_restarted _).trans (h₂.trans h₁)

/-- An engine reset that goes on as SVC runs again takes back nothing of the restart's end (R454). -/
theorem resetGoesOn_restarted (e : Eng) : e.resetGoesOn.restarted = e.restarted := by
  unfold Eng.resetGoesOn
  split
  · split
    · rfl
    · exact endSettle_restarted _ _
  · split
    · next h =>
      have hp : e.svc.reset.phase = .wait ∨ e.svc.reset.phase = .waitReplay := by simpa using (And.left (by simpa using h))
      unfold Eng.pinHigh
      rcases hp with hp | hp
      · rw [hp]
        exact startResetPhase_restarted e
      · rw [hp]
        rfl
    · rfl

/-- The JOIN that a worker sends (R429). -/
def Eng.joinMsg (e : Eng) (restarted : Bool) : JoinMsg :=
  { dev := e.device, ident := ownIdent, epoch := e.svc.pod.epoch, bellwether := e.svc.pod.bellwether
    stale := e.svc.pod.stale, restarted := restarted, first := !e.svc.pod.joined }

theorem sendJoin_worker {e : Eng} (h : e.svc.pod.role = 1) (restarted : Bool) : e.sendJoin restarted =
    (e.modPod fun p => { p with joinAt := e.now, joined := true }).emit (.npi e.svc.pod.bellwether (.join (e.joinMsg restarted))) :=
  if_pos (decide_eq_true h)

theorem sendJoin_restarting (e : Eng) (r : Bool) : (e.sendJoin r).svc.restarting = e.svc.restarting ∧ (e.sendJoin r).svc.kick = e.svc.kick := by
  unfold Eng.sendJoin
  split <;> exact ⟨rfl, rfl⟩

theorem svcRestartDone_ends {s : State} (hl : s.Live) (hr : s.eng.svc.restarting = true) :
    ∃ t, exec .svcRestartDone s = .next t ∧ t.eng.svc.restarting = false ∧ t.eng.svc.kick = s.eng.now ∧ t.mem = s.mem ∧
      (s.eng.svc.pod.role = 1 → ∃ m, Out.npi s.eng.svc.pod.bellwether (.join m) ∈ t.eng.out ∧ m.restarted = true ∧
        m.dev = s.eng.device) := by
  let e₀ : Eng := { s.eng with svc := { s.eng.svc.measure with restarting := false, kick := s.eng.now } }
  let e₁ := e₀.resumeSweeps s.mem
  let e₂ := (regions.filter fun r => (e₁.regionDom r).wantSince.isSome).foldl Eng.wakeRegion e₁
  let e₃ := if e₂.svc.power.engine.wantSince.isSome then e₂.wakeEngine else e₂
  have h₂ : e₂.steady = e₀.steady := (steady_foldl wakeRegion_steady _ _).trans (resumeSweeps_steady e₀ s.mem)
  have h₃ : e₃.steady = e₀.steady := by
    unfold e₃
    split
    · exact (wakeEngine_steady _).trans h₂
    · exact h₂
  obtain ⟨e₄, h₄⟩ : ∃ e, e = e₃.limitChanged := ⟨_, rfl⟩
  have hside := e₃.limitChanged_side.1
  rw [← h₄] at hside
  have hsvc : e₄.svc.restarting = false ∧ e₄.svc.kick = s.eng.now ∧ e₄.svc.pod = s.eng.svc.pod := by
    rw [hside]
    exact ⟨congrArg (·.svc.restarting) h₃, congrArg (·.svc.kick) h₃, congrArg (·.svc.pod) h₃⟩
  have hx : exec .svcRestartDone s = .next { s with eng := (e₄.sendJoin true).resetGoesOn } := by
    rw [h₄]
    change execSvcRestartDone s = _
    exact onEng_eq hl (if_neg (by simp [hr]))
  obtain ⟨hres, hkick, hpod⟩ := hsvc
  have hj := sendJoin_restarting e₄ true
  have hg := resetGoesOn_restarted (e₄.sendJoin true)
  refine ⟨_, hx, ((congrArg (·.1) hg).trans hj.1).trans hres, ((congrArg (·.2.1) hg).trans hj.2).trans hkick, rfl, fun hw => ?_⟩
  rw [← hpod] at hw ⊢
  have hmem : Out.npi e₄.svc.pod.bellwether (.join (e₄.joinMsg true)) ∈ (e₄.sendJoin true).resetGoesOn.out.filter Out.isJoin := by
    rw [show (e₄.sendJoin true).resetGoesOn.out.filter Out.isJoin = (e₄.sendJoin true).out.filter Out.isJoin from congrArg (·.2.2) hg,
      sendJoin_worker hw]
    simp [Out.isJoin]
  exact ⟨_, List.mem_of_mem_filter hmem, rfl, congrArg Pod.device hpod⟩

/-! ### Repair fuses and clock samples -/

theorem fuseCmd_judged {s : State} (hl : s.Live) {w : RegWrite} (hw : w.half ≠ .high) (hb : s.eng.svc.fuseBusy = none) :
    let i : BitVec 5 := w.value.extractLsb' 0 5
    let c := s.eng.svc.cands.getD i.toNat {}
    let res : BitVec 3 := if c.valid = false ∨ c.fused = true then 1 else if 96 ≤ s.eng.fuses.length then 2
      else if w.value.extractLsb' 8 8 ≠ (0xA5 : BitVec 8) then 3
      else if ¬ (720 ≤ s.eng.pins.vmonMv.toNat ∧ s.eng.pins.vmonMv.toNat ≤ 820) then 4 else 0
    exec (.fuseCmd w) s = .next { s with eng := { s.eng with svc := { s.eng.svc with
      fuseResult := res, fuseBusy := if res = 0 then some i else none, fuseAt := s.eng.now } } } := by
  intro i c res
  have hc : halfCovers w.half 0 = true := by
    cases h : w.half
    · rfl
    · rfl
    · exact absurd h hw
  have hr : (if (!c.valid || c.fused) = true then 1 else if s.eng.fuseFree = 0 then 2
      else if w.value.extractLsb' 8 8 ≠ (0xA5 : BitVec 8) then 3 else if (!voltOk s.eng.pins.vmonMv.toNat) = true then 4 else 0 : BitVec 3) = res := by
    have h96 : s.eng.fuseFree = 0 ↔ 96 ≤ s.eng.fuses.length := by
      unfold Eng.fuseFree
      omega
    simp only [Bool.or_eq_true, Bool.not_eq_true', h96, voltOk, Bool.and_eq_false_iff, decide_eq_false_iff_not, ← not_and_or]
    rfl
  change execFuseCmd w s = _
  refine onEng_eq hl ((Eng.access_ao _ _ (by decide) _).trans ((if_neg ?_).trans ?_))
  · simp [hc, hb]
  · rw [← hr]

/-- A candidate's fuse is programmed (R383). -/
def Eng.programFuse (e : Eng) (i : BitVec 5) (c : FuseCand) : Eng :=
  ({ e with svc := { e.svc with fuseBusy := none, cands := setRow {} 32 e.svc.cands i.toNat c }, fuses := e.fuses ++ [c] } : Eng).raise
    subSvc 0 0x12 none (i.setWidth 64)

theorem fuseDone_programs {s : State} (hl : s.Live) {i : BitVec 5} (hb : s.eng.svc.fuseBusy = some i) :
    ∃ t ev, exec .fuseDone s = .next t ∧ t.eng.svc.fuseBusy = none ∧
      t.eng.fuses = s.eng.fuses ++ [{ s.eng.svc.cands.getD i.toNat {} with fused := true }] ∧
      (t.eng.svc.cands.getD i.toNat {}).fused = true ∧ t.eng.flt.events = s.eng.flt.events ++ [ev] ∧
      (s.eng.svc.fuseAt.toNat + 10000100 < 2 ^ 64 → s.eng.svc.fuseAt.toNat + 10000000 ≤ t.eng.now.toNat) ∧
      ev.source = sourceOf subSvc 0 0x12 ∧ s.eng.sameJobs t.eng ∧ t.mem = s.mem := by
  obtain ⟨e, he⟩ : ∃ e, e = s.eng.advanceTo (s.eng.svc.fuseAt + 10000000) := ⟨_, rfl⟩
  have hu : e.untimed = s.eng.untimed := he ▸ advanceTo_untimed _ _
  have hc : e.svc.cands = s.eng.svc.cands := congrArg (·.svc.cands) hu
  let c := { e.svc.cands.getD i.toNat {} with fused := true }
  have hx : exec .fuseDone s = .next { s with eng := e.programFuse i c } := by
    change execFuseDone s = _
    refine onEng_eq hl ?_
    rw [hb, ← he]
    rfl
  refine ⟨_, _, hx, rfl, ?_, ?_, congrArg (· ++ [_]) (congrArg (·.flt.events) hu : e.flt.events = s.eng.flt.events), fun hw => ?_, rfl,
    congrArg Eng.jobs hu, rfl⟩
  · rw [← hc]
    exact congrArg (· ++ [c]) (congrArg (·.fuses) hu)
  · refine (congrArg FuseCand.fused (setRow_getD {} 32 e.svc.cands i.toNat i.toNat c i.isLt)).trans ?_
    rw [if_pos rfl]
  · have ht : (s.eng.svc.fuseAt + 10000000).toNat = s.eng.svc.fuseAt.toNat + 10000000 := by
      rw [BitVec.toNat_add, show (10000000 : Word).toNat = 10000000 from rfl]
      omega
    have := le_advanceTo_now s.eng (s.eng.svc.fuseAt + 10000000) (by omega)
    rw [← he, ht] at this
    exact this

theorem clockSample_shows {s : State} (hl : s.Live) (mhz mv : BitVec 16) : exec (.clockSample mhz mv) s = .next { s with eng := { s.eng with
    pins := { s.eng.pins with engMhz := mhz, vmonMv := mv.setWidth 12 }
    svc := { s.eng.svc with clkMhz := mhz, clkMv := (mv.setWidth 12).setWidth 16, clkIn := decide (1600 ≤ mhz.toNat ∧ mhz.toNat ≤ 1850 ∧
      720 ≤ mv.toNat % 4096 ∧ mv.toNat % 4096 ≤ 820) } } } := by
  have hin : (clockOk mhz.toNat && voltOk (mv.setWidth 12).toNat) =
      decide (1600 ≤ mhz.toNat ∧ mhz.toNat ≤ 1850 ∧ 720 ≤ mv.toNat % 4096 ∧ mv.toNat % 4096 ≤ 820) := by
    simp [clockOk, voltOk, Bool.and_assoc]
  rw [← hin]
  exact (onEng_eq hl rfl : execClockSample mhz mv s = _)

/-- Settles O50: the watchdog's expiry by R373, the end of a restart by R374 and R454, and fuses and samples by R383, R12 and R458. -/
theorem watchdogRestartsAndFuses : Obligations.WatchdogRestartsAndFuses := by
  intro s w mhz mv hl
  exact ⟨watchdogExpiry_restarts_or_raises hl, svcRestartDone_ends hl, fuseCmd_judged hl, fun i => fuseDone_programs hl,
    clockSample_shows hl mhz mv⟩

end Sys2Proof.Machine
end

section
/-! The Bellwether's vector and its member records: what a change of an entry does, and what brings the records up to date (R428 to R433). -/

namespace Sys2Proof.Machine

/-! ### A write to a Drover -/

theorem recordWrite_steady (e : Eng) (n : BitVec 5) (pa len : Nat) (w : Writer) : (e.recordWrite n pa len w).steady = e.steady := by
  have hd (e : Eng) (d : Drover) (h : d.fenced = (e.drover n).fenced) (s : BitVec 4) (t k : Nat) :
      ((e.modDrover n fun _ => d).count s t k).steady = e.steady := by
    have hr : ((List.range 20).map fun i => ({ fenced := ((setRow {} 20 e.drv n.toNat d).getD i {}).fenced } : Drover)) =
        (List.range 20).map fun i => { fenced := (e.drv.getD i {}).fenced } := by
      refine List.map_congr_left fun i hi => ?_
      rw [setRow_getD {} 20 e.drv n.toNat i d (List.mem_range.mp hi)]
      split
      · next hn =>
        rw [hn]
        exact congrArg (fun b => ({ fenced := b } : Drover)) h
      · rfl
    unfold Eng.steady
    rw [← hr]
    rfl
  have hf (d : Drover) (b : Nat) (k : BitVec 64) : (d.record w b k).1.fenced = d.fenced := by
    unfold Drover.record
    split <;> rfl
  exact steady_foldl (fun e b => hd e _ (hf _ _ _) _ _ _) _ _

theorem recordWrite_out (e : Eng) (n : BitVec 5) (pa len : Nat) (w : Writer) : (e.recordWrite n pa len w).out = e.out := by
  unfold Eng.recordWrite
  generalize beatsOf pa len = bs
  induction bs generalizing e with
  | nil => rfl
  | cons b bs ih => exact ih _

/-- A write of SVC is one write to memory, and otherwise concerns its Drover and the landing buffer. -/
theorem put_keeps (x : Eff) (o : MemOp) : (x.put o).ops = x.ops ++ [o] ∧ (x.put o).eng.steady = x.eng.steady ∧ (x.put o).eng.out = x.eng.out := by
  unfold Eff.put
  split
  · exact ⟨rfl, recordWrite_steady _ _ _ _ _, recordWrite_out _ _ _ _ _⟩
  · exact ⟨rfl, rfl, rfl⟩

/-! ### Entries of the vector -/

/-- The entry of a device. -/
def Eng.peerOf (e : Eng) (d : DevNum) : PeerStat := mapGet {} e.npi.peers d.toNat

/-- The engine with another vector. -/
def Eng.withPeers (e : Eng) (ps : SMap PeerStat) : Eng := { e with npi := { e.npi with peers := ps } }

theorem unsyncWaits_steady (e : Eng) (d : DevNum) (p : DevNum → Bool) : (e.unsyncWaits d p).steady = e.steady := endWaits_steady _ _ _

theorem unsyncRemote_steady (e : Eng) : e.unsyncRemote.steady = e.steady :=
  steady_foldl (fun e _ => (waitEnds_steady _ _ _ _ _).trans (emit_steady e.podRefused rfl)) _ _

/-- An entry set to a state and a cause is all of the vector that changes. -/
theorem setPeer_steady (e : Eng) (d : DevNum) (st : BitVec 2) (c : BitVec 4) :
    (e.setPeer d st c).steady = (e.withPeers (mapSet {} e.npi.peers d.toNat { e.peerOf d with state := st, cause := c })).steady := by
  unfold Eng.setPeer
  extract_lets old e₁
  split
  · exact unsyncWaits_steady _ _ _
  · rfl

theorem peers_of_steady {e e' : Eng} (h : e'.steady = e.steady) : e'.npi.peers = e.npi.peers := congrArg (·.npi.peers) h

theorem pod_of_steady {e e' : Eng} (h : e'.steady = e.steady) : e'.svc.pod = e.svc.pod := congrArg (·.svc.pod) h

theorem now_of_steady {e e' : Eng} (h : e'.steady = e.steady) : e'.now = e.now := congrArg (·.now) h

theorem time_of_steady {e e' : Eng} (h : e'.steady = e.steady) : e'.flt.time = e.flt.time := congrArg (·.flt.time) h

theorem setPeer_peers (e : Eng) (d : DevNum) (st : BitVec 2) (c : BitVec 4) :
    (e.setPeer d st c).npi.peers = mapSet {} e.npi.peers d.toNat { e.peerOf d with state := st, cause := c } :=
  peers_of_steady (setPeer_steady e d st c)

theorem setPeer_pod (e : Eng) (d : DevNum) (st : BitVec 2) (c : BitVec 4) : (e.setPeer d st c).svc.pod = e.svc.pod :=
  congrArg (·.svc.pod) (setPeer_steady e d st c)

theorem setPeer_wf {e : Eng} (w : MapWf {} e.npi.peers) (d : DevNum) (st : BitVec 2) (c : BitVec 4) :
    MapWf {} (e.setPeer d st c).npi.peers := by
  rw [setPeer_peers]
  exact mapSet_wf _ _ _ _ w

theorem setPeer_peerOf_self {e : Eng} (w : MapWf {} e.npi.peers) (d : DevNum) (st : BitVec 2) (c : BitVec 4) :
    (e.setPeer d st c).peerOf d = { e.peerOf d with state := st, cause := c } := by
  unfold Eng.peerOf
  rw [setPeer_peers]
  exact mapGet_mapSet_self _ _ _ _ w

theorem setPeer_peerOf_ne (e : Eng) {d x : DevNum} (h : x ≠ d) (st : BitVec 2) (c : BitVec 4) : (e.setPeer d st c).peerOf x = e.peerOf x := by
  unfold Eng.peerOf
  rw [setPeer_peers]
  exact mapGet_mapSet_ne _ _ _ _ _ fun hx => h (BitVec.eq_of_toNat_eq hx)

/-- A change of the vector, and what follows from it. -/
def PeersOnly (e e' : Eng) : Prop := ∃ ps, e'.steady = (e.withPeers ps).steady

theorem PeersOnly.of_steady {e e' : Eng} (h : e'.steady = e.steady) : PeersOnly e e' := ⟨e.npi.peers, h⟩

theorem PeersOnly.refl (e : Eng) : PeersOnly e e := .of_steady rfl

theorem PeersOnly.trans {a b c : Eng} (h : PeersOnly a b) (k : PeersOnly b c) : PeersOnly a c := by
  obtain ⟨ps, hp⟩ := h
  obtain ⟨qs, hq⟩ := k
  exact ⟨qs, hq.trans (congrArg (fun e : Eng => ({ e with npi := { e.npi with peers := qs } } : Eng)) hp)⟩

theorem PeersOnly.pod {e e' : Eng} (h : PeersOnly e e') : e'.svc.pod = e.svc.pod := by
  obtain ⟨ps, hp⟩ := h
  exact congrArg (·.svc.pod) hp

theorem PeersOnly.now {e e' : Eng} (h : PeersOnly e e') : e'.now = e.now := by
  obtain ⟨ps, hp⟩ := h
  exact congrArg (·.now) hp

theorem setPeer_only (e : Eng) (d : DevNum) (st : BitVec 2) (c : BitVec 4) : PeersOnly e (e.setPeer d st c) := ⟨_, setPeer_steady e d st c⟩

/-! ### The EPOCH that a worker reports -/

/-- The entry with the EPOCH as reported. -/
def Eng.noteEpoch (e : Eng) (d : DevNum) (epoch : BitVec 32) : Eng :=
  e.withPeers (mapSet {} e.npi.peers d.toNat { e.peerOf d with epoch := epoch })

theorem takeEpoch_absent {e : Eng} {d : DevNum} (h : (e.peerOf d).state = 0) (m : Memory) (epoch : BitVec 32) : e.takeEpoch m d epoch = e :=
  if_pos h

/-- A worker that is MISMATCHED comes back by its EPOCH alone, where nothing else was wrong and its record passes (R432). -/
theorem takeEpoch_mismatched {e : Eng} {d : DevNum} (h : (e.peerOf d).state = 1) (m : Memory) (epoch : BitVec 32) :
    e.takeEpoch m d epoch = if (e.peerOf d).cause = 1 ∧ epoch = e.svc.pod.epoch then
      (if e.recordPasses m d then (e.noteEpoch d epoch).setPeer d 2 0 else (e.noteEpoch d epoch).setPeer d 1 2)
      else e.noteEpoch d epoch := by
  have h' : (mapGet {} e.npi.peers d.toNat).state = 1 := h
  unfold Eng.takeEpoch
  extract_lets p npi e₁
  rw [if_neg (by rw [h']; decide), if_pos h']
  by_cases hc : p.cause = 1 ∧ epoch = e₁.svc.pod.epoch
  · refine (if_pos (by simpa using hc)).trans (Eq.symm (if_pos ?_))
    exact hc
  · refine (if_neg (by simpa using hc)).trans (Eq.symm (if_neg ?_))
    exact hc

theorem takeEpoch_member {e : Eng} {d : DevNum} (h : 2 ≤ (e.peerOf d).state.toNat) (m : Memory) (epoch : BitVec 32) :
    e.takeEpoch m d epoch = if epoch ≠ e.svc.pod.epoch then (e.noteEpoch d epoch).setPeer d 1 1 else e.noteEpoch d epoch := by
  have h0 : (mapGet {} e.npi.peers d.toNat).state ≠ 0 := fun hs => by
    rw [Eng.peerOf, hs] at h
    exact absurd h (by decide)
  have h1 : (mapGet {} e.npi.peers d.toNat).state ≠ 1 := fun hs => by
    rw [Eng.peerOf, hs] at h
    exact absurd h (by decide)
  unfold Eng.takeEpoch
  extract_lets p npi e₁
  rw [if_neg h0, if_neg h1]
  rfl

theorem noteEpoch_only (e : Eng) (d : DevNum) (epoch : BitVec 32) : PeersOnly e (e.noteEpoch d epoch) := ⟨_, rfl⟩

theorem noteEpoch_wf {e : Eng} (w : MapWf {} e.npi.peers) (d : DevNum) (epoch : BitVec 32) : MapWf {} (e.noteEpoch d epoch).npi.peers :=
  mapSet_wf _ _ _ _ w

theorem noteEpoch_peerOf_self {e : Eng} (w : MapWf {} e.npi.peers) (d : DevNum) (epoch : BitVec 32) :
    (e.noteEpoch d epoch).peerOf d = { e.peerOf d with epoch := epoch } := mapGet_mapSet_self _ _ _ _ w

theorem noteEpoch_peerOf_ne (e : Eng) {d x : DevNum} (h : x ≠ d) (epoch : BitVec 32) : (e.noteEpoch d epoch).peerOf x = e.peerOf x :=
  mapGet_mapSet_ne _ _ _ _ _ fun hx => h (BitVec.eq_of_toNat_eq hx)

/-- The three states that an entry may be in: ABSENT, MISMATCHED, or one of the two others. -/
theorem state_cases (x : BitVec 2) : x = 0 ∨ x = 1 ∨ 2 ≤ x.toNat := by
  rcases Nat.lt_or_ge x.toNat 2 with h | h
  · rcases Nat.lt_or_ge x.toNat 1 with h1 | h1
    · exact .inl (BitVec.eq_of_toNat_eq (by simp; omega))
    · exact .inr (.inl (BitVec.eq_of_toNat_eq (by simp; omega)))
  · exact .inr (.inr h)

/-- Whatever EPOCH a device reports, its own entry is all of the vector that changes. -/
theorem takeEpoch_keeps (e : Eng) (m : Memory) (d : DevNum) (epoch : BitVec 32) : PeersOnly e (e.takeEpoch m d epoch) ∧
    (∀ x, x ≠ d → (e.takeEpoch m d epoch).peerOf x = e.peerOf x) ∧
    (MapWf {} e.npi.peers → MapWf {} (e.takeEpoch m d epoch).npi.peers) := by
  have hn := noteEpoch_only e d epoch
  have hs (st : BitVec 2) (c : BitVec 4) : PeersOnly e ((e.noteEpoch d epoch).setPeer d st c) ∧
      (∀ x, x ≠ d → ((e.noteEpoch d epoch).setPeer d st c).peerOf x = e.peerOf x) ∧
      (MapWf {} e.npi.peers → MapWf {} ((e.noteEpoch d epoch).setPeer d st c).npi.peers) :=
    ⟨hn.trans (setPeer_only _ _ _ _), fun x hx => (setPeer_peerOf_ne _ hx _ _).trans (noteEpoch_peerOf_ne _ hx _),
      fun w => setPeer_wf (noteEpoch_wf w _ _) _ _ _⟩
  have hself : PeersOnly e (e.noteEpoch d epoch) ∧ (∀ x, x ≠ d → (e.noteEpoch d epoch).peerOf x = e.peerOf x) ∧
      (MapWf {} e.npi.peers → MapWf {} (e.noteEpoch d epoch).npi.peers) :=
    ⟨hn, fun x hx => noteEpoch_peerOf_ne _ hx _, fun w => noteEpoch_wf w _ _⟩
  rcases state_cases (e.peerOf d).state with h | h | h
  · rw [takeEpoch_absent h]
    exact ⟨.refl e, fun _ _ => rfl, id⟩
  · rw [takeEpoch_mismatched h]
    split
    · split
      · exact hs 2 0
      · exact hs 1 2
    · exact hself
  · rw [takeEpoch_member h]
    split
    · exact hs 1 1
    · exact hself

/-- Entries set one after the other, each of another device. -/
theorem foldl_peers {F : Eng → Nat × PeerStat → Eng} {g : Nat × PeerStat → PeerStat → PeerStat} {pod : Pod} (l : List (Nat × PeerStat))
    (hF : ∀ e, e.svc.pod = pod → ∀ p ∈ l, (F e p).svc.pod = pod ∧
      (F e p).npi.peers = mapSet {} e.npi.peers p.1 (g p (mapGet {} e.npi.peers p.1)))
    (e : Eng) (hp : e.svc.pod = pod) (hl : l.Pairwise fun a b => a.1 < b.1) (w : MapWf {} e.npi.peers) :
    (∀ p ∈ l, mapGet {} (l.foldl F e).npi.peers p.1 = g p (mapGet {} e.npi.peers p.1)) ∧
      ∀ k, (∀ p ∈ l, p.1 ≠ k) → mapGet {} (l.foldl F e).npi.peers k = mapGet {} e.npi.peers k := by
  induction l generalizing e with
  | nil => exact ⟨fun p hp => absurd hp (by simp), fun k _ => rfl⟩
  | cons q l ih =>
    obtain ⟨hq, hl'⟩ := List.pairwise_cons.mp hl
    obtain ⟨hpod, hpeers⟩ := hF e hp q (by simp)
    have wq : MapWf {} (F e q).npi.peers := hpeers ▸ mapSet_wf _ _ _ _ w
    obtain ⟨h1, h2⟩ := ih (fun e he p hm => hF e he p (List.mem_cons_of_mem _ hm)) (F e q) hpod hl' wq
    refine ⟨fun p hm => ?_, fun k hk => ?_⟩
    · rcases List.mem_cons.mp hm with rfl | hm
      · refine (h2 p.1 fun r hr => Nat.ne_of_gt (hq r hr)).trans ?_
        rw [hpeers]
        exact mapGet_mapSet_self _ _ _ _ w
      · refine (h1 p hm).trans ?_
        rw [hpeers, mapGet_mapSet_ne _ _ _ _ _ (Nat.ne_of_gt (hq p hm))]
    · refine (h2 k fun p hm => hk p (List.mem_cons_of_mem _ hm)).trans ?_
      rw [hpeers]
      exact mapGet_mapSet_ne _ _ _ _ _ (hk q (by simp)).symm

theorem foldl_pod {β : Type} {F : Eng → β → Eng} (l : List β) (hF : ∀ e, ∀ p ∈ l, (F e p).svc.pod = e.svc.pod) (e : Eng) :
    (l.foldl F e).svc.pod = e.svc.pod := by
  induction l generalizing e with
  | nil => rfl
  | cons q l ih => exact (ih (fun e p hp => hF e p (List.mem_cons_of_mem _ hp)) _).trans (hF e q (by simp))

/-- An entry of a vector of canonical form is the one that reads at its key. -/
theorem mapGet_of_mem {α : Type} {d : α} {m : SMap α} (w : MapWf d m) {p : Nat × α} (h : p ∈ m) : mapGet d m p.1 = p.2 := by
  induction m with
  | nil => exact absurd h (by simp)
  | cons q m ih =>
    obtain ⟨hq, hm⟩ := List.pairwise_cons.mp w.1
    rcases List.mem_cons.mp h with rfl | h
    · simp [mapGet]
    · have hne : ¬ q.1 = p.1 := Nat.ne_of_lt (hq p h)
      simp only [mapGet, hne, if_false]
      exact ih ⟨hm, fun r hr => w.2 r (List.mem_cons_of_mem _ hr)⟩ h

theorem mem_of_peerOf_ne {e : Eng} {d : DevNum} (h : e.peerOf d ≠ {}) : (d.toNat, e.peerOf d) ∈ e.npi.peers :=
  (mapGet_mem ({} : PeerStat) e.npi.peers d.toNat).resolve_left h

/-! ### Member records -/

/-- A write that lies in the area of the member records (R428). -/
def InRecords (base : BitVec 44) (o : MemOp) : Prop :=
  base.toNat * 2 ^ 20 + 0x1000 ≤ o.addr ∧ o.addr + o.bytes.length ≤ base.toNat * 2 ^ 20 + 0x1000 + 128 * 4096

/-- The writes that bring the record of a device up to date: EPOCH, where there is a verdict, and STATE with CAUSE. -/
def Eng.recordOps (e : Eng) (d : DevNum) : List MemOp :=
  (if (e.peerOf d).state = 0 then [] else [⟨e.recordAddr d + 4, .clear, leBytes 4 (e.peerOf d).epoch.toNat⟩]) ++
    [⟨e.recordAddr d + 0x70, .clear, [BitVec.ofNat 8 ((e.peerOf d).state.toNat + 16 * (e.peerOf d).cause.toNat)]⟩]

theorem recordOps_bounds (e : Eng) (d : DevNum) : ∀ o ∈ e.recordOps d,
    e.recordAddr d ≤ o.addr ∧ o.addr + o.bytes.length ≤ e.recordAddr d + 128 := by
  intro o ho
  rcases List.mem_append.mp ho with ho | ho
  · split at ho
    · exact absurd ho (by simp)
    · rw [List.mem_singleton.mp ho]
      simp
  · rw [List.mem_singleton.mp ho]
    simp

theorem recordAddr_bounds (b d : Nat) (hd : d < 4096) :
    b * 2 ^ 20 + 0x1000 ≤ b * 2 ^ 20 + 0x1000 + 128 * d ∧ b * 2 ^ 20 + 0x1000 + 128 * d + 128 ≤ b * 2 ^ 20 + 0x1000 + 128 * 4096 := by
  omega

theorem inRecords_of_bounds {e : Eng} {d : DevNum} {o : MemOp}
    (h : e.recordAddr d ≤ o.addr ∧ o.addr + o.bytes.length ≤ e.recordAddr d + 128) : InRecords e.svc.pod.areaBase o := by
  obtain ⟨h1, h2⟩ := recordAddr_bounds e.svc.pod.areaBase.toNat d.toNat d.isLt
  exact ⟨Nat.le_trans h1 h.1, Nat.le_trans h.2 h2⟩

/-- The devices whose records follow a change of the vector. -/
def Eng.changedPeers (e : Eng) (was : SMap PeerStat) : List DevNum :=
  if !e.bellwether || e.svc.pod.areaBase = 0 then []
  else ((e.npi.peers.map (·.1) ++ (was.filter fun p => mapGet {} e.npi.peers p.1 = {}).map (·.1)).filter fun k =>
    (mapGet {} was k).recorded ≠ (mapGet {} e.npi.peers k).recorded).map fun k => BitVec.ofNat 12 k

theorem recordOps_congr {e e' : Eng} (h : e'.steady = e.steady) : e'.recordOps = e.recordOps := by
  have hp := peers_of_steady h
  have hs := pod_of_steady h
  funext d
  unfold Eng.recordOps Eng.peerOf Eng.recordAddr
  rw [hp, hs]

theorem recordPeer_keeps (x : Eff) (d : DevNum) : (x.recordPeer d).ops = x.ops ++ x.eng.recordOps d ∧
    (x.recordPeer d).eng.steady = x.eng.steady ∧ (x.recordPeer d).eng.out = x.eng.out := by
  unfold Eff.recordPeer Eng.recordOps
  extract_lets p a
  obtain ⟨h1, h2, h3⟩ := put_keeps (if p.state = 0 then x else x.put ⟨a + 4, .clear, leBytes 4 p.epoch.toNat⟩)
    ⟨a + 0x70, .clear, [BitVec.ofNat 8 (p.state.toNat + 16 * p.cause.toNat)]⟩
  rw [h1, h2, h3]
  have hs : (x.eng.peerOf d).state = p.state := rfl
  by_cases h : p.state = 0
  · rw [if_pos h, if_pos (hs.trans h)]
    exact ⟨rfl, rfl, rfl⟩
  · rw [if_neg h, if_neg (hs ▸ h)]
    obtain ⟨k1, k2, k3⟩ := put_keeps x ⟨a + 4, .clear, leBytes 4 p.epoch.toNat⟩
    rw [k1, k2, k3]
    exact ⟨List.append_assoc _ _ _, rfl, rfl⟩

theorem foldl_recordPeer_keeps (ks : List Nat) (x : Eff) :
    (ks.foldl (fun x k => x.recordPeer (BitVec.ofNat 12 k)) x).ops = x.ops ++ (ks.map fun k => BitVec.ofNat 12 k).flatMap x.eng.recordOps ∧
      (ks.foldl (fun x k => x.recordPeer (BitVec.ofNat 12 k)) x).eng.steady = x.eng.steady ∧
      (ks.foldl (fun x k => x.recordPeer (BitVec.ofNat 12 k)) x).eng.out = x.eng.out := by
  induction ks generalizing x with
  | nil => exact ⟨(List.append_nil _).symm, rfl, rfl⟩
  | cons k ks ih =>
    obtain ⟨h1, h2, h3⟩ := recordPeer_keeps x (BitVec.ofNat 12 k)
    obtain ⟨k1, k2, k3⟩ := ih (x.recordPeer (BitVec.ofNat 12 k))
    refine ⟨k1.trans ?_, k2.trans h2, k3.trans h3⟩
    rw [h1, recordOps_congr h2, List.append_assoc]
    rfl

/-- The member records are brought up to date by writes to memory alone. -/
theorem recorded_keeps (x : Eff) (was : SMap PeerStat) : (x.recorded was).ops = x.ops ++ (x.eng.changedPeers was).flatMap x.eng.recordOps ∧
    (x.recorded was).eng.steady = x.eng.steady ∧ (x.recorded was).eng.out = x.eng.out := by
  unfold Eff.recorded Eng.changedPeers
  by_cases h : (!x.eng.bellwether || decide (x.eng.svc.pod.areaBase = 0)) = true
  · rw [if_pos h, if_pos h]
    exact ⟨(List.append_nil _).symm, rfl, rfl⟩
  · rw [if_neg h, if_neg h]
    exact foldl_recordPeer_keeps _ x

theorem recorded_ops_in (x : Eff) (was : SMap PeerStat) : ∀ o ∈ (x.eng.changedPeers was).flatMap x.eng.recordOps, InRecords x.eng.svc.pod.areaBase o := by
  intro o ho
  obtain ⟨d, _, hd⟩ := List.mem_flatMap.mp ho
  exact inRecords_of_bounds (recordOps_bounds x.eng d o hd)

theorem changedPeers_nil {e : Eng} (was : SMap PeerStat) (h : e.svc.pod.areaBase = 0 ∨ e.svc.pod.role ≠ 2) : e.changedPeers was = [] := by
  refine if_pos ?_
  simp only [Eng.bellwether, Bool.or_eq_true, Bool.not_eq_true', decide_eq_false_iff_not, decide_eq_true_eq]
  exact h.symm

/-- What a statement says of the member records: nothing changes outside them, and nothing at all without an area. -/
def RecordsOnly (base : BitVec 44) (m m' : Memory) : Prop :=
  (base = 0 → m' = m) ∧ ∀ g a, (a < base.toNat * 2 ^ 20 + 0x1000 ∨ base.toNat * 2 ^ 20 + 0x1000 + 128 * 4096 ≤ a) → m'.byte g a = m.byte g a

theorem recordsOnly_of_ops {base : BitVec 44} {m : Memory} {os : List MemOp} (h0 : base = 0 → os = []) (h : ∀ o ∈ os, InRecords base o) :
    RecordsOnly base m (applyOps m os) := by
  refine ⟨fun hb => by rw [h0 hb]; rfl, fun g a ha => applyOps_byte_out os m g a fun o ho => ?_⟩
  obtain ⟨h1, h2⟩ := h o ho
  omega

/-- A command that ends by bringing the records up to date changes memory in them alone. -/
theorem recordsOnly_recorded (e : Eng) (was : SMap PeerStat) (m : Memory) :
    RecordsOnly e.svc.pod.areaBase m (applyOps m ((Eff.mk e []).recorded was).ops) := by
  rw [(recorded_keeps _ _).1]
  refine recordsOnly_of_ops (os := (e.changedPeers was).flatMap e.recordOps) (fun h => ?_) (recorded_ops_in (Eff.mk e []) was)
  rw [changedPeers_nil was (.inl h)]
  rfl

end Sys2Proof.Machine
end

section
/-! Beacons and time exchanges (R430 to R437), and SPDM requests (R323). -/

namespace Sys2Proof.Machine

theorem onMem_eq {s : State} (h : s.Live) {f : Memory → Eng → Eff} {x : Eff} (hx : f s.mem s.eng = x) :
    onMem s f = .next { s with eng := x.eng, mem := applyOps s.mem x.ops } := by
  rw [onMem_live h, hx]

/-! ### A message from a device -/

theorem ended_awake {e : Eng} (h : e.svc.power.dormant = false) (m : Memory) : e.ended m = e :=
  if_neg (by simp [h])

/-- Unless Vrelop is Dormant, a message from a device notes the route and wakes the engine domain. -/
theorem heard_awake {e : Eng} (h : e.svc.power.dormant = false) (m : Memory) (d : DevNum) : (e.heard m d).steady = e.steady ∧
    (e.heard m d).out = e.out := by
  unfold Eng.heard
  extract_lets src npi
  rw [ended_awake (e := { e with npi := npi }) h]
  exact ⟨wakeEngine_steady _, wakeEngine_out _⟩

theorem podSignal_steady (e : Eng) (was : Bool) : (e.podSignal was).steady = e.steady := by
  unfold Eng.podSignal
  split
  · exact emit_steady _ rfl
  · rfl

theorem setChanged_steady (e : Eng) : e.setChanged.steady = (e.modPod fun p => { p with changed := true }).steady := podSignal_steady _ _

theorem setRival_steady (e : Eng) : e.setRival.steady = (e.modPod fun p => { p with rival := true }).steady := podSignal_steady _ _

theorem reportTime_steady (e : Eng) : e.reportTime.steady = e.steady := emit_steady e rfl

/-- A device that enters its own Unsynced state changes its time state alone, and what follows from it (R436). -/
theorem enterUnsynced_steady (e : Eng) : e.enterUnsynced.steady = (e.modTime fun t => { t with unsynced := true, good := 0 }).steady := by
  unfold Eng.enterUnsynced
  split
  · next h =>
    unfold Eng.modTime Eng.modFlt
    rw [← h]
  · exact (reportTime_steady _).trans ((unsyncRemote_steady _).trans (unsyncWaits_steady _ _ _))

/-! ### Beacons -/

/-- The vector's entries of workers that last reported another EPOCH. -/
def Eng.outdated (e : Eng) : List (Nat × PeerStat) :=
  e.npi.peers.filter fun p => decide (2 ≤ p.2.state.toNat) && decide (p.2.epoch ≠ e.svc.pod.epoch) && decide (p.1 ≠ e.device.toNat)

theorem checkEpochs_pod (e : Eng) : e.checkEpochs.svc.pod = e.svc.pod := foldl_pod _ (fun e _ _ => setPeer_pod e _ 1 1) e

/-- A worker that last reported another EPOCH becomes MISMATCHED, and no other entry changes (R432). -/
theorem checkEpochs_peerOf {e : Eng} (w : MapWf {} e.npi.peers) (hk : ∀ x ∈ e.npi.peers, x.1 < 4096) {x : DevNum} (hx : x ≠ e.device) :
    (2 ≤ (e.peerOf x).state.toNat → (e.peerOf x).epoch ≠ e.svc.pod.epoch →
      e.checkEpochs.peerOf x = { e.peerOf x with state := 1, cause := 1 }) ∧
    ((e.peerOf x).state.toNat < 2 ∨ (e.peerOf x).epoch = e.svc.pod.epoch → e.checkEpochs.peerOf x = e.peerOf x) := by
  have hF : ∀ a : Eng, a.svc.pod = e.svc.pod → ∀ p ∈ e.outdated, (a.setPeer (BitVec.ofNat 12 p.1) 1 1).svc.pod = e.svc.pod ∧
      (a.setPeer (BitVec.ofNat 12 p.1) 1 1).npi.peers =
        mapSet {} a.npi.peers p.1 { mapGet {} a.npi.peers p.1 with state := 1, cause := 1 } := by
    intro a ha p hp
    have hn : (BitVec.ofNat 12 p.1).toNat = p.1 := by
      have := hk p (List.mem_of_mem_filter hp)
      simp only [BitVec.toNat_ofNat]
      omega
    refine ⟨(setPeer_pod a _ 1 1).trans ha, (setPeer_peers a _ 1 1).trans ?_⟩
    rw [Eng.peerOf, hn]
  obtain ⟨h1, h2⟩ := foldl_peers (F := fun e p => e.setPeer (BitVec.ofNat 12 p.1) 1 1)
    (g := fun _ x => { x with state := 1, cause := 1 }) e.outdated hF e rfl (w.1.filter _) w
  refine ⟨fun hs he => ?_, fun h => h2 x.toNat fun p hp hpx => ?_⟩
  · have hm : (x.toNat, e.peerOf x) ∈ e.outdated := by
      have hne : e.peerOf x ≠ {} := fun h0 => by
        rw [h0] at hs
        exact absurd hs (by decide)
      have hd : x.toNat ≠ e.device.toNat := fun h => hx (BitVec.eq_of_toNat_eq h)
      exact List.mem_filter.mpr ⟨mem_of_peerOf_ne hne, by simp [hs, he, hd]⟩
    exact h1 _ hm
  · obtain ⟨hm, hc⟩ := List.mem_filter.mp hp
    have hpe : p.2 = e.peerOf x := by
      rw [← mapGet_of_mem w hm, hpx]
      rfl
    simp only [Bool.and_eq_true, decide_eq_true_eq] at hc
    rw [hpe] at hc
    rcases h with h | h
    · omega
    · exact hc.1.2 h

/-- The beacon that the Bellwether sends. -/
def Eng.beaconMsg (e : Eng) (v : List (DevNum × BitVec 2)) : Beacon :=
  { dev := e.device, epoch := e.svc.pod.epoch, seq := e.svc.pod.beaconSeq, stamp := e.now, states := v }

theorem sendBeacons (v l : List (DevNum × BitVec 2)) (e : Eng) :
    let t := l.foldl (fun e x => (e.emit (.npi x.1 (.beacon (e.beaconMsg v)))).count subSvc 34 1) e
    t.steady = e.steady ∧ t.out = e.out ++ l.map fun x => .npi x.1 (.beacon (e.beaconMsg v)) := by
  induction l generalizing e with
  | nil => exact ⟨rfl, (List.append_nil _).symm⟩
  | cons x l ih =>
    obtain ⟨h1, h2⟩ := ih ((e.emit (.npi x.1 (.beacon (e.beaconMsg v)))).count subSvc 34 1)
    refine ⟨h1.trans (emit_steady e rfl), h2.trans ?_⟩
    exact List.append_assoc e.out [_] _

/-- What BEACON_SEND has made of the engine before the beacons leave: EPOCHs are checked, and the sequence and the vector published. -/
def Eng.publish (e : Eng) : Eng :=
  let c := e.checkEpochs
  let a := c.modPod fun p => { p with beaconAt := c.now, beaconSeq := p.beaconSeq + 1 }
  if c.vector = a.svc.pod.published then a else (a.modPod fun p => { p with published := c.vector }).setChanged

theorem publish_keeps (e : Eng) : e.publish.svc.pod.beaconSeq = e.svc.pod.beaconSeq + 1 ∧ e.publish.svc.pod.beaconAt = e.publish.now ∧
    e.publish.npi.peers = e.checkEpochs.npi.peers ∧ e.publish.svc.pod.device = e.svc.pod.device ∧
    e.publish.svc.pod.epoch = e.svc.pod.epoch ∧ e.publish.svc.pod.areaBase = e.svc.pod.areaBase := by
  have hp := checkEpochs_pod e
  unfold Eng.publish
  generalize e.checkEpochs = c at hp ⊢
  rw [← hp]
  extract_lets c' a
  split
  · exact ⟨rfl, rfl, rfl, rfl, rfl, rfl⟩
  · have hs := setChanged_steady (a.modPod fun p => { p with published := c'.vector })
    have hpod := pod_of_steady hs
    rw [hpod, now_of_steady hs, peers_of_steady hs]
    exact ⟨rfl, rfl, rfl, rfl, rfl, rfl⟩

theorem vector_congr {e e' : Eng} (hp : e'.npi.peers = e.npi.peers) (hd : e'.svc.pod.device = e.svc.pod.device) : e'.vector = e.vector := by
  unfold Eng.vector Eng.device
  rw [hp, hd]

/-- The beacons to the devices of a vector other than this one. -/
def Eng.sendAll (e : Eng) (v : List (DevNum × BitVec 2)) : Eng :=
  (v.filter fun x => x.1 ≠ e.device).foldl (fun e x => (e.emit (.npi x.1 (.beacon (e.beaconMsg v)))).count subSvc 34 1) e

theorem exec_beaconSend {s : State} (hl : s.Live) (hr : s.eng.svc.pod.role = 2) : ∃ e : Eng, e.untimed = s.eng.untimed ∧
    let x := (Eff.mk (e.publish.sendAll e.checkEpochs.vector) []).recorded s.eng.npi.peers
    exec .beaconSend s = .next { s with eng := x.eng, mem := applyOps s.mem x.ops } := by
  refine ⟨s.eng.advanceTo (s.eng.svc.pod.beaconAt + BitVec.ofNat 64 s.eng.svc.pod.beaconNs), advanceTo_untimed _ _, ?_⟩
  have hb : s.eng.bellwether = true := decide_eq_true hr
  change execBeaconSend s = _
  unfold execBeaconSend
  rw [onMem_live hl, if_neg (by simp [hb])]
  rfl

theorem beaconSend_publishes {s : State} (hl : s.Live) (hr : s.eng.svc.pod.role = 2) :
    let pod := s.eng.svc.pod
    ∃ t, exec .beaconSend s = .next t ∧ t.eng.svc.pod.beaconSeq = pod.beaconSeq + 1 ∧
      t.eng.svc.pod.beaconAt = t.eng.now ∧ RecordsOnly pod.areaBase s.mem t.mem ∧
      (TabInv s → (∀ x ∈ s.eng.npi.peers, x.1 < 4096) → ∀ x : DevNum, x ≠ s.eng.device →
        let old := mapGet {} s.eng.npi.peers x.toNat
        let new := mapGet {} t.eng.npi.peers x.toNat
        (2 ≤ old.state.toNat → old.epoch ≠ pod.epoch → new.state = 1 ∧ new.cause = 1) ∧
        (old.state.toNat < 2 ∨ old.epoch = pod.epoch → new = old)) ∧
      ∀ x ∈ t.eng.vector, x.1 ≠ s.eng.device → ∃ m, Out.npi x.1 (.beacon m) ∈ t.eng.out ∧ m.dev = s.eng.device ∧ m.epoch = pod.epoch ∧
        m.seq = pod.beaconSeq + 1 ∧ m.stamp = t.eng.now ∧ m.states = t.eng.vector := by
  intro pod
  obtain ⟨e, hu, hx⟩ := exec_beaconSend hl hr
  have hpod : e.svc.pod = pod := congrArg (·.svc.pod) hu
  have hpeers : e.npi.peers = s.eng.npi.peers := congrArg (·.npi.peers) hu
  obtain ⟨hseq, hat, hvec, hdev, hep, harea⟩ := publish_keeps e
  rw [hpod] at hseq hdev hep harea
  obtain ⟨hsteady, hout⟩ := sendBeacons e.checkEpochs.vector (e.checkEpochs.vector.filter fun x => x.1 ≠ e.publish.device) e.publish
  obtain ⟨-, hrs, hro⟩ := recorded_keeps (Eff.mk (e.publish.sendAll e.checkEpochs.vector) []) s.eng.npi.peers
  have hrec := recordsOnly_recorded (e.publish.sendAll e.checkEpochs.vector) s.eng.npi.peers s.mem
  generalize (Eff.mk (e.publish.sendAll e.checkEpochs.vector) []).recorded s.eng.npi.peers = x at hx hrs hro hrec
  have hst : x.eng.steady = e.publish.steady := hrs.trans hsteady
  have hxp : x.eng.svc.pod = e.publish.svc.pod := pod_of_steady hst
  have hxn : x.eng.now = e.publish.now := now_of_steady hst
  have hxv : x.eng.vector = e.checkEpochs.vector := by
    refine vector_congr ((peers_of_steady hst).trans hvec) ?_
    rw [hxp, hdev, checkEpochs_pod, hpod]
  refine ⟨_, hx, by rw [hxp, hseq], by rw [hxp, hat, hxn], ?_, fun ht hk y hy => ?_, fun y hy hne => ?_⟩
  · have ha : (e.publish.sendAll e.checkEpochs.vector).svc.pod.areaBase = pod.areaBase := by
      rw [← harea]
      exact congrArg (·.svc.pod.areaBase) hsteady
    rw [ha] at hrec
    exact hrec
  · obtain ⟨-, -, -, -, -, hw, -⟩ := ht
    have hde : e.device = s.eng.device := congrArg Pod.device hpod
    obtain ⟨h1, h2⟩ := checkEpochs_peerOf (e := e) (by rw [hpeers]; exact hw) (by rw [hpeers]; exact hk) (x := y) (by rw [hde]; exact hy)
    have hn : mapGet {} x.eng.npi.peers y.toNat = e.checkEpochs.peerOf y := by
      rw [(peers_of_steady hst).trans hvec]
      rfl
    have ho : e.peerOf y = mapGet {} s.eng.npi.peers y.toNat := by
      rw [← hpeers]
      rfl
    rw [ho, hpod] at h1 h2
    dsimp only
    rw [hn]
    exact ⟨fun hs he => by rw [h1 hs he]; exact ⟨rfl, rfl⟩, h2⟩
  · dsimp only at hy ⊢
    rw [hxv] at hy
    have hd : e.publish.device = s.eng.device := hdev
    have hm : Out.npi y.1 (.beacon (e.publish.beaconMsg e.checkEpochs.vector)) ∈ x.eng.out := by
      rw [hro]
      refine (congrArg (Out.npi y.1 _ ∈ ·) hout).mpr (List.mem_append_right _ (List.mem_map.mpr ⟨y, List.mem_filter.mpr ⟨hy, ?_⟩, rfl⟩))
      rw [hd]
      exact decide_eq_true hne
    exact ⟨_, hm, hd, hep, hseq, hxn.symm, hxv.symm⟩

theorem noteLostExchange_keeps (e : Eng) : e.noteLostExchange.npi.peers = e.npi.peers ∧ e.noteLostExchange.svc.pod = e.svc.pod ∧
    e.noteLostExchange.now = e.now := by
  unfold Eng.noteLostExchange
  split
  · exact ⟨rfl, rfl, rfl⟩
  · extract_lets e₁
    split
    · have h := enterUnsynced_steady e₁
      exact ⟨congrArg (·.npi.peers) h, congrArg (·.svc.pod) h, congrArg (·.now) h⟩
    · exact ⟨rfl, rfl, rfl⟩

/-- A worker takes the vector of its Bellwether's beacon (R430, R431). -/
theorem takeVector_keeps (e : Eng) (b : Beacon) : (e.takeVector b).npi.peers = vectorMap b ∧
    (∃ c, (e.takeVector b).svc.pod =
      { e.svc.pod with self := (mapGet {} (vectorMap b) e.device.toNat).state, stale := false, changed := c }) ∧
    (e.takeVector b).now = e.now := by
  obtain ⟨e₁, he₁⟩ : ∃ x, x = if vectorMap b = e.npi.peers then e else e.setChanged := ⟨_, rfl⟩
  have h₁ : (∃ c, e₁.svc.pod = { e.svc.pod with changed := c }) ∧ e₁.now = e.now := by
    rw [he₁]
    split
    · exact ⟨⟨_, rfl⟩, rfl⟩
    · have h := setChanged_steady e
      exact ⟨⟨_, congrArg (·.svc.pod) h⟩, congrArg (·.now) h⟩
  obtain ⟨⟨c, hpod⟩, hnow⟩ := h₁
  have hs : (e.takeVector b).steady = ((e₁.withPeers (vectorMap b)).modPod fun p => { p with
      self := (mapGet {} (vectorMap b) e₁.device.toNat).state, stale := false }).steady := by
    rw [he₁]
    exact steady_foldl (fun e _ => unsyncWaits_steady e _ _) _ _
  have hd : e₁.device = e.device := by
    rw [Eng.device, hpod]
    rfl
  refine ⟨congrArg (·.npi.peers) hs, ⟨c, (congrArg (·.svc.pod) hs).trans ?_⟩, (congrArg (·.now) hs).trans hnow⟩
  show ({ e₁.svc.pod with self := (mapGet {} (vectorMap b) e₁.device.toNat).state, stale := false } : Pod) = _
  rw [hd, hpod]

/-- What a worker reports of its time state, and of its EPOCH (R434, R436). -/
def Eng.syncReport (e : Eng) : SyncReport := { dev := e.device, epoch := e.svc.pod.epoch, t1 := e.now, unsynced := e.flt.time.unsynced }

theorem beaconReceive_takes {s : State} (hl : s.Live) (hd : s.eng.svc.power.dormant = false) (b : Beacon) (hr : s.eng.svc.pod.role = 1)
    (hb : b.dev = s.eng.svc.pod.bellwether) :
    ∃ t, exec (.beaconReceive b) s = .next t ∧ t.eng.npi.peers = vectorMap b ∧
      t.eng.svc.pod.self = (mapGet {} (vectorMap b) s.eng.device.toNat).state ∧ t.eng.svc.pod.stale = false ∧
      t.eng.flt.time.lastBeacon = s.eng.now ∧ t.eng.flt.time.open_ = some s.eng.now ∧
      (∃ m, Out.npi b.dev (.syncReq m) ∈ t.eng.out ∧ m.dev = s.eng.device ∧ m.t1 = s.eng.now ∧ m.epoch = s.eng.svc.pod.epoch) ∧
      t.mem = s.mem := by
  have hh := (heard_awake hd s.mem b.dev).1
  obtain ⟨e₁, he₁⟩ : ∃ e, e = s.eng.heard s.mem b.dev := ⟨_, rfl⟩
  rw [← he₁] at hh
  obtain ⟨-, np, nn⟩ := noteLostExchange_keeps e₁
  obtain ⟨tv, ⟨c, tp⟩, tn⟩ := takeVector_keeps (e₁.noteLostExchange.count subNpi 2 1) b
  have hx : exec (.beaconReceive b) s = .next { s with eng :=
      (((e₁.noteLostExchange.count subNpi 2 1).takeVector b).modTime fun t => { t with
        lastBeacon := ((e₁.noteLostExchange.count subNpi 2 1).takeVector b).now }).sendSyncReq } := by
    change execBeaconReceive b s = _
    have hp := pod_of_steady hh
    refine onEng_eq hl ?_
    rw [← he₁]
    exact if_neg (by simp [Eng.worker, hp, hr, hb])
  generalize (e₁.noteLostExchange.count subNpi 2 1).takeVector b = e at hx tv tp tn
  have hpod : e.svc.pod = { s.eng.svc.pod with
      self := (mapGet {} (vectorMap b) s.eng.device.toNat).state, stale := false, changed := c } := by
    have hp : (e₁.noteLostExchange.count subNpi 2 1).svc.pod = s.eng.svc.pod := np.trans (pod_of_steady hh)
    rw [Eng.device, hp] at tp
    exact tp
  have hnow : e.now = s.eng.now := tn.trans (nn.trans (now_of_steady hh))
  have hdev : e.device = s.eng.device := by
    rw [Eng.device, hpod]
    rfl
  have hep : e.svc.pod.epoch = s.eng.svc.pod.epoch := by rw [hpod]
  refine ⟨_, hx, tv, congrArg Pod.self hpod, congrArg Pod.stale hpod, hnow, congrArg some hnow,
    ⟨e.syncReport, List.mem_append_right _ (List.mem_singleton.mpr ?_), hdev, hnow, hep⟩, rfl⟩
  rw [hb]
  exact congrArg (fun d => Out.npi d _) (congrArg Pod.bellwether hpod).symm

theorem beaconReceive_ignores {s : State} (hl : s.Live) (hd : s.eng.svc.power.dormant = false) (b : Beacon)
    (hb : s.eng.svc.pod.role ≠ 1 ∨ b.dev ≠ s.eng.svc.pod.bellwether) :
    ∃ t, exec (.beaconReceive b) s = .next t ∧ t.eng.svc.pod.rival = true ∧ t.eng.npi.peers = s.eng.npi.peers ∧
      t.eng.svc.pod.self = s.eng.svc.pod.self ∧ t.eng.flt.time = s.eng.flt.time ∧ t.mem = s.mem := by
  have hh := (heard_awake hd s.mem b.dev).1
  obtain ⟨e₁, he₁⟩ : ∃ e, e = s.eng.heard s.mem b.dev := ⟨_, rfl⟩
  rw [← he₁] at hh
  have hp := pod_of_steady hh
  have hs := setRival_steady e₁.foreign
  have hx : exec (.beaconReceive b) s = .next { s with eng := e₁.foreign.setRival } := by
    change execBeaconReceive b s = _
    refine onEng_eq hl ?_
    rw [← he₁]
    exact if_pos (by simpa [Eng.worker, hp] using hb)
  exact ⟨_, hx, congrArg (·.svc.pod.rival) hs, (congrArg (·.npi.peers) hs).trans (peers_of_steady hh),
    (congrArg (·.svc.pod.self) hs).trans (congrArg Pod.self hp), (congrArg (·.flt.time) hs).trans (time_of_steady hh), rfl⟩

/-! ### Time exchanges -/

/-- What a worker's report makes of its own entry (R432, R436). -/
theorem takeReport_member {e : Eng} (w : MapWf {} e.npi.peers) (m : Memory) (q : SyncReport) (h : 2 ≤ (e.peerOf q.dev).state.toNat) :
    (q.epoch ≠ e.svc.pod.epoch → ((e.takeReport m q).peerOf q.dev).state = 1 ∧ ((e.takeReport m q).peerOf q.dev).cause = 1) ∧
    (q.epoch = e.svc.pod.epoch → ((e.takeReport m q).peerOf q.dev).state = if q.unsynced then 2 else 3) := by
  have h1 : (e.peerOf q.dev).state ≠ 1 := fun hs => by
    rw [hs] at h
    exact absurd h (by decide)
  have hn := noteEpoch_wf w q.dev q.epoch
  have hself := noteEpoch_peerOf_self w q.dev q.epoch
  unfold Eng.takeReport
  extract_lets was a p
  have ha : a = if q.epoch ≠ e.svc.pod.epoch then (e.noteEpoch q.dev q.epoch).setPeer q.dev 1 1 else e.noteEpoch q.dev q.epoch :=
    takeEpoch_member h m q.epoch
  have hp : p = a.peerOf q.dev := rfl
  have hw : was.state ≠ 1 := h1
  rw [if_neg hw]
  refine ⟨fun he => ?_, fun he => ?_⟩
  · rw [if_pos he] at ha
    have hap : a.peerOf q.dev = { e.peerOf q.dev with epoch := q.epoch, state := 1, cause := 1 } := by
      rw [ha, setPeer_peerOf_self hn, hself]
    have hs : p.state = 1 := by rw [hp, hap]
    rw [if_neg (by simp [hs]), if_neg (by simp [hs]), hap]
    exact ⟨rfl, rfl⟩
  · rw [if_neg (not_not_intro he)] at ha
    have hap : a.peerOf q.dev = { e.peerOf q.dev with epoch := q.epoch } := by rw [ha, hself]
    have haw : MapWf {} a.npi.peers := by
      rw [ha]
      exact hn
    have hs : p.state = (e.peerOf q.dev).state := by rw [hp, hap]
    have h23 : (e.peerOf q.dev).state = 2 ∨ (e.peerOf q.dev).state = 3 := by
      have := (e.peerOf q.dev).state.isLt
      rcases Nat.lt_or_ge (e.peerOf q.dev).state.toNat 3 with hlt | hge
      · exact .inl (BitVec.eq_of_toNat_eq (by simp; omega))
      · exact .inr (BitVec.eq_of_toNat_eq (by simp; omega))
    rcases h23 with hst | hst <;> cases hu : q.unsynced
    · rw [if_neg (by simp), if_pos (by simp [hs, hst]), setPeer_peerOf_self haw]
      rfl
    · rw [if_neg (by simp [hs, hst]), if_neg (by simp), hap]
      exact hst
    · rw [if_neg (by simp), if_neg (by simp [hs, hst]), hap]
      exact hst
    · rw [if_pos (by simp [hs, hst]), setPeer_peerOf_self haw]
      rfl

theorem takeReport_only (e : Eng) (m : Memory) (q : SyncReport) : PeersOnly e (e.takeReport m q) := by
  unfold Eng.takeReport
  extract_lets was a p
  have ha : PeersOnly e a := (takeEpoch_keeps e m q.dev q.epoch).1
  split
  · exact ha
  · split
    · exact ha.trans (setPeer_only _ _ _ _)
    · split
      · exact ha.trans (setPeer_only _ _ _ _)
      · exact ha

/-- The Bellwether's answer to a SYNC_REQ (R434). -/
def Eng.syncAnswer (e : Eng) (t1 : Word) : SyncAnswer := { dev := e.device, t1 := t1, t2 := e.now, t3 := e.now }

theorem syncReq_answered {s : State} (hl : s.Live) (hd : s.eng.svc.power.dormant = false) (q : SyncReport) (hr : s.eng.svc.pod.role = 2)
    (ht : TabInv s) :
    let pod := s.eng.svc.pod
    ∃ t, exec (.syncReq q) s = .next t ∧
      Out.npi q.dev (.syncRsp { dev := s.eng.device, t1 := q.t1, t2 := s.eng.now, t3 := s.eng.now }) ∈ t.eng.out ∧
      (2 ≤ (mapGet {} s.eng.npi.peers q.dev.toNat).state.toNat → q.epoch ≠ pod.epoch →
        (mapGet {} t.eng.npi.peers q.dev.toNat).state = 1 ∧ (mapGet {} t.eng.npi.peers q.dev.toNat).cause = 1) ∧
      (2 ≤ (mapGet {} s.eng.npi.peers q.dev.toNat).state.toNat → q.epoch = pod.epoch →
        (mapGet {} t.eng.npi.peers q.dev.toNat).state = if q.unsynced then 2 else 3) ∧ RecordsOnly pod.areaBase s.mem t.mem := by
  intro pod
  have hh := (heard_awake hd s.mem q.dev).1
  obtain ⟨e₁, he₁⟩ : ∃ e, e = s.eng.heard s.mem q.dev := ⟨_, rfl⟩
  rw [← he₁] at hh
  let e₂ : Eng := e₁.modPod fun p => { p with lastSync := mapSet 0 p.lastSync q.dev.toNat p.beaconSeq }
  let e₃ := e₂.takeReport s.mem q
  let e₄ := e₃.emit (.npi q.dev (.syncRsp (e₃.syncAnswer q.t1)))
  have hx : exec (.syncReq q) s = .next { s with
      eng := ((Eff.mk e₄ []).recorded s.eng.npi.peers).eng, mem := applyOps s.mem ((Eff.mk e₄ []).recorded s.eng.npi.peers).ops } := by
    have hb : e₁.bellwether = true := by simp [Eng.bellwether, pod_of_steady hh, hr]
    change execSyncReq q s = _
    refine onMem_eq hl ?_
    rw [← he₁]
    exact if_neg (by simp [hb])
  have hpod₁ : e₁.svc.pod = pod := pod_of_steady hh
  have hpeer : ∀ d, e₂.peerOf d = mapGet {} s.eng.npi.peers d.toNat := fun d => by
    rw [← peers_of_steady hh]
    rfl
  have hw : MapWf {} e₂.npi.peers := by
    obtain ⟨-, -, -, -, -, hw, -⟩ := ht
    rw [← peers_of_steady hh] at hw
    exact hw
  have honly := takeReport_only e₂ s.mem q
  have hr := takeReport_member hw s.mem q
  have hpod₃ : e₃.svc.pod = { pod with lastSync := mapSet 0 pod.lastSync q.dev.toNat pod.beaconSeq } := by
    rw [honly.pod, ← hpod₁]
    rfl
  have hnow₃ : e₃.now = s.eng.now := honly.now.trans (show e₁.now = s.eng.now from now_of_steady hh)
  obtain ⟨-, hst, hout⟩ := recorded_keeps (Eff.mk e₄ []) s.eng.npi.peers
  have hpt : ∀ d : DevNum, mapGet {} ((Eff.mk e₄ []).recorded s.eng.npi.peers).eng.npi.peers d.toNat = e₃.peerOf d := fun d => by
    rw [peers_of_steady hst]
    rfl
  have hep : e₂.svc.pod.epoch = pod.epoch := show e₁.svc.pod.epoch = pod.epoch from congrArg Pod.epoch hpod₁
  rw [hpeer, hep] at hr
  have hrec := recordsOnly_recorded e₄ s.eng.npi.peers s.mem
  rw [show e₄.svc.pod.areaBase = pod.areaBase from (congrArg Pod.areaBase hpod₃ : _)] at hrec
  refine ⟨_, hx, ?_, fun h he => ?_, fun h he => ?_, hrec⟩
  · have ha : e₃.syncAnswer q.t1 = { dev := s.eng.device, t1 := q.t1, t2 := s.eng.now, t3 := s.eng.now } := by
      unfold Eng.syncAnswer Eng.device
      rw [hpod₃, hnow₃]
    rw [← ha]
    show _ ∈ ((Eff.mk e₄ []).recorded s.eng.npi.peers).eng.out
    rw [hout]
    exact List.mem_append_right _ (List.mem_singleton_self _)
  · dsimp only
    rw [hpt]
    exact (hr h).1 he
  · dsimp only
    rw [hpt]
    exact (hr h).2 he

/-- The least of some numbers. -/
theorem foldl_min_eq (l : List Int) (a m : Int) (hm : m = a ∨ m ∈ l) (ha : m ≤ a) (h : ∀ y ∈ l, m ≤ y) : l.foldl min a = m := by
  induction l generalizing a with
  | nil => simpa [eq_comm] using hm
  | cons y l ih =>
    have hy : m ≤ y := h y (by simp)
    refine ih (min a y) ?_ (le_min ha hy) fun z hz => h z (List.mem_cons_of_mem _ hz)
    rcases hm with rfl | hm
    · exact .inl (min_eq_left hy).symm
    · rcases List.mem_cons.mp hm with rfl | hm
      · exact .inl (min_eq_right ha).symm
      · exact .inr hm

/-- The SKEW that an exchange gives (R435): the amount of θ, and half of what its delay has above the least of the last 64. -/
def Eng.skewOf (e : Eng) (theta delta : Int) : Int :=
  (theta.natAbs : Int) + Int.tdiv (delta - ((delta :: e.flt.time.deltas).take 64).foldl min delta) 2

/-- What an exchange has measured is kept, the correction set, or the time base stepped forward (R435). -/
def Eng.exchanged (e : Eng) (theta delta : Int) : Eng :=
  ((e.modTime fun t => { t with
    open_ := none, deltas := (delta :: e.flt.time.deltas).take 64, lost := 0
    skew := BitVec.ofNat 16 (min (e.skewOf theta delta).toNat 65535) }).count subFlt 29 1).correct theta

/-- What an exchange makes of the device's own time state (R436). -/
def Eng.judgeTime (e : Eng) (skew : Int) : Eng :=
  if 100 < skew then e.enterUnsynced
  else
    let e := e.modTime fun t => { t with good := t.good + 1 }
    if e.flt.time.unsynced && decide (4 ≤ e.flt.time.good) && !e.svc.pod.stale then
      (e.modTime fun t => { t with unsynced := false }).reportTime
    else e

theorem judgeTime_keeps (e : Eng) (skew : Int) : (∃ u g, (e.judgeTime skew).flt.time = { e.flt.time with unsynced := u, good := g }) ∧
    (e.judgeTime skew).now = e.now := by
  unfold Eng.judgeTime
  split
  · have h := enterUnsynced_steady e
    exact ⟨⟨_, _, congrArg (·.flt.time) h⟩, congrArg (·.now) h⟩
  · extract_lets a
    split
    · exact ⟨⟨_, _, rfl⟩, rfl⟩
    · exact ⟨⟨_, _, rfl⟩, rfl⟩

theorem exchanged_keeps (e : Eng) (theta delta : Int) :
    let t := (e.exchanged theta delta).flt.time
    let seen := (delta :: e.flt.time.deltas).take 64
    t.lost = 0 ∧ t.open_ = none ∧ t.deltas = seen ∧
      t.skew = BitVec.ofNat 16 (min (e.skewOf theta delta).toNat 65535) ∧
      (theta ≤ 10000 → t.pendingNs = theta ∧ (e.exchanged theta delta).now = e.now) ∧
      (10000 < theta → t.pendingNs = 0 ∧ (e.exchanged theta delta).now = e.now + BitVec.ofInt 64 theta) := by
  unfold Eng.exchanged Eng.correct
  by_cases h : 10000 < theta
  · simp only [if_pos h]
    exact ⟨rfl, rfl, rfl, rfl, fun hn => absurd hn (by omega), fun _ => ⟨rfl, rfl⟩⟩
  · simp only [if_neg h]
    exact ⟨rfl, rfl, rfl, rfl, fun _ => ⟨rfl, rfl⟩, fun hp => absurd hp h⟩

theorem exec_syncRsp {s : State} (hl : s.Live) (hd : s.eng.svc.power.dormant = false) (a : SyncAnswer) (hr : s.eng.svc.pod.role = 1)
    (hb : a.dev = s.eng.svc.pod.bellwether) (ho : s.eng.flt.time.open_ = some a.t1) : ∃ e : Eng, e.steady = s.eng.steady ∧
    let theta := Int.tdiv (stampDiff a.t2 a.t1 + stampDiff a.t3 s.eng.now) 2
    let delta := stampDiff s.eng.now a.t1 - stampDiff a.t3 a.t2
    exec (.syncRsp a) s = .next { s with eng := (e.exchanged theta delta).judgeTime (e.skewOf theta delta) } := by
  have hh := (heard_awake hd s.mem a.dev).1
  obtain ⟨e, he⟩ : ∃ e, e = s.eng.heard s.mem a.dev := ⟨_, rfl⟩
  rw [← he] at hh
  have hw : ¬ (!e.worker || decide (a.dev ≠ e.svc.pod.bellwether)) = true := by simp [Eng.worker, pod_of_steady hh, hr, hb]
  have ht : ¬ e.flt.time.open_ ≠ some a.t1 := by
    rw [time_of_steady hh]
    exact not_not_intro ho
  refine ⟨e, hh, ?_⟩
  change execSyncRsp a s = _
  refine onEng_eq hl ?_
  rw [← he, ← now_of_steady hh]
  exact (if_neg hw).trans (if_neg ht)

/-- The end of a time exchange (R434, R435). -/
theorem syncRsp_corrects {s : State} (hl : s.Live) (hd : s.eng.svc.power.dormant = false) (a : SyncAnswer) (hr : s.eng.svc.pod.role = 1)
    (hb : a.dev = s.eng.svc.pod.bellwether) (ho : s.eng.flt.time.open_ = some a.t1) :
    let theta := Int.tdiv (stampDiff a.t2 a.t1 + stampDiff a.t3 s.eng.now) 2
    let delta := stampDiff s.eng.now a.t1 - stampDiff a.t3 a.t2
    let seen := (delta :: s.eng.flt.time.deltas).take 64
    ∃ t, exec (.syncRsp a) s = .next t ∧ t.eng.flt.time.lost = 0 ∧ t.eng.flt.time.open_ = none ∧ t.eng.flt.time.deltas = seen ∧ t.mem = s.mem ∧
      (∀ dmin ∈ seen, (∀ y ∈ seen, dmin ≤ y) →
        t.eng.flt.time.skew = BitVec.ofNat 16 (min (theta.natAbs + (Int.tdiv (delta - dmin) 2).toNat) 65535)) ∧
      (theta ≤ 10000 → t.eng.flt.time.pendingNs = theta ∧ t.eng.now = s.eng.now) ∧
      (10000 < theta → t.eng.flt.time.pendingNs = 0 ∧ t.eng.now = s.eng.now + BitVec.ofInt 64 theta) := by
  intro theta delta seen
  obtain ⟨e, hh, hx⟩ := exec_syncRsp hl hd a hr hb ho
  obtain ⟨⟨u, g, ht⟩, hn⟩ := judgeTime_keeps (e.exchanged theta delta) (e.skewOf theta delta)
  obtain ⟨h1, h2, h3, h4, h5, h6⟩ := exchanged_keeps e theta delta
  rw [Eng.skewOf] at h4
  rw [time_of_steady hh] at h3 h4
  rw [now_of_steady hh] at h5 h6
  refine ⟨_, hx, ?_, ?_, ?_, rfl, fun dmin hm hmin => ?_, fun h => ?_, fun h => ?_⟩
  · exact (congrArg TimeStat.lost ht).trans h1
  · exact (congrArg TimeStat.open_ ht).trans h2
  · exact (congrArg TimeStat.deltas ht).trans h3
  · have hd : dmin ≤ delta := hmin delta (by simp [seen])
    have hf : seen.foldl min delta = dmin := foldl_min_eq seen delta dmin (.inr hm) hd hmin
    have hs : (0 : Int) ≤ Int.tdiv (delta - dmin) 2 := Int.tdiv_nonneg (by omega) (by decide)
    refine (congrArg TimeStat.skew ht).trans (h4.trans ?_)
    rw [show ((delta :: s.eng.flt.time.deltas).take 64).foldl min delta = dmin from hf, Int.toNat_add (by omega) hs, Int.toNat_natCast]
  · exact ⟨(congrArg TimeStat.pendingNs ht).trans (h5 h).1, hn.trans (h5 h).2⟩
  · exact ⟨(congrArg TimeStat.pendingNs ht).trans (h6 h).1, hn.trans (h6 h).2⟩

theorem bellwetherStale_unsyncs {s : State} (hl : s.Live) (hr : s.eng.svc.pod.role = 1) (hs : s.eng.svc.pod.stale = false) :
    ∃ t, exec .bellwetherStale s = .next t ∧ t.eng.svc.pod.stale = true ∧
      t.eng.flt.time.unsynced = true ∧ t.eng.npi.peers = s.eng.npi.peers ∧ t.mem = s.mem := by
  obtain ⟨e, he⟩ : ∃ e, e = s.eng.advanceTo (s.eng.flt.time.lastBeacon +
    BitVec.ofNat 64 (s.eng.svc.pod.lostBeacons * s.eng.svc.pod.beaconNs)) := ⟨_, rfl⟩
  have hu : e.untimed = s.eng.untimed := he ▸ advanceTo_untimed _ _
  have hx : exec .bellwetherStale s = .next { s with eng := (e.modPod fun p => { p with stale := true }).enterUnsynced } := by
    change execBellwetherStale s = _
    refine onEng_eq hl ((if_neg (by simp [Eng.worker, hr, hs])).trans ?_)
    rw [he]
  have h := enterUnsynced_steady (e.modPod fun p => { p with stale := true })
  exact ⟨_, hx, congrArg (·.svc.pod.stale) h, congrArg (·.flt.time.unsynced) h,
    (congrArg (·.npi.peers) h).trans (congrArg (·.npi.peers) hu), rfl⟩

theorem workerSilent_absent {s : State} (hl : s.Live) (d : DevNum) (hr : s.eng.svc.pod.role = 2) (hd : d ≠ s.eng.device)
    (hp : (mapGet {} s.eng.npi.peers d.toNat).state ≠ 0)
    (hb : mapGet 0 s.eng.svc.pod.lastSync d.toNat + max 2 s.eng.svc.pod.lostN.toNat ≤ s.eng.svc.pod.beaconSeq) :
    ∃ t, exec (.workerSilent d) s = .next t ∧
      (mapGet {} t.eng.npi.peers d.toNat).state = 0 ∧ (mapGet {} t.eng.npi.peers d.toNat).cause = 4 ∧
      (∀ x : DevNum, x ≠ d → mapGet {} t.eng.npi.peers x.toNat = mapGet {} s.eng.npi.peers x.toNat) ∧
      RecordsOnly s.eng.svc.pod.areaBase s.mem t.mem := by
  have hst : s.eng.peerState d = (mapGet {} s.eng.npi.peers d.toNat).state := by
    unfold Eng.peerState
    rw [if_neg hd, if_pos (by simp [Eng.bellwether, hr])]
  have hx : exec (.workerSilent d) s = .next { s with
      eng := ((Eff.mk (s.eng.setPeer d 0 4) []).recorded s.eng.npi.peers).eng
      mem := applyOps s.mem ((Eff.mk (s.eng.setPeer d 0 4) []).recorded s.eng.npi.peers).ops } := by
    change execWorkerSilent d s = _
    refine onMem_eq hl (if_pos ?_)
    have h0 : s.eng.peerState d ≠ 0 := hst ▸ hp
    simp only [Bool.and_eq_true, decide_eq_true_eq]
    exact ⟨⟨⟨decide_eq_true hr, h0⟩, hd⟩, hb⟩
  obtain ⟨-, hrs, -⟩ := recorded_keeps (Eff.mk (s.eng.setPeer d 0 4) []) s.eng.npi.peers
  have hpeers := (peers_of_steady hrs).trans (setPeer_peers s.eng d 0 4)
  have hself : mapGet {} (mapSet {} s.eng.npi.peers d.toNat { s.eng.peerOf d with state := 0, cause := 4 }) d.toNat =
      { s.eng.peerOf d with state := 0, cause := 4 } :=
    mapGet_mapSet_self_ne _ _ _ _ fun h => absurd (congrArg PeerStat.cause h) (show (4 : BitVec 4) ≠ 0 by decide)
  have hrec := recordsOnly_recorded (s.eng.setPeer d 0 4) s.eng.npi.peers s.mem
  rw [setPeer_pod] at hrec
  refine ⟨_, hx, ?_, ?_, fun x hne => ?_, hrec⟩
  · dsimp only
    rw [hpeers, hself]
  · dsimp only
    rw [hpeers, hself]
  · dsimp only
    rw [hpeers]
    exact mapGet_mapSet_ne _ _ _ _ _ fun h => hne (BitVec.eq_of_toNat_eq h)

/-- A worker absorbs its correction, and no other device slews (R10, R435). -/
theorem timeCorrectionDone_absorbs {s : State} (hl : s.Live) :
    let p := s.eng.flt.time.pendingNs
    (s.eng.svc.pod.role = 1 → ∃ t, exec .timeCorrectionDone s = .next t ∧ t.eng.flt.time.pendingNs = 0 ∧
      t.eng.now = s.eng.now + BitVec.ofInt 64 (10 * p.natAbs + p) ∧ t.eng.aoCycle = s.eng.aoCycle + p.natAbs ∧ t.mem = s.mem) ∧
    (s.eng.svc.pod.role ≠ 1 → ∃ t, exec .timeCorrectionDone s = .next t ∧ t.eng.now = s.eng.now ∧ t.eng.aoCycle = s.eng.aoCycle ∧
      t.mem = s.mem) := by
  intro p
  have hx : exec .timeCorrectionDone s = .next { s with eng := s.eng.elapse s.eng.slewNs.natAbs } :=
    (onEng_live hl _ : execTimeCorrectionDone s = _)
  refine ⟨fun hr => ?_, fun hr => ?_⟩
  · have hp : s.eng.slewNs = p := if_pos hr
    obtain ⟨x, hu, he⟩ := elapse_eq s.eng s.eng.slewNs.natAbs
    rw [he] at hx
    have hstep : (if s.eng.slewNs < 0 then -min (s.eng.slewNs.natAbs : Int) s.eng.slewNs.natAbs
        else min (s.eng.slewNs.natAbs : Int) s.eng.slewNs.natAbs) = p := by
      rw [hp]
      split <;> omega
    have hpend : x.flt.time.pendingNs = p := congrArg (·.flt.time.pendingNs) hu
    refine ⟨_, hx, ?_, ?_, ?_, rfl⟩
    · dsimp only
      rw [hstep, hpend, sub_self]
    · dsimp only
      rw [hstep, hp]
    · dsimp only
      rw [hp]
  · have hp : s.eng.slewNs = 0 := if_neg hr
    rw [hp] at hx
    refine ⟨_, hx, ?_, Nat.add_zero _, rfl⟩
    obtain ⟨x, -, he⟩ := elapse_eq s.eng (0 : Int).natAbs
    dsimp only
    rw [he, hp]
    simp

/-! ### SPDM requests -/

theorem spdmAnswer_keeps (e : Eng) (k : SpdmKind) : (e.spdmAnswer k).2.out = e.out ∧ (e.spdmAnswer k).2.svc = e.svc ∧
    (e.spdmAnswer k).1 ≠ .busy := by
  unfold Eng.spdmAnswer
  extract_lets values
  split <;> exact ⟨rfl, rfl, nofun⟩

/-- What each kind of request is answered with (R323). -/
theorem spdmAnswer_carries (e : Eng) (k : SpdmKind) :
    let a := (e.spdmAnswer k).1
    (k = .getVersion → a = .version 0x12) ∧ (k = .getDigests → a = .digest 0 (sha384 Config.certChain)) ∧
    (k = .getCertificate → a = .certificate 0 Config.certChain) ∧
    (k = .challenge → ∃ sig, a = .challenged (sha384 e.svc.measures.flatten) sig) ∧
    (∀ signed, k = .getMeasurements signed → ∃ sig : Option (List Byte), sig.isSome = signed ∧
      a = .measured (e.svc.measures.zipIdx.map fun x => (x.2 + 1, x.1)) sig) ∧
    (k = .other → a = .unsupported) := by
  intro a
  refine ⟨?_, ?_, ?_, ?_, ?_, ?_⟩
  · rintro rfl; rfl
  · rintro rfl; rfl
  · rintro rfl; rfl
  · rintro rfl; exact ⟨_, rfl⟩
  · rintro (_ | _) rfl
    · exact ⟨none, rfl, rfl⟩
    · exact ⟨some _, rfl, rfl⟩
  · rintro rfl; rfl

/-- The engine that has heard an SPDM request. -/
def Eng.spdmHeard (e : Eng) (m : Memory) : SpdmFrom → Eng
  | .host => e
  | .peer d => e.heard m d

theorem spdmHeard_keeps {e : Eng} (h : e.svc.power.dormant = false) (m : Memory) (src : SpdmFrom) :
    (e.spdmHeard m src).steady = e.steady ∧ (e.spdmHeard m src).out = e.out := by
  cases src with
  | host => exact ⟨rfl, rfl⟩
  | peer d => exact heard_awake h m d

/-- A requester that is served, or that there is room for, is answered; another receives Busy. -/
def Eng.serveSpdm (e : Eng) (src : SpdmFrom) (k : SpdmKind) : Eng :=
  if e.svc.spdm.contains src then e.answerSpdm src k
  else if 8 ≤ e.svc.spdm.length then e.emit (.spdm src .busy)
  else ({ e with svc := { e.svc with spdm := e.svc.spdm ++ [src] } } : Eng).answerSpdm src k

theorem exec_spdmRequest {s : State} (hl : s.Live) (hd : s.eng.svc.power.dormant = false) (src : SpdmFrom) (k : SpdmKind)
    (hp : 5 ≤ s.eng.svc.start.phase.toNat) (hr : s.eng.svc.restarting = false) :
    ∃ e : Eng, e.steady = s.eng.steady ∧ e.out = s.eng.out ∧ exec (.spdmRequest src k) s = .next { s with eng := e.serveSpdm src k } := by
  obtain ⟨hs, ho⟩ := spdmHeard_keeps hd s.mem src
  refine ⟨s.eng.spdmHeard s.mem src, hs, ho, ?_⟩
  have hruns : (s.eng.spdmHeard s.mem src).spdmRuns = true := by
    have h1 : (s.eng.spdmHeard s.mem src).svc.start = s.eng.svc.start := congrArg (·.svc.start) hs
    have h2 : (s.eng.spdmHeard s.mem src).svc.restarting = s.eng.svc.restarting := congrArg (·.svc.restarting) hs
    simp [Eng.spdmRuns, h1, h2, hp, hr]
  change execSpdmRequest src k s = _
  refine onEng_eq hl ?_
  have hn : ¬ (!(s.eng.spdmHeard s.mem src).spdmRuns) = true := by simp [hruns]
  cases src <;> exact if_neg hn

theorem spdmRequest_answered {s : State} (hl : s.Live) (hd : s.eng.svc.power.dormant = false) (src : SpdmFrom) (k : SpdmKind)
    (hp : 5 ≤ s.eng.svc.start.phase.toNat) (hr : s.eng.svc.restarting = false) :
    (src ∈ s.eng.svc.spdm ∨ s.eng.svc.spdm.length < 8 → ∃ t a, exec (.spdmRequest src k) s = .next t ∧
      t.eng.out = s.eng.out ++ [.spdm src a] ∧ a ≠ .busy ∧ src ∈ t.eng.svc.spdm ∧ t.mem = s.mem ∧
      (k = .getVersion → a = .version 0x12) ∧ (k = .getDigests → a = .digest 0 (sha384 Config.certChain)) ∧
      (k = .getCertificate → a = .certificate 0 Config.certChain) ∧
      (k = .challenge → ∃ sig, a = .challenged (sha384 s.eng.svc.measures.flatten) sig) ∧
      (∀ signed, k = .getMeasurements signed → ∃ sig : Option (List Byte), sig.isSome = signed ∧
        a = .measured (s.eng.svc.measures.zipIdx.map fun x => (x.2 + 1, x.1)) sig) ∧
      (k = .other → a = .unsupported)) ∧
    (src ∉ s.eng.svc.spdm → 8 ≤ s.eng.svc.spdm.length → ∃ t, exec (.spdmRequest src k) s = .next t ∧
      t.eng.out = s.eng.out ++ [.spdm src .busy] ∧ t.eng.svc.spdm = s.eng.svc.spdm ∧ t.mem = s.mem) := by
  obtain ⟨e, hs, ho, hx⟩ := exec_spdmRequest hl hd src k hp hr
  have hspdm : e.svc.spdm = s.eng.svc.spdm := congrArg (·.svc.spdm) hs
  have hmeas : e.svc.measures = s.eng.svc.measures := congrArg (·.svc.measures) hs
  unfold Eng.serveSpdm at hx
  rw [← ho, ← hspdm, ← hmeas]
  refine ⟨fun h => ?_, fun hn h8 => ?_⟩
  · by_cases hm : src ∈ e.svc.spdm
    · rw [if_pos (by simpa using hm)] at hx
      obtain ⟨k1, k2, k3⟩ := spdmAnswer_keeps e k
      refine ⟨_, _, hx, congrArg (· ++ [_]) k1, k3, ?_, rfl, spdmAnswer_carries e k⟩
      rw [← k2] at hm
      exact hm
    · rw [if_neg (by simpa using hm), if_neg (Nat.not_le.mpr (h.resolve_left hm))] at hx
      obtain ⟨k1, k2, k3⟩ := spdmAnswer_keeps ({ e with svc := { e.svc with spdm := e.svc.spdm ++ [src] } } : Eng) k
      refine ⟨_, _, hx, congrArg (· ++ [_]) k1, k3, ?_, rfl,
        spdmAnswer_carries ({ e with svc := { e.svc with spdm := e.svc.spdm ++ [src] } } : Eng) k⟩
      have hm' : src ∈ (({ e with svc := { e.svc with spdm := e.svc.spdm ++ [src] } } : Eng).spdmAnswer k).2.svc.spdm := by
        rw [k2]
        simp
      exact hm'
  · rw [if_neg (by simpa using hn), if_pos h8] at hx
    exact ⟨_, hx, rfl, rfl, rfl⟩

/-- Settles O53: beacons by R430 to R432, exchanges by R434 to R436, silence and staleness by R433 and R437, and SPDM requests by R323; logs 52, 54
and 59. -/
theorem beaconsAndTimeExchanges : Obligations.BeaconsAndTimeExchanges := by
  intro s b q a d src k hl _ hd
  exact ⟨beaconSend_publishes hl, beaconReceive_takes hl hd b, beaconReceive_ignores hl hd b, fun hr ht => syncReq_answered hl hd q hr ht,
    syncRsp_corrects hl hd a, bellwetherStale_unsyncs hl, workerSilent_absent hl d, timeCorrectionDone_absorbs hl,
    spdmRequest_answered hl hd src k⟩

end Sys2Proof.Machine
end

section
/-! Set-up of the pod, JOINs and verdicts (R425 to R433), and the member records that they leave. -/

namespace Sys2Proof.Machine

/-! ### What a message leaves of the pod, in Dormant too -/

/-- The vector and the pod's registers. -/
def Eng.podSide (e : Eng) : SMap PeerStat × Pod := (e.npi.peers, e.svc.pod)

theorem peers_of_podSide {e e' : Eng} (h : e'.podSide = e.podSide) : e'.npi.peers = e.npi.peers := congrArg Prod.fst h

theorem pod_of_podSide {e e' : Eng} (h : e'.podSide = e.podSide) : e'.svc.pod = e.svc.pod := congrArg Prod.snd h

theorem peerOf_congr {e e' : Eng} (h : e'.npi.peers = e.npi.peers) (d : DevNum) : e'.peerOf d = e.peerOf d := by
  unfold Eng.peerOf
  rw [h]

theorem podSide_of_steady {e e' : Eng} (h : e'.steady = e.steady) : e'.podSide = e.podSide := by
  unfold Eng.podSide
  rw [peers_of_steady h, pod_of_steady h]

theorem podSide_of_power {e e' : Eng} (h : PowerSide e e') : e'.podSide = e.podSide := by
  rw [h.1]
  rfl

theorem advanceTo_podSide (e : Eng) (t : Word) : (e.advanceTo t).podSide = e.podSide := by
  have h := congrArg Eng.podSide (advanceTo_untimed e t)
  exact h

theorem restoreHomes_podSide (e : Eng) (m : Memory) : (e.restoreHomes m).podSide = e.podSide := by
  unfold Eng.restoreHomes
  split
  · rfl
  · extract_lets image found
    split <;> rfl

theorem exitDormant_podSide (e : Eng) (m : Memory) : (e.exitDormant m).podSide = e.podSide := by
  unfold Eng.exitDormant
  extract_lets e₁ e₂ src e₃
  have h₁ : e₁.podSide = e.podSide := restoreHomes_podSide e m
  have h₂ : e₂.podSide = e₁.podSide :=
    podSide_of_steady ((enter_steady _ _ _).trans (steady_foldl (fun e r => enter_steady e _ _) regions e₁))
  have h₄ : (if e₃.svc.power.engine.wantSince.isSome then e₃.wakeEngine else e₃).podSide = e₃.podSide := by
    split
    · exact podSide_of_steady (wakeEngine_steady _)
    · rfl
  calc _ = _ := podSide_of_steady (serveQueue_steady 4 _)
    _ = _ := podSide_of_power (Eng.engineFloor_side _)
    _ = e₃.podSide := h₄
    _ = e₂.podSide := rfl
    _ = e.podSide := h₂.trans h₁

theorem ended_podSide (e : Eng) (m : Memory) : (e.ended m).podSide = e.podSide := by
  unfold Eng.ended
  split
  · extract_lets e₁
    exact (exitDormant_podSide _ m).trans ((advanceTo_podSide _ _).trans (podSide_of_power e.beginExit_side))
  · rfl

/-- A message from a device changes neither the vector nor the pod's registers of itself. -/
theorem heard_podSide (e : Eng) (m : Memory) (d : DevNum) : (e.heard m d).npi.peers = e.npi.peers ∧ (e.heard m d).svc.pod = e.svc.pod := by
  have h : (e.heard m d).podSide = e.podSide := by
    unfold Eng.heard
    extract_lets src npi
    exact (podSide_of_steady (wakeEngine_steady _)).trans (ended_podSide { e with npi := npi } m)
  exact ⟨peers_of_podSide h, pod_of_podSide h⟩

/-! ### A JOIN that leaves -/

/-- What the worker's JOIN says of its sender. -/
def Eng.joined (e : Eng) (out : List Out) (dev bw : DevNum) : Prop :=
  ∃ m, Out.npi bw (.join m) ∈ out ∧ m.dev = dev ∧ m.bellwether = bw ∧ m.epoch = e.svc.pod.epoch ∧ m.stale = e.svc.pod.stale

/-- A JOIN carries the registers as they are, and notes its stamp. -/
theorem sendJoin_sends {e : Eng} (h : e.svc.pod.role = 1) (r : Bool) :
    ((e.sendJoin r).joined (e.sendJoin r).out e.device e.svc.pod.bellwether) ∧ (e.sendJoin r).svc.pod.joinAt = e.now := by
  rw [sendJoin_worker h]
  exact ⟨⟨e.joinMsg r, List.mem_append_right _ (List.mem_singleton.mpr rfl), rfl, rfl, rfl, rfl⟩, rfl⟩

/-- Of the pod's registers a JOIN changes its stamp and its first mark alone. -/
theorem sendJoin_keeps (e : Eng) (r : Bool) : (∃ t b, (e.sendJoin r).svc.pod = { e.svc.pod with joinAt := t, joined := b }) ∧
    (e.sendJoin r).npi = e.npi ∧ (e.sendJoin r).flt = e.flt ∧ (e.sendJoin r).now = e.now := by
  unfold Eng.sendJoin
  split
  · exact ⟨⟨_, _, rfl⟩, rfl, rfl, rfl⟩
  · exact ⟨⟨_, _, rfl⟩, rfl, rfl, rfl⟩

theorem podEpochWrite_joins {s : State} (hl : s.Live) {w : RegWrite} (hw : w.half ≠ .high) :
    ∃ t, exec (.podEpochWrite w) s = .next t ∧ t.eng.svc.pod.epoch = w.value.extractLsb' 0 32 ∧
      (s.eng.svc.pod.role = 1 → t.eng.joined t.eng.out s.eng.device s.eng.svc.pod.bellwether) ∧ t.eng.npi = s.eng.npi ∧ t.mem = s.mem := by
  obtain ⟨e, he⟩ : ∃ e, e = s.eng.modPod fun p => { p with epoch := w.value.extractLsb' 0 32 } := ⟨_, rfl⟩
  have hx : exec (.podEpochWrite w) s = .next { s with eng := e.sendJoin false } := by
    have hc : halfCovers w.half 0 = true := by cases hh : w.half <;> simp_all [halfCovers]
    change execPodEpochWrite w s = _
    refine onEng_eq hl ?_
    rw [Eng.access_ao _ _ rfl, if_pos hc, ← he]
  have hn : e.npi = s.eng.npi := by rw [he]; rfl
  have hp : e.svc.pod = { s.eng.svc.pod with epoch := w.value.extractLsb' 0 32 } := by rw [he]; rfl
  obtain ⟨⟨t, b, hpod⟩, hnpi, -, -⟩ := sendJoin_keeps e false
  refine ⟨_, hx, ?_, fun hr => ?_, hnpi.trans hn, rfl⟩
  · exact (congrArg Pod.epoch hpod).trans (congrArg Pod.epoch hp)
  · have hj := (sendJoin_sends (e := e) (by rw [hp]; exact hr) false).1
    rw [Eng.device, hp] at hj
    exact hj

theorem joinSend_joins {s : State} (hl : s.Live) (hr : s.eng.svc.pod.role = 1) (hs : s.eng.svc.pod.self = 0 ∨ s.eng.svc.pod.stale = true) :
    ∃ t, exec .joinSend s = .next t ∧ t.eng.joined t.eng.out s.eng.device s.eng.svc.pod.bellwether ∧
      t.eng.svc.pod.joinAt = t.eng.now ∧ t.mem = s.mem := by
  obtain ⟨e, he⟩ : ∃ e, e = s.eng.advanceTo (s.eng.svc.pod.joinAt + 100000) := ⟨_, rfl⟩
  have hp : e.svc.pod = s.eng.svc.pod := by
    rw [he]
    exact pod_of_podSide (advanceTo_podSide _ _)
  have hx : exec .joinSend s = .next { s with eng := e.sendJoin false } := by
    change execJoinSend s = _
    refine onEng_eq hl ?_
    rw [he]
    exact if_pos (by simpa [Eng.worker, hr] using hs)
  obtain ⟨hj, ha⟩ := sendJoin_sends (e := e) (by rw [hp]; exact hr) false
  obtain ⟨-, -, -, hn⟩ := sendJoin_keeps e false
  rw [Eng.device, hp] at hj
  exact ⟨_, hx, hj, ha.trans hn.symm, rfl⟩

/-! ### SVC_POD_CTL -/

/-- The fields of SVC_POD_CTL as a write loads them (R7, R425). -/
def Eng.podFields (e : Eng) (w : RegWrite) : Eng :=
  let quiet := e.ctxs.all fun c => decide (c.2.state = .disabled)
  let e := e.modPod fun p => { p with
    role := if quiet then fieldOf w.half w.value 62 p.role else p.role
    bellwether := fieldOf w.half w.value 48 p.bellwether
    notify := if w.half = .low then p.notify else bitOf w.value 47
    vector := fieldOf w.half w.value 32 p.vector
    beaconUs := fieldOf w.half w.value 16 p.beaconUs
    lostN := fieldOf w.half w.value 8 p.lostN }
  if e.svc.pod.role = 1 then e else e.modTime fun t => { t with pendingNs := 0 }

/-- Every peer ABSENT, and the device itself. -/
def Eng.podAnew (e : Eng) : Eng :=
  (e.withPeers []).modPod fun p => { p with self := 0, stale := false, judging := [], joinQueue := [], lastSync := [], published := [] }

theorem podCtlWrite_eq (e : Eng) (m : Memory) (w : RegWrite) : e.podCtlWrite m w =
    let e := e.podFields w
    let e := if halfCovers w.half 48 then e.podAnew.sendJoin false else e
    if halfCovers w.half 0 && bitOf w.value 0 then e.reverify m else ⟨e, []⟩ := by
  unfold Eng.podCtlWrite Eng.podFields
  have hn (old : Bool) : wrBit w.half w.value 47 old = if w.half = .low then old else bitOf w.value 47 := by
    rw [wrBit_eq]
    cases w.half <;> rfl
  simp only [ofNat_wrField (hi := 63) (lo := 62) (n := 2) _ _ _ (by omega) (by omega) (by omega) (.inr (.inr (by omega))),
    ofNat_wrField (hi := 59) (lo := 48) (n := 12) _ _ _ (by omega) (by omega) (by omega) (.inr (.inr (by omega))),
    ofNat_wrField (hi := 42) (lo := 32) (n := 11) _ _ _ (by omega) (by omega) (by omega) (.inr (.inr (by omega))),
    ofNat_wrField (hi := 31) (lo := 16) (n := 16) _ _ _ (by omega) (by omega) (by omega) (.inr (.inl (by omega))),
    ofNat_wrField (hi := 15) (lo := 8) (n := 8) _ _ _ (by omega) (by omega) (by omega) (.inr (.inl (by omega))), hn]
  rfl

/-- What a write of SVC_POD_CTL leaves as it is (R425). -/
theorem podFields_keeps (e : Eng) (w : RegWrite) : (e.podFields w).npi = e.npi ∧
    (∃ r b n v u l, (e.podFields w).svc.pod = { e.svc.pod with role := r, bellwether := b, notify := n, vector := v, beaconUs := u, lostN := l } ∧
      r = (if e.ctxs.all fun c => decide (c.2.state = .disabled) then fieldOf w.half w.value 62 e.svc.pod.role else e.svc.pod.role) ∧
      b = fieldOf w.half w.value 48 e.svc.pod.bellwether ∧ n = (if w.half = .low then e.svc.pod.notify else bitOf w.value 47) ∧
      v = fieldOf w.half w.value 32 e.svc.pod.vector ∧ u = fieldOf w.half w.value 16 e.svc.pod.beaconUs) ∧
    ((e.podFields w).svc.pod.role ≠ 1 → (e.podFields w).flt.time.pendingNs = 0) := by
  unfold Eng.podFields
  extract_lets quiet e₁
  split
  · next h => exact ⟨rfl, ⟨_, _, _, _, _, _, rfl, rfl, rfl, rfl, rfl, rfl⟩, fun h' => absurd h h'⟩
  · exact ⟨rfl, ⟨_, _, _, _, _, _, rfl, rfl, rfl, rfl, rfl, rfl⟩, fun _ => rfl⟩

theorem podCtlWrite_startsAnew {s : State} (hl : s.Live) {w : RegWrite} (hw : w.half ≠ .low) (hv : w.half = .high ∨ bitOf w.value 0 = false) :
    let pod := s.eng.svc.pod
    ∃ t, exec (.podCtlWrite w) s = .next t ∧
      t.eng.svc.pod.bellwether = w.value.extractLsb' 48 12 ∧ t.eng.svc.pod.notify = bitOf w.value 47 ∧
      t.eng.svc.pod.vector = w.value.extractLsb' 32 11 ∧
      t.eng.svc.pod.role = (if s.eng.ctxs.all fun c => decide (c.2.state = .disabled) then w.value.extractLsb' 62 2 else pod.role) ∧
      t.eng.svc.pod.beaconUs = (if w.half = .both then w.value.extractLsb' 16 16 else pod.beaconUs) ∧
      t.eng.npi.peers = [] ∧ t.eng.svc.pod.self = 0 ∧ t.eng.svc.pod.stale = false ∧
      (t.eng.svc.pod.role ≠ 1 → t.eng.flt.time.pendingNs = 0) ∧
      (t.eng.svc.pod.role = 1 → t.eng.joined t.eng.out s.eng.device t.eng.svc.pod.bellwether) ∧
      (t.eng.svc.pod.role ≠ 2 → t.mem = s.mem) ∧ RecordsOnly pod.areaBase s.mem t.mem := by
  intro pod
  have high {n : Nat} (lo : Nat) (h : 32 ≤ lo ∧ 0 < n) (old : BitVec n) : fieldOf w.half w.value lo old = w.value.extractLsb' lo n :=
    if_neg (by simp [hw]; omega)
  have h48 : halfCovers w.half 48 = true := by cases hh : w.half <;> simp_all [halfCovers]
  have hnr : (halfCovers w.half 0 && bitOf w.value 0) = false := by
    rcases hv with h | h
    · rw [h]
      rfl
    · rw [h, Bool.and_false]
  obtain ⟨-, ⟨r, b, n, v, u, l, hf, hr, hb, hn, hvec, hu⟩, hpend⟩ := podFields_keeps s.eng w
  rw [high 62 ⟨by omega, by omega⟩] at hr
  rw [high 48 ⟨by omega, by omega⟩] at hb
  rw [if_neg hw] at hn
  rw [high 32 ⟨by omega, by omega⟩] at hvec
  have hu' : u = if w.half = .both then w.value.extractLsb' 16 16 else pod.beaconUs := by
    rw [hu]
    unfold fieldOf
    cases hh : w.half with
    | both => rfl
    | low => exact absurd hh hw
    | high => rfl
  obtain ⟨a, ha⟩ : ∃ a, a = (s.eng.podFields w).podAnew := ⟨_, rfl⟩
  have hx : exec (.podCtlWrite w) s = .next { s with
      eng := ((Eff.mk (a.sendJoin false) []).recorded s.eng.npi.peers).eng
      mem := applyOps s.mem ((Eff.mk (a.sendJoin false) []).recorded s.eng.npi.peers).ops } := by
    have hc : s.eng.podCtlWrite s.mem w = ⟨a.sendJoin false, []⟩ := by
      rw [podCtlWrite_eq]
      dsimp only
      rw [if_pos h48, hnr, ha]
      rfl
    change execPodCtlWrite w s = _
    refine onMem_eq hl ?_
    rw [if_pos (by rfl), hc]
  obtain ⟨⟨jt, jb, hjp⟩, hjn, hjf, -⟩ := sendJoin_keeps a false
  have hap : a.svc.pod = { (s.eng.podFields w).svc.pod with
      self := 0, stale := false, judging := [], joinQueue := [], lastSync := [], published := [] } := by rw [ha]; rfl
  have hapeers : a.npi.peers = [] := by rw [ha]; rfl
  have haflt : a.flt = (s.eng.podFields w).flt := by rw [ha]; rfl
  have hjoin := fun h => (sendJoin_sends (e := a) h false).1
  have hrec := recordsOnly_recorded (a.sendJoin false) s.eng.npi.peers s.mem
  obtain ⟨hops, hst, hout⟩ := recorded_keeps (Eff.mk (a.sendJoin false) []) s.eng.npi.peers
  generalize (Eff.mk (a.sendJoin false) []).recorded s.eng.npi.peers = x at hx hrec hops hst hout
  have hpod : x.eng.svc.pod = { s.eng.svc.pod with
      role := r, bellwether := b, notify := n, vector := v, beaconUs := u, lostN := l
      self := 0, stale := false, judging := [], joinQueue := [], lastSync := [], published := [], joinAt := jt, joined := jb } := by
    rw [pod_of_steady hst, hjp, hap, hf]
  have harole : a.svc.pod.role = r := by rw [hap, hf]
  have habw : a.svc.pod.bellwether = b := by rw [hap, hf]
  have hadev : a.device = s.eng.device := by
    unfold Eng.device
    rw [hap, hf]
  have harea : (a.sendJoin false).svc.pod.areaBase = pod.areaBase := by rw [hjp, hap, hf]
  refine ⟨_, hx, ?_, ?_, ?_, ?_, ?_, ?_, ?_, ?_, fun hr1 => ?_, fun hr1 => ?_, fun hr2 => ?_, ?_⟩
  · exact (congrArg Pod.bellwether hpod).trans hb
  · exact (congrArg Pod.notify hpod).trans hn
  · exact (congrArg Pod.vector hpod).trans hvec
  · exact (congrArg Pod.role hpod).trans hr
  · exact (congrArg Pod.beaconUs hpod).trans hu'
  · exact (peers_of_steady hst).trans ((congrArg Npi.peers hjn).trans hapeers)
  · exact congrArg Pod.self hpod
  · exact congrArg Pod.stale hpod
  · have hr' : (s.eng.podFields w).svc.pod.role ≠ 1 := by
      rw [hf]
      rw [hpod] at hr1
      exact hr1
    have ht : x.eng.flt.time = (s.eng.podFields w).flt.time := by rw [time_of_steady hst, hjf, haflt]
    exact (congrArg TimeStat.pendingNs ht).trans (hpend hr')
  · have hr' : a.svc.pod.role = 1 := by
      rw [harole]
      rw [hpod] at hr1
      exact hr1
    obtain ⟨m, hm, hd, hmb, hme, hms⟩ := hjoin hr'
    have hbw : x.eng.svc.pod.bellwether = a.svc.pod.bellwether := (congrArg Pod.bellwether hpod).trans habw.symm
    have hpx : x.eng.svc.pod = (a.sendJoin false).svc.pod := pod_of_steady hst
    rw [← hbw] at hm hmb
    rw [← hpx] at hme hms
    exact ⟨m, (congrArg (Out.npi _ (.join m) ∈ ·) hout).mpr hm, hd.trans hadev, hmb, hme, hms⟩
  · have hr' : (a.sendJoin false).svc.pod.role ≠ 2 := by
      rw [hjp, hap, hf]
      rw [hpod] at hr2
      exact hr2
    dsimp only
    rw [hops, changedPeers_nil _ (.inr hr')]
    rfl
  · rw [harea] at hrec
    exact hrec

end Sys2Proof.Machine
end

section
/-! What the Bellwether makes of a JOIN, of a verdict and of REVERIFY: the entries of the vector and their member records (R428, R429, R432, R433). -/

namespace Sys2Proof.Machine

/-! ### What is read of the records -/

/-- Two engines that read the member records and judge them alike. -/
def Eng.judgesAs (e e' : Eng) : Prop :=
  e'.svc.pod.areaBase = e.svc.pod.areaBase ∧ e'.svc.pod.reqCount = e.svc.pod.reqCount ∧ e'.svc.pod.epoch = e.svc.pod.epoch

theorem judgesAs_of_pod {e e' : Eng} (h : e'.svc.pod = e.svc.pod) : e.judgesAs e' := by
  unfold Eng.judgesAs
  rw [h]
  exact ⟨rfl, rfl, rfl⟩

theorem recordAddr_congr {e e' : Eng} (h : e.judgesAs e') : e'.recordAddr = e.recordAddr := by
  funext d
  unfold Eng.recordAddr
  rw [h.1]

theorem firmwareOk_congr {e e' : Eng} (h : e.judgesAs e') : e'.firmwareOk = e.firmwareOk := by
  obtain ⟨ha, hq, -⟩ := h
  funext m m2 dg
  unfold Eng.firmwareOk Eng.requiredSet
  rw [ha, hq]

theorem storedFirmware_congr {e e' : Eng} (h : e.judgesAs e') : e'.storedFirmware = e.storedFirmware := by
  funext m d
  unfold Eng.storedFirmware
  rw [recordAddr_congr h]

theorem judge_congr {e e' : Eng} (h : e.judgesAs e') : e'.judge = e.judge := by
  funext m epoch m2 dg
  unfold Eng.judge
  rw [firmwareOk_congr h, h.2.2]

theorem recordPasses_congr {e e' : Eng} (h : e.judgesAs e') : e'.recordPasses = e.recordPasses := by
  funext m d
  unfold Eng.recordPasses
  rw [storedFirmware_congr h, firmwareOk_congr h]

/-! ### The record of a verdict -/

/-- The bytes of a member record (R428). -/
def Eng.memberBytes (e : Eng) (ident epoch : BitVec 32) (measure2 digest : List Byte) (st : BitVec 2) (cause : BitVec 4) : List Byte :=
  let pad := fun (l : List Byte) => (l ++ List.replicate 48 0).take 48
  leBytes 4 ident.toNat ++ leBytes 4 epoch.toNat ++ leBytes 8 e.now.toNat ++ pad measure2 ++ pad digest ++ leBytes 16 (st.toNat + 16 * cause.toNat)

theorem padded_length (l : List Byte) : ((l ++ List.replicate 48 0).take 48).length = 48 := by
  simp

theorem memberBytes_length (e : Eng) (ident epoch : BitVec 32) (m2 dg : List Byte) (st : BitVec 2) (cause : BitVec 4) :
    (e.memberBytes ident epoch m2 dg st cause).length = 128 := by
  simp [Eng.memberBytes]

/-- Where there is an area, a verdict's record is one write of 128 bytes. -/
theorem writeMember_keeps (e : Eng) (d : DevNum) (ident epoch : BitVec 32) (m2 dg : List Byte) (st : BitVec 2) (cause : BitVec 4) :
    (e.writeMember d ident epoch m2 dg st cause).ops =
      (if e.svc.pod.areaBase = 0 then [] else [⟨e.recordAddr d, .clear, e.memberBytes ident epoch m2 dg st cause⟩]) ∧
    (e.writeMember d ident epoch m2 dg st cause).eng.steady = e.steady ∧ (e.writeMember d ident epoch m2 dg st cause).eng.out = e.out := by
  unfold Eng.writeMember
  extract_lets pad bytes
  split
  · exact ⟨rfl, rfl, rfl⟩
  · exact put_keeps (Eff.mk e []) _

theorem noteBad_steady (e : Eng) (st : BitVec 2) : (e.noteBad st).steady = e.steady := by
  unfold Eng.noteBad
  split <;> rfl

/-! ### REVERIFY -/

/-- A write to the member records, which there is only where they have an area. -/
def RecordWrite (base : BitVec 44) (o : MemOp) : Prop := base ≠ 0 ∧ InRecords base o

/-- The entry that a judgement from the record leaves (R433). -/
def Eng.rejudged (e : Eng) (m : Memory) (k : Nat) (p : PeerStat) : BitVec 2 × BitVec 4 :=
  let fw := e.storedFirmware m (BitVec.ofNat 12 k)
  p.rejudged (e.judge m p.epoch fw.1 fw.2)

theorem rejudge_eq (e : Eng) (m : Memory) (k : Nat) (p : PeerStat) : ∃ st : BitVec 2, e.rejudge m (BitVec.ofNat 12 k) p =
    ((e.setPeer (BitVec.ofNat 12 k) (e.rejudged m k p).1 (e.rejudged m k p).2).noteBad st).writeMember (BitVec.ofNat 12 k) p.ident p.epoch
      (e.storedFirmware m (BitVec.ofNat 12 k)).1 (e.storedFirmware m (BitVec.ofNat 12 k)).2 (e.rejudged m k p).1 (e.rejudged m k p).2 :=
  ⟨_, rfl⟩

theorem rejudge_keeps (e : Eng) (m : Memory) (k : Nat) (hk : k < 4096) (p : PeerStat) :
    (e.rejudge m (BitVec.ofNat 12 k) p).eng.svc.pod = e.svc.pod ∧
    (e.rejudge m (BitVec.ofNat 12 k) p).eng.npi.peers =
      mapSet {} e.npi.peers k { mapGet {} e.npi.peers k with state := (e.rejudged m k p).1, cause := (e.rejudged m k p).2 } ∧
    ∀ o ∈ (e.rejudge m (BitVec.ofNat 12 k) p).ops, RecordWrite e.svc.pod.areaBase o := by
  have hn : (BitVec.ofNat 12 k).toNat = k := by
    simp only [BitVec.toNat_ofNat]
    omega
  obtain ⟨st, hx⟩ := rejudge_eq e m k p
  rw [hx]
  generalize e.rejudged m k p = new, e.storedFirmware m (BitVec.ofNat 12 k) = fw
  have hs : ((e.setPeer (BitVec.ofNat 12 k) new.1 new.2).noteBad st).steady = (e.setPeer (BitVec.ofNat 12 k) new.1 new.2).steady :=
    noteBad_steady _ _
  have hpod := (pod_of_steady hs).trans (setPeer_pod _ _ _ _)
  have hpeers := (peers_of_steady hs).trans (setPeer_peers _ _ _ _)
  generalize (e.setPeer (BitVec.ofNat 12 k) new.1 new.2).noteBad st = a at hpod hpeers
  obtain ⟨hops, hst, -⟩ := writeMember_keeps a (BitVec.ofNat 12 k) p.ident p.epoch fw.1 fw.2 new.1 new.2
  refine ⟨(pod_of_steady hst).trans hpod, (peers_of_steady hst).trans (hpeers.trans ?_), ?_⟩
  · unfold Eng.peerOf
    rw [hn]
  · rw [hops, ← hpod]
    split
    · simp
    · next h0 =>
      intro o ho
      rw [List.mem_singleton.mp ho]
      exact ⟨h0, inRecords_of_bounds ⟨Nat.le_refl _, Nat.le_of_eq (congrArg _ (memberBytes_length _ _ _ _ _ _ _))⟩⟩

/-- Effects made one after the other: the engine goes from one to the next, and each write is one of theirs. -/
theorem foldl_eff {β : Type} {F : Eng → β → Eff} {pod : Pod} {P : MemOp → Prop} (l : List β)
    (hF : ∀ e, e.svc.pod = pod → ∀ b ∈ l, (F e b).eng.svc.pod = pod ∧ ∀ o ∈ (F e b).ops, P o) (x : Eff) (hi : x.eng.svc.pod = pod) (hx : ∀ o ∈ x.ops, P o) :
    let y := l.foldl (fun (x : Eff) b => Eff.mk (F x.eng b).eng (x.ops ++ (F x.eng b).ops)) x
    y.eng = l.foldl (fun e b => (F e b).eng) x.eng ∧ y.eng.svc.pod = pod ∧ ∀ o ∈ y.ops, P o := by
  induction l generalizing x with
  | nil => exact ⟨rfl, hi, hx⟩
  | cons b l ih =>
    obtain ⟨h1, h2⟩ := hF x.eng hi b (by simp)
    refine ih (fun e he b hb => hF e he b (List.mem_cons_of_mem _ hb)) ⟨(F x.eng b).eng, x.ops ++ (F x.eng b).ops⟩ h1 fun o ho => ?_
    rcases List.mem_append.mp ho with ho | ho
    · exact hx o ho
    · exact h2 o ho

/-- The entries of which there is a member record. -/
def Eng.recordedPeers (e : Eng) : List (Nat × PeerStat) := e.npi.peers.filter fun p => p.2.member

theorem rejudge_alike {e a : Eng} (ha : a.svc.pod = e.svc.pod) (m : Memory) (k : Nat) (hk : k < 4096) (p : PeerStat) :
    (a.rejudge m (BitVec.ofNat 12 k) p).eng.svc.pod = e.svc.pod ∧
    (a.rejudge m (BitVec.ofNat 12 k) p).eng.npi.peers =
      mapSet {} a.npi.peers k { mapGet {} a.npi.peers k with state := (e.rejudged m k p).1, cause := (e.rejudged m k p).2 } ∧
    ∀ o ∈ (a.rejudge m (BitVec.ofNat 12 k) p).ops, RecordWrite e.svc.pod.areaBase o := by
  obtain ⟨h1, h2, h3⟩ := rejudge_keeps a m k hk p
  have hj : a.rejudged m k p = e.rejudged m k p := by
    unfold Eng.rejudged
    rw [storedFirmware_congr (judgesAs_of_pod ha), judge_congr (judgesAs_of_pod ha)]
  rw [hj] at h2
  rw [ha] at h1 h3
  exact ⟨h1, h2, h3⟩

theorem reverify_eq {e : Eng} (hr : e.svc.pod.role = 2) (m : Memory) : e.reverify m = e.recordedPeers.foldl (fun (x : Eff) p =>
    Eff.mk (x.eng.rejudge m (BitVec.ofNat 12 p.1) p.2).eng (x.ops ++ (x.eng.rejudge m (BitVec.ofNat 12 p.1) p.2).ops)) ⟨e, []⟩ :=
  if_neg (by simp [Eng.bellwether, hr])

/-- Every entry with a verdict becomes what its record makes of it, and no other entry changes; only member records are written (R433). -/
theorem reverify_keeps {e : Eng} (hr : e.svc.pod.role = 2) (w : MapWf {} e.npi.peers) (hk : ∀ x ∈ e.npi.peers, x.1 < 4096) (m : Memory) :
    (e.reverify m).eng.svc.pod = e.svc.pod ∧
    (∀ d : DevNum, (e.reverify m).eng.peerOf d = if (e.peerOf d).member then { e.peerOf d with
        state := (e.rejudged m d.toNat (e.peerOf d)).1, cause := (e.rejudged m d.toNat (e.peerOf d)).2 } else e.peerOf d) ∧
    ∀ o ∈ (e.reverify m).ops, RecordWrite e.svc.pod.areaBase o := by
  have hk' : ∀ p ∈ e.recordedPeers, p.1 < 4096 := fun p hp => hk p (List.mem_of_mem_filter hp)
  have hF : ∀ a : Eng, a.svc.pod = e.svc.pod → ∀ p ∈ e.recordedPeers, (a.rejudge m (BitVec.ofNat 12 p.1) p.2).eng.svc.pod = e.svc.pod ∧
      ∀ o ∈ (a.rejudge m (BitVec.ofNat 12 p.1) p.2).ops, RecordWrite e.svc.pod.areaBase o := by
    intro a ha p hp
    obtain ⟨h1, -, h3⟩ := rejudge_alike ha m p.1 (hk' p hp) p.2
    exact ⟨h1, h3⟩
  have hG : ∀ a : Eng, a.svc.pod = e.svc.pod → ∀ p ∈ e.recordedPeers, (a.rejudge m (BitVec.ofNat 12 p.1) p.2).eng.svc.pod = e.svc.pod ∧
      (a.rejudge m (BitVec.ofNat 12 p.1) p.2).eng.npi.peers = mapSet {} a.npi.peers p.1
        { mapGet {} a.npi.peers p.1 with state := (e.rejudged m p.1 p.2).1, cause := (e.rejudged m p.1 p.2).2 } := by
    intro a ha p hp
    obtain ⟨h1, h2, -⟩ := rejudge_alike ha m p.1 (hk' p hp) p.2
    exact ⟨h1, h2⟩
  obtain ⟨heng, hpod, hops⟩ := foldl_eff (F := fun (a : Eng) (p : Nat × PeerStat) => a.rejudge m (BitVec.ofNat 12 p.1) p.2) e.recordedPeers hF ⟨e, []⟩ rfl fun o ho => absurd ho List.not_mem_nil
  obtain ⟨h1, h2⟩ := foldl_peers (F := fun (a : Eng) (p : Nat × PeerStat) => (a.rejudge m (BitVec.ofNat 12 p.1) p.2).eng)
    (g := fun p x => { x with state := (e.rejudged m p.1 p.2).1, cause := (e.rejudged m p.1 p.2).2 }) e.recordedPeers
    hG e rfl (w.1.filter _) w
  rw [reverify_eq hr]
  refine ⟨hpod, fun d => ?_, hops⟩
  rw [Eng.peerOf, heng]
  split
  · next hm =>
    have hne : e.peerOf d ≠ {} := fun h0 => by
      rw [h0] at hm
      exact absurd hm (by decide)
    exact h1 (d.toNat, e.peerOf d) (List.mem_filter.mpr ⟨mem_of_peerOf_ne hne, hm⟩)
  · next hm =>
    refine h2 d.toNat fun p hp hpd => hm ?_
    obtain ⟨hmem, hpm⟩ := List.mem_filter.mp hp
    have hpe : p.2 = e.peerOf d := by
      rw [← mapGet_of_mem w hmem, hpd]
      rfl
    rw [← hpe]
    exact hpm

/-- A write of the low half with REVERIFY leaves the role and everything that judges. -/
theorem podFields_low {e : Eng} {w : RegWrite} (hw : w.half = .low) : (e.podFields w).svc.pod.role = e.svc.pod.role ∧
    e.judgesAs (e.podFields w) ∧ (e.podFields w).npi = e.npi := by
  obtain ⟨hn, ⟨r, b, n, v, u, l, hf, hr, -⟩, -⟩ := podFields_keeps e w
  have hrole : r = e.svc.pod.role := by
    rw [hr, hw]
    split <;> rfl
  unfold Eng.judgesAs
  rw [hf]
  exact ⟨hrole, ⟨rfl, rfl, rfl⟩, hn⟩

theorem exec_reverify (w : RegWrite) (s : State) : exec (.reverify w) s = exec (.podCtlWrite { w with value := w.value ||| 1 }) s := rfl

theorem reverify_judges {s : State} (hl : s.Live) (ht : TabInv s) (hk : ∀ x ∈ s.eng.npi.peers, x.1 < 4096) {w : RegWrite}
    (hw : w.half = .low) (hr : s.eng.svc.pod.role = 2) :
    ∃ t, exec (.reverify w) s = .next t ∧ RecordsOnly s.eng.svc.pod.areaBase s.mem t.mem ∧ ∀ d : DevNum, t.eng.peerOf d =
      if (s.eng.peerOf d).member then { s.eng.peerOf d with
        state := (s.eng.rejudged s.mem d.toNat (s.eng.peerOf d)).1, cause := (s.eng.rejudged s.mem d.toNat (s.eng.peerOf d)).2 }
      else s.eng.peerOf d := by
  obtain ⟨v, hv⟩ : ∃ v : RegWrite, v = { w with value := w.value ||| 1 } := ⟨_, rfl⟩
  have hvh : v.half = .low := by rw [hv]; exact hw
  obtain ⟨hrole, hj, hnpi⟩ := podFields_low (e := s.eng) hvh
  obtain ⟨e, he⟩ : ∃ e, e = s.eng.podFields v := ⟨_, rfl⟩
  rw [← he] at hrole hj hnpi
  have hx : exec (.reverify w) s = .next { s with
      eng := ((e.reverify s.mem).recorded s.eng.npi.peers).eng, mem := applyOps s.mem ((e.reverify s.mem).recorded s.eng.npi.peers).ops } := by
    have hc : s.eng.podCtlWrite s.mem v = e.reverify s.mem := by
      have hbit : bitOf v.value 0 = true := by
        rw [hv]
        show (w.value ||| 1).getLsbD 0 = true
        simp
      rw [podCtlWrite_eq, hvh, hbit, ← he]
      rfl
    rw [exec_reverify, ← hv]
    change execPodCtlWrite v s = _
    refine onMem_eq hl ?_
    rw [if_pos (by rfl), hc]
  have hw' : MapWf {} e.npi.peers := by
    obtain ⟨-, -, -, -, -, hw, -⟩ := ht
    rw [hnpi]
    exact hw
  have hpeer : ∀ d, e.peerOf d = s.eng.peerOf d := peerOf_congr (congrArg Npi.peers hnpi)
  have hrej : e.rejudged = s.eng.rejudged := by
    funext m k q
    unfold Eng.rejudged
    rw [storedFirmware_congr hj, judge_congr hj]
  obtain ⟨hpod, hpeers, hops⟩ := reverify_keeps (hrole.trans hr) hw' (by rw [hnpi]; exact hk) s.mem
  obtain ⟨hro, hst, -⟩ := recorded_keeps (e.reverify s.mem) s.eng.npi.peers
  have harea : e.svc.pod.areaBase = s.eng.svc.pod.areaBase := hj.1
  rw [harea] at hops
  refine ⟨_, hx, ?_, fun d => ?_⟩
  · dsimp only
    rw [hro]
    refine recordsOnly_of_ops (fun h0 => ?_) fun o ho => ?_
    · have h1 : (e.reverify s.mem).ops = [] := List.eq_nil_iff_forall_not_mem.mpr fun o ho => (hops o ho).1 h0
      rw [h1, changedPeers_nil _ (.inl (by rw [hpod, harea]; exact h0))]
      rfl
    · rcases List.mem_append.mp ho with ho | ho
      · exact (hops o ho).2
      · rw [← harea, ← hpod]
        exact recorded_ops_in _ _ o ho
  · have h := hpeers d
    rw [hpeer, hrej] at h
    rw [← h]
    exact peerOf_congr (peers_of_steady hst) d

end Sys2Proof.Machine
end

section
/-! JOINs and verdicts at the Bellwether (R428, R429, R432, R433), and the settlement of what is said of both. -/

namespace Sys2Proof.Machine

/-! ### JOINs that wait -/

theorem startJoins_keeps (n : Nat) (e : Eng) : (Eng.startJoins n e).npi = e.npi := by
  induction n generalizing e with
  | zero => rfl
  | succ n ih =>
    unfold Eng.startJoins
    split
    · rfl
    · split
      · rfl
      · exact (ih _).trans rfl

/-- A JOIN that finds no other waiting, none of its device being judged, and fewer than eight judged, is judged at once. -/
theorem queueJoin_starts {e : Eng} {j : JoinMsg} (hq : e.svc.pod.joinQueue = []) (hn : e.svc.pod.judging.length < 8)
    (hd : ∀ x ∈ e.svc.pod.judging, x.dev ≠ j.dev) :
    e.queueJoin j = (e.modPod fun p => { p with judging := p.judging ++ [j] }).emit (.npi j.dev (.spdm (.getMeasurements true))) := by
  have hno : e.svc.pod.judging.any (fun x => decide (x.dev = j.dev)) = false := by
    simpa using hd
  have hstop (n : Nat) (a : Eng) (ha : a.svc.pod.joinQueue = []) : Eng.startJoins n a = a := by
    cases n with
    | zero => rfl
    | succ n =>
      unfold Eng.startJoins
      rw [ha]
      rfl
  unfold Eng.queueJoin
  obtain ⟨a, ha⟩ : ∃ a, a = e.modPod fun p => { p with joinQueue := p.joinQueue ++ [j] } := ⟨_, rfl⟩
  have haq : a.svc.pod.joinQueue = [j] := by
    rw [ha]
    exact congrArg (· ++ [j]) hq
  have haj : a.svc.pod.judging = e.svc.pod.judging := by rw [ha]; rfl
  have hfind : a.svc.pod.joinQueue.find? (fun j => !a.svc.pod.judging.any (·.dev = j.dev)) = some j := by
    rw [haq, haj, List.find?_cons, hno]
    rfl
  rw [← ha]
  unfold Eng.startJoins
  rw [hfind]
  dsimp only
  rw [if_neg (by rw [haj]; omega)]
  refine (hstop 7 _ ?_).trans ?_
  · show (a.svc.pod.joinQueue).erase j = []
    rw [haq]
    simp
  · have hp : a.modPod (fun p => { p with judging := p.judging ++ [j], joinQueue := p.joinQueue.erase j }) =
        e.modPod fun p => { p with judging := p.judging ++ [j] } := by
      have hx : ((e.svc.pod.joinQueue ++ [j]).erase j) = e.svc.pod.joinQueue := by
        rw [hq]
        simp
      rw [ha]
      unfold Eng.modPod
      dsimp only
      rw [hx]
    rw [hp]

/-! ### A JOIN at the Bellwether -/

/-- The device's own IDENT, or no record of the device. -/
def PeerStat.ownIdent (p : PeerStat) (ident : BitVec 32) : Prop := p.ident = 0 ∨ p.ident = ident

theorem joinArrives_other {e : Eng} {m : Memory} {j : JoinMsg} (h : ¬ (e.peerOf j.dev).ownIdent j.ident) : e.joinArrives m j = e := by
  have h' : (e.peerOf j.dev).ident ≠ 0 ∧ (e.peerOf j.dev).ident ≠ j.ident := not_or.mp h
  exact if_pos (by simpa [Eng.peerOf] using h')

theorem joinArrives_own {e : Eng} {m : Memory} {j : JoinMsg} (h : (e.peerOf j.dev).ownIdent j.ident) : e.joinArrives m j =
    if j.restarted then e.setPeer j.dev 1 5 else if j.first then e.setPeer j.dev 0 0 else e.takeEpoch m j.dev j.epoch := by
  have h' : ¬ ((e.peerOf j.dev).ident ≠ 0 ∧ (e.peerOf j.dev).ident ≠ j.ident) := by
    rintro ⟨h1, h2⟩
    exact h.elim h1 h2
  exact if_neg (by simpa [Eng.peerOf] using h')

/-- Whatever its mark, a JOIN changes its sender's entry alone. -/
theorem joinArrives_keeps (e : Eng) (m : Memory) (j : JoinMsg) : PeersOnly e (e.joinArrives m j) ∧
    ∀ x, x ≠ j.dev → (e.joinArrives m j).peerOf x = e.peerOf x := by
  by_cases h : (e.peerOf j.dev).ownIdent j.ident
  · rw [joinArrives_own h]
    split
    · exact ⟨setPeer_only _ _ _ _, fun x hx => setPeer_peerOf_ne _ hx _ _⟩
    · split
      · exact ⟨setPeer_only _ _ _ _, fun x hx => setPeer_peerOf_ne _ hx _ _⟩
      · obtain ⟨h1, h2, -⟩ := takeEpoch_keeps e m j.dev j.epoch
        exact ⟨h1, h2⟩
  · rw [joinArrives_other h]
    exact ⟨.refl e, fun _ _ => rfl⟩

/-- What makes a MISMATCHED worker come back without a judgement: it is MISMATCHED by EPOCH alone, and the JOIN's EPOCH is right (R432). -/
def Eng.comesBack (e : Eng) (m : Memory) (j : JoinMsg) : Prop :=
  ((e.peerOf j.dev).ownIdent j.ident ∧ j.restarted = false ∧ j.first = false) ∧ (e.peerOf j.dev).state = 1 ∧ (e.peerOf j.dev).cause = 1 ∧
    j.epoch = e.svc.pod.epoch ∧ e.recordPasses m j.dev = true

/-- The entry that a JOIN leaves, by its marks and its EPOCH (R432, R433). -/
theorem joinArrives_peerOf {e : Eng} (w : MapWf {} e.npi.peers) (m : Memory) (j : JoinMsg) :
    let old := e.peerOf j.dev
    let new := (e.joinArrives m j).peerOf j.dev
    let own := old.ownIdent j.ident
    let plain := own ∧ j.restarted = false ∧ j.first = false
    (¬ own → new = old) ∧ (own → j.restarted = true → new.state = 1 ∧ new.cause = 5) ∧
    (own → j.restarted = false → j.first = true → new.state = 0 ∧ new.cause = 0) ∧
    (plain → 2 ≤ old.state.toNat → j.epoch ≠ e.svc.pod.epoch → new.state = 1 ∧ new.cause = 1) ∧
    (plain → 2 ≤ old.state.toNat → j.epoch = e.svc.pod.epoch → new.state = old.state) := by
  intro old new own plain
  have hplain (h : plain) : new = (e.takeEpoch m j.dev j.epoch).peerOf j.dev := by
    obtain ⟨ho, hr, hf⟩ := h
    show (e.joinArrives m j).peerOf j.dev = _
    rw [joinArrives_own ho, hr, hf]
    rfl
  have hn := noteEpoch_wf w j.dev j.epoch
  have hself := noteEpoch_peerOf_self w j.dev j.epoch
  refine ⟨fun h => ?_, fun h hr => ?_, fun h hr hf => ?_, fun h hs he => ?_, fun h hs he => ?_⟩
  · show (e.joinArrives m j).peerOf j.dev = _
    rw [joinArrives_other h]
  · have hnew : new = { old with state := 1, cause := 5 } := by
      show (e.joinArrives m j).peerOf j.dev = _
      rw [joinArrives_own h, if_pos hr, setPeer_peerOf_self w]
    rw [hnew]
    exact ⟨rfl, rfl⟩
  · have hnew : new = { old with state := 0, cause := 0 } := by
      show (e.joinArrives m j).peerOf j.dev = _
      rw [joinArrives_own h, if_neg (by simp [hr]), if_pos hf, setPeer_peerOf_self w]
    rw [hnew]
    exact ⟨rfl, rfl⟩
  · rw [hplain h, takeEpoch_member hs, if_pos he, setPeer_peerOf_self hn]
    exact ⟨rfl, rfl⟩
  · rw [hplain h, takeEpoch_member hs, if_neg (not_not_intro he), hself]

/-- A MISMATCHED worker becomes UNSYNCED at its JOIN if and only if it comes back by its EPOCH alone. -/
theorem joinArrives_back {e : Eng} (w : MapWf {} e.npi.peers) (m : Memory) (j : JoinMsg) :
    ((e.peerOf j.dev).state = 1 ∧ ((e.joinArrives m j).peerOf j.dev).state = 2) ↔ e.comesBack m j := by
  have hn := noteEpoch_wf w j.dev j.epoch
  have hself := noteEpoch_peerOf_self w j.dev j.epoch
  obtain ⟨hother, hrestart, hfirst, -⟩ := joinArrives_peerOf w m j
  have hplain (ho : (e.peerOf j.dev).ownIdent j.ident) (hr : j.restarted = false) (hf : j.first = false) :
      e.joinArrives m j = e.takeEpoch m j.dev j.epoch := by
    rw [joinArrives_own ho, hr, hf]
    rfl
  constructor
  · rintro ⟨h1, h2⟩
    by_cases ho : (e.peerOf j.dev).ownIdent j.ident
    · cases hr : j.restarted with
      | true =>
        rw [(hrestart ho hr).1] at h2
        exact absurd h2 (by decide)
      | false =>
        cases hf : j.first with
        | true =>
          rw [(hfirst ho hr hf).1] at h2
          exact absurd h2 (by decide)
        | false =>
          rw [hplain ho hr hf, takeEpoch_mismatched h1] at h2
          by_cases hc : (e.peerOf j.dev).cause = 1 ∧ j.epoch = e.svc.pod.epoch
          · rw [if_pos hc] at h2
            by_cases hp : e.recordPasses m j.dev = true
            · exact ⟨⟨ho, hr, hf⟩, h1, hc.1, hc.2, hp⟩
            · rw [if_neg hp, setPeer_peerOf_self hn] at h2
              exact absurd (show (1 : BitVec 2) = 2 from h2) (by decide)
          · rw [if_neg hc, hself] at h2
            exact absurd (h1.symm.trans h2) (by decide)
    · rw [hother ho, h1] at h2
      exact absurd h2 (by decide)
  · rintro ⟨⟨ho, hr, hf⟩, h1, hc, he, hp⟩
    refine ⟨h1, ?_⟩
    rw [hplain ho hr hf, takeEpoch_mismatched h1, if_pos ⟨hc, he⟩, if_pos hp, setPeer_peerOf_self hn]

/-- The Bellwether takes a JOIN that names it: it judges it, or needs no judgement. -/
theorem exec_join {s : State} (hl : s.Live) {j : JoinMsg} (hr : s.eng.svc.pod.role = 2) (hb : j.bellwether = s.eng.device)
    (hs : j.stale = false) (hd : ∀ x ∈ s.eng.svc.pod.judging, x.dev ≠ j.dev) (hq : s.eng.svc.pod.joinQueue = []) :
    let e := (s.eng.heard s.mem j.dev).joinArrives s.mem j
    let x := (Eff.mk (if (s.eng.peerOf j.dev).state = 1 ∧ (e.peerOf j.dev).state = 2 then e else e.queueJoin j) []).recorded s.eng.npi.peers
    exec (.join j) s = .next { s with eng := x.eng, mem := applyOps s.mem x.ops } := by
  intro e x
  have hp := (heard_podSide s.eng s.mem j.dev).2
  obtain ⟨e₁, he₁⟩ : ∃ e, e = s.eng.heard s.mem j.dev := ⟨_, rfl⟩
  have hx : x = (Eff.mk (if (s.eng.peerOf j.dev).state = 1 ∧ ((e₁.joinArrives s.mem j).peerOf j.dev).state = 2 then e₁.joinArrives s.mem j
      else (e₁.joinArrives s.mem j).queueJoin j) []).recorded s.eng.npi.peers := by
    rw [he₁]
  rw [← he₁] at hp
  have hpod := (joinArrives_keeps e₁ s.mem j).1.pod.trans hp
  have hset : (e₁.joinArrives s.mem j).joinSettled (s.eng.peerOf j.dev) j =
      decide ((s.eng.peerOf j.dev).state = 1 ∧ ((e₁.joinArrives s.mem j).peerOf j.dev).state = 2) := by
    have hnone : ((e₁.joinArrives s.mem j).svc.pod.judging ++ (e₁.joinArrives s.mem j).svc.pod.joinQueue).any
        (fun k => k.dev = j.dev && k.ident = j.ident && k.epoch = j.epoch) = false := by
      rw [hpod, hq, List.append_nil, List.any_eq_false]
      intro k hk
      simp [hd k hk]
    unfold Eng.joinSettled
    dsimp only
    rw [hnone, Bool.and_false, Bool.or_false, Bool.decide_and]
    rfl
  change execJoin j s = _
  rw [hx]
  refine onMem_eq hl ?_
  dsimp only
  rw [← he₁]
  have hw : ¬ e₁.worker = true := by simp [Eng.worker, hp, hr]
  have hf : ¬ (!e₁.bellwether || decide (j.bellwether ≠ e₁.device)) = true := by
    simp [Eng.bellwether, Eng.device, hp, hr, hb]
  have ha : ¬ e₁.answersStale s.mem j = true := by simp [Eng.answersStale, hs]
  rw [if_neg hw, if_neg hf, if_neg ha]
  have hset' : (e₁.joinArrives s.mem j).joinSettled (mapGet {} s.eng.npi.peers j.dev.toNat) j =
      decide ((s.eng.peerOf j.dev).state = 1 ∧ ((e₁.joinArrives s.mem j).peerOf j.dev).state = 2) := hset
  rw [hset']
  simp only [decide_eq_true_eq]

theorem join_judges {s : State} (hl : s.Live) (ht : TabInv s) {j : JoinMsg} (hr : s.eng.svc.pod.role = 2) (hb : j.bellwether = s.eng.device)
    (hs : j.stale = false) (hq : s.eng.svc.pod.joinQueue = []) (hn : s.eng.svc.pod.judging.length < 8)
    (hd : ∀ x ∈ s.eng.svc.pod.judging, x.dev ≠ j.dev) :
    let pod := s.eng.svc.pod
    let old := s.eng.peerOf j.dev
    let own := old.ownIdent j.ident
    let plain := own ∧ j.restarted = false ∧ j.first = false
    let back := s.eng.comesBack s.mem j
    ∃ t, exec (.join j) s = .next t ∧ RecordsOnly pod.areaBase s.mem t.mem ∧ (∀ x : DevNum, x ≠ j.dev → t.eng.peerOf x = s.eng.peerOf x) ∧
      (¬ back → t.eng.svc.pod.judging = pod.judging ++ [j] ∧ Out.npi j.dev (.spdm (.getMeasurements true)) ∈ t.eng.out) ∧
      (back → t.eng.svc.pod.judging = pod.judging ∧ (t.eng.peerOf j.dev).state = 2) ∧ (¬ own → t.eng.peerOf j.dev = old) ∧
      (own → j.restarted = true → (t.eng.peerOf j.dev).state = 1 ∧ (t.eng.peerOf j.dev).cause = 5) ∧
      (own → j.restarted = false → j.first = true → (t.eng.peerOf j.dev).state = 0 ∧ (t.eng.peerOf j.dev).cause = 0) ∧
      (plain → 2 ≤ old.state.toNat → j.epoch ≠ pod.epoch → (t.eng.peerOf j.dev).state = 1 ∧ (t.eng.peerOf j.dev).cause = 1) ∧
      (plain → 2 ≤ old.state.toNat → j.epoch = pod.epoch → (t.eng.peerOf j.dev).state = old.state) := by
  intro pod old own plain back
  have hx := exec_join hl hr hb hs hd hq
  obtain ⟨hpeers, hpod⟩ := heard_podSide s.eng s.mem j.dev
  obtain ⟨e₁, he₁⟩ : ∃ e, e = s.eng.heard s.mem j.dev := ⟨_, rfl⟩
  rw [← he₁] at hx hpeers hpod
  have hpeer : ∀ d, e₁.peerOf d = s.eng.peerOf d := peerOf_congr hpeers
  have hw : MapWf {} e₁.npi.peers := by
    obtain ⟨-, -, -, -, -, hw, -⟩ := ht
    rw [hpeers]
    exact hw
  have hback : ((s.eng.peerOf j.dev).state = 1 ∧ ((e₁.joinArrives s.mem j).peerOf j.dev).state = 2) ↔ back := by
    have h := joinArrives_back hw s.mem j
    unfold Eng.comesBack at h
    rw [hpeer, hpod, recordPasses_congr (judgesAs_of_pod hpod)] at h
    exact h
  have hclauses := joinArrives_peerOf hw s.mem j
  obtain ⟨honly, hothers⟩ := joinArrives_keeps e₁ s.mem j
  rw [hpeer, hpod] at hclauses
  obtain ⟨e₂, he₂⟩ : ∃ e, e = e₁.joinArrives s.mem j := ⟨_, rfl⟩
  rw [← he₂] at hx hback hclauses honly hothers
  have hpod₂ : e₂.svc.pod = pod := honly.pod.trans hpod
  have hqueue := queueJoin_starts (e := e₂) (j := j) (by rw [hpod₂]; exact hq) (by rw [hpod₂]; exact hn) (by rw [hpod₂]; exact hd)
  obtain ⟨e₃, he₃⟩ : ∃ e, e = if (s.eng.peerOf j.dev).state = 1 ∧ (e₂.peerOf j.dev).state = 2 then e₂ else e₂.queueJoin j := ⟨_, rfl⟩
  dsimp only at hx
  rw [← he₃] at hx
  have h₃ : e₃.npi = e₂.npi ∧ e₃.svc.pod.areaBase = pod.areaBase ∧ (back → e₃.svc.pod.judging = pod.judging) ∧
      (¬ back → e₃.svc.pod.judging = pod.judging ++ [j] ∧ Out.npi j.dev (.spdm (.getMeasurements true)) ∈ e₃.out) := by
    rw [he₃]
    split
    · next h => exact ⟨rfl, congrArg Pod.areaBase hpod₂, fun _ => congrArg Pod.judging hpod₂, fun hnb => absurd (hback.mp h) hnb⟩
    · next h =>
      rw [hqueue]
      refine ⟨rfl, (congrArg Pod.areaBase hpod₂ : e₂.svc.pod.areaBase = _), fun hb => absurd (hback.mpr hb) h, fun _ => ⟨?_, ?_⟩⟩
      · exact congrArg (fun p : Pod => p.judging ++ [j]) hpod₂
      · exact List.mem_append_right _ (List.mem_singleton.mpr rfl)
  obtain ⟨hnpi, harea, hjb, hjn⟩ := h₃
  obtain ⟨-, hst, hout⟩ := recorded_keeps (Eff.mk e₃ []) s.eng.npi.peers
  have hrec := recordsOnly_recorded e₃ s.eng.npi.peers s.mem
  have hpt : ∀ d, ((Eff.mk e₃ []).recorded s.eng.npi.peers).eng.peerOf d = e₂.peerOf d := peerOf_congr ((peers_of_steady hst).trans (congrArg Npi.peers hnpi))
  have hjt : ((Eff.mk e₃ []).recorded s.eng.npi.peers).eng.svc.pod.judging = e₃.svc.pod.judging := congrArg Pod.judging (pod_of_steady hst)
  refine ⟨_, hx, ?_, fun x hx => (hpt x).trans ((hothers x hx).trans (hpeer x)), fun hnb => ⟨?_, ?_⟩, fun hb => ⟨?_, ?_⟩, ?_⟩
  · rw [harea] at hrec
    exact hrec
  · exact hjt.trans (hjn hnb).1
  · exact (congrArg (_ ∈ ·) hout).mpr (hjn hnb).2
  · exact hjt.trans (hjb hb)
  · rw [← (hback.mpr hb).2, ← hpt]
  · dsimp only
    rw [hpt]
    exact hclauses

/-! ### A verdict -/

/-- The engine once a verdict has come: its JOIN is no longer being judged. -/
def Eng.verdictIn (e : Eng) (d : DevNum) : Eng := (e.modPod fun p => { p with judging := p.judging.filter (·.dev ≠ d) }).count subSvc 35 1

theorem verdictIn_keeps (e : Eng) (d : DevNum) : e.judgesAs (e.verdictIn d) ∧ (e.verdictIn d).npi = e.npi ∧
    (e.verdictIn d).svc.pod.role = e.svc.pod.role ∧ (e.verdictIn d).svc.pod.joinQueue = e.svc.pod.joinQueue := ⟨⟨rfl, rfl, rfl⟩, rfl, rfl, rfl⟩

/-- What follows the verdict changes no entry, and of memory the member records alone. -/
theorem exec_verdict {s : State} (hl : s.Live) {d : DevNum} {j : JoinMsg} (hr : s.eng.svc.pod.role = 2)
    (hj : s.eng.svc.pod.judging.find? (fun x => x.dev = d) = some j) (v : VerdictInput) :
    let x := (s.eng.verdictIn d).takeVerdict s.mem d j v
    ∃ t, exec (.verdict d v) s = .next t ∧ t.eng.npi.peers = x.eng.npi.peers ∧ t.mem = applyOps s.mem (x.recorded s.eng.npi.peers).ops := by
  intro x
  have hb : (s.eng.verdictIn d).bellwether = true := decide_eq_true hr
  have hx : exec (.verdict d v) s = .next { s with
      eng := Eng.startJoins 8 (x.recorded s.eng.npi.peers).eng, mem := applyOps s.mem (x.recorded s.eng.npi.peers).ops } := by
    change execVerdict d v s = _
    refine onMem_eq (x := (x.recorded s.eng.npi.peers).on (Eng.startJoins 8)) hl ?_
    rw [hj]
    have hif : (if (s.eng.verdictIn d).bellwether then (s.eng.verdictIn d).takeVerdict s.mem d j v else ⟨s.eng.verdictIn d, []⟩) = x := if_pos hb
    exact congrArg (fun y : Eff => (y.recorded s.eng.npi.peers).on (Eng.startJoins 8)) hif
  refine ⟨_, hx, ?_, rfl⟩
  exact (congrArg Npi.peers (startJoins_keeps 8 _)).trans (peers_of_steady (recorded_keeps x s.eng.npi.peers).2.1)

/-- A verdict that changes an entry by its state and cause alone writes member records alone. -/
theorem verdict_simple {s : State} (hl : s.Live) {d : DevNum} {j : JoinMsg} (hr : s.eng.svc.pod.role = 2)
    (hj : s.eng.svc.pod.judging.find? (fun x => x.dev = d) = some j) {v : VerdictInput} {e : Eng} (hv : (s.eng.verdictIn d).takeVerdict s.mem d j v = ⟨e, []⟩)
    (he : e.svc.pod.areaBase = s.eng.svc.pod.areaBase) :
    ∃ t, exec (.verdict d v) s = .next t ∧ RecordsOnly s.eng.svc.pod.areaBase s.mem t.mem ∧ t.eng.peerOf d = e.peerOf d := by
  obtain ⟨t, hx, hp, hm⟩ := exec_verdict hl hr hj v
  rw [hv] at hp hm
  refine ⟨t, hx, ?_, peerOf_congr hp d⟩
  rw [hm, ← he]
  exact recordsOnly_recorded e s.eng.npi.peers s.mem

/-- An exchange that fails leaves the entry, save that it ends cause RESTART as ABSENT (log 95). -/
theorem verdict_unverified {s : State} (hl : s.Live) (ht : TabInv s) {d : DevNum} {j : JoinMsg} (hr : s.eng.svc.pod.role = 2)
    (hj : s.eng.svc.pod.judging.find? (fun x => x.dev = d) = some j) {v : VerdictInput} (hv : v.verified = false) :
    let old := s.eng.peerOf d
    ∃ t, exec (.verdict d v) s = .next t ∧ RecordsOnly s.eng.svc.pod.areaBase s.mem t.mem ∧
      t.eng.peerOf d = if old.state = 1 ∧ old.cause = 5 ∧ j.restarted = true then { old with state := 0, cause := 0 } else old := by
  intro old
  obtain ⟨-, -, -, -, -, hw, -⟩ := ht
  obtain ⟨e, he⟩ : ∃ e, e = s.eng.verdictIn d := ⟨_, rfl⟩
  have hw' : MapWf {} e.npi.peers := by rw [he]; exact hw
  have hold : e.peerOf d = old := by rw [he]; rfl
  have harea : e.svc.pod.areaBase = s.eng.svc.pod.areaBase := by rw [he]; rfl
  have hx : e.takeVerdict s.mem d j v =
      ⟨(if old.state = 1 ∧ old.cause = 5 ∧ j.restarted = true then e.setPeer d 0 0 else e).count subSvc 36 1, []⟩ := by
    have hp : mapGet {} e.npi.peers d.toNat = old := hold
    unfold Eng.takeVerdict
    dsimp only
    rw [hp, hv]
    simp only [Bool.not_false, if_true, Bool.and_eq_true, decide_eq_true_eq, and_assoc]
  obtain ⟨a, ha⟩ : ∃ a, a = if old.state = 1 ∧ old.cause = 5 ∧ j.restarted = true then e.setPeer d 0 0 else e := ⟨_, rfl⟩
  rw [← ha] at hx
  have hpa : a.svc.pod = e.svc.pod := by
    rw [ha]
    split
    · exact setPeer_pod _ _ _ _
    · rfl
  have hpe : a.peerOf d = if old.state = 1 ∧ old.cause = 5 ∧ j.restarted = true then { old with state := 0, cause := 0 } else old := by
    rw [ha]
    split
    · rw [setPeer_peerOf_self hw', hold]
    · exact hold
  rw [he] at hx
  obtain ⟨t, h1, h2, h3⟩ := verdict_simple hl hr hj hx ((congrArg Pod.areaBase hpa).trans harea)
  exact ⟨t, h1, h2, h3.trans hpe⟩

/-- Another device's IDENT is refused, with cause IDENTITY where the entry is ABSENT (log 95). -/
theorem verdict_identity {s : State} (hl : s.Live) (ht : TabInv s) {d : DevNum} {j : JoinMsg} (hr : s.eng.svc.pod.role = 2)
    (hj : s.eng.svc.pod.judging.find? (fun x => x.dev = d) = some j) {v : VerdictInput} (hv : v.verified = true)
    (ho : ¬ (s.eng.peerOf d).ownIdent v.ident) :
    let old := s.eng.peerOf d
    ∃ t, exec (.verdict d v) s = .next t ∧ RecordsOnly s.eng.svc.pod.areaBase s.mem t.mem ∧
      t.eng.peerOf d = if old.state = 0 then { old with cause := 3 } else old := by
  intro old
  obtain ⟨-, -, -, -, -, hw, -⟩ := ht
  obtain ⟨e, he⟩ : ∃ e, e = s.eng.verdictIn d := ⟨_, rfl⟩
  have hw' : MapWf {} e.npi.peers := by rw [he]; exact hw
  have hold : e.peerOf d = old := by rw [he]; rfl
  have harea : e.svc.pod.areaBase = s.eng.svc.pod.areaBase := by rw [he]; rfl
  have ho' : old.ident ≠ 0 ∧ old.ident ≠ v.ident := not_or.mp ho
  have hx : e.takeVerdict s.mem d j v = ⟨(if old.state = 0 then e.setPeer d 0 3 else e).count subSvc 36 1, []⟩ := by
    have hp : mapGet {} e.npi.peers d.toNat = old := hold
    unfold Eng.takeVerdict
    dsimp only
    rw [hp, if_neg (by simp [hv]), if_pos (by simpa using ho')]
  obtain ⟨a, ha⟩ : ∃ a, a = if old.state = 0 then e.setPeer d 0 3 else e := ⟨_, rfl⟩
  rw [← ha] at hx
  have hpa : a.svc.pod = e.svc.pod := by
    rw [ha]
    split
    · exact setPeer_pod _ _ _ _
    · rfl
  have hpe : a.peerOf d = if old.state = 0 then { old with cause := 3 } else old := by
    rw [ha]
    split
    · next h0 =>
      rw [setPeer_peerOf_self hw', hold, ← h0]
    · exact hold
  rw [he] at hx
  obtain ⟨t, h1, h2, h3⟩ := verdict_simple hl hr hj hx ((congrArg Pod.areaBase hpa).trans harea)
  exact ⟨t, h1, h2, h3.trans hpe⟩

/-! ### Memory that already holds what is written -/

theorem bytes_of_append {m : Memory} {g : Tag} {a n : Nat} {xs ys : List Byte} (h : m.bytes g a n = xs ++ ys) :
    m.bytes g a xs.length = xs ∧ m.bytes g (a + xs.length) ys.length = ys := by
  have hn : n = xs.length + ys.length := by simpa using congrArg List.length h
  subst hn
  have hget (i : Nat) (hi : i < xs.length + ys.length) : (xs ++ ys)[i]'(by simpa using hi) = m.byte g (a + i) := by
    have := m.bytes_getElem g a _ i hi
    simp only [h] at this
    exact this
  constructor
  · refine List.ext_getElem (by simp) fun i h1 h2 => ?_
    rw [m.bytes_getElem _ _ _ _ h2, ← hget i (by omega), List.getElem_append_left h2]
  · refine List.ext_getElem (by simp) fun i h1 h2 => ?_
    rw [m.bytes_getElem _ _ _ _ h2, Nat.add_assoc, ← hget (xs.length + i) (by omega), List.getElem_append_right (by omega)]
    simp

/-- A write of bytes that already read so leaves every byte under its tag. -/
theorem byte_write_again {m : Memory} (w : m.wf) {g : Tag} {a : Nat} {bs : List Byte} (h : m.bytes g a bs.length = bs) (b : Nat) :
    (m.write g a bs).byte g b = m.byte g b := by
  by_cases hb : a ≤ b ∧ b < a + bs.length
  · have hi : b - a < bs.length := by omega
    have hin := Memory.byte_write_in g bs m a w (b - a) hi
    have hold := m.bytes_getElem g a bs.length (b - a) hi
    simp only [h] at hold
    rw [show a + (b - a) = b by omega] at hin hold
    rw [hin, hold]
  · exact Memory.byte_write_out g bs m a g b (by omega)

theorem byte_applyOps_again {g : Tag} (os : List MemOp) (m : Memory) (w : m.wf)
    (h : ∀ o ∈ os, o.tag = g ∧ m.bytes g o.addr o.bytes.length = o.bytes) (b : Nat) : (applyOps m os).byte g b = m.byte g b := by
  induction os generalizing m with
  | nil => rfl
  | cons o os ih =>
    obtain ⟨hg, ho⟩ := h o (by simp)
    have hsame := byte_write_again w ho
    rw [applyOps_cons, hg, ih _ (Memory.write_wf _ _ _ _ w) fun p hp => ?_, hsame]
    obtain ⟨hpg, hp'⟩ := h p (by simp [hp])
    refine ⟨hpg, Eq.trans ?_ hp'⟩
    exact List.map_congr_left fun i _ => hsame _

/-- Where a record has been written for an entry, what its bringing up to date writes stands there already. -/
theorem recordOps_again {e : Eng} {d : DevNum} {m : Memory} {ident : BitVec 32} {now : Nat} {m2 dg : List Byte} (h2 : m2.length = 48) (hg : dg.length = 48)
    (h : m.bytes .clear (e.recordAddr d) 128 = leBytes 4 ident.toNat ++ leBytes 4 (e.peerOf d).epoch.toNat ++ leBytes 8 now ++ m2 ++ dg ++
      leBytes 16 ((e.peerOf d).state.toNat + 16 * (e.peerOf d).cause.toNat)) :
    m.bytes .clear (e.recordAddr d) 8 = leBytes 4 ident.toNat ++ leBytes 4 (e.peerOf d).epoch.toNat ∧
    m.byte .clear (e.recordAddr d + 0x70) = BitVec.ofNat 8 ((e.peerOf d).state.toNat + 16 * (e.peerOf d).cause.toNat) ∧
    ∀ o ∈ e.recordOps d, o.tag = .clear ∧ m.bytes .clear o.addr o.bytes.length = o.bytes := by
  obtain ⟨ha, hf⟩ := bytes_of_append h
  obtain ⟨ha, -⟩ := bytes_of_append ha
  obtain ⟨ha, -⟩ := bytes_of_append ha
  obtain ⟨ha, -⟩ := bytes_of_append ha
  obtain ⟨-, hb⟩ := bytes_of_append ha
  have hl : (leBytes 4 ident.toNat ++ leBytes 4 (e.peerOf d).epoch.toNat ++ leBytes 8 now ++ m2 ++ dg).length = 0x70 := by
    simp [h2, hg]
  rw [hl] at hf
  obtain ⟨hc, -⟩ := bytes_of_append (xs := [BitVec.ofNat 8 ((e.peerOf d).state.toNat + 16 * (e.peerOf d).cause.toNat)]) hf
  refine ⟨by simpa using ha, by simpa [Memory.bytes] using hc, fun o ho => ?_⟩
  unfold Eng.recordOps at ho
  rcases List.mem_append.mp ho with ho | ho
  · split at ho
    · exact absurd ho List.not_mem_nil
    · rw [List.mem_singleton.mp ho]
      exact ⟨rfl, by simpa using hb⟩
  · rw [List.mem_singleton.mp ho]
    exact ⟨rfl, hc⟩

/-! ### A verdict that counts -/

/-- What a verdict makes of the vector and of the worker's last exchange (R429). -/
def Eng.verdictNoted (e : Eng) (d : DevNum) (c : BitVec 2 × BitVec 4) (judged : BitVec 2) (ident epoch : BitVec 32) : Eng :=
  let e := (e.setPeer d c.1 c.2).noteBad judged
  (e.withPeers (mapUpd {} e.npi.peers d.toNat fun q => { q with ident := ident, epoch := epoch })).modPod fun p =>
    { p with lastSync := mapSet 0 p.lastSync d.toNat p.beaconSeq }

theorem verdictNoted_keeps {e : Eng} (w : MapWf {} e.npi.peers) (d : DevNum) (c : BitVec 2 × BitVec 4) (judged : BitVec 2) (ident epoch : BitVec 32) :
    (e.verdictNoted d c judged ident epoch).peerOf d = { e.peerOf d with state := c.1, cause := c.2, ident := ident, epoch := epoch } ∧
    (∀ k, k ≠ d.toNat → mapGet {} (e.verdictNoted d c judged ident epoch).npi.peers k = mapGet {} e.npi.peers k) ∧
    e.judgesAs (e.verdictNoted d c judged ident epoch) := by
  have hs : ((e.setPeer d c.1 c.2).noteBad judged).npi = (e.setPeer d c.1 c.2).npi ∧
      ((e.setPeer d c.1 c.2).noteBad judged).svc = (e.setPeer d c.1 c.2).svc := by
    unfold Eng.noteBad
    split <;> exact ⟨rfl, rfl⟩
  unfold Eng.verdictNoted
  generalize (e.setPeer d c.1 c.2).noteBad judged = a at hs
  obtain ⟨hn, hv⟩ := hs
  have hpeers : a.npi.peers = mapSet {} e.npi.peers d.toNat { e.peerOf d with state := c.1, cause := c.2 } := by rw [hn, setPeer_peers]
  have hw : MapWf {} a.npi.peers := by
    rw [hpeers]
    exact mapSet_wf _ _ _ _ w
  have hpod : a.svc.pod = e.svc.pod := (congrArg Svc.pod hv).trans (setPeer_pod _ _ _ _)
  refine ⟨?_, fun k hk => ?_, ?_⟩
  · have h := mapGet_mapUpd_self {} a.npi.peers d.toNat (fun q => { q with ident := ident, epoch := epoch }) hw
    rw [hpeers, mapGet_mapSet_self _ _ _ _ w, ← hpeers] at h
    exact h
  · have h := mapGet_mapUpd_ne {} a.npi.peers d.toNat k (fun q => { q with ident := ident, epoch := epoch }) hk
    rw [hpeers, mapGet_mapSet_ne _ _ _ _ _ hk, ← hpeers] at h
    exact h
  · have h := judgesAs_of_pod hpod
    exact h

theorem takeVerdict_own {e : Eng} {m : Memory} {d : DevNum} {j : JoinMsg} {v : VerdictInput} (hv : v.verified = true)
    (ho : (e.peerOf d).ownIdent v.ident) :
    let c := if e.svc.pod.joinQueue.any fun k => k.dev = d && k.restarted then (1, 5) else e.judge m j.epoch v.measure2 v.digest
    e.takeVerdict m d j v = (e.verdictNoted d c (e.judge m j.epoch v.measure2 v.digest).1 v.ident j.epoch).writeMember d v.ident j.epoch
      v.measure2 v.digest c.1 c.2 := by
  have h' : ¬ ((e.peerOf d).ident ≠ 0 ∧ (e.peerOf d).ident ≠ v.ident) := fun h => ho.elim h.1 h.2
  intro c
  have hc : e.takeVerdict m d j v = if !v.verified then _ else if (e.peerOf d).ident ≠ 0 && (e.peerOf d).ident ≠ v.ident then _ else
    (e.verdictNoted d c (e.judge m j.epoch v.measure2 v.digest).1 v.ident j.epoch).writeMember d v.ident j.epoch v.measure2 v.digest c.1 c.2 := rfl
  rw [hc, if_neg (by simp [hv]), if_neg (by simpa using h')]

/-- Where a command has changed one entry alone, one record follows. -/
theorem changedPeers_one {e : Eng} {was : SMap PeerStat} {d : DevNum} (h : ∀ k, k ≠ d.toNat → mapGet {} e.npi.peers k = mapGet {} was k) :
    ∀ y ∈ e.changedPeers was, y = d := by
  intro y hy
  unfold Eng.changedPeers at hy
  split at hy
  · exact absurd hy List.not_mem_nil
  · obtain ⟨k, hk, rfl⟩ := List.mem_map.mp hy
    have hne := of_decide_eq_true (List.mem_filter.mp hk).2
    by_cases hkd : k = d.toNat
    · rw [hkd]
      exact BitVec.ofNat_toNat _ _
    · exact absurd (by rw [h k hkd]) hne

/-- The record of a verdict, and what brings it up to date: the bytes of the record, and no byte outside it. -/
theorem verdict_record {e : Eng} {s : State} (hm : MemInv s) {d : DevNum} {ident epoch : BitVec 32} {m2 dg : List Byte} {c : BitVec 2 × BitVec 4}
    (hp : e.peerOf d = { e.peerOf d with state := c.1, cause := c.2, epoch := epoch })
    (ho : ∀ k, k ≠ d.toNat → mapGet {} e.npi.peers k = mapGet {} s.eng.npi.peers k) :
    let x := e.writeMember d ident epoch m2 dg c.1 c.2
    let m := applyOps s.mem (x.recorded s.eng.npi.peers).ops
    (e.svc.pod.areaBase ≠ 0 → m.byte .clear (e.recordAddr d + 0x70) = BitVec.ofNat 8 (c.1.toNat + 16 * c.2.toNat) ∧
      m.bytes .clear (e.recordAddr d) 8 = leBytes 4 ident.toNat ++ leBytes 4 epoch.toNat) ∧
    ∀ g a, (a < e.recordAddr d ∨ e.recordAddr d + 128 ≤ a) → m.byte g a = s.mem.byte g a := by
  intro x m
  obtain ⟨hops, hst, -⟩ := writeMember_keeps e d ident epoch m2 dg c.1 c.2
  have hmem : m = applyOps (applyOps s.mem x.ops) ((x.eng.changedPeers s.eng.npi.peers).flatMap x.eng.recordOps) := by
    rw [← applyOps_append, ← (recorded_keeps x s.eng.npi.peers).1]
  have hone := changedPeers_one (e := x.eng) (was := s.eng.npi.peers) (d := d) (by rw [peers_of_steady hst]; exact ho)
  have hrec : ∀ o ∈ (x.eng.changedPeers s.eng.npi.peers).flatMap x.eng.recordOps, o ∈ e.recordOps d := fun o h => by
    obtain ⟨y, hy, hoy⟩ := List.mem_flatMap.mp h
    rw [hone y hy, recordOps_congr hst] at hoy
    exact hoy
  constructor
  · intro h0
    have hb : (applyOps s.mem x.ops).bytes .clear (e.recordAddr d) 128 = e.memberBytes ident epoch m2 dg c.1 c.2 := by
      have hlen := memberBytes_length e ident epoch m2 dg c.1 c.2
      rw [if_neg h0] at hops
      generalize e.memberBytes ident epoch m2 dg c.1 c.2 = bs at hops hlen ⊢
      rw [← hlen, hops]
      exact Memory.bytes_write .clear bs s.mem (e.recordAddr d) hm
    have hwf : (applyOps s.mem x.ops).wf := applyOps_wf _ _ hm
    generalize applyOps s.mem x.ops = m₁ at hmem hb hwf
    have hs : (e.peerOf d).state = c.1 := by rw [hp]
    have hc : (e.peerOf d).cause = c.2 := by rw [hp]
    have he : (e.peerOf d).epoch = epoch := by rw [hp]
    unfold Eng.memberBytes at hb
    rw [← hs, ← hc, ← he] at hb ⊢
    obtain ⟨h8, h70, hagain⟩ := recordOps_again (padded_length m2) (padded_length dg) hb
    have hsame := byte_applyOps_again _ m₁ hwf fun o h => hagain o (hrec o h)
    rw [hmem, hsame, ← h8]
    exact ⟨h70, List.map_congr_left fun i _ => hsame _⟩
  · intro g a ha
    rw [hmem, applyOps_byte_out _ _ _ _ fun o h => ?_, applyOps_byte_out _ _ _ _ fun o h => ?_]
    · rw [hops] at h
      split at h
      · exact absurd h List.not_mem_nil
      · rw [List.mem_singleton.mp h, memberBytes_length]
        exact ha
    · have := recordOps_bounds e d o (hrec o h)
      omega

/-- A verdict that verifies, of the device's own IDENT: the entry by EPOCH, then FIRMWARE, unless a restart since waits (R429, R433). -/
theorem verdict_counts {s : State} (hl : s.Live) (hm : MemInv s) (ht : TabInv s) {d : DevNum} {j : JoinMsg} (hr : s.eng.svc.pod.role = 2)
    (hj : s.eng.svc.pod.judging.find? (fun x => x.dev = d) = some j) {v : VerdictInput} (hv : v.verified = true)
    (ho : (s.eng.peerOf d).ownIdent v.ident) :
    let c := if s.eng.svc.pod.joinQueue.any fun k => k.dev = d && k.restarted then (1, 5) else s.eng.judge s.mem j.epoch v.measure2 v.digest
    ∃ t, exec (.verdict d v) s = .next t ∧ t.eng.peerOf d = { s.eng.peerOf d with state := c.1, cause := c.2, ident := v.ident, epoch := j.epoch } ∧
      (s.eng.svc.pod.areaBase ≠ 0 → t.mem.byte .clear (s.eng.recordAddr d + 0x70) = BitVec.ofNat 8 (c.1.toNat + 16 * c.2.toNat) ∧
        t.mem.bytes .clear (s.eng.recordAddr d) 8 = leBytes 4 v.ident.toNat ++ leBytes 4 j.epoch.toNat) ∧
      ∀ g a, (a < s.eng.recordAddr d ∨ s.eng.recordAddr d + 128 ≤ a) → t.mem.byte g a = s.mem.byte g a := by
  intro c
  obtain ⟨-, -, -, -, -, hw, -⟩ := ht
  obtain ⟨t, hx, hp, hmem⟩ := exec_verdict hl hr hj v
  obtain ⟨hja, -⟩ := verdictIn_keeps s.eng d
  have hjudge : (s.eng.verdictIn d).judge = s.eng.judge := judge_congr hja
  have hown := takeVerdict_own (e := s.eng.verdictIn d) (m := s.mem) (d := d) (j := j) hv ho
  rw [hjudge] at hown
  obtain ⟨a, ha⟩ : ∃ a, a = (s.eng.verdictIn d).verdictNoted d c (s.eng.judge s.mem j.epoch v.measure2 v.digest).1 v.ident j.epoch := ⟨_, rfl⟩
  have hxe : (s.eng.verdictIn d).takeVerdict s.mem d j v = a.writeMember d v.ident j.epoch v.measure2 v.digest c.1 c.2 := by
    rw [ha]
    exact hown
  obtain ⟨hpeer, hothers, hja'⟩ := verdictNoted_keeps (e := s.eng.verdictIn d) hw d c (s.eng.judge s.mem j.epoch v.measure2 v.digest).1 v.ident j.epoch
  rw [← ha] at hpeer hothers hja'
  have haddr : a.recordAddr = s.eng.recordAddr := (recordAddr_congr hja').trans (recordAddr_congr hja)
  have harea : a.svc.pod.areaBase = s.eng.svc.pod.areaBase := hja'.1.trans hja.1
  obtain ⟨hbytes, hframe⟩ := verdict_record (ident := v.ident) (m2 := v.measure2) (dg := v.digest) (c := c) (epoch := j.epoch) hm
    (by rw [hpeer]) hothers
  rw [hxe] at hp hmem
  rw [haddr, harea, ← hmem] at hbytes
  rw [haddr, ← hmem] at hframe
  refine ⟨t, hx, ?_, hbytes, hframe⟩
  rw [peerOf_congr (hp.trans (peers_of_steady (writeMember_keeps a d v.ident j.epoch v.measure2 v.digest c.1 c.2).2.1)), hpeer]

/-! ### What the statements say of a judgement -/

theorem judge_epoch {e : Eng} {epoch : BitVec 32} (h : epoch ≠ e.svc.pod.epoch) (m : Memory) (m2 dg : List Byte) : e.judge m epoch m2 dg = (1, 1) :=
  if_pos h

theorem judge_firmware {e : Eng} {epoch : BitVec 32} {m : Memory} {m2 dg : List Byte} (h : epoch = e.svc.pod.epoch)
    (hf : e.firmwareOk m m2 dg = false) : e.judge m epoch m2 dg = (1, 2) :=
  (if_neg (not_not_intro h)).trans (if_pos (by rw [hf]; rfl))

theorem judge_passes {e : Eng} {epoch : BitVec 32} {m : Memory} {m2 dg : List Byte} (h : epoch = e.svc.pod.epoch)
    (hf : e.firmwareOk m m2 dg = true) : e.judge m epoch m2 dg = (2, 0) :=
  (if_neg (not_not_intro h)).trans (if_neg (by rw [hf]; decide))

theorem member_iff (p : PeerStat) : p.member = true ↔ p.ident ≠ 0 ∧ (p.state ≠ 0 ∨ p.cause ≠ 0) := by
  simp [PeerStat.member]

/-- A judgement from the record, by what of it fails (R433). -/
theorem rejudged_cases {e : Eng} {m : Memory} {d : DevNum} {new : PeerStat} (h : new = if (e.peerOf d).member then { e.peerOf d with
      state := (e.rejudged m d.toNat (e.peerOf d)).1, cause := (e.rejudged m d.toNat (e.peerOf d)).2 } else e.peerOf d) :
    let old := e.peerOf d
    let fw := e.storedFirmware m d
    let wrongEpoch := old.epoch ≠ e.svc.pod.epoch
    let wrongFw := e.firmwareOk m fw.1 fw.2 = false
    let member := old.ident ≠ 0 ∧ (old.state ≠ 0 ∨ old.cause ≠ 0)
    let restart := old.state = 1 ∧ old.cause = 5
    (¬ member ∨ restart → new = old) ∧
    (member → ¬ restart → wrongEpoch → new = { old with state := 1, cause := 1 }) ∧
    (member → ¬ restart → ¬ wrongEpoch → wrongFw → new = { old with state := 1, cause := 2 }) ∧
    (member → ¬ restart → ¬ wrongEpoch → ¬ wrongFw → old.state = 1 → new = { old with state := 2, cause := 0 }) ∧
    (member → ¬ wrongEpoch → ¬ wrongFw → old.state ≠ 1 → new = old) := by
  intro old fw wrongEpoch wrongFw member restart
  have hj : e.rejudged m d.toNat old = old.rejudged (e.judge m old.epoch fw.1 fw.2) := by
    unfold Eng.rejudged
    rw [BitVec.ofNat_toNat]
    rfl
  have hnew (hm : member) : new = { old with
      state := (old.rejudged (e.judge m old.epoch fw.1 fw.2)).1, cause := (old.rejudged (e.judge m old.epoch fw.1 fw.2)).2 } := by
    rw [h, if_pos ((member_iff _).mpr hm), ← hj]
  have hrest (hr : restart) (c : BitVec 2 × BitVec 4) : old.rejudged c = (1, 5) := if_pos (by simpa [restart] using hr)
  have hfail (hr : ¬ restart) (c : BitVec 4) : old.rejudged (1, c) = (1, c) :=
    (if_neg (by simpa [restart] using hr)).trans (if_pos rfl)
  have hpass (hr : ¬ restart) : old.rejudged (2, 0) = if old.state = 1 then (2, 0) else (old.state, old.cause) :=
    (if_neg (by simpa [restart] using hr)).trans (if_neg (by decide))
  refine ⟨fun hc => ?_, fun hm hr he => ?_, fun hm hr he hf => ?_, fun hm hr he hf hs => ?_, fun hm he hf hs => ?_⟩
  · by_cases hm : member
    · obtain ⟨h1, h5⟩ := hc.resolve_left (not_not_intro hm)
      rw [hnew hm, hrest ⟨h1, h5⟩]
      dsimp only
      rw [← h1, ← h5]
    · rw [h, if_neg (fun hp => hm ((member_iff _).mp hp))]
  · rw [hnew hm, judge_epoch he, hfail hr]
  · rw [hnew hm, judge_firmware (not_not.mp he) hf, hfail hr]
  · rw [hnew hm, judge_passes (not_not.mp he) (by simpa [wrongFw] using hf), hpass hr, if_pos hs]
  · rw [hnew hm, judge_passes (not_not.mp he) (by simpa [wrongFw] using hf), hpass (fun hr => hs hr.1), if_neg hs]

/-- Settles O52: the registers by their fields (R425, R427; log 49), a JOIN and a verdict by what each makes of its sender's entry (R429, R432, R433;
log 95), and the member records by the writes that follow the entries (R428). -/
theorem podIsSetUpAndWorkersAreJudged : Obligations.PodIsSetUpAndWorkersAreJudged := by
  unfold Obligations.PodIsSetUpAndWorkersAreJudged
  intro s w hl hm ht hk pod joins peer quiet lo records
  refine ⟨fun hw hv => podCtlWrite_startsAnew hl hw hv, exec_reverify w s, fun hw hr => ?_, fun hw => podEpochWrite_joins hl hw,
    fun hr hs => joinSend_joins hl hr hs, fun j hr hb hs hq hn hd => join_judges hl ht hr hb hs hq hn hd, fun d v j hr hj => ?_⟩
  · obtain ⟨t, hx, hrec, hpeer⟩ := reverify_judges hl ht hk hw hr
    refine ⟨t, hx, hrec, fun d => ?_⟩
    exact rejudged_cases (hpeer d)
  · refine ⟨fun hv => verdict_unverified hl ht hr hj hv, fun hv ho => verdict_identity hl ht hr hj hv ho, fun hv ho => ?_⟩
    obtain ⟨t, hx, hp, hbytes, hframe⟩ := verdict_counts hl hm ht hr hj hv ho
    refine ⟨t, hx, ?_⟩
    obtain ⟨c, hc⟩ : ∃ c : BitVec 2 × BitVec 4, c = if s.eng.svc.pod.joinQueue.any (fun k => k.dev = d && k.restarted) then (1, 5)
      else s.eng.judge s.mem j.epoch v.measure2 v.digest := ⟨_, rfl⟩
    rw [← hc] at hp hbytes
    have hagain : (s.eng.svc.pod.joinQueue.any fun k => k.dev = d && k.restarted) = true ↔ ∃ k ∈ pod.joinQueue, k.dev = d ∧ k.restarted = true := by
      simp [List.any_eq_true, pod]
    have hs : (peer t d).state = c.1 := congrArg PeerStat.state hp
    have hcause : (peer t d).cause = c.2 := congrArg PeerStat.cause hp
    refine ⟨congrArg PeerStat.ident hp, congrArg PeerStat.epoch hp, ?_⟩
    rw [hs, hcause]
    refine ⟨fun ha => ?_, fun ha he => ?_, fun ha he hf => ?_, fun ha he hf => ?_, fun h0 => (hbytes h0).1, fun h0 => (hbytes h0).2, hframe⟩
    · rw [hc, if_pos (hagain.mpr ha)]
      exact ⟨rfl, rfl⟩
    · rw [hc, if_neg (fun h => ha (hagain.mp h)), judge_epoch he]
      exact ⟨rfl, rfl⟩
    · rw [hc, if_neg (fun h => ha (hagain.mp h)), judge_firmware he hf]
      exact ⟨rfl, rfl⟩
    · rw [hc, if_neg (fun h => ha (hagain.mp h)), judge_passes he hf]
      exact ⟨rfl, rfl⟩

end Sys2Proof.Machine
end

section
/-! What descriptors, peers and dies that go on leave as it is: they change descriptors, caches, queues, ports, tallies and what leaves, and raise
events of their own. -/

namespace Sys2Proof.Machine

/-! ### A crossbar's ports, walks and faults -/

theorem draw_steady (e : Eng) : e.draw.2.steady = e.steady := rfl

theorem reaches_steady (e : Eng) (m : Memory) (r : Region) (p : PdkNum) (d : DevNum) : (e.reaches m r p d).2.steady = e.steady := by
  unfold Eng.reaches
  extract_lets base i src atg
  split
  · rfl
  · split
    · rfl
    · split <;> rfl

theorem noteFault_steady (e : Eng) (r : Region) (p : PdkNum) (ctx : Option CtxNum) (t : Trans) : (e.noteFault r p ctx t).steady = e.steady := by
  unfold Eng.noteFault
  split
  · rfl
  · exact raise_steady _ _ _ _ _ _ (by decide)
  · rfl

theorem startWalk_steady (e : Eng) (r : Region) (p : PdkNum) (va : Nat) : (e.startWalk r p va).steady = e.steady := by
  unfold Eng.startWalk
  extract_lets ws
  split <;> rfl

theorem park_steady (e : Eng) (q : Req) (who : PortUser) : (e.park q who).steady = e.steady := by
  unfold Eng.park
  extract_lets port full x src svc
  split
  · rfl
  · split <;> rfl

theorem openPort_steady (e : Eng) (port : Nat) : (e.openPort port).2.steady = e.steady := rfl

/-! ### What leaves for hosts, dies and peers -/

theorem sendDie_steady (e : Eng) (d : DieNum) (pa bit bits : Nat) (write : Option Nat) : (e.sendDie d pa bit bits write).steady = e.steady :=
  steady_foldl (fun e _ => emit_steady e rfl) _ e

theorem sendNpi_steady (e : Eng) (d : DevNum) {msg : NpiMsg} (h : (Out.npi d msg).isJoin = false) : (e.sendNpi d msg).steady = e.steady :=
  (show (e.sendNpi d msg).steady = (e.emit (.npi d msg)).steady from rfl).trans (emit_steady e h)

theorem sendRun_steady (e : Eng) (j : Job) (run : List Shot) : (e.sendRun j run).steady = e.steady := by
  unfold Eng.sendRun
  split
  · rfl
  · extract_lets w n v bytes
    split
    · rfl
    · split
      · exact hostPut_steady _ _ _
      · exact emit_steady _ rfl
    · exact sendDie_steady _ _ _ _ _ _
    · split
      · exact sendNpi_steady _ _ rfl
      · split
        · exact (count_steady _ _ _ _).trans (sendNpi_steady _ _ rfl)
        · exact sendNpi_steady _ _ rfl

theorem sendRuns_steady (e : Eng) (j : Job) (rs : List (List Shot)) (h : Word) (k : Job) :
    ((rs.foldl (fun e r => e.sendRun j r) e).modJob h fun _ => k).steady = e.steady :=
  (modJob_steady _ _ _).trans (steady_foldl (fun e r => sendRun_steady e j r) rs e)

/-! ### A descriptor's elements -/

theorem pump_foldl {β : Type} {f : Pump → β → Pump} (hf : ∀ p x, (f p x).e.steady = p.e.steady) (l : List β) (p : Pump) :
    (l.foldl f p).e.steady = p.e.steady := by
  induction l generalizing p with
  | nil => rfl
  | cons x l ih => exact (ih _).trans (hf p x)

theorem put_pump_steady (p : Pump) (st : StreamId) (k : Nat) (x : El) : (p.put st k x).e.steady = p.e.steady := rfl

theorem look_steady (p : Pump) (st : StreamId) (k : Nat) : (p.look st k).e.steady = p.e.steady := by
  unfold Pump.look
  extract_lets key
  split <;> rfl

theorem accept_steady (p : Pump) (st : StreamId) (k : Nat) (q : Req) (v : Nat) (bad : Bool) : (p.accept st k q v bad).e.steady = p.e.steady :=
  wakeFor_steady _ _

theorem send_steady (p : Pump) (m : Memory) (st : StreamId) (k : Nat) (q : Req) (v : Nat) (bad : Bool) :
    (p.send m st k q v bad).e.steady = p.e.steady := by
  unfold Pump.send
  split
  · exact accept_steady _ _ _ _ _ _
  · extract_lets e
    have he : e.steady = p.e.steady := wakeFor_steady _ _
    show (if e.withinStack m p.j q then e else e.park q (.job p.j.handle)).steady = _
    split
    · exact he
    · exact (park_steady _ _ _).trans he

theorem resend_steady (p : Pump) (st : StreamId) (k : Nat) (q : Req) (v : Nat) (bad : Bool) : (p.resend st k q v bad).e.steady = p.e.steady := by
  unfold Pump.resend
  split
  · exact accept_steady _ _ _ _ _ _
  · rfl

theorem fire_steady (p : Pump) (m : Memory) (st : StreamId) (k va bit v : Nat) (bad : Bool) : (p.fire m st k va bit v bad).e.steady = p.e.steady := by
  unfold Pump.fire
  extract_lets j d w p₁
  split
  · have h₁ : p₁.e.steady = p.e.steady := look_steady p st k
    split
    · exact (send_steady _ _ _ _ _ _ _).trans h₁
    · exact (startWalk_steady _ _ _ _).trans h₁
    · exact (noteFault_steady _ _ _ _ _).trans h₁
  · have h₁ := reaches_steady p.e m j.lead j.paddock d
    generalize p.e.reaches m j.lead j.paddock d = x at h₁ ⊢
    obtain ⟨ok, e⟩ := x
    dsimp only
    split
    · exact (noteFault_steady _ _ _ _ _).trans h₁
    · split
      · exact h₁
      · exact (send_steady _ _ _ _ _ _ _).trans h₁

theorem noteMerge_steady (e : Eng) (m : Memory) (j : Job) (a b : Nat) : (e.noteMerge m j a b).steady = e.steady := by
  unfold Eng.noteMerge
  split
  · rfl
  · split
    · split <;> rfl
    · rfl

theorem tryRead_steady (m : Memory) (st : StreamId) (p : Pump) (k : Nat) : (Pump.tryRead m st p k).e.steady = p.e.steady := by
  unfold Pump.tryRead
  split
  · exact resend_steady _ _ _ _ _ _
  · split
    · rfl
    · exact put_pump_steady _ _ _ _
    · extract_lets p₁
      refine (put_pump_steady p₁ _ _ _).trans ?_
      show (if st = .src then ({ p with e := p.e.count subWlk (4 + p.j.lead.toNat) 1 } : Pump) else p).e.steady = _
      split <;> rfl
    · extract_lets shared
      clear_value shared
      split
      · show (if _ then p.e.noteMerge m p.j _ _ else p.e).steady = _
        split
        · exact noteMerge_steady _ _ _ _ _
        · rfl
      · exact fire_steady _ _ _ _ _ _ _ _

theorem tryReads_steady (m : Memory) (st : StreamId) (ks : List Nat) (p : Pump) : (ks.foldl (Pump.tryRead m st) p).e.steady = p.e.steady :=
  pump_foldl (tryRead_steady m st) ks p

theorem fireDst_steady (m : Memory) (p : Pump) (k : Nat) : (Pump.fireDst m p k).e.steady = p.e.steady := by
  unfold Pump.fireDst
  extract_lets go whole
  have hgo (p : Pump) (i : Nat) : (go p i).e.steady = p.e.steady := by
    show (match p.j.outValue i, p.j.dstWhere i with
      | .ok v bad, .at a b _ => if p.j.skips i then p.put .dst i .done else p.fire m .dst i a b v bad
      | _, _ => p).e.steady = _
    split
    · split
      · rfl
      · exact fire_steady _ _ _ _ _ _ _ _
    · rfl
  split
  · exact pump_foldl hgo _ _
  · exact hgo _ _

theorem tryDst_steady (m : Memory) (p : Pump) (k : Nat) : (Pump.tryDst m p k).e.steady = p.e.steady := by
  unfold Pump.tryDst
  extract_lets p₁ gated
  have hgated (v : Nat) (bad : Bool) : (gated v bad).e.steady = p.e.steady := by
    dsimp only [gated]
    split
    · split
      · rfl
      · exact (noteFault_steady _ _ _ _ _).trans (look_steady p .dst k)
      · rfl
      · rfl
      · exact fireDst_steady _ _ _
    · rfl
  split
  · exact resend_steady _ _ _ _ _ _
  · exact hgated _ _
  · exact hgated _ _
  · split
    · rfl
    · split
      · rfl
      · rfl
      · split
        · rfl
        · rfl
        · split
          · rfl
          · exact hgated _ _
        · rfl
  · rfl

theorem tryScaleOut_steady (m : Memory) (p : Pump) (b : Nat) : (Pump.tryScaleOut m p b).e.steady = p.e.steady := by
  unfold Pump.tryScaleOut
  extract_lets go
  have hgo (p : Pump) (v : Nat) : (go p v).e.steady = p.e.steady := by
    dsimp only [go]
    split
    · exact fire_steady _ _ _ _ _ _ _ _
    · rfl
  split
  · exact resend_steady _ _ _ _ _ _
  · exact hgo _ _
  · split
    · rfl
    · rfl
    · next bad _ =>
      have hd : (if bad then p.e.draw else (0, p.e)).2.steady = p.e.steady := by split <;> rfl
      generalize (if bad then p.e.draw else (0, p.e)) = x at hd ⊢
      obtain ⟨n, e⟩ := x
      dsimp -zeta only at hd ⊢
      extract_lets v
      refine (hgo _ _).trans ?_
      show (if v = 0xFF then e.count subCst (12 + p.j.lead.toNat) 1 else e).steady = _
      split
      · exact hd
      · exact hd
  · rfl

theorem tryGiven_steady (m : Memory) (p : Pump) (k : Nat) : (Pump.tryGiven m p k).e.steady = p.e.steady := by
  unfold Pump.tryGiven
  extract_lets src go
  have hgo (v : Nat) (bad : Bool) : (go v bad).e.steady = p.e.steady := by
    dsimp only [go]
    split
    · exact fire_steady _ _ _ _ _ _ _ _
    · rfl
    · rfl
    · rfl
  split
  · exact hgo _ _
  · exact hgo _ _
  · exact resend_steady _ _ _ _ _ _
  · rfl

/-! ### The cast unit -/

theorem castElem_steady (e : Eng) (j : Job) (p v : Nat) : (e.castElem j p v).2.steady = e.steady := by
  unfold Eng.castElem
  split
  · rfl
  · extract_lets c r w
    generalize nextRounding c (e.cst.lfsr.getD r 1) = y
    obtain ⟨mode, s⟩ := y
    rfl

theorem castGrant_steady (e : Eng) (j : Job) : (e.castGrant j).1.steady = e.steady := by
  have hl (l : List Nat) (f : Eng × SMap Nat → Nat → Eng × SMap Nat) (hf : ∀ x i, (f x i).1.steady = x.1.steady) (x : Eng × SMap Nat) :
      (l.foldl f x).1.steady = x.1.steady := by
    induction l generalizing x with
    | nil => rfl
    | cons i l ih => exact (ih _).trans (hf x i)
  refine hl _ _ (fun x i => ?_) (e, j.castVal)
  dsimp only
  split
  · exact castElem_steady _ _ _ _
  · rfl

theorem castAll_steady (n : Nat) (e : Eng) (j : Job) : (Eng.castAll n e j).1.steady = e.steady := by
  induction n generalizing e j with
  | zero => rfl
  | succ n ih =>
    unfold Eng.castAll
    split
    · exact (ih _ _).trans (castGrant_steady e j)
    · rfl

/-! ### A descriptor goes on -/

theorem pass_steady (m : Memory) (p : Pump) : (Pump.pass m p).e.steady = p.e.steady := by
  unfold Pump.pass
  extract_lets p₁ p₂ p₃ p₄
  have h₁ : p₁.e.steady = p.e.steady := by
    show p.walkOn.e.steady = _
    unfold Pump.walkOn
    split <;> rfl
  have h₂ : p₂.e.steady = p₁.e.steady := tryReads_steady m .idx _ p₁
  have h₃ : p₃.e.steady = p₂.e.steady := tryReads_steady m .scaleIn _ p₂
  have h₄ : p₄.e.steady = p₃.e.steady := tryReads_steady m .src _ p₃
  have hc := castAll_steady (p₄.j.total + 1) p₄.e p₄.j.shareReads
  generalize Eng.castAll (p₄.j.total + 1) p₄.e p₄.j.shareReads = x at hc ⊢
  obtain ⟨e, j⟩ := x
  dsimp -zeta only at hc ⊢
  extract_lets p₅ p₆ p₇
  have h₆ : p₆.e.steady = e.steady := pump_foldl (tryDst_steady m) _ p₅
  have h₇ : p₇.e.steady = p₆.e.steady := pump_foldl (tryScaleOut_steady m) _ p₆
  exact h₇.trans (h₆.trans (hc.trans (h₄.trans (h₃.trans (h₂.trans h₁)))))

theorem pumpJob_steady (e : Eng) (m : Memory) (h : Word) : (e.pumpJob m h).steady = e.steady := by
  unfold Eng.pumpJob
  split
  · rfl
  · split
    · rfl
    · extract_lets p
      exact (sendRuns_steady _ _ _ _ _).trans (pump_foldl (fun p _ => pass_steady m p) _ _)

theorem pumpCerhus_steady (e : Eng) (m : Memory) (h : Word) : (e.pumpCerhus m h).steady = e.steady := by
  unfold Eng.pumpCerhus
  split
  · rfl
  · split
    · rfl
    · extract_lets p p₁ p₂ p₃
      have h₁ : p₁.e.steady = e.steady := tryReads_steady m .src _ p
      have h₂ : p₂.e.steady = p₁.e.steady := tryReads_steady m .scaleIn _ _
      have h₃ : p₃.e.steady = p₂.e.steady := pump_foldl (tryGiven_steady m) _ p₂
      exact (sendRuns_steady _ _ _ _ _).trans (h₃.trans (h₂.trans h₁))

theorem writeAllApplied_steady (e : Eng) (h : Word) : (e.writeAllApplied h).steady = e.steady := writeApplied_steady _ _ _

theorem noteChunks_steady (e : Eng) (h : Word) (cs : List Nat) : (e.noteChunks h cs).steady = e.steady := by
  unfold Eng.noteChunks
  split
  · rfl
  · split
    · rfl
    · extract_lets new
      split
      · rfl
      · exact (writeApplied_steady _ _ _).trans (modJob_steady _ _ _)

theorem noteDropped_steady (e : Eng) (h : Word) : (e.noteDropped h).steady = e.steady := by
  unfold Eng.noteDropped
  split
  · rfl
  · exact noteChunks_steady _ _ _

theorem freeWalkerOf_steady (e : Eng) (h : Word) : (e.freeWalkerOf h).steady = e.steady := by
  unfold Eng.freeWalkerOf
  split
  · rfl
  · exact (noteWorkOf_steady _ _).trans ((handOver_steady _ _).trans (modJob_steady _ _ _))

theorem freeWalkerIf_steady (c : Prop) [Decidable c] (e : Eng) (h : Word) : (if c then e.freeWalkerOf h else e).steady = e.steady := by
  split
  · exact freeWalkerOf_steady _ _
  · rfl

theorem checkEnd_steady (e : Eng) (h : Word) : (e.checkEnd h).steady = e.steady := by
  unfold Eng.checkEnd
  split
  · rfl
  · split
    · rfl
    · extract_lets e₁ e₂
      have h₁ : e₁.steady = e.steady := freeWalkerIf_steady _ _ _
      split
      · refine (finish_steady _ _ _ _).trans (Eq.trans ?_ h₁)
        show (if _ then e₁.writeAllApplied h else e₁).steady = _
        split
        · exact writeAllApplied_steady _ _
        · rfl
      · exact h₁

theorem advanceJob_steady (e : Eng) (m : Memory) (h : Word) : (e.advanceJob m h).steady = e.steady :=
  (checkEnd_steady _ _).trans ((noteDropped_steady _ _).trans (pumpJob_steady _ _ _))

end Sys2Proof.Machine
end

section
/-! Descriptors of every opcode, and what waits in a region and at a port, go on: what that leaves as it is. -/

namespace Sys2Proof.Machine

/-! ### EXPAND (R212 to R234) -/

theorem ite_steady {c : Prop} [Decidable c] {a b e : Eng} (ha : a.steady = e.steady) (hb : b.steady = e.steady) :
    (if c then a else b).steady = e.steady := by
  split
  · exact ha
  · exact hb

theorem setFree_steady (e : Eng) (n : BitVec 5) : (e.setFree n).steady = e.steady := rfl

theorem giveSets_steady (e : Eng) (h : Word) : (e.giveSets h).steady = e.steady := by
  have hd (e : Eng) : ({ e with drv := e.drv.map fun (d : Drover) => { d with sets := d.sets.erase h } } : Eng).steady = e.steady := by
    have hl : (List.range 20).map (fun n => ({ fenced := ((e.drv.map fun (d : Drover) => { d with sets := d.sets.erase h }).getD n {}).fenced } : Drover)) =
        (List.range 20).map fun n => { fenced := (e.drv.getD n {}).fenced } := by
      refine List.map_congr_left fun n _ => ?_
      rw [List.getD_eq_getElem?_getD, List.getD_eq_getElem?_getD, List.getElem?_map]
      cases e.drv[n]? <;> rfl
    unfold Eng.steady
    dsimp only
    rw [hl]
  unfold Eng.giveSets
  extract_lets ns e₁
  have h₁ : e₁.steady = e.steady :=
    steady_foldl (f := fun e n => if (e.drover n).sets.contains h then e.setFree n else e) (fun e n => ite_steady (setFree_steady e n) rfl) ns e
  clear_value e₁
  exact (hd (e₁.modJob h fun j => { j with sending := [], setWaits := [] })).trans h₁

theorem expandHeader_steady (e : Eng) (h : Word) : (e.expandHeader h).steady = e.steady := by
  unfold Eng.expandHeader
  split
  · rfl
  · split
    · rfl
    · split
      · rfl
      · rfl
      · rfl
      · split
        · rfl
        · extract_lets n
          split
          · rfl
          · rfl
          · rfl
          · split
            · rfl
            · split
              · exact finish_steady _ _ _ _
              · rfl

theorem endExpand_steady (e : Eng) (h : Word) : (e.endExpand h).steady = e.steady := by
  unfold Eng.endExpand
  split
  · rfl
  · next j hj =>
    split
    · rfl
    · extract_lets ff e₁ j₁ all issued e₂ whole o e₃ e₄
      have h₂ : e₂.steady = e.steady := freeWalkerIf_steady _ _ _
      have h₃ : e₃.steady = e.steady := (giveSets_steady _ _).trans h₂
      have h₄ : e₄.steady = e.steady := by
        refine Eq.trans ?_ h₃
        show (if _ then (if _ then e₃.raise _ _ _ _ _ else _) else e₃).steady = _
        split
        · split
          · exact raise_steady _ _ _ _ _ _ (by decide)
          · split
            · exact raise_steady _ _ _ _ _ _ (by decide)
            · rfl
        · rfl
      split
      · exact (finish_steady _ _ _ _).trans h₄
      · exact h₂

theorem advanceExpand_steady (e : Eng) (m : Memory) (h : Word) : (e.advanceExpand m h).steady = e.steady :=
  (endExpand_steady _ _).trans ((pumpCerhus_steady _ _ _).trans ((expandHeader_steady _ _).trans (pumpCerhus_steady _ _ _)))

/-! ### COMPRESS -/

theorem codeBlocks_steady (n : Nat) (e : Eng) (h : Word) : (e.codeBlocks h n).steady = e.steady := by
  induction n generalizing e with
  | zero => rfl
  | succ n ih =>
    unfold Eng.codeBlocks
    split
    · rfl
    · extract_lets i off nb pad
      split
      · rfl
      · split
        · extract_lets b raw e₁ e₂
          have h₁ : e₁.steady = e.steady := by
            exact ite_steady (count_steady _ _ _ _) rfl
          have h₂ : e₂.steady = e₁.steady := (modJob_steady _ _ _).trans (count_steady _ _ _ _)
          exact (ih e₂).trans (h₂.trans h₁)
        · rfl

/-- Effects whose engine stays steady, one after the other. -/
theorem eff_foldl_steady {β : Type} {f : Eff → β → Eff} (hf : ∀ x b, (f x b).eng.steady = x.eng.steady) (l : List β) (x : Eff) :
    (l.foldl f x).eng.steady = x.eng.steady := by
  induction l generalizing x with
  | nil => rfl
  | cons b l ih => exact (ih _).trans (hf x b)

theorem andThen_steady (x : Eff) (m : Memory) {f : Memory → Eng → Eff} (hf : ∀ m e, (f m e).eng.steady = e.steady) :
    (x.andThen m f).eng.steady = x.eng.steady := hf _ _

theorem scribble_steady (e : Eng) (m : Memory) (j : Job) (lo hi : Nat) : (e.scribble m j lo hi).eng.steady = e.steady := by
  unfold Eng.scribble
  have hd := draw_steady e
  generalize e.draw = y at hd ⊢
  obtain ⟨n, e₁⟩ := y
  refine (eff_foldl_steady (fun x i => ?_) _ ⟨e₁, []⟩).trans hd
  split
  · split
    · split
      · split
        · rfl
        · exact recordWrite_steady _ _ _ _ _
      · rfl
    · rfl
  · rfl

theorem endCompress_steady (e : Eng) (m : Memory) (h : Word) : (e.endCompress m h).eng.steady = e.steady := by
  unfold Eng.endCompress
  split
  · rfl
  · split
    · rfl
    · extract_lets ff e₁ j₁ ended e₂
      clear_value ff
      have h₂ : e₂.steady = e.steady := freeWalkerIf_steady _ _ _
      split
      · split
        · exact (finish_steady _ _ _ _).trans ((scribble_steady _ _ _ _ _).trans h₂)
        · exact (finish_steady _ _ _ _).trans ((scribble_steady _ _ _ _ _).trans h₂)
      · exact h₂

theorem advanceCompress_steady (e : Eng) (m : Memory) (h : Word) : (e.advanceCompress m h).eng.steady = e.steady := by
  unfold Eng.advanceCompress
  extract_lets e₁ e₂
  have h₁ : e₁.steady = e.steady := pumpCerhus_steady _ _ _
  have h₂ : e₂.steady = e₁.steady := codeBlocks_steady _ _ _
  exact (endCompress_steady _ _ _).trans ((pumpCerhus_steady _ _ _).trans (h₂.trans h₁))

/-! ### INVALIDATE -/

theorem invalidateRuns_steady (n : Nat) (e : Eng) (h : Word) : (e.invalidateRuns h n).steady = e.steady := by
  induction n generalizing e with
  | zero => rfl
  | succ n ih =>
    unfold Eng.invalidateRuns
    split
    · rfl
    · extract_lets va left page n' key e₁ dies
      have h₁ : e₁.steady = e.steady := by
        show (if _ then e else _).steady = _
        split <;> rfl
      split
      · rfl
      · split
        · extract_lets pa e₂
          have h₂ : e₂.steady = e₁.steady :=
            steady_foldl (fun e _ => (count_steady _ _ _ _).trans (emit_steady e rfl)) dies e₁
          exact (ih _).trans (h₂.trans h₁)
        · exact (startWalk_steady _ _ _ _).trans h₁
        · exact (noteFault_steady _ _ _ _ _).trans h₁

theorem endInvalidate_steady (e : Eng) (h : Word) : (e.endInvalidate h).steady = e.steady := by
  unfold Eng.endInvalidate
  split
  · rfl
  · split
    · rfl
    · split
      · exact finish_steady _ _ _ _
      · split
        · exact finish_steady _ _ _ _
        · rfl

theorem advanceInvalidate_steady (e : Eng) (h : Word) : (e.advanceInvalidate h).steady = e.steady := by
  unfold Eng.advanceInvalidate
  split
  · rfl
  · exact (endInvalidate_steady _ _).trans (invalidateRuns_steady _ _ _)

/-! ### Whatever goes on -/

theorem goOn_steady (e : Eng) (m : Memory) (h : Word) : (e.goOn m h).eng.steady = e.steady := by
  unfold Eng.goOn
  split
  · rfl
  · split
    · rfl
    · split
      · exact advanceCompress_steady _ _ _
      · split
        · exact advanceExpand_steady _ _ _
        · split
          · show (if _ then e.advanceInvalidate h else e).steady = _
            split
            · exact advanceInvalidate_steady _ _
            · rfl
          · exact advanceJob_steady _ _ _

theorem answerPeer_steady (e : Eng) (s : PeerServe) (st : Status) (bad : List Nat) (bs : List Byte) (col rep : Nat) :
    (e.answerPeer s st bad bs col rep).steady = e.steady := by
  unfold Eng.answerPeer
  extract_lets held npi e₁
  have h₁ : e₁.steady = e.steady := rfl
  split
  · exact (emit_steady _ rfl).trans h₁
  · exact (emit_steady _ rfl).trans h₁

theorem sendPeerOn_steady (e : Eng) (s : PeerServe) (x : Req) : (e.sendPeerOn s x).steady = e.steady := by
  unfold Eng.sendPeerOn
  extract_lets q e₁
  have h₁ : e₁.steady = e.steady := rfl
  split
  · exact (wakeFor_steady _ _).trans h₁
  · split
    · exact (hostPut_steady _ _ _).trans h₁
    · exact (emit_steady _ rfl).trans h₁
  · exact (sendDie_steady _ _ _ _ _ _).trans h₁
  · exact h₁

theorem startPeer_steady (e : Eng) (m : Memory) (s : PeerServe) : (e.startPeer m s).steady = e.steady := by
  unfold Eng.startPeer
  extract_lets q r n part
  split
  · rfl
  · split
    · split
      · exact sendPeerOn_steady _ _ _
      · rfl
    · split
      · exact wakeRegion_steady _ _
      · have h₁ := reaches_steady e m r q.paddock q.dev
        generalize e.reaches m r q.paddock q.dev = y at h₁ ⊢
        obtain ⟨ok, e₁⟩ := y
        dsimp -zeta only at h₁ ⊢
        split
        · refine ite_steady ((answerPeer_steady _ _ _ _ _ _ _).trans ((noteFault_steady _ _ _ _ _).trans h₁)) ?_
          exact ite_steady ((sendPeerOn_steady _ _ _).trans h₁) ((park_steady _ _ _).trans ((wakeFor_steady _ _).trans h₁))
        · exact (startWalk_steady _ _ _ _).trans h₁
        · exact (answerPeer_steady _ _ _ _ _ _ _).trans ((noteFault_steady _ _ _ _ _).trans h₁)

theorem answerDie_steady (e : Eng) (s : DieServe) (st : Status) (bs : List Byte) : (e.answerDie s st bs).steady = e.steady :=
  emit_steady _ rfl

theorem startDie_steady (e : Eng) (s : DieServe) : (e.startDie s).steady = e.steady := by
  unfold Eng.startDie
  extract_lets a p
  split
  · rfl
  · split
    · split
      · exact wakeFor_steady _ _
      · rfl
    · split
      · exact wakeRegion_steady _ _
      · split
        · split
          · exact wakeFor_steady _ _
          · exact (park_steady _ _ _).trans (wakeFor_steady _ _)
        · exact startWalk_steady _ _ _ _
        · exact (answerDie_steady _ _ _ _).trans (noteFault_steady _ _ _ _ _)

theorem retryOthers_steady (e : Eng) (m : Memory) (r : Region) : (e.retryOthers m r).steady = e.steady :=
  (steady_foldl startDie_steady _ _).trans (steady_foldl (fun e s => startPeer_steady e m s) _ e)

theorem resumeOther_steady (e : Eng) (m : Memory) (u : PortUser) : (e.resumeOther m u).steady = e.steady := by
  unfold Eng.resumeOther
  split
  · split
    · exact startPeer_steady _ _ _
    · rfl
  · split
    · exact startDie_steady _ _
    · rfl
  · rfl

theorem resumeRegion_steady (e : Eng) (m : Memory) (r : Region) : (e.resumeRegion m r).eng.steady = e.steady := by
  have h : (e.goOnRegion m r).eng.steady = e.steady := by
    unfold Eng.goOnRegion
    exact eff_foldl_steady (fun x (j : Job) => andThen_steady x m fun m e => goOn_steady e m j.handle) _ ⟨e, []⟩
  exact (retryOthers_steady _ _ _).trans h

theorem portOpens_steady (e : Eng) (m : Memory) (port : Nat) : (e.portOpens m port).eng.steady = e.steady := by
  refine (eff_foldl_steady (fun x u => ?_) _ ⟨(e.openPort port).2, []⟩).trans (openPort_steady e port)
  cases u with
  | job h => exact goOn_steady _ _ _
  | peer id => exact resumeOther_steady _ _ _
  | die d id => exact resumeOther_steady _ _ _

end Sys2Proof.Machine
end

section
/-! Self-test at the end of a segment (R377, R379 to R383). -/

namespace Sys2Proof.Machine

/-! ### A target's entry -/

theorem modBist_bistOf_self {e : Eng} (w : MapWf {} e.svc.bist) (k : Nat) (f : Bist → Bist) : (e.modBist k f).bistOf k = f (e.bistOf k) :=
  mapGet_mapUpd_self _ _ _ _ w

theorem modBist_bistOf_ne (e : Eng) {k q : Nat} (h : q ≠ k) (f : Bist → Bist) : (e.modBist k f).bistOf q = e.bistOf q :=
  mapGet_mapUpd_ne _ _ _ _ _ h

theorem modBist_wf {e : Eng} (w : MapWf {} e.svc.bist) (k : Nat) (f : Bist → Bist) : MapWf {} (e.modBist k f).svc.bist := mapUpd_wf _ _ _ _ w

theorem bist_of_steady {e e' : Eng} (h : e'.steady = e.steady) : e'.svc.bist = e.svc.bist := congrArg (·.svc.bist) h

theorem bistOf_of_steady {e e' : Eng} (h : e'.steady = e.steady) (k : Nat) : e'.bistOf k = e.bistOf k := by
  unfold Eng.bistOf
  rw [bist_of_steady h]

theorem lowEvents_of_steady {e e' : Eng} (h : e'.steady = e.steady) : e'.flt.lowEvents = e.flt.lowEvents := congrArg (·.flt.events) h

theorem mem_of_lowEvents {t : Flt} {v : FEvent} (h : v ∈ t.lowEvents) : v ∈ t.events := List.mem_of_mem_filter h

/-- The entry with the unit released. -/
def Bist.left (b : Bist) : Bist := { b with active := false, granted := false }

theorem on_noteWork_steady (x : Eff) : (x.on Eng.noteWork).eng.steady = x.eng.steady := noteWork_steady x.eng

/-- Outside a cold start a slice that ends changes its target's entry alone of what self-test keeps. -/
theorem leaveSlice_steady {e : Eng} (hb : e.booting = false) (m : Memory) (t : Sys2Proof.BistTarget) (f : Bist → Bist) :
    (e.leaveSlice m t f).eng.steady = (e.modBist (BistTarget.key t) fun b => f b.left).steady := by
  unfold Eng.leaveSlice
  rw [hb]
  extract_lets boot a x
  have ha : a.steady = (e.modBist (BistTarget.key t) fun b => f b.left).steady := rfl
  have hx : x.eng.steady = a.steady := by
    show (if t.row = 0 then a.portOpens m (7 + t.inst.toNat) else ⟨a, []⟩ : Eff).eng.steady = _
    split
    · exact portOpens_steady _ _ _
    · rfl
  clear_value a x
  rw [← ha, if_neg (by decide)]
  split
  · next r _ =>
    refine (on_noteWork_steady _).trans ?_
    split
    · exact (andThen_steady x m fun m e => resumeRegion_steady e m r).trans hx
    · rfl
  · have h4 := portOpens_steady a m 4
    generalize a.portOpens m 4 = y at h4 ⊢
    refine (on_noteWork_steady _).trans ?_
    exact (andThen_steady y m fun m e => portOpens_steady e m 5).trans h4

/-- What a slice that ends leaves: its target's entry, and the events of self-test. -/
theorem leaveSlice_left {e : Eng} (hb : e.booting = false) (w : MapWf {} e.svc.bist) (m : Memory) (t : Sys2Proof.BistTarget) (f : Bist → Bist) :
    (e.leaveSlice m t f).eng.bistOf (BistTarget.key t) = f (e.bistOf (BistTarget.key t)).left ∧
    (e.leaveSlice m t f).eng.flt.lowEvents = e.flt.lowEvents ∧ MapWf {} (e.leaveSlice m t f).eng.svc.bist := by
  have h := leaveSlice_steady hb m t f
  refine ⟨(bistOf_of_steady h _).trans (modBist_bistOf_self w _ _), ?_, ?_⟩
  · rw [lowEvents_of_steady h]
    rfl
  · rw [bist_of_steady h]
    exact modBist_wf w _ _

/-! ### The end of a segment -/

theorem exec_bistSegmentEnd {s : State} {b : Sys2Proof.BistTarget} (hl : s.Live) (hv : BistTarget.valid b = true)
    (hf : s.eng.unitFenced b.row.toNat b.inst.toNat = false) (ha : (s.eng.bistOf (BistTarget.key b)).active = true) (hz : s.eng.frozen = false)
    (hp : s.eng.svc.start.phase ≠ 6) (e : SegmentEnd) :
    let x := s.eng.sample.segmentEnds s.mem b e
    exec (.bistSegmentEnd b e) s = .next { s with eng := x.eng, mem := applyOps s.mem x.ops } := by
  change execBistSegmentEnd b e s = _
  refine onMem_eq hl ?_
  have hb : s.eng.booting = false := decide_eq_false hp
  exact if_neg (by simp [hv, Eng.segmentRuns, hf, ha, hz, hb])

/-- The clock and the voltage lie within R12. -/
def Eng.sampleOk (e : Eng) : Prop :=
  (1600 ≤ e.pins.engMhz.toNat ∧ e.pins.engMhz.toNat ≤ 1850) ∧ (720 ≤ e.pins.vmonMv.toNat ∧ e.pins.vmonMv.toNat ≤ 820)

theorem sampleOk_iff (e : Eng) : (!clockOk e.pins.engMhz.toNat || !voltOk e.pins.vmonMv.toNat) = false ↔ e.sampleOk := by
  simp [clockOk, voltOk, Eng.sampleOk]

theorem segmentEnds_sample {e : Eng} (h : ¬ e.sampleOk) (m : Memory) (t : Sys2Proof.BistTarget) (x : SegmentEnd) :
    ∃ src : BitVec 4 × BitVec 6, ∃ d c v, e.segmentEnds m t x =
      (e.raise src.1 src.2 0x09 none d).leaveSlice m t fun b => { b.again with invalid := b.invalid + 1, badClock := c, badVolt := v } := by
  have h' : (!clockOk e.pins.engMhz.toNat || !voltOk e.pins.vmonMv.toNat) = true := by
    rw [← Bool.not_eq_false, sampleOk_iff]
    exact h
  exact ⟨_, _, _, _, if_pos h'⟩

theorem segmentEnds_stops {e : Eng} (h : e.sampleOk) {t : Sys2Proof.BistTarget} (hs : e.sliceStops t = true) (m : Memory) (x : SegmentEnd) :
    e.segmentEnds m t x = (e.count subSvc 29 1).leaveSlice m t id := by
  have h' := (sampleOk_iff e).mpr h
  unfold Eng.segmentEnds
  extract_lets b src c v ends e₁
  rw [if_neg (by simpa [c, v] using h'), if_pos hs]

/-- A segment that runs to its end, by its place in the slice and the visit. -/
theorem segmentEnds_runs {e : Eng} (h : e.sampleOk) {t : Sys2Proof.BistTarget} (hs : e.sliceStops t = false) (hb : e.booting = false) (m : Memory)
    (x : SegmentEnd) :
    let b := e.bistOf (BistTarget.key t)
    e.segmentEnds m t x =
      if 20 ≤ b.segment + 1 then
        if bistSlices t.row.toNat ≤ b.slice + 1 then (e.count subSvc 28 1).visitEnds m t x
        else (e.count subSvc 28 1).leaveSlice m t fun b => b.step x
      else if b.granted then e.leaveSlice m t fun b => b.step x
      else ⟨(e.modBist (BistTarget.key t) fun b => b.step x).dropTested t.row.toNat t.inst.toNat, []⟩ := by
  intro b
  have h' := (sampleOk_iff e).mpr h
  unfold Eng.segmentEnds
  extract_lets src c v ends e₁
  rw [if_neg (by simpa [c, v] using h'), if_neg (by simp [hs]), if_neg (by simp [hb])]
  by_cases h20 : 20 ≤ b.segment + 1
  · have he : ends = true := decide_eq_true h20
    have h₁ : e₁ = e.count subSvc 28 1 := if_pos he
    rw [he, h₁, if_pos h20]
    by_cases hl : bistSlices t.row.toNat ≤ b.slice + 1
    · simp only [hl, if_true, decide_true, Bool.and_true]
    · simp only [hl, if_true, if_false, decide_false, Bool.and_false, Bool.true_or, Bool.false_eq_true]
  · have he : ends = false := decide_eq_false h20
    have h₁ : e₁ = e := if_neg (by rw [he]; decide)
    rw [he, h₁, if_neg h20]
    simp only [Bool.false_and, Bool.false_eq_true, if_false, Bool.false_or]

theorem dropTested_keeps (e : Eng) (row inst : Nat) : (e.dropTested row inst).svc = e.svc ∧ (e.dropTested row inst).jobs = e.jobs := by
  have hi : e.injectSeen.svc = e.svc ∧ e.injectSeen.jobs = e.jobs := by
    unfold Eng.injectSeen
    extract_lets i now w
    split <;> exact ⟨rfl, rfl⟩
  unfold Eng.dropTested
  extract_lets b n g e₁ src₁ src₂ src₃ e₂ i
  have h₂ : e₂.svc = e₁.svc ∧ e₂.jobs = e₁.jobs := by
    show (if row = 5 then _ else if row = 6 then _ else if row = 8 then _ else e₁ : Eng).svc = _ ∧
      (if row = 5 then _ else if row = 6 then _ else if row = 8 then _ else e₁ : Eng).jobs = _
    split
    · exact ⟨rfl, rfl⟩
    · split
      · exact ⟨rfl, rfl⟩
      · split <;> exact ⟨rfl, rfl⟩
  obtain ⟨hs, hj⟩ := h₂
  split
  · exact ⟨hs.trans hi.1, hj.trans hi.2⟩
  · exact ⟨hs.trans hi.1, hj.trans hi.2⟩

end Sys2Proof.Machine
end

section
/-! A visit's end: complete, to be diagnosed, repaired, or unrepairable (R382, R383). -/

namespace Sys2Proof.Machine

/-- The entry of a target whose visit is complete at a stamp. -/
def Bist.visited (b : Bist) (now : Word) : Bist := { b.again with
  active := false, last := now, overdue := false, won := false, waited := 0, starved := none, diag := false, invalid := 0, rerun := none, uncovered := none }

theorem visitDone_eq (e : Eng) (m : Memory) (t : Sys2Proof.BistTarget) : e.visitDone m t = e.leaveSlice m t fun b => b.visited e.now := rfl

/-! ### Spares -/

theorem macroOf_ids (b : Bist) (st mac : Byte) : (macroOf b st mac).structId = st ∧ (macroOf b st mac).macroNo = mac := by
  unfold macroOf
  cases h : b.macros.find? fun m => m.structId = st && m.macroNo = mac with
  | none => exact ⟨rfl, rfl⟩
  | some m => simpa using List.find?_some h

theorem macroOf_setMacro {m : MacroUse} {st mac : Byte} (h : m.structId = st ∧ m.macroNo = mac) (b : Bist) : macroOf (setMacro b m) st mac = m := by
  simp [macroOf, setMacro, h]

/-- One failing cell of an array with a free row takes a row (R382). -/
theorem repairs_one {b : Bist} {st mac : Byte} (h : (macroOf b st mac).rows < 2) (adr col : BitVec 16) :
    (macroOf b st mac).repairs [(adr, col)] = some [⟨st, mac, 1, adr⟩] := by
  obtain ⟨hs, hm⟩ := macroOf_ids b st mac
  have hr : (macroOf b st mac).rows + 1 ≤ 2 := by omega
  simp [MacroUse.repairs, hr, hs, hm]

theorem noteFailure_keeps (e : Eng) (t : Sys2Proof.BistTarget) (r : Repair) :
    let m := macroOf (e.bistOf (BistTarget.key t)) r.structId r.macroNo
    (e.noteFailure t r).svc.bist = (e.modBist (BistTarget.key t) fun b => setMacro b { m with fails := m.fails + 1 }).svc.bist ∧
      (e.noteFailure t r).svc.start = e.svc.start := by
  intro m
  unfold Eng.noteFailure
  extract_lets k m' e₁ src i e₂
  clear_value i
  split
  · exact ⟨rfl, rfl⟩
  · split <;> exact ⟨rfl, rfl⟩

/-- The entry of a target of which one array has taken one spare row. -/
def Bist.rowTaken (b : Bist) (st mac : Byte) (adr : BitVec 16) : Bist :=
  let m := macroOf b st mac
  let b := setMacro b { m with fails := m.fails + 1 }
  let b := setMacro b ((macroOf b st mac).map 1)
  { b with rerun := some ((b.rerun.getD []) ++ [⟨st, mac, 1, adr⟩]) }

theorem rowTaken_keeps (b : Bist) (st mac : Byte) (adr : BitVec 16) :
    (macroOf (b.rowTaken st mac adr) st mac).rows = (macroOf b st mac).rows + 1 ∧
      (b.rowTaken st mac adr).rerun = some ((b.rerun.getD []) ++ [⟨st, mac, 1, adr⟩]) := by
  have h := macroOf_ids b st mac
  obtain ⟨m, hm⟩ : ∃ m, m = macroOf b st mac := ⟨_, rfl⟩
  rw [← hm] at h
  have h1 : macroOf (setMacro b { m with fails := m.fails + 1 }) st mac = { m with fails := m.fails + 1 } :=
    macroOf_setMacro (m := { m with fails := m.fails + 1 }) h b
  refine ⟨?_, rfl⟩
  unfold Bist.rowTaken
  rw [← hm]
  dsimp only
  rw [h1]
  have h2 : macroOf (setMacro (setMacro b { m with fails := m.fails + 1 }) { m with fails := m.fails + 1, rows := m.rows + 1 }) st mac =
      { m with fails := m.fails + 1, rows := m.rows + 1 } := macroOf_setMacro (m := { m with fails := m.fails + 1, rows := m.rows + 1 }) h _
  exact congrArg MacroUse.rows h2

/-- An array with one failing cell and a free row takes that row, and its visit is to be run again. -/
theorem repairMacro_one {e : Eng} (w : MapWf {} e.svc.bist) {t : Sys2Proof.BistTarget} {st mac : Byte}
    (h : (macroOf (e.bistOf (BistTarget.key t)) st mac).rows < 2) (adr col : BitVec 16) :
    (e.repairMacro t ⟨st, mac, [(adr, col)]⟩).bistOf (BistTarget.key t) = (e.bistOf (BistTarget.key t)).rowTaken st mac adr ∧
      (e.repairMacro t ⟨st, mac, [(adr, col)]⟩).svc.start = e.svc.start ∧ MapWf {} (e.repairMacro t ⟨st, mac, [(adr, col)]⟩).svc.bist := by
  obtain ⟨hb, hs⟩ := noteFailure_keeps e t ⟨st, mac, 1, adr⟩
  have hx : e.repairMacro t ⟨st, mac, [(adr, col)]⟩ =
      (((e.noteFailure t ⟨st, mac, 1, adr⟩).modBist (BistTarget.key t) fun b => setMacro b ((macroOf b st mac).map 1)).count subSvc 31 1).modBist
        (BistTarget.key t) fun b => { b with rerun := some ((b.rerun.getD []) ++ [⟨st, mac, 1, adr⟩]) } := by
    unfold Eng.repairMacro
    dsimp only
    rw [repairs_one h]
    rfl
  rw [hx]
  generalize e.noteFailure t ⟨st, mac, 1, adr⟩ = a at hb hs
  have hw : MapWf {} a.svc.bist := by
    rw [hb]
    exact modBist_wf w _ _
  have ha : a.bistOf (BistTarget.key t) = setMacro (e.bistOf (BistTarget.key t))
      { macroOf (e.bistOf (BistTarget.key t)) st mac with fails := (macroOf (e.bistOf (BistTarget.key t)) st mac).fails + 1 } := by
    have h := modBist_bistOf_self w (BistTarget.key t) fun b => setMacro b
      { macroOf (e.bistOf (BistTarget.key t)) st mac with fails := (macroOf (e.bistOf (BistTarget.key t)) st mac).fails + 1 }
    unfold Eng.bistOf at h ⊢
    rw [hb]
    exact h
  have hw₁ := modBist_wf hw (BistTarget.key t) fun b => setMacro b ((macroOf b st mac).map 1)
  have h₁ := modBist_bistOf_self hw (BistTarget.key t) fun b => setMacro b ((macroOf b st mac).map 1)
  have hs₁ : (a.modBist (BistTarget.key t) fun b => setMacro b ((macroOf b st mac).map 1)).svc.start = e.svc.start := hs
  generalize a.modBist (BistTarget.key t) (fun b => setMacro b ((macroOf b st mac).map 1)) = c at hw₁ h₁ hs₁ ⊢
  rw [ha] at h₁
  refine ⟨?_, hs₁, modBist_wf (e := c.count subSvc 31 1) hw₁ _ _⟩
  rw [modBist_bistOf_self (e := c.count subSvc 31 1) hw₁]
  have hc : (c.count subSvc 31 1).bistOf (BistTarget.key t) = c.bistOf (BistTarget.key t) := rfl
  rw [hc, h₁]
  rfl

/-! ### The events of a repair -/

/-- An event of self-test. -/
theorem raise_lowEvents (e : Eng) (sub : BitVec 4) (inst code : BitVec 6) (d : Word) (h : code.toNat < 16) :
    ∃ v, (e.raise sub inst code none d).flt.lowEvents = e.flt.lowEvents ++ [v] ∧ srcCode v.source = code := by
  obtain ⟨v, hv, hs⟩ : ∃ v : FEvent, (e.raise sub inst code none d).flt.events = e.flt.events ++ [v] ∧ v.source = sourceOf sub inst code :=
    ⟨_, rfl, rfl⟩
  have hc : srcCode v.source = code := by rw [hs, srcCode_sourceOf]
  refine ⟨v, ?_, hc⟩
  unfold Flt.lowEvents
  rw [hv, List.filter_append, List.filter_cons_of_pos (by rw [hc]; exact decide_eq_true h), List.filter_nil]

/-- The events of the macros repaired follow those before, and change nothing else. -/
theorem repairedEvents_keeps (rs : List Repair) (seen : List (Byte × Byte)) (e : Eng) (t : Sys2Proof.BistTarget) :
    (e.repairedEvents t seen rs).svc = e.svc ∧ (e.repairedEvents t seen rs).now = e.now ∧
      ∀ v ∈ e.flt.lowEvents, v ∈ (e.repairedEvents t seen rs).flt.lowEvents := by
  induction rs generalizing e seen with
  | nil =>
    unfold Eng.repairedEvents
    exact ⟨rfl, rfl, fun _ h => h⟩
  | cons r rs ih =>
    unfold Eng.repairedEvents
    split
    · exact ih seen e
    · extract_lets src
      obtain ⟨v, hv, -⟩ := raise_lowEvents e src.1 src.2 0x06 (pack [(0, r.structId.toNat), (8, r.kind.toNat), (16, r.addr.toNat)]) (by decide)
      obtain ⟨h1, h2, h3⟩ := ih ((r.structId, r.macroNo) :: seen)
        (e.raise src.1 src.2 0x06 none (pack [(0, r.structId.toNat), (8, r.kind.toNat), (16, r.addr.toNat)]))
      exact ⟨h1, h2, fun u hu => h3 u (hv ▸ List.mem_append_left _ hu)⟩

/-- A repair that passes raises an event for its first array. -/
theorem repairedEvents_first (e : Eng) (t : Sys2Proof.BistTarget) (r : Repair) (rs : List Repair) :
    ∃ v ∈ (e.repairedEvents t [] (r :: rs)).flt.lowEvents, srcCode v.source = 0x06 := by
  unfold Eng.repairedEvents
  rw [if_neg (by simp)]
  extract_lets src
  obtain ⟨v, hv, hc⟩ := raise_lowEvents e src.1 src.2 0x06 (pack [(0, r.structId.toNat), (8, r.kind.toNat), (16, r.addr.toNat)]) (by decide)
  obtain ⟨-, -, h3⟩ := repairedEvents_keeps rs [(r.structId, r.macroNo)]
    (e.raise src.1 src.2 0x06 none (pack [(0, r.structId.toNat), (8, r.kind.toNat), (16, r.addr.toNat)])) t
  exact ⟨v, h3 v (hv ▸ List.mem_append_right _ (List.mem_singleton.mpr rfl)), hc⟩

/-! ### How a visit ends -/

/-- The last segment read what it should, and no segment before it failed. -/
def Bist.good (b : Bist) (x : SegmentEnd) : Prop := b.failed = false ∧ x = .pass

theorem good_iff (b : Bist) (x : SegmentEnd) : (!b.failed && decide (x = .pass)) = true ↔ b.good x := by
  simp [Bist.good]

theorem not_good_iff (b : Bist) (x : SegmentEnd) : ¬ b.good x ↔ b.failed = true ∨ x ≠ .pass := by
  unfold Bist.good
  rw [not_and_or, Bool.not_eq_false]

theorem visitEnds_complete {e : Eng} {t : Sys2Proof.BistTarget} {x : SegmentEnd} (m : Memory) (hr : (e.bistOf (BistTarget.key t)).rerun = none)
    (hd : (e.bistOf (BistTarget.key t)).diag = false) (hg : (e.bistOf (BistTarget.key t)).good x) : e.visitEnds m t x = e.visitDone m t := by
  unfold Eng.visitEnds
  extract_lets k b good
  have hr' : b.rerun = none := hr
  have hd' : b.diag = false := hd
  have hg' : good = true := (good_iff _ _).mpr hg
  rw [hr']
  dsimp only
  rw [hd', hg']
  rfl

theorem visitEnds_diagnoses {e : Eng} {t : Sys2Proof.BistTarget} {x : SegmentEnd} (m : Memory) (hr : (e.bistOf (BistTarget.key t)).rerun = none)
    (hd : (e.bistOf (BistTarget.key t)).diag = false) (hg : ¬ (e.bistOf (BistTarget.key t)).good x) : e.visitEnds m t x =
      (e.count subSvc 30 1).leaveSlice m t fun b => { b.again with diag := true, overdue := true, invalid := 0 } := by
  unfold Eng.visitEnds
  extract_lets k b good
  have hr' : b.rerun = none := hr
  have hd' : b.diag = false := hd
  have hg' : good = false := by
    rw [← Bool.not_eq_true]
    exact fun h => hg ((good_iff _ _).mp h)
  rw [hr']
  dsimp only
  rw [hd', hg']
  rfl

theorem visitEnds_found {e : Eng} {t : Sys2Proof.BistTarget} (m : Memory) (hr : (e.bistOf (BistTarget.key t)).rerun = none)
    (hd : (e.bistOf (BistTarget.key t)).diag = true) (c : MacroCells) : e.visitEnds m t (.found [c]) =
      (e.repairMacro t c).leaveSlice m t fun b => { b.again with diag := false, invalid := 0 } := by
  unfold Eng.visitEnds
  extract_lets k b good
  have hr' : b.rerun = none := hr
  have hd' : b.diag = true := hd
  rw [hr']
  dsimp only
  rw [hd']
  rfl

theorem visitEnds_repaired {e : Eng} {t : Sys2Proof.BistTarget} {x : SegmentEnd} (m : Memory) {rs : List Repair}
    (hr : (e.bistOf (BistTarget.key t)).rerun = some rs) (hg : (e.bistOf (BistTarget.key t)).good x)
    (hu : (e.bistOf (BistTarget.key t)).uncovered = none) : e.visitEnds m t x = (e.repairedEvents t [] rs).visitDone m t := by
  unfold Eng.visitEnds
  extract_lets k b good
  have hr' : b.rerun = some rs := hr
  have hg' : good = true := (good_iff _ _).mpr hg
  have hu' : b.uncovered = none := hu
  rw [hr']
  dsimp only
  rw [hg', hu']
  rfl

theorem visitEnds_unrepairable {e : Eng} {t : Sys2Proof.BistTarget} {x : SegmentEnd} (m : Memory) {rs : List Repair}
    (hr : (e.bistOf (BistTarget.key t)).rerun = some rs)
    (hg : ¬ (e.bistOf (BistTarget.key t)).good x ∨ (e.bistOf (BistTarget.key t)).uncovered ≠ none) :
    ∃ st, e.visitEnds m t x = (e.count subSvc 30 1).unrepairable m t st := by
  unfold Eng.visitEnds
  extract_lets k b good
  have hr' : b.rerun = some rs := hr
  have hc : ¬ (good && b.uncovered.isNone) = true := by
    rw [Bool.and_eq_true, Option.isNone_iff_eq_none]
    rintro ⟨h1, h2⟩
    exact hg.elim (fun h => h ((good_iff _ _).mp h1)) fun h => h h2
  rw [hr']
  dsimp only
  rw [if_neg hc]
  exact ⟨_, rfl⟩

/-! ### What a visit's end leaves of its target -/

/-- A visit that is complete, with its events. -/
theorem visitDone_left {e : Eng} (hb : e.booting = false) (w : MapWf {} e.svc.bist) (m : Memory) (t : Sys2Proof.BistTarget) :
    (e.visitDone m t).eng.bistOf (BistTarget.key t) = (e.bistOf (BistTarget.key t)).left.visited e.now ∧
    (e.visitDone m t).eng.flt.lowEvents = e.flt.lowEvents ∧ MapWf {} (e.visitDone m t).eng.svc.bist := by
  rw [visitDone_eq]
  exact leaveSlice_left hb w m t _

theorem unrepairable_left {e : Eng} (hb : e.booting = false) (w : MapWf {} e.svc.bist) (m : Memory) (t : Sys2Proof.BistTarget) (st : Byte) :
    (∃ d, (e.unrepairable m t st).eng.bistOf (BistTarget.key t) = { (e.bistOf (BistTarget.key t)).left.visited e.now with fenced := d }) ∧
    ∃ v ∈ (e.unrepairable m t st).eng.flt.lowEvents, srcCode v.source = 0x07 := by
  unfold Eng.unrepairable
  extract_lets src dead
  obtain ⟨v, hv, hc⟩ := raise_lowEvents e src.1 src.2 0x07 (st.setWidth 64) (by decide)
  obtain ⟨h1, h2, h3⟩ := visitDone_left (e := e.raise src.1 src.2 0x07 none (st.setWidth 64)) hb w m t
  generalize (e.raise src.1 src.2 0x07 none (st.setWidth 64)).visitDone m t = y at h1 h2 h3
  refine ⟨⟨_, (modBist_bistOf_self h3 (BistTarget.key t) _).trans (congrArg (fun b : Bist => { b with fenced := b.fenced || dead }) h1)⟩, v, ?_, hc⟩
  have hm : v ∈ y.eng.flt.lowEvents := by
    rw [h2, hv]
    exact List.mem_append_right _ (List.mem_singleton.mpr rfl)
  exact hm

end Sys2Proof.Machine
end

section
/-! The end of a self-test segment, by what is found at it (R377, R379 to R383; log 86). -/

namespace Sys2Proof.Machine

theorem step_counts {b : Bist} (h : b.segment + 1 < 20) (x : SegmentEnd) :
    b.step x = { b with segment := b.segment + 1, failed := b.failed || decide (x = .fail) } :=
  if_neg (Nat.not_le_of_lt h)

theorem step_endsSlice {b : Bist} (h : 20 ≤ b.segment + 1) (x : SegmentEnd) :
    b.step x = { b with segment := 0, slice := b.slice + 1, failed := b.failed || decide (x = .fail) } :=
  if_pos h

section SegmentEnds

/-- The segment's end leaves its target's entry so, with the unit released. -/
def State.segmentLeaves (s : State) (b : Sys2Proof.BistTarget) (e : SegmentEnd) (q : Bist → Prop) : Prop :=
  ∃ t, exec (.bistSegmentEnd b e) s = .next t ∧ q (t.eng.bistOf (BistTarget.key b)) ∧ (t.eng.bistOf (BistTarget.key b)).active = false ∧
    (t.eng.bistOf (BistTarget.key b)).granted = false

/-- The segment's end raises an event of a code. -/
def State.segmentRaises (s : State) (b : Sys2Proof.BistTarget) (e : SegmentEnd) (c : BitVec 6) : Prop :=
  ∃ t ev, exec (.bistSegmentEnd b e) s = .next t ∧ ev ∈ t.eng.flt.events ∧ srcCode ev.source = c

/-- The entry of a target whose visit is complete now. -/
def Bist.complete (y : Bist) (now : Word) : Prop := y.last = now ∧ y.slice = 0 ∧ y.segment = 0 ∧ y.overdue = false ∧ y.rerun = none

theorem visited_complete (b : Bist) (now : Word) : (b.visited now).complete now ∧ (b.visited now).active = false ∧ (b.left.visited now).granted = false :=
  ⟨⟨rfl, rfl, rfl, rfl, rfl⟩, rfl, rfl⟩

/-- The engine at the end of a slice. -/
def Eng.visitOver (e : Eng) : Eng := e.sample.count subSvc 28 1

/-- A segment runs on the target, outside a cold start, and nothing holds it. -/
structure State.RunsSegment (s : State) (b : Sys2Proof.BistTarget) : Prop where
  live : s.Live
  tab : TabInv s
  valid : BistTarget.valid b = true
  free : s.eng.unitFenced b.row.toNat b.inst.toNat = false
  active : (s.eng.bistOf (BistTarget.key b)).active = true
  running : s.eng.frozen = false
  started : s.eng.svc.start.phase ≠ 6

variable {s : State} {b : Sys2Proof.BistTarget} {e : SegmentEnd} (h : s.RunsSegment b)
include h

theorem State.RunsSegment.exec : let x := s.eng.sample.segmentEnds s.mem b e
    exec (.bistSegmentEnd b e) s = .next { s with eng := x.eng, mem := applyOps s.mem x.ops } :=
  exec_bistSegmentEnd h.live h.valid h.free h.active h.running h.started e

theorem State.RunsSegment.booting : s.eng.sample.booting = false := decide_eq_false h.started

theorem State.RunsSegment.wf : MapWf {} s.eng.sample.svc.bist := by
  obtain ⟨-, -, -, -, -, -, hw⟩ := h.tab
  exact hw

/-- A segment's end that ends its slice leaves what the slice's end makes of the entry. -/
theorem segmentLeaves_of {a : Eng} {f : Bist → Bist} {q : Bist → Prop} (he : s.eng.sample.segmentEnds s.mem b e = a.leaveSlice s.mem b f)
    (hb : a.booting = false) (hw : MapWf {} a.svc.bist) (hq : q (f (a.bistOf (BistTarget.key b)).left))
    (ha : (f (a.bistOf (BistTarget.key b)).left).active = false) (hg : (f (a.bistOf (BistTarget.key b)).left).granted = false) :
    s.segmentLeaves b e q := by
  obtain ⟨hbist, -, -⟩ := leaveSlice_left hb hw s.mem b f
  have hx := h.exec (e := e)
  rw [he] at hx
  refine ⟨_, hx, ?_⟩
  rw [hbist]
  exact ⟨hq, ha, hg⟩

/-- A sample out of R12 discards the visit (R381). -/
theorem segment_discarded (hs : ¬ s.eng.sampleOk) : s.segmentRaises b e 9 ∧ s.segmentLeaves b e fun y => y.slice = 0 ∧ y.segment = 0 ∧
    y.invalid = (s.eng.bistOf (BistTarget.key b)).invalid + 1 ∧ y.last = (s.eng.bistOf (BistTarget.key b)).last := by
  obtain ⟨src, d, c, v, hx⟩ := segmentEnds_sample (e := s.eng.sample) hs s.mem b e
  refine ⟨?_, segmentLeaves_of h hx h.booting h.wf ⟨rfl, rfl, rfl, rfl⟩ rfl rfl⟩
  obtain ⟨ev, hev, hc⟩ := raise_lowEvents s.eng.sample src.1 src.2 0x09 d (by decide)
  obtain ⟨-, hl, -⟩ := leaveSlice_left (e := s.eng.sample.raise src.1 src.2 0x09 none d) h.booting h.wf s.mem b
    fun b => { b.again with invalid := b.invalid + 1, badClock := c, badVolt := v }
  have he := h.exec (e := e)
  rw [hx] at he
  refine ⟨_, ev, he, mem_of_lowEvents ?_, hc⟩
  rw [hl, hev]
  exact List.mem_append_right _ (List.mem_singleton.mpr rfl)

/-- Work that has come to the unit stops the slice where it stands (R379). -/
theorem segment_stops (hs : s.eng.sampleOk) (hst : s.eng.sliceStops b = true) : s.segmentLeaves b e fun y =>
    y.slice = (s.eng.bistOf (BistTarget.key b)).slice ∧ y.segment = (s.eng.bistOf (BistTarget.key b)).segment ∧
      y.failed = (s.eng.bistOf (BistTarget.key b)).failed ∧ y.last = (s.eng.bistOf (BistTarget.key b)).last :=
  segmentLeaves_of h (segmentEnds_stops (e := s.eng.sample) hs hst s.mem e) h.booting h.wf ⟨rfl, rfl, rfl, rfl⟩ rfl rfl

theorem segmentEnds_eq (hs : s.eng.sampleOk) (hst : s.eng.sliceStops b = false) : s.eng.sample.segmentEnds s.mem b e =
    if 20 ≤ (s.eng.bistOf (BistTarget.key b)).segment + 1 then
      if bistSlices b.row.toNat ≤ (s.eng.bistOf (BistTarget.key b)).slice + 1 then s.eng.visitOver.visitEnds s.mem b e
      else s.eng.visitOver.leaveSlice s.mem b fun y => y.step e
    else if (s.eng.bistOf (BistTarget.key b)).granted then s.eng.sample.leaveSlice s.mem b fun y => y.step e
    else ⟨(s.eng.sample.modBist (BistTarget.key b) fun y => y.step e).dropTested b.row.toNat b.inst.toNat, []⟩ :=
  segmentEnds_runs (e := s.eng.sample) hs hst h.booting s.mem e

/-- One segment more, and the slice goes on. -/
theorem segment_counts (hs : s.eng.sampleOk) (hst : s.eng.sliceStops b = false)
    (h20 : (s.eng.bistOf (BistTarget.key b)).segment + 1 < 20) (hg : (s.eng.bistOf (BistTarget.key b)).granted = false) :
    let x := s.eng.bistOf (BistTarget.key b)
    ∃ t, Machine.exec (.bistSegmentEnd b e) s = .next t ∧
      t.eng.bistOf (BistTarget.key b) = { x with segment := x.segment + 1, failed := x.failed || decide (e = .fail) } ∧
      (∀ q, q ≠ BistTarget.key b → t.eng.bistOf q = s.eng.bistOf q) ∧ t.eng.jobs = s.eng.jobs ∧ t.mem = s.mem := by
  intro x
  have hx := segmentEnds_eq h hs hst (e := e)
  rw [if_neg (by omega), if_neg (by simp [hg])] at hx
  have he := h.exec (e := e)
  rw [hx] at he
  obtain ⟨hsvc, hjobs⟩ := dropTested_keeps (s.eng.sample.modBist (BistTarget.key b) fun y => y.step e) b.row.toNat b.inst.toNat
  have hbist (q : Nat) : ((s.eng.sample.modBist (BistTarget.key b) fun y => y.step e).dropTested b.row.toNat b.inst.toNat).bistOf q =
      (s.eng.sample.modBist (BistTarget.key b) fun y => y.step e).bistOf q := by
    unfold Eng.bistOf
    rw [hsvc]
  refine ⟨_, he, ?_, fun q hq => ?_, hjobs, rfl⟩
  · refine (hbist _).trans ((modBist_bistOf_self h.wf _ _).trans ?_)
    exact step_counts h20 e
  · exact (hbist q).trans (modBist_bistOf_ne _ hq _)

/-- A segment granted to an overdue target ends with its one segment. -/
theorem segment_granted (hs : s.eng.sampleOk) (hst : s.eng.sliceStops b = false)
    (h20 : (s.eng.bistOf (BistTarget.key b)).segment + 1 < 20) (hg : (s.eng.bistOf (BistTarget.key b)).granted = true) :
    s.segmentLeaves b e fun y => y.segment = (s.eng.bistOf (BistTarget.key b)).segment + 1 ∧ y.slice = (s.eng.bistOf (BistTarget.key b)).slice := by
  have hx := segmentEnds_eq h hs hst (e := e)
  rw [if_neg (by omega), if_pos hg] at hx
  have hstep := step_counts (b := (s.eng.sample.bistOf (BistTarget.key b)).left) h20 e
  refine segmentLeaves_of h hx h.booting h.wf ?_ ?_ ?_
  all_goals rw [hstep]
  · exact ⟨rfl, rfl⟩
  · rfl
  · rfl

/-- The twentieth segment ends the slice. -/
theorem segment_endsSlice (hs : s.eng.sampleOk) (hst : s.eng.sliceStops b = false)
    (h20 : 20 ≤ (s.eng.bistOf (BistTarget.key b)).segment + 1) (hn : (s.eng.bistOf (BistTarget.key b)).slice + 1 < bistSlices b.row.toNat) :
    s.segmentLeaves b e fun y => y.segment = 0 ∧ y.slice = (s.eng.bistOf (BistTarget.key b)).slice + 1 ∧
      y.last = (s.eng.bistOf (BistTarget.key b)).last := by
  have hx := segmentEnds_eq h hs hst (e := e)
  rw [if_pos h20, if_neg (by omega)] at hx
  have hstep := step_endsSlice (b := (s.eng.visitOver.bistOf (BistTarget.key b)).left) h20 e
  refine segmentLeaves_of (a := s.eng.visitOver) h hx h.booting h.wf ?_ ?_ ?_
  all_goals rw [hstep]
  · exact ⟨rfl, rfl, rfl⟩
  · rfl
  · rfl

/-! ### The last segment of a visit -/

/-- The last segment of the last slice, within R12 and without work. -/
def State.lastSegment (s : State) (b : Sys2Proof.BistTarget) : Prop := s.eng.sampleOk ∧ s.eng.sliceStops b = false ∧
  20 ≤ (s.eng.bistOf (BistTarget.key b)).segment + 1 ∧ bistSlices b.row.toNat ≤ (s.eng.bistOf (BistTarget.key b)).slice + 1

theorem segmentEnds_last (hl : s.lastSegment b) : s.eng.sample.segmentEnds s.mem b e = s.eng.visitOver.visitEnds s.mem b e := by
  obtain ⟨hs, hst, h20, hn⟩ := hl
  have hx := segmentEnds_eq h hs hst (e := e)
  rw [if_pos h20, if_pos hn] at hx
  exact hx

theorem visit_completes (hl : s.lastSegment b) (hr : (s.eng.bistOf (BistTarget.key b)).rerun = none)
    (hd : (s.eng.bistOf (BistTarget.key b)).diag = false) (hg : (s.eng.bistOf (BistTarget.key b)).good e) :
    s.segmentLeaves b e fun y => y.complete s.eng.now := by
  have hx := (segmentEnds_last h hl).trans (visitEnds_complete (e := s.eng.visitOver) (x := e) s.mem hr hd hg)
  rw [visitDone_eq] at hx
  obtain ⟨h1, h2, h3⟩ := visited_complete (s.eng.bistOf (BistTarget.key b)).left s.eng.now
  exact segmentLeaves_of h hx h.booting h.wf h1 h2 h3

theorem visit_diagnoses (hl : s.lastSegment b) (hr : (s.eng.bistOf (BistTarget.key b)).rerun = none)
    (hd : (s.eng.bistOf (BistTarget.key b)).diag = false) (hg : ¬ (s.eng.bistOf (BistTarget.key b)).good e) :
    s.segmentLeaves b e fun y => y.diag = true ∧ y.overdue = true ∧ y.slice = 0 ∧ y.segment = 0 ∧ y.invalid = 0 :=
  segmentLeaves_of h ((segmentEnds_last h hl).trans (visitEnds_diagnoses (e := s.eng.visitOver) (x := e) s.mem hr hd hg)) h.booting h.wf
    ⟨rfl, rfl, rfl, rfl, rfl⟩ rfl rfl

theorem visit_repairs (hl : s.lastSegment b) (hr : (s.eng.bistOf (BistTarget.key b)).rerun = none)
    (hd : (s.eng.bistOf (BistTarget.key b)).diag = true) {st mac : Byte} (adr col : BitVec 16)
    (hm : (macroOf (s.eng.bistOf (BistTarget.key b)) st mac).rows < 2) :
    s.segmentLeaves b (.found [⟨st, mac, [(adr, col)]⟩]) fun y => y.diag = false ∧ y.rerun = some [⟨st, mac, 1, adr⟩] ∧
      (macroOf y st mac).rows = (macroOf (s.eng.bistOf (BistTarget.key b)) st mac).rows + 1 := by
  have hx := (segmentEnds_last (e := .found [⟨st, mac, [(adr, col)]⟩]) h hl).trans (visitEnds_found (e := s.eng.visitOver) s.mem hr hd _)
  obtain ⟨hb, hs, hw⟩ := repairMacro_one (e := s.eng.visitOver) h.wf (t := b) hm adr col
  obtain ⟨hrows, hrerun⟩ := rowTaken_keeps (s.eng.bistOf (BistTarget.key b)) st mac adr
  have hboot : (s.eng.visitOver.repairMacro b ⟨st, mac, [(adr, col)]⟩).booting = false := by
    unfold Eng.booting
    rw [hs]
    exact h.booting
  refine segmentLeaves_of h hx hboot hw ?_ ?_ ?_
  · rw [hb]
    refine ⟨rfl, ?_, hrows⟩
    rw [show (s.eng.bistOf (BistTarget.key b)).rerun = none from hr] at hrerun
    exact hrerun
  · rfl
  · rfl

theorem visit_repaired (hl : s.lastSegment b) {r : Repair} {rs : List Repair} (hr : (s.eng.bistOf (BistTarget.key b)).rerun = some (r :: rs))
    (hg : (s.eng.bistOf (BistTarget.key b)).good e) (hu : (s.eng.bistOf (BistTarget.key b)).uncovered = none) :
    s.segmentRaises b e 6 ∧ s.segmentLeaves b e fun y => y.complete s.eng.now := by
  have hx := (segmentEnds_last h hl).trans (visitEnds_repaired (e := s.eng.visitOver) (x := e) s.mem hr hg hu)
  obtain ⟨hsvc, hnow, -⟩ := repairedEvents_keeps (r :: rs) [] s.eng.visitOver b
  obtain ⟨v, hv, hc⟩ := repairedEvents_first s.eng.visitOver b r rs
  generalize s.eng.visitOver.repairedEvents b [] (r :: rs) = a at hx hsvc hnow hv
  have hb : a.booting = false := by
    unfold Eng.booting
    rw [hsvc]
    exact h.booting
  have hw : MapWf {} a.svc.bist := by
    rw [hsvc]
    exact h.wf
  have hbist : a.bistOf (BistTarget.key b) = s.eng.bistOf (BistTarget.key b) := by
    unfold Eng.bistOf
    rw [hsvc]
    rfl
  obtain ⟨hk, hev, -⟩ := visitDone_left hb hw s.mem b
  have he := h.exec (e := e)
  rw [hx] at he
  obtain ⟨h1, h2, h3⟩ := visited_complete (s.eng.bistOf (BistTarget.key b)).left s.eng.now
  rw [hbist, show a.now = s.eng.now from hnow] at hk
  refine ⟨⟨_, v, he, mem_of_lowEvents (hev ▸ hv), hc⟩, _, he, ?_⟩
  rw [hk]
  exact ⟨h1, h2, h3⟩

theorem visit_unrepairable (hl : s.lastSegment b) {rs : List Repair} (hr : (s.eng.bistOf (BistTarget.key b)).rerun = some rs)
    (hg : ¬ (s.eng.bistOf (BistTarget.key b)).good e ∨ (s.eng.bistOf (BistTarget.key b)).uncovered ≠ none) :
    s.segmentRaises b e 7 ∧ s.segmentLeaves b e fun y => y.complete s.eng.now := by
  obtain ⟨st, hx⟩ := visitEnds_unrepairable (e := s.eng.visitOver) (x := e) (t := b) s.mem hr hg
  obtain ⟨⟨d, hk⟩, v, hv, hc⟩ := unrepairable_left (e := s.eng.visitOver.count subSvc 30 1) h.booting h.wf s.mem b st
  have he := h.exec (e := e)
  rw [segmentEnds_last h hl, hx] at he
  obtain ⟨h1, h2, h3⟩ := visited_complete (s.eng.bistOf (BistTarget.key b)).left s.eng.now
  refine ⟨⟨_, v, he, mem_of_lowEvents hv, hc⟩, _, he, ?_⟩
  rw [hk]
  exact ⟨h1, h2, h3⟩

end SegmentEnds

end Sys2Proof.Machine
end

section
/-! Self-test slices start (R378 to R380, R384): what passing time and the deadlines before it leave of the targets, and where a slice may start. -/

namespace Sys2Proof.Machine

/-! ### What is kept of the targets -/

/-- An entry without the cycles that its request has waited. -/
def Bist.unwaited (b : Bist) : Bist := { b with waited := 0 }

/-- What decides where a slice may run: the targets' entries but for the cycles they have waited, the mask, and the fenced units. -/
def Eng.testSide (e : Eng) :
    SMap Bist × BitVec 12 × List Drover × List (BitVec 5) × List (BitVec 6) × List (BitVec 2) × List Region :=
  (e.svc.bist.map fun x => (x.1, x.2.unwaited), e.svc.bistMask, (List.range 20).map fun n => { fenced := (e.drv.getD n {}).fenced }, e.wlk.fenced,
    e.lay.fenced, e.cdc.fenced, e.syn.lostRegions)

theorem testSide_of_steady {e e' : Eng} (h : e'.steady = e.steady) : e'.testSide = e.testSide := by
  have hk (x : Eng) : x.testSide = (x.steady.svc.bist.map fun y => (y.1, y.2.unwaited), x.steady.svc.bistMask, x.steady.drv, x.steady.wlk.fenced,
    x.steady.lay.fenced, x.steady.cdc.fenced, x.steady.syn.lostRegions) := rfl
  rw [hk, hk, h]

theorem testSide_of_untimed {e e' : Eng} (h : e'.untimed = e.untimed) : e'.testSide = e.testSide := by
  have hk (x : Eng) : x.testSide = (x.untimed.svc.bist, x.untimed.svc.bistMask, (List.range 20).map fun n => { fenced := (x.untimed.drv.getD n {}).fenced },
    x.untimed.wlk.fenced, x.untimed.lay.fenced, x.untimed.cdc.fenced, x.untimed.syn.lostRegions) := rfl
  rw [hk, hk, h]

theorem mapGet_map_val {α : Type} {f : α → α} {d : α} (hd : f d = d) (m : SMap α) (k : Nat) :
    mapGet d (m.map fun x => (x.1, f x.2)) k = f (mapGet d m k) := by
  induction m with
  | nil => exact hd.symm
  | cons x m ih =>
    by_cases hx : x.1 = k
    · simp [mapGet, hx]
    · simp only [List.map_cons, mapGet, hx, if_false]
      exact ih

theorem bistOf_of_testSide {e e' : Eng} (h : e'.testSide = e.testSide) (k : Nat) : (e'.bistOf k).unwaited = (e.bistOf k).unwaited := by
  have hm : e'.svc.bist.map (fun x => (x.1, x.2.unwaited)) = e.svc.bist.map fun x => (x.1, x.2.unwaited) := congrArg (·.1) h
  unfold Eng.bistOf
  rw [← mapGet_map_val (f := Bist.unwaited) rfl, ← mapGet_map_val (f := Bist.unwaited) rfl, hm]

theorem active_of_testSide {e e' : Eng} (h : e'.testSide = e.testSide) (k : Nat) : (e'.bistOf k).active = (e.bistOf k).active := by
  have ha : (e'.bistOf k).unwaited.active = (e.bistOf k).unwaited.active := by rw [bistOf_of_testSide h k]
  exact ha

theorem fenced_of_testSide {e e' : Eng} (h : e'.testSide = e.testSide) (k : Nat) : (e'.bistOf k).fenced = (e.bistOf k).fenced := by
  have hf : (e'.bistOf k).unwaited.fenced = (e.bistOf k).unwaited.fenced := by rw [bistOf_of_testSide h k]
  exact hf

/-- A target's unit is fenced or not by what the test side keeps. -/
theorem unitFenced_of_fences {e e' : Eng} (hb : ∀ k, (e'.bistOf k).fenced = (e.bistOf k).fenced)
    (hd : (List.range 20).map (fun n => ({ fenced := (e'.drv.getD n {}).fenced } : Drover)) = (List.range 20).map fun n => { fenced := (e.drv.getD n {}).fenced })
    (hw : e'.wlk.fenced = e.wlk.fenced) (hl : e'.lay.fenced = e.lay.fenced) (hc : e'.cdc.fenced = e.cdc.fenced)
    (hr : e'.syn.lostRegions = e.syn.lostRegions) {row inst : Nat} (hi : inst < bistCount row) : e'.unitFenced row inst = e.unitFenced row inst := by
  have hdrv (h0 : row = 0) : (e'.drover (BitVec.ofNat 5 inst)).fenced = (e.drover (BitVec.ofNat 5 inst)).fenced := by
    subst h0
    have hi' : inst < 20 := hi
    have hn : (BitVec.ofNat 5 inst).toNat = inst := by
      simp only [BitVec.toNat_ofNat]
      omega
    have h := congrArg (fun l : List Drover => (l.getD inst {}).fenced) hd
    simp only [List.getD_eq_getElem?_getD, List.getElem?_map, List.getElem?_range hi', Option.map_some, Option.getD_some] at h
    unfold Eng.drover
    rw [hn, List.getD_eq_getElem?_getD, List.getD_eq_getElem?_getD]
    exact h
  have hreg : e'.regionFenced = e.regionFenced := by
    funext r
    unfold Eng.regionFenced
    rw [hr]
  unfold Eng.unitFenced
  rw [hb, hreg, hw, hl, hc]
  by_cases h0 : row = 0
  · rw [hdrv h0]
  · simp [h0]

/-- A target that is neither masked nor fenced. -/
def Eng.testable (e : Eng) (row inst : Nat) : Prop := e.svc.bistMask.getLsbD row = false ∧ e.unitFenced row inst = false

theorem testable_of_testSide {e e' : Eng} (h : e'.testSide = e.testSide) {row inst : Nat} (hi : inst < bistCount row) :
    e'.testable row inst ↔ e.testable row inst := by
  have hf : e'.unitFenced row inst = e.unitFenced row inst :=
    unitFenced_of_fences (fenced_of_testSide h) (congrArg (·.2.2.1) h) (congrArg (·.2.2.2.1) h)
      (congrArg (·.2.2.2.2.1) h) (congrArg (·.2.2.2.2.2.1) h) (congrArg (·.2.2.2.2.2.2) h) hi
  have hm : e'.testSide.2.1 = e.testSide.2.1 := by rw [h]
  have hm' : e'.svc.bistMask = e.svc.bistMask := hm
  unfold Eng.testable
  rw [hf, hm']

/-! ### Slices that start -/

/-- No slice stops, and one that starts does so at a target that may be tested. -/
structure SlicesStart (e e' : Eng) : Prop where
  testable : ∀ row inst, inst < bistCount row → (e'.testable row inst ↔ e.testable row inst)
  keeps : ∀ q, (e.bistOf q).active = true → (e'.bistOf q).active = true
  starts : ∀ q, (e'.bistOf q).active = true → (e.bistOf q).active = false → ∃ row inst, q = bistKey row inst ∧ inst < bistCount row ∧ e.testable row inst

theorem SlicesStart.of_testSide {e e' : Eng} (h : e'.testSide = e.testSide) : SlicesStart e e' where
  testable _ _ hi := testable_of_testSide h hi
  keeps q hq := (active_of_testSide h q).trans hq
  starts q hq hn := by
    rw [active_of_testSide h q, hn] at hq
    exact absurd hq (by decide)

theorem SlicesStart.trans {a b c : Eng} (h : SlicesStart a b) (k : SlicesStart b c) : SlicesStart a c where
  testable row inst hi := (k.testable row inst hi).trans (h.testable row inst hi)
  keeps q hq := k.keeps q (h.keeps q hq)
  starts q hq hn := by
    cases hb : (b.bistOf q).active with
    | true => exact h.starts q hb hn
    | false =>
      obtain ⟨row, inst, hk, hi, ht⟩ := k.starts q hq hb
      exact ⟨row, inst, hk, hi, (h.testable row inst hi).mp ht⟩

theorem SlicesStart.foldl {β : Type} {f : Eng → β → Eng} (hf : ∀ e x, SlicesStart e (f e x)) (l : List β) (e : Eng) : SlicesStart e (l.foldl f e) := by
  induction l generalizing e with
  | nil => exact .of_testSide rfl
  | cons x l ih => exact (hf e x).trans (ih _)

/-- A segment that begins on a target that may be tested. -/
theorem SlicesStart.modBist {e : Eng} {row inst : Nat} (hi : inst < bistCount row) (ht : e.testable row inst) {f : Bist → Bist}
    (ha : (f (e.bistOf (bistKey row inst))).active = true) (hf : (f (e.bistOf (bistKey row inst))).fenced = (e.bistOf (bistKey row inst)).fenced) :
    SlicesStart e (e.modBist (bistKey row inst) f) := by
  have hself : (e.modBist (bistKey row inst) f).bistOf (bistKey row inst) = f (e.bistOf (bistKey row inst)) :=
    mapGet_mapSet_self_ne _ _ _ _ fun h0 => by
      have h : (f (e.bistOf (bistKey row inst))).active = ({} : Bist).active := congrArg Bist.active h0
      rw [ha] at h
      exact absurd h (by decide)
  have hfenced (k : Nat) : ((e.modBist (bistKey row inst) f).bistOf k).fenced = (e.bistOf k).fenced := by
    by_cases hk : k = bistKey row inst
    · rw [hk, hself, hf]
    · rw [modBist_bistOf_ne e hk]
  constructor
  · intro row' inst' hi'
    unfold Eng.testable
    rw [unitFenced_of_fences hfenced rfl rfl rfl rfl rfl hi']
    exact Iff.rfl
  · intro q hq
    by_cases hk : q = bistKey row inst
    · rw [hk, hself, ha]
    · rw [modBist_bistOf_ne e hk, hq]
  · intro q hq hn
    by_cases hk : q = bistKey row inst
    · exact ⟨row, inst, hk, hi, ht⟩
    · rw [modBist_bistOf_ne e hk, hn] at hq
      exact absurd hq (by decide)

theorem dropTested_testSide (e : Eng) (row inst : Nat) : (e.dropTested row inst).testSide = e.testSide ∧ (e.dropTested row inst).now = e.now := by
  have hi : e.injectSeen.testSide = e.testSide ∧ e.injectSeen.now = e.now := by
    unfold Eng.injectSeen
    extract_lets i now w
    split <;> exact ⟨rfl, rfl⟩
  unfold Eng.dropTested
  extract_lets b n g e₁ src₁ src₂ src₃ e₂ i
  have h₂ : e₂.testSide = e₁.testSide ∧ e₂.now = e₁.now := by
    show (if row = 5 then _ else if row = 6 then _ else if row = 8 then _ else e₁ : Eng).testSide = _ ∧
      (if row = 5 then _ else if row = 6 then _ else if row = 8 then _ else e₁ : Eng).now = _
    split
    · exact ⟨rfl, rfl⟩
    · split
      · exact ⟨rfl, rfl⟩
      · split <;> exact ⟨rfl, rfl⟩
  have h := And.intro (h₂.1.trans hi.1) (h₂.2.trans hi.2)
  split
  · exact h
  · exact h

/-- The least recently visited of some targets is one of them. -/
theorem leastVisited_mem {e : Eng} {ts : List (Nat × Nat)} {t : Nat × Nat} (h : e.leastVisited ts = some t) : t ∈ ts := by
  have hgen (l : List (Nat × Nat)) (best : Option (Nat × Nat)) (f : Option (Nat × Nat) → Nat × Nat → Option (Nat × Nat))
      (hf : ∀ b x, f b x = some x ∨ f b x = b) : l.foldl f best = some t → t ∈ l ∨ best = some t := by
    induction l generalizing best with
    | nil => exact .inr
    | cons x l ih =>
      intro hx
      rcases ih _ hx with hm | hb
      · exact .inl (List.mem_cons_of_mem _ hm)
      · rcases hf best x with hfx | hfx
        · rw [hfx] at hb
          exact .inl (by rw [Option.some.inj hb]; exact List.mem_cons_self)
        · exact .inr (hfx ▸ hb)
  refine (hgen ts none _ (fun b x => ?_) h).resolve_right (by simp)
  cases b with
  | none => exact .inl rfl
  | some b =>
    dsimp only
    split
    · exact .inl rfl
    · exact .inr rfl

theorem mem_targetsOf {r : Option Region} {t : Nat × Nat} (h : t ∈ targetsOf r) : t.2 < bistCount t.1 := by
  obtain ⟨row, -, hrow⟩ := List.mem_flatMap.mp h
  obtain ⟨i, hi, rfl⟩ := List.mem_map.mp hrow
  exact List.mem_range.mp (List.mem_of_mem_filter hi)

/-- What the start of slices leaves: descriptors, the interval, and the time. -/
structure StartKeeps (e e' : Eng) : Prop where
  slices : SlicesStart e e'
  jobs : e'.jobs = e.jobs
  at_ : e'.svc.bistAt = e.svc.bistAt
  now : e'.now = e.now

theorem StartKeeps.trans {a b c : Eng} (h : StartKeeps a b) (k : StartKeeps b c) : StartKeeps a c :=
  ⟨h.slices.trans k.slices, k.jobs.trans h.jobs, k.at_.trans h.at_, k.now.trans h.now⟩

theorem StartKeeps.refl (e : Eng) : StartKeeps e e := ⟨.of_testSide rfl, rfl, rfl, rfl⟩

theorem StartKeeps.of_power {e e' : Eng} (h : PowerSide e e') (hs : e'.steady = e.steady) : StartKeeps e e' :=
  ⟨.of_testSide (testSide_of_steady hs), by rw [h.1], by rw [h.1], by rw [h.1]⟩

theorem startSlice_keeps (e : Eng) (r : Option Region) : StartKeeps e (e.startSlice r) := by
  unfold Eng.startSlice
  split
  · exact .refl e
  · split
    · exact .refl e
    · next t ht =>
      extract_lets e₁
      have h₁ : StartKeeps e e₁ := by
        obtain ⟨hm, hc⟩ := List.mem_filter.mp (leastVisited_mem ht)
        obtain ⟨hside, hnow⟩ := dropTested_testSide e t.1 t.2
        obtain ⟨hsvc, hjobs⟩ := dropTested_keeps e t.1 t.2
        have hi := mem_targetsOf hm
        simp only [Bool.and_eq_true, Bool.not_eq_true'] at hc
        have htest : (e.dropTested t.1 t.2).testable t.1 t.2 := (testable_of_testSide hside hi).mpr ⟨hc.1.1, hc.1.2⟩
        refine ⟨(SlicesStart.of_testSide hside).trans (SlicesStart.modBist hi htest rfl rfl), hjobs, ?_, hnow⟩
        show (e.dropTested t.1 t.2).svc.bistAt = _
        rw [hsvc]
      split
      · exact h₁.trans (.of_power (Eng.wakeRegion_side _ _) (wakeRegion_steady _ _))
      · exact h₁

theorem startSlices_keep (rs : List (Option Region)) (e : Eng) : StartKeeps e (rs.foldl Eng.startSlice e) := by
  induction rs generalizing e with
  | nil => exact .refl e
  | cons r rs ih => exact (startSlice_keeps e r).trans (ih _)

/-! ### BIST_SLICE_START -/

theorem dropWaits_steady (e : Eng) (p : Wait → Bool) : (e.dropWaits p).steady = e.steady := rfl

theorem fireDeadline_slices (e : Eng) (w : Wait) : SlicesStart e (e.fireDeadline w) := by
  unfold Eng.fireDeadline
  split
  · exact .of_testSide rfl
  · next t _ =>
    extract_lets e₁ src e₂
    have h₁ : e₁.testSide = e.testSide := testSide_of_untimed (advanceTo_untimed _ _)
    have h₂ : e₂.testSide = e₁.testSide := rfl
    split
    · exact .of_testSide ((testSide_of_steady (timeoutWait_steady _ _)).trans (h₂.trans h₁))
    · exact .of_testSide ((testSide_of_steady ((homeGo_steady _ _).trans (dropWaits_steady _ _))).trans (h₂.trans h₁))

theorem fireDue_slices (e : Eng) (t : Word) : SlicesStart e (e.fireDue t) := SlicesStart.foldl fireDeadline_slices _ e

theorem fireDue_nil {e : Eng} (h : e.syn.waits = []) (t : Word) : e.fireDue t = e := by
  unfold Eng.fireDue
  rw [h]
  simp

/-- The engine of BIST_SLICE_START when the slices start, at a stamp: the deadlines that are due have fired, and the interval counts from then (R379, R384). -/
def Eng.atSlices (e : Eng) (t : Word) : Eng :=
  let e := (e.fireDue t).advanceTo t
  { e with svc := { e.svc with bistAt := e.now, wheelAt := some e.aoCycle } }

theorem atSlices_keeps (e : Eng) (t : Word) :
    SlicesStart e (e.atSlices t) ∧ (e.atSlices t).svc.bistAt = (e.atSlices t).now ∧ (e.syn.waits = [] → e.sameJobs (e.atSlices t)) := by
  unfold Eng.atSlices
  extract_lets e₁
  have h₁ : SlicesStart e e₁ := (fireDue_slices e t).trans (.of_testSide (testSide_of_untimed (advanceTo_untimed _ _)))
  refine ⟨h₁.trans (.of_testSide rfl), rfl, fun hw => ?_⟩
  have hj : e₁.untimed = e.untimed := by
    show ((e.fireDue t).advanceTo t).untimed = _
    rw [fireDue_nil hw]
    exact advanceTo_untimed _ _
  exact congrArg Eng.jobs hj

theorem exec_bistSliceStart {s : State} (hl : s.Live) (hr : s.eng.bistRuns = true) : exec .bistSliceStart s = .next { s with
    eng := ([some (0 : Region), some 1, some 2, some 3, none].foldl Eng.startSlice
      (s.eng.atSlices (s.eng.svc.bistAt + BitVec.ofNat 64 s.eng.svc.bistNs))).noteWork } := by
  change execBistSliceStart s = _
  exact onEng_eq hl (if_neg (by simp [hr]))

theorem bistSliceStart_starts {s : State} (hl : s.Live) (hr : s.eng.bistRuns = true) :
    ∃ t, exec .bistSliceStart s = .next t ∧ t.eng.svc.bistAt = t.eng.now ∧ t.mem = s.mem ∧
      (∀ q, (s.eng.bistOf q).active = true → (t.eng.bistOf q).active = true) ∧
      (∀ q, (t.eng.bistOf q).active = true → (s.eng.bistOf q).active = false → ∃ row inst, q = bistKey row inst ∧
        inst < bistCount row ∧ s.eng.svc.bistMask.getLsbD row = false ∧ s.eng.unitFenced row inst = false) ∧
      (s.eng.syn.waits = [] → s.eng.sameJobs t.eng) := by
  have hx := exec_bistSliceStart hl hr
  obtain ⟨hs, hat, hj⟩ := atSlices_keeps s.eng (s.eng.svc.bistAt + BitVec.ofNat 64 s.eng.svc.bistNs)
  generalize s.eng.atSlices (s.eng.svc.bistAt + BitVec.ofNat 64 s.eng.svc.bistNs) = a at hx hs hat hj
  have hk : StartKeeps a ([some (0 : Region), some 1, some 2, some 3, none].foldl Eng.startSlice a).noteWork :=
    (startSlices_keep _ a).trans (.of_power (Eng.noteWork_side _) (noteWork_steady _))
  generalize ([some (0 : Region), some 1, some 2, some 3, none].foldl Eng.startSlice a).noteWork = e at hx hk
  have hstart := hs.trans hk.slices
  refine ⟨_, hx, ?_, rfl, hstart.keeps, hstart.starts, fun hw => ?_⟩
  · show e.svc.bistAt = e.now
    rw [hk.at_, hk.now, hat]
  · show e.jobs.map _ = _
    rw [hk.jobs]
    exact hj hw

end Sys2Proof.Machine
end

section
/-! An overdue target is granted its unit for one segment (R380), and the settlement of what is said of self-test. -/

namespace Sys2Proof.Machine

/-! ### An arbiter with one competitor -/

theorem lotteryPick_one {α : Type} (c : α) {t x : Nat} (h : x < t) : lotteryPick [(c, t)] x = some c := if_pos h

theorem lottery_one {α : Type} (c : α) (t : Nat) (l : BitVec 32) : (lottery [(c, t)] l).1 = if t = 0 then none else some c := by
  unfold lottery
  extract_lets total w
  have htotal : total = t := by simp [total]
  rw [htotal]
  split
  · rfl
  · next h =>
    refine lotteryPick_one c ?_
    have hw := w.isLt
    have hmul : w.toNat * t < 2 ^ 32 * t := Nat.mul_lt_mul_of_pos_right hw (Nat.pos_of_ne_zero h)
    exact Nat.div_lt_of_lt_mul hmul

theorem inTurn_one {α : Type} (l : Option Nat) (c : Rival α) : inTurn l [c] = some c := by
  unfold inTurn
  cases h : [c].find? fun c => (l.map fun l => decide (l < c.num)).getD true with
  | none => rfl
  | some d =>
    have hd := List.mem_of_find?_eq_some h
    rw [List.mem_singleton.mp hd]

/-- An arbiter with one competitor serves it, by starvation, by the draw, or in turn. -/
theorem serve_one {α : Type} (a : Arb) (c : Rival α) : (a.serve [c]).1 = some c.who := by
  unfold Arb.serve
  cases hs : oldestStarved ([c].map fun c => (c.who, c.starved)) with
  | some d =>
    cases hc : c.starved with
    | none => simp [oldestStarved, hc] at hs
    | some t =>
      simp [oldestStarved, hc] at hs
      simp [hs]
  | none =>
    have hl := lottery_one c.who c.tickets a.lfsr
    simp only [List.map_cons, List.map_nil]
    generalize lottery [(c.who, c.tickets)] a.lfsr = y at hl
    obtain ⟨w, l⟩ := y
    cases w with
    | none => simp [inTurn_one]
    | some d =>
      dsimp only at hl ⊢
      split at hl
      · exact absurd hl (by simp)
      · exact hl

/-! ### Nobody else asks for the unit -/

/-- No context, event, descriptor, peer, die or sweep has a request at a target's unit. -/
structure Eng.Unrivalled (e : Eng) (row inst : Nat) : Prop where
  ctxs : row = 8 ∨ row = 9 → ∀ c ∈ e.ctxs, e.fetchReady (BitVec.ofNat 20 c.1) = false
  events : row = 7 → ∀ v ∈ e.syn.events, v.act.region.toNat ≠ inst
  jobs : ∀ j ∈ e.jobs, e.asksUnit j row inst = false
  peers : ∀ s ∈ e.npi.serving, s.asksUnit row inst = false
  dies : ∀ s ∈ e.opi.serving, s.asksUnit row inst = false
  sweeps : e.svcAsks row inst = []

theorem inOrder_eq_nil {js : List Job} : inOrder js = [] ↔ js = [] := by
  unfold inOrder
  rw [← List.length_eq_zero_iff, List.length_mergeSort, List.length_eq_zero_iff]

theorem unitRivals_nil (e : Eng) (row inst : Nat) : e.unitRivals row inst = [] ↔ e.Unrivalled row inst := by
  unfold Eng.unitRivals
  extract_lets cfg rival ctxs
  have hc : ctxs = [] ↔ (row = 8 ∨ row = 9 → ∀ c ∈ e.ctxs, e.fetchReady (BitVec.ofNat 20 c.1) = false) ∧
      (row = 7 → ∀ v ∈ e.syn.events, v.act.region.toNat ≠ inst) := by
    dsimp only [ctxs]
    by_cases h89 : row = 8 ∨ row = 9
    · have h7 : row ≠ 7 := by omega
      rw [if_pos (by simpa using h89)]
      simp [Eng.fetchers, h89, h7]
    · rw [if_neg (by simpa using h89)]
      by_cases h7 : row = 7
      · rw [if_pos h7]
        simp [h7]
      · rw [if_neg h7]
        simp [h89, h7]
  simp only [List.append_eq_nil_iff, List.map_eq_nil_iff, inOrder_eq_nil, List.filter_eq_nil_iff, hc, Bool.not_eq_true]
  constructor
  · rintro ⟨⟨⟨⟨⟨h1, h2⟩, h3⟩, h4⟩, h5⟩, h6⟩
    exact ⟨h1, h2, h3, h4, h5, h6⟩
  · rintro ⟨h1, h2, h3, h4, h5, h6⟩
    exact ⟨⟨⟨⟨⟨h1, h2⟩, h3⟩, h4⟩, h5⟩, h6⟩

/-! ### Time passes -/

/-- The tallies of cycles are all that their count changes. -/
theorem tallyCycles_eq (e : Eng) (n : Nat) : ∃ t, e.tallyCycles n = { e with tally := t } := by
  have hc (c : Prop) [Decidable c] (x : Eng) (t : SMap Word) (h : x = { e with tally := t }) (s : BitVec 4) (k m : Nat) :
      ∃ t, (if c then x.count s k m else x) = { e with tally := t } := by
    split
    · exact ⟨_, by rw [h]; rfl⟩
    · exact ⟨t, h⟩
  have hl {β : Type} (f : Eng → β → Eng) (hf : ∀ x b, (∃ t, x = { e with tally := t }) → ∃ t, f x b = { e with tally := t }) (l : List β) (x : Eng)
      (hx : ∃ t, x = { e with tally := t }) : ∃ t, l.foldl f x = { e with tally := t } := by
    induction l generalizing x with
    | nil => exact hx
    | cons b l ih => exact ih _ (hf x b hx)
  unfold Eng.tallyCycles
  extract_lets x y
  have hx : ∃ t, x = { e with tally := t } := hc _ e e.tally rfl _ _ _
  have hy : ∃ t, y = { e with tally := t } := by
    refine hl _ (fun x r h => ?_) _ _ hx
    extract_lets x₁ x₂
    obtain ⟨t, h⟩ := h
    obtain ⟨t₁, h₁⟩ : ∃ t, x₁ = { e with tally := t } := hc _ x t h _ _ _
    obtain ⟨t₂, h₂⟩ : ∃ t, x₂ = { e with tally := t } := hc _ x₁ t₁ h₁ _ _ _
    exact hc _ x₂ t₂ h₂ _ _ _
  refine hl _ (fun x k h => ?_) _ _ hy
  obtain ⟨t, h⟩ := h
  exact hc _ x t h _ _ _

/-- A context's record but for the suspension of its refetch. -/
def Ctx.unsuspended (c : Ctx) : Ctx := { c with refetch := c.refetch.map fun (r : Refetch) => { r with suspended := false } }

theorem ctx_of_untimed {e e' : Eng} (h : e'.untimed = e.untimed) (c : CtxNum) : (e'.ctx c).unsuspended = (e.ctx c).unsuspended := by
  have hm : e'.ctxs.map (fun x => (x.1, x.2.unsuspended)) = e.ctxs.map fun x => (x.1, x.2.unsuspended) := congrArg Eng.ctxs h
  unfold Eng.ctx
  rw [← mapGet_map_val (f := Ctx.unsuspended) rfl, ← mapGet_map_val (f := Ctx.unsuspended) rfl, hm]

theorem fetchStopped_of_untimed {e e' : Eng} (h : e'.untimed = e.untimed) (c : CtxNum) : e'.fetchStopped c = e.fetchStopped c := by
  have hk (x : Eng) : x.fetchStopped c = (decide (16384 ≤ (x.ctx c).unsuspended.outstanding) || x.untimed.jrn.full ||
      decide (x.untimed.jrn.state ≠ .attached) || ((x.ctx c).unsuspended.sqInHost && !x.untimed.hostUp) || x.untimed.halted) := rfl
  rw [hk, hk, h, ctx_of_untimed h]

theorem mapGet_map_key {α : Type} {f : Nat → α → α} {d : α} (hd : ∀ k, f k d = d) (m : SMap α) (k : Nat) :
    mapGet d (m.map fun x => (x.1, f x.1 x.2)) k = f k (mapGet d m k) := by
  induction m with
  | nil => exact (hd k).symm
  | cons x m ih =>
    by_cases hx : x.1 = k
    · simp [mapGet, hx]
    · simp only [List.map_cons, mapGet, hx, if_false]
      exact ih

/-- A context's record with its refetch suspended, where RFE is stopped and the refetch has not stalled (R66). -/
def Ctx.suspended (x : Ctx) (stopped : Bool) : Ctx :=
  match x.refetch with
  | some r => if r.stallAt.isNone && stopped then { x with refetch := some { r with suspended := true } } else x
  | none => x

theorem suspended_false (x : Ctx) : x.suspended false = x := by
  unfold Ctx.suspended
  split
  · simp
  · rfl

theorem suspendStopped_ctxs (e : Eng) :
    e.suspendStopped.ctxs = e.ctxs.map fun x => (x.1, x.2.suspended (e.fetchStopped (BitVec.ofNat 20 x.1))) := by
  refine List.map_congr_left fun x _ => ?_
  unfold Ctx.suspended
  cases hr : x.2.refetch with
  | none => rfl
  | some r =>
    dsimp only
    split <;> rfl

/-- A context that RFE may fetch from keeps its refetch as it is. -/
theorem suspendStopped_ctx {e : Eng} {c : CtxNum} (h : e.fetchStopped c = false) : e.suspendStopped.ctx c = e.ctx c := by
  have hget := mapGet_map_key (f := fun k x => Ctx.suspended x (e.fetchStopped (BitVec.ofNat 20 k))) (d := {}) (fun _ => rfl) e.ctxs c.toNat
  rw [← suspendStopped_ctxs, BitVec.ofNat_toNat, BitVec.setWidth_eq, h] at hget
  exact hget.trans (suspended_false _)

theorem elapse_ctx {e : Eng} {c : CtxNum} (h : e.fetchStopped c = false) (n : Nat) : (e.elapse n).ctx c = e.ctx c := by
  have hx : ∃ x : Eng, (x = e ∨ x = ((((e.countWaits (e.cyclesIn n)).tallyCycles (e.cyclesIn n)).suspendStopped).injectSeen).alertTick (e.aoCycle + n)) ∧
      (e.elapse n).ctxs = x.ctxs := by
    refine ⟨if n = 0 then e else ((((e.countWaits (e.cyclesIn n)).tallyCycles (e.cyclesIn n)).suspendStopped).injectSeen).alertTick (e.aoCycle + n),
      ?_, rfl⟩
    split
    · exact .inl rfl
    · exact .inr rfl
  obtain ⟨x, hx, hc⟩ := hx
  have hctx : (e.elapse n).ctx c = x.ctx c := by
    unfold Eng.ctx
    rw [hc]
  rw [hctx]
  rcases hx with rfl | rfl
  · rfl
  · obtain ⟨t, ht⟩ := tallyCycles_eq (e.countWaits (e.cyclesIn n)) (e.cyclesIn n)
    rw [ht]
    obtain ⟨y, hy⟩ : ∃ y : Eng, y = { e.countWaits (e.cyclesIn n) with tally := t } := ⟨_, rfl⟩
    have hyc : y.ctx c = e.ctx c := by rw [hy]; rfl
    have hys : y.fetchStopped c = false := by rw [hy]; exact h
    rw [← hy]
    have hi : y.suspendStopped.injectSeen.ctx c = y.suspendStopped.ctx c := by
      unfold Eng.injectSeen
      extract_lets i now w
      split <;> rfl
    have ha (z : Eng) (k : Nat) : (z.alertTick k).ctx c = z.ctx c := by
      unfold Eng.alertTick
      split
      · extract_lets e₁
        split
        · split <;> rfl
        · rfl
      · rfl
    rw [ha, hi, suspendStopped_ctx hys, hyc]

theorem advanceTo_fetchReady {e : Eng} {c : CtxNum} (h : e.fetchReady c = false) (t : Word) : (e.advanceTo t).fetchReady c = false := by
  unfold Eng.advanceTo
  split
  · generalize e.cyclesFor (t - e.now).toNat = n
    have hst := fetchStopped_of_untimed (elapse_untimed e n) c
    unfold Eng.fetchReady at h ⊢
    rw [hst]
    cases hs : e.fetchStopped c with
    | true => simp
    | false =>
      rw [elapse_ctx hs]
      rw [hs] at h
      exact h
  · exact h

theorem advanceTo_unrivalled {e : Eng} {row inst : Nat} (h : e.Unrivalled row inst) (t : Word) : (e.advanceTo t).Unrivalled row inst := by
  have hu := advanceTo_untimed e t
  have hasks (j : Job) : (e.advanceTo t).asksUnit j row inst = e.asksUnit j row inst := by
    have hj : (e.advanceTo t).jrn = e.jrn := congrArg (·.jrn) hu
    unfold Eng.asksUnit
    rw [hj]
  constructor
  · intro hr c hc
    have hkeys : (e.advanceTo t).ctxs.map (·.1) = e.ctxs.map (·.1) := by
      have hm : (e.advanceTo t).ctxs.map (fun x => (x.1, x.2.unsuspended)) = e.ctxs.map fun x => (x.1, x.2.unsuspended) := congrArg Eng.ctxs hu
      have hm' := congrArg (List.map Prod.fst) hm
      rw [List.map_map, List.map_map] at hm'
      exact hm'
    have hk : c.1 ∈ (e.advanceTo t).ctxs.map (·.1) := List.mem_map_of_mem hc
    rw [hkeys] at hk
    obtain ⟨d, hd, hdc⟩ := List.mem_map.mp hk
    rw [← hdc]
    exact advanceTo_fetchReady (h.ctxs hr d hd) t
  · have hs : (e.advanceTo t).syn = e.syn := congrArg (·.syn) hu
    rw [hs]
    exact h.events
  · intro j hj
    have hm : (e.advanceTo t).jobs.map (fun j => { j with waited := 0 }) = e.jobs.map fun j => { j with waited := 0 } := congrArg Eng.jobs hu
    have hj' : ({ j with waited := 0 } : Job) ∈ (e.advanceTo t).jobs.map fun j => { j with waited := 0 } := List.mem_map_of_mem (f := fun (j : Job) => { j with waited := 0 }) hj
    rw [hm] at hj'
    obtain ⟨k, hk, hkj⟩ := List.mem_map.mp hj'
    have hw (i : Job) : e.asksUnit i row inst = e.asksUnit { i with waited := 0 } row inst := rfl
    rw [hasks, hw, ← hkj, ← hw]
    exact h.jobs k hk
  · have hn : (e.advanceTo t).npi = e.npi := congrArg (·.npi) hu
    rw [hn]
    exact h.peers
  · have ho : (e.advanceTo t).opi = e.opi := congrArg (·.opi) hu
    rw [ho]
    exact h.dies
  · have hk (x : Eng) : x.svcAsks row inst = x.untimed.svcAsks row inst := rfl
    rw [hk, hu, ← hk]
    exact h.sweeps

/-- What changes the power states alone changes no competitor. -/
theorem unrivalled_of_power {e e' : Eng} (h : PowerSide e e') {row inst : Nat} (hu : e.Unrivalled row inst) : e'.Unrivalled row inst := by
  rw [h.1]
  exact ⟨hu.ctxs, hu.events, hu.jobs, hu.peers, hu.dies, hu.sweeps⟩

/-! ### The target's domain wakes -/

/-- The domain of a target is woken. -/
def Eng.wakeTarget (e : Eng) (row inst : Nat) : Eng :=
  match bistRegion row inst with
  | some r => e.wakeRegion r
  | none => e.wakeEngine

theorem wakeTarget_side (e : Eng) (row inst : Nat) : PowerSide e (e.wakeTarget row inst) := by
  unfold Eng.wakeTarget
  split
  · exact Eng.wakeRegion_side _ _
  · exact Eng.wakeEngine_side _

theorem wakeTarget_steady (e : Eng) (row inst : Nat) : (e.wakeTarget row inst).steady = e.steady := by
  unfold Eng.wakeTarget
  split
  · exact wakeRegion_steady _ _
  · exact wakeEngine_steady _

/-- An Active region stays Active as it is woken. -/
theorem wakeRegion_active {e : Eng} {r : Region} (h : e.active (.region r) = true) : (e.wakeRegion r).active (.region r) = true := by
  have hd : (e.modRegion r fun d => { d with busy := true }).regionDom r = { e.regionDom r with busy := true } := by
    have hget := setRow_getD {} 4 e.svc.power.region r.toNat r.toNat ({ e.regionDom r with busy := true } : Dom) r.isLt
    rw [if_pos rfl] at hget
    exact hget
  have hst : ({ e.regionDom r with busy := true } : Dom).st = .active := of_decide_eq_true h
  have hx : e.wakeRegion r = e.modRegion r fun d => { d with busy := true } := by
    unfold Eng.wakeRegion
    extract_lets e₁ d
    have hd' : d = { e.regionDom r with busy := true } := hd
    exact if_pos (by rw [hd', decide_eq_true hst]; rfl)
  rw [hx]
  exact decide_eq_true ((congrArg Dom.st hd).trans hst)

theorem wakeEngine_active {e : Eng} (h : e.active .engine = true) : e.wakeEngine = e := by
  unfold Eng.wakeEngine
  extract_lets d
  have hd : d.st = .active := of_decide_eq_true h
  exact if_pos (by rw [decide_eq_true hd]; rfl)

theorem wakeTarget_active {e : Eng} {row inst : Nat} (h : e.active (testDomain row inst) = true) :
    (e.wakeTarget row inst).active (testDomain row inst) = true := by
  unfold Eng.wakeTarget testDomain at *
  cases hb : bistRegion row inst with
  | some r =>
    rw [hb] at h
    exact wakeRegion_active h
  | none =>
    rw [hb] at h
    have hw := wakeEngine_active h
    show e.wakeEngine.active .engine = true
    rw [hw]
    exact h

/-! ### The grant of one segment -/

theorem modBist_bistOf_running {e : Eng} {k : Nat} {f : Bist → Bist} (h : (f (e.bistOf k)).active = true ∨ (f (e.bistOf k)).overdue = true) :
    (e.modBist k f).bistOf k = f (e.bistOf k) :=
  mapGet_mapSet_self_ne _ _ _ _ fun h0 => by
    have h0' : f (e.bistOf k) = {} := h0
    rw [h0'] at h
    exact h.elim (fun h => absurd h (by decide)) fun h => absurd h (by decide)

/-- The segment of an overdue target as a competitor (R380). -/
def Eng.segmentRival (e : Eng) (row inst : Nat) : Rival (Option Nat) :=
  { who := some (bistKey row inst), num := 2 ^ 80, tickets := e.svc.bistTickets.toNat, starved := (e.bistOf (bistKey row inst)).starved }

/-- Whether an overdue target competes at its unit's arbiter. -/
def Eng.segmentAsks (e : Eng) (row inst : Nat) : Bool :=
  (e.bistOf (bistKey row inst)).wants && !testRow 1 row && !testRow 2 row && e.active (testDomain row inst)

/-- The grant: what the segment tests is dropped, and it runs. -/
def Eng.segmentBegins (e : Eng) (row inst : Nat) : Eng := ((e.dropTested row inst).grantTest (bistKey row inst)).noteWork

theorem segmentBegins_keeps (e : Eng) (row inst : Nat) : (e.segmentBegins row inst).jobs = e.jobs ∧
    (e.segmentBegins row inst).bistOf (bistKey row inst) = { e.bistOf (bistKey row inst) with
      active := true, granted := true, won := false, waited := 0, starved := none } := by
  obtain ⟨hsvc, hjobs⟩ := dropTested_keeps e row inst
  unfold Eng.segmentBegins
  generalize e.dropTested row inst = a at hsvc hjobs
  have ha : a.bistOf (bistKey row inst) = e.bistOf (bistKey row inst) := by
    unfold Eng.bistOf
    rw [hsvc]
  constructor
  · have hp := Eng.noteWork_side (a.grantTest (bistKey row inst))
    rw [hp.1]
    exact hjobs
  · rw [bistOf_of_steady (noteWork_steady _)]
    refine (modBist_bistOf_running (.inl rfl)).trans ?_
    rw [ha]

/-- The segment is granted, or another competitor is served. -/
theorem grantSegment_cases (e : Eng) (row inst : Nat) : ∃ a : Eng, a.jobs = e.jobs ∧ a.svc.bist = e.svc.bist ∧
    (e.grantSegment row inst = a ∨ e.grantSegment row inst = a.segmentBegins row inst) ∧
    (e.segmentAsks row inst = true → e.unitRivals row inst = [] → e.grantSegment row inst = a.segmentBegins row inst) := by
  by_cases hs : e.segmentAsks row inst = true
  · have hserve := serve_one (e.svc.unitArb.getD (testArb row inst) {}) (e.segmentRival row inst)
    have hx : e.grantSegment row inst =
        (match (e.svc.unitArb.getD (testArb row inst) {}).serve (e.unitRivals row inst ++ [e.segmentRival row inst]) with
        | (w, a) => if w = some (some (bistKey row inst)) then
            ({ e with svc := { e.svc with unitArb := setRow {} 43 e.svc.unitArb (testArb row inst) a } } : Eng).segmentBegins row inst
          else { e with svc := { e.svc with unitArb := setRow {} 43 e.svc.unitArb (testArb row inst) a } }) := if_pos hs
    generalize hy : (e.svc.unitArb.getD (testArb row inst) {}).serve (e.unitRivals row inst ++ [e.segmentRival row inst]) = y at hx
    obtain ⟨w, a⟩ := y
    refine ⟨{ e with svc := { e.svc with unitArb := setRow {} 43 e.svc.unitArb (testArb row inst) a } }, rfl, rfl, ?_, fun _ hr => ?_⟩
    · rw [hx]
      dsimp only
      split
      · exact .inr rfl
      · exact .inl rfl
    · rw [hr, List.nil_append] at hy
      rw [hy] at hserve
      rw [hx]
      exact if_pos hserve
  · have hx : e.grantSegment row inst = e := if_neg hs
    exact ⟨e, rfl, rfl, .inl hx, fun h => absurd h hs⟩

/-- The grant leaves the target overdue and the descriptors as they are. -/
theorem grantSegment_keeps (e : Eng) (row inst : Nat) : (e.grantSegment row inst).jobs = e.jobs ∧
    ((e.grantSegment row inst).bistOf (bistKey row inst)).overdue = (e.bistOf (bistKey row inst)).overdue := by
  obtain ⟨a, hj, hb, hx, -⟩ := grantSegment_cases e row inst
  have ha : a.bistOf (bistKey row inst) = e.bistOf (bistKey row inst) := by
    unfold Eng.bistOf
    rw [hb]
  obtain ⟨kj, kb⟩ := segmentBegins_keeps a row inst
  rcases hx with hx | hx
  · rw [hx, ha]
    exact ⟨hj, rfl⟩
  · rw [hx, kb, ha]
    exact ⟨kj.trans hj, rfl⟩

theorem grantSegment_granted {e : Eng} {row inst : Nat} (hs : e.segmentAsks row inst = true) (hr : e.Unrivalled row inst) :
    ((e.grantSegment row inst).bistOf (bistKey row inst)).active = true ∧ ((e.grantSegment row inst).bistOf (bistKey row inst)).granted = true := by
  obtain ⟨a, -, -, -, hx⟩ := grantSegment_cases e row inst
  rw [hx hs ((unitRivals_nil e row inst).mpr hr), (segmentBegins_keeps a row inst).2]
  exact ⟨rfl, rfl⟩

/-! ### BIST_OVERDUE -/

/-- The target is overdue, as of the stamp at which it became so (R380). -/
def Eng.turnsOverdue (e : Eng) (k : Nat) (t : Word) : Eng :=
  if (e.bistOf k).overdue then e else (e.advanceTo t).modBist k fun b => { b with overdue := true, waited := 0, starved := none }

theorem turnsOverdue_keeps (e : Eng) (k : Nat) (t : Word) : ((e.turnsOverdue k t).bistOf k).overdue = true ∧
    ((e.turnsOverdue k t).bistOf k).active = (e.bistOf k).active ∧ ((e.turnsOverdue k t).bistOf k).fenced = (e.bistOf k).fenced ∧
    e.sameJobs (e.turnsOverdue k t) ∧ (e.turnsOverdue k t).svc.power = e.svc.power ∧
    ∀ row inst, e.Unrivalled row inst → (e.turnsOverdue k t).Unrivalled row inst := by
  unfold Eng.turnsOverdue
  split
  · next h => exact ⟨h, rfl, rfl, rfl, rfl, fun _ _ h => h⟩
  · have hu := advanceTo_untimed e t
    have hside := testSide_of_untimed hu
    have hact := active_of_testSide hside k
    have hfen := fenced_of_testSide hside k
    have hjobs : e.sameJobs (e.advanceTo t) := congrArg Eng.jobs hu
    have hpow : (e.advanceTo t).svc.power = e.svc.power := congrArg (·.svc.power) hu
    have hriv := fun row inst (h : e.Unrivalled row inst) => advanceTo_unrivalled h t
    generalize e.advanceTo t = a at hact hfen hjobs hpow hriv ⊢
    have hb := modBist_bistOf_running (e := a) (k := k) (f := fun b => { b with overdue := true, waited := 0, starved := none }) (.inr rfl)
    rw [hb]
    exact ⟨rfl, hact, hfen, hjobs, hpow, fun row inst h =>
      ⟨(hriv row inst h).ctxs, (hriv row inst h).events, (hriv row inst h).jobs, (hriv row inst h).peers, (hriv row inst h).dies, (hriv row inst h).sweeps⟩⟩

theorem exec_bistOverdue {s : State} {b : Sys2Proof.BistTarget} (hl : s.Live) (hr : s.eng.bistRuns = true) (hv : BistTarget.valid b = true)
    (hf : s.eng.unitFenced b.row.toNat b.inst.toNat = false) (hm : s.eng.svc.bistMask.getLsbD b.row.toNat = false) :
    ∃ t, exec (.bistOverdue b) s = .next { s with
      eng := ((s.eng.turnsOverdue (BistTarget.key b) t).wakeTarget b.row.toNat b.inst.toNat).grantSegment b.row.toNat b.inst.toNat } := by
  refine ⟨s.eng.overdueFrom (s.eng.bistOf (BistTarget.key b)) + BitVec.ofNat 64 (s.eng.svc.visitNs / 2), ?_⟩
  change execBistOverdue b s = _
  refine onEng_eq hl ?_
  generalize hd : BitVec.ofNat 64 (s.eng.svc.visitNs / 2) = d
  dsimp only
  rw [if_neg (by simp [hr, hv, hf, hm])]
  rfl

theorem bistOverdue_grants {s : State} {b : Sys2Proof.BistTarget} (hl : s.Live) (hr : s.eng.bistRuns = true) (hv : BistTarget.valid b = true)
    (hf : s.eng.unitFenced b.row.toNat b.inst.toNat = false) (hm : s.eng.svc.bistMask.getLsbD b.row.toNat = false) :
    let k := BistTarget.key b
    let row := b.row.toNat
    let inst := b.inst.toNat
    ∃ t, exec (.bistOverdue b) s = .next t ∧ (t.eng.bistOf k).overdue = true ∧ s.eng.sameJobs t.eng ∧ t.mem = s.mem ∧
      ((s.eng.bistOf k).active = false → testRow 1 row = false → testRow 2 row = false → s.eng.active (testDomain row inst) = true →
        s.eng.unitRivals row inst = [] → (t.eng.bistOf k).active = true ∧ (t.eng.bistOf k).granted = true) := by
  intro k row inst
  obtain ⟨t, hx⟩ := exec_bistOverdue hl hr hv hf hm
  obtain ⟨hover, hact, hfen, hjobs, hpow, hriv⟩ := turnsOverdue_keeps s.eng k t
  have hfk : (s.eng.bistOf k).fenced = false := by
    unfold Eng.unitFenced at hf
    simp only [Bool.or_eq_false_iff] at hf
    exact hf.1.1.1.1.1
  obtain ⟨a, ha⟩ : ∃ a, a = s.eng.turnsOverdue k t := ⟨_, rfl⟩
  have hx' : exec (.bistOverdue b) s = .next { s with eng := (a.wakeTarget row inst).grantSegment row inst } := by
    rw [ha]
    exact hx
  rw [← ha] at hover hact hfen hjobs hpow hriv
  have hside := wakeTarget_side a row inst
  have hbk : (a.wakeTarget row inst).bistOf k = a.bistOf k := bistOf_of_steady (wakeTarget_steady a row inst) k
  have hwj : (a.wakeTarget row inst).jobs = a.jobs := by rw [hside.1]
  obtain ⟨hgj, hgo⟩ := grantSegment_keeps (a.wakeTarget row inst) row inst
  refine ⟨_, hx', ?_, ?_, rfl, fun hna h1 h2 hda hnr => ?_⟩
  · refine hgo.trans ?_
    show ((a.wakeTarget row inst).bistOf k).overdue = true
    rw [hbk, hover]
  · show ((a.wakeTarget row inst).grantSegment row inst).jobs.map _ = _
    rw [hgj, hwj]
    exact hjobs
  · have hdom : a.active (testDomain row inst) = true := by
      have hk (x : Eng) : x.active (testDomain row inst) = decide ((match testDomain row inst with
        | .region r => x.svc.power.region.getD r.toNat {}
        | .engine => x.svc.power.engine).st = .active) := by
        cases testDomain row inst <;> rfl
      rw [hk, hpow, ← hk]
      exact hda
    have hasks : (a.wakeTarget row inst).segmentAsks row inst = true := by
      have hwants : ((a.wakeTarget row inst).bistOf (bistKey row inst)).wants = true := by
        show ((a.wakeTarget row inst).bistOf k).wants = true
        rw [hbk]
        unfold Bist.wants
        rw [hover, hact, hna, hfen, hfk]
        rfl
      unfold Eng.segmentAsks
      rw [hwants, h1, h2, wakeTarget_active hdom]
      rfl
    exact grantSegment_granted hasks (unrivalled_of_power hside (hriv row inst ((unitRivals_nil s.eng row inst).mp hnr)))

/-- Settles O51: slices start where the mask and the fences let them (R379), an overdue target without competitors is granted a segment (R380; log 86),
and a segment's end is taken apart by what is found at it (R377, R381 to R383). -/
theorem selfTestRunsSegmentByPiece : Obligations.SelfTestRunsSegmentByPiece := by
  unfold Obligations.SelfTestRunsSegmentByPiece
  intro s b e hl ht k x row inst
  refine ⟨fun hr => bistSliceStart_starts hl hr, fun hr hv hf hm => bistOverdue_grants hl hr hv hf hm, fun hv hf ha hz hp => ?_⟩
  have h : s.RunsSegment b := ⟨hl, ht, hv, hf, ha, hz, hp⟩
  intro sample stops last kept ends raises complete
  refine ⟨fun hs => segment_discarded h hs, fun hs hst => segment_stops h hs hst, fun hs hst h20 hg => segment_counts h hs hst h20 hg,
    fun hs hst h20 hg => segment_granted h hs hst h20 hg, fun hs hst h20 hn => segment_endsSlice h hs hst h20 hn, fun hlast hr hd => ⟨?_, ?_⟩,
    fun st mac adr col hlast hr hd he hm => ?_, fun r rs hlast hr => ⟨?_, ?_⟩⟩
  · exact fun hf he => visit_completes h hlast hr hd ⟨hf, he⟩
  · exact fun hf => visit_diagnoses h hlast hr hd ((not_good_iff _ _).mpr hf)
  · subst he
    exact visit_repairs h hlast hr hd adr col hm
  · exact fun hf he hu => visit_repaired h hlast hr ⟨hf, he⟩ hu
  · intro hf
    refine visit_unrepairable h hlast hr ?_
    rcases hf with hf | hf | hf
    · exact .inl ((not_good_iff _ _).mpr (.inl hf))
    · exact .inl ((not_good_iff _ _).mpr (.inr hf))
    · exact .inr hf

end Sys2Proof.Machine
end

section
/-! Every command keeps the canonical form of the stacks' memory (R17, R295, R472). -/

namespace Sys2Proof.Machine

/-- An answer whose memory, where there is one, has its canonical form. -/
def KeepsForm (a : Answer) : Prop := ∀ t, a = .next t → MemInv t

theorem keepsForm_next {t : State} (h : MemInv t) : KeepsForm (.next t) := by
  intro u hu
  cases hu
  exact h

/-- A command that writes no stack memory keeps the form. -/
theorem onEng_keepsForm {s : State} (h : MemInv s) (f : Memory → Eng → Eng) : KeepsForm (onEng s f) := by
  refine keepsForm_next ?_
  split <;> exact h

/-- A command's writes are bytes under a tag, and each keeps the form. -/
theorem onMem_keepsForm {s : State} (h : MemInv s) (f : Memory → Eng → Eff) : KeepsForm (onMem s f) := by
  refine keepsForm_next ?_
  split
  · exact applyOps_wf _ _ h
  · exact h

theorem execAoResetLRise_keepsForm {s : State} (h : MemInv s) : KeepsForm (execAoResetLRise s) := by
  refine keepsForm_next ?_
  split <;> exact h

/-- Phase 8 zeroes the context store; every other phase writes nothing (R456, R460). -/
theorem execColdStartPhaseEnd_keepsForm {s : State} (h : MemInv s) (x : PhaseEnd) : KeepsForm (execColdStartPhaseEnd x s) := by
  refine keepsForm_next ?_
  split
  · exact h
  · dsimp only
    split
    · exact Memory.zero_wf _ h _ _
    · exact h

/-- The row that a write of a register is keeps the form: REATTACH and SVC_POD_CTL may write memory, the others do not (R466). -/
theorem rowOf_keepsForm {s : State} (h : MemInv s) {reg : Nat} {w : RegWrite} {row : State → Answer} (hr : rowOf reg w = some row) :
    KeepsForm (row s) := by
  unfold rowOf at hr
  dsimp only at hr
  split at hr
  case h_2 =>
    split at hr
    case h_3 =>
      cases hr
      exact onMem_keepsForm h _
    all_goals cases hr
    all_goals exact onEng_keepsForm h _
  case h_11 =>
    cases hr
    exact onMem_keepsForm h _
  all_goals
    repeat' split at hr
    all_goals cases hr
    all_goals exact onEng_keepsForm h _

theorem execRegisterWrite_keepsForm {s : State} (h : MemInv s) (off : BitVec 21) (size : AccSize) (v : Word) :
    KeepsForm (execRegisterWrite off size v s) := by
  unfold execRegisterWrite
  split
  · exact onEng_keepsForm h _
  · dsimp only
    split
    · next hr => exact rowOf_keepsForm h hr
    · exact onEng_keepsForm h _

theorem exec_keepsForm {s : State} (h : MemInv s) (c : Instr) : KeepsForm (exec c s) := by
  cases c with
  | aoResetLRise => exact execAoResetLRise_keepsForm h
  | coldStartPhaseEnd x => exact execColdStartPhaseEnd_keepsForm h x
  | registerWrite off size v => exact execRegisterWrite_keepsForm h off size v
  | landingCapture | descriptorFetch | timedRefetch | fetchResume | compress | compressPassEnd | pageWalkDone | readReturn | writeAck
  | postCompletion | spoolDrain | podCtlWrite | reverify | routeLost | diePortDown | faultEvent | bistSegmentEnd
  | sweepGranuleAdvance | lockReadTimeout | settleDone | resetPhaseEnd | hostLinkChange | reattach | dormantEntry | wakeComplete
  | verdict | join | beaconSend | syncReq | workerSilent => unfold exec; exact onMem_keepsForm h _
  | _ => unfold exec; exact onEng_keepsForm h _

/-- Settles O3: a command's writes to stack memory keep the canonical form (`exec_keepsForm`), and an idle cycle writes none. -/
theorem everyStepKeepsTheMemoryForm : Obligations.EveryStepKeepsTheMemoryForm := by
  unfold Obligations.EveryStepKeepsTheMemoryForm
  intro s t h hs
  unfold step at hs
  split at hs
  · next c cs _ => exact exec_keepsForm (s := { s with pending := cs }) h c t hs
  · exact onEng_keepsForm h _ t hs

end Sys2Proof.Machine
end

section
/-! Host writes to stack memory (R25, R472). -/

namespace Sys2Proof.Machine

/-- A captured line is found at its own number. -/
theorem capture_landed (e : Eng) (line : Nat) (bs : List Byte) : (e.capture line bs).landed (128 * line) = some bs := by
  have hn (l : List (Nat × List Byte)) (h : ∀ x ∈ l, x.1 ≠ line) : (l ++ [(line, bs)]).find? (fun x => decide (x.1 = line)) = some (line, bs) := by
    rw [List.find?_append, List.find?_eq_none.mpr fun x hx => by simpa using h x hx]
    simp
  unfold Eng.capture Eng.landed
  extract_lets kept kept'
  have hk : ∀ x ∈ kept, x.1 ≠ line := fun x hx => of_decide_eq_true (List.mem_filter.mp hx).2
  have hk' : ∀ x ∈ kept', x.1 ≠ line := by
    intro x hx
    unfold kept' at hx
    split at hx
    · exact hk x (List.mem_of_mem_drop hx)
    · exact hk x hx
  rw [Nat.mul_div_cancel_left line (by decide), hn kept' hk']
  rfl

/-- The lines that `n` bytes from `a` touch. -/
def touchedLines (a n : Nat) : List Nat := (List.range ((a % 128 + n + 127) / 128)).map (a / 128 + ·)

/-- One whole line touches itself alone. -/
theorem touchedLines_whole (line : Nat) : touchedLines (128 * line) 128 = [line] := by
  simp [touchedLines]

/-- What a host write makes of one line that it touches: a line of a cached context's submission ring is captured, any other is given up (R25). -/
def Eng.hostTouches (e : Eng) (m : Memory) (bs : List Byte) (l : Nat) : Eng :=
  if bs = [] then e
  else if e.lineOfRing (l * 128) then e.capture l (m.bytes .clear (l * 128) 128) else e.dropLines (l * 128) 128

theorem exec_landingCapture {s : State} (hl : s.Live) (a : Nat) (bs : List Byte) : exec (.landingCapture a bs) s = .next { s with
    eng := (touchedLines a bs.length).foldl (fun e l => e.hostTouches (s.mem.write .clear a bs) bs l) s.eng
    mem := s.mem.write .clear a bs } := by
  unfold exec execLandingCapture
  exact onMem_live hl _

/-- One aligned line of a cached context's ring is captured as it was written. -/
theorem hostTouches_captures {e : Eng} {m : Memory} (hm : m.wf) {line : Nat} {bs : List Byte} (hn : bs.length = 128)
    (hr : e.lineOfRing (128 * line) = true) : (e.hostTouches (m.write .clear (128 * line) bs) bs line).landed (128 * line) = some bs := by
  have hb : (m.write .clear (128 * line) bs).bytes .clear (128 * line) 128 = bs := by
    rw [← hn]
    exact Memory.bytes_write .clear bs m _ hm
  have h0 : bs ≠ [] := by
    rintro rfl
    exact absurd hn (by decide)
  unfold Eng.hostTouches
  rw [if_neg h0, Nat.mul_comm line 128, if_pos hr, hb]
  exact capture_landed e line bs

/-- Settles O11: the bytes are one write in the clear, and one whole line of a cached context's ring is captured as it stands after it. -/
theorem landingCaptureStoresAndCaptures : Obligations.LandingCaptureStoresAndCaptures := by
  unfold Obligations.LandingCaptureStoresAndCaptures
  intro s a bs hl hm
  refine ⟨_, exec_landingCapture hl a bs, fun i hi => Memory.byte_write_in .clear bs s.mem a hm i hi,
    fun k b hb => Memory.byte_write_out .clear bs s.mem a k b hb, ?_⟩
  intro line ha hn hr
  subst ha
  show (List.foldl _ s.eng (touchedLines (128 * line) bs.length)).landed _ = _
  rw [hn, touchedLines_whole]
  exact hostTouches_captures hm hn hr

end Sys2Proof.Machine
end

section
/-! DISPATCH (R22, R34, R59, R414), and what the choice of a region and the reads of records leave as they are. -/

namespace Sys2Proof.Machine

/-- The stamp, the contexts and the descriptors: what lookups, reads of records and wakes leave as they are. -/
def Eng.inWork (e : Eng) : Eng := { now := e.now, ctxs := e.ctxs, jobs := e.jobs }

theorem inWork_parts {e e' : Eng} (h : e'.inWork = e.inWork) : e'.now = e.now ∧ e'.ctxs = e.ctxs ∧ e'.jobs = e.jobs :=
  ⟨(congrArg Eng.now h :), (congrArg Eng.ctxs h :), (congrArg Eng.jobs h :)⟩

theorem job_inWork {e e' : Eng} (h : e'.inWork = e.inWork) (k : Word) : e'.job k = e.job k := by
  unfold Eng.job
  rw [(inWork_parts h).2.2]

theorem PowerSide.inWork {e e' : Eng} (h : PowerSide e e') : e'.inWork = e.inWork := by
  rw [h.1]
  rfl

theorem JrnSide.inWork {e e' : Eng} (h : JrnSide e e') : e'.inWork = e.inWork := by
  rw [h.1]
  rfl

/-! ### The lead region (R22) -/

theorem tlbFill_inWork (e : Eng) (r : Region) (p : PdkNum) (va : Nat) (l : Leaf) : (e.tlbFill r p va l).inWork = e.inWork := by
  unfold Eng.tlbFill
  extract_lets old
  by_cases h : old.length < 8192
  · rw [if_pos h]
    rfl
  · rw [if_neg h]
    rfl

theorem probe_inWork (e : Eng) (m : Memory) (r : Region) (p : PdkNum) (a : Nat) (bad : Option (BitVec 2)) :
    (e.probe m r p a bad).2.inWork = e.inWork := by
  unfold Eng.probe
  extract_lets pd e₁ e₂
  split
  · rfl
  · split
    · rfl
    · split
      · exact tlbFill_inWork e₂ _ _ _ _
      · rfl
      · rfl

theorem firstRegion_inWork (e : Eng) (m : Memory) (home : Region) (j : Job) (w : Nat) (table : Bool) (bad : Option (BitVec 2)) :
    (e.firstRegion m home j w table bad).2.inWork = e.inWork := by
  unfold Eng.firstRegion
  extract_lets s va
  clear_value va
  split
  · rfl
  · cases va with
    | none => rfl
    | some a => exact probe_inWork e m home j.paddock a bad

theorem leadRegion_inWork (e : Eng) (m : Memory) (j : Job) (bad : ProbeBad) : (e.leadRegion m j bad).2.inWork = e.inWork := by
  unfold Eng.leadRegion
  extract_lets home w
  have h₁ := firstRegion_inWork e m home j w j.scatterEn bad.dst
  split
  · next he =>
    rw [he] at h₁
    exact h₁
  · next e₁ he =>
    rw [he] at h₁
    split
    · exact h₁
    · have h₂ := (firstRegion_inWork e₁ m home j 1 j.gatherEn bad.src).trans h₁
      split
      · next he₂ =>
        rw [he₂] at h₂
        exact h₂
      · next he₂ =>
        rw [he₂] at h₂
        exact h₂

/-! ### DISPATCH -/

/-- The region that a descriptor with a walker is dispatched to: where it stood, if a lost unit sent it back and the region stands (R414), or its lead
region. -/
def Eng.dispatchRegion (e : Eng) (m : Memory) (j : Job) (bad : ProbeBad) : Region × Eng :=
  if j.stay && !e.regionFenced j.lead then (j.lead, e) else e.leadRegion m j bad

theorem dispatchRegion_fst (e : Eng) (m : Memory) (j : Job) (bad : ProbeBad) :
    (e.dispatchRegion m j bad).1 = if j.stay && !e.regionFenced j.lead then j.lead else (e.leadRegion m j bad).1 := by
  unfold Eng.dispatchRegion
  split <;> rfl

theorem dispatchRegion_inWork (e : Eng) (m : Memory) (j : Job) (bad : ProbeBad) : (e.dispatchRegion m j bad).2.inWork = e.inWork := by
  unfold Eng.dispatchRegion
  split
  · rfl
  · exact leadRegion_inWork e m j bad

section Dispatch

variable {s : State} {h : Word} {j : Job} (bad : ProbeBad) (hl : s.Live) (ha : s.eng.accepts = true) (hh : s.eng.halted = false)
  (hj : s.eng.job h = some j) (hs : j.stage = .fetched) (hb : s.eng.mayBegin j = true)

include hl ha hh hj hs hb

theorem exec_dispatch_walker (hw : j.usesWalker = true) (ht : s.eng.testing 5 (homeRegion j.ctx).toNat = false) :
    exec (.dispatch h bad) s = .next { s with eng := ((s.eng.dispatchRegion s.mem j bad).2.modJob h fun k => { k with
      stage := .queued, lead := (s.eng.dispatchRegion s.mem j bad).1, queueStamp := (s.eng.dispatchRegion s.mem j bad).2.now }).wakeRegion (s.eng.dispatchRegion s.mem j bad).1 } := by
  unfold exec execDispatch
  refine onEng_eq hl ?_
  rw [hj]
  dsimp only
  rw [if_neg (by simp [ha, hs, hb, hh]), if_pos hw, if_neg (by simp [ht])]
  rfl

theorem exec_dispatch_unit (hw : j.usesWalker = false) (hk : knownOpcode j.opcode = true) :
    exec (.dispatch h bad) s = .next { s with eng := (s.eng.modJob h fun k => { k with
      stage := .running, lead := s.eng.homeOf j.ctx }).wakeRegion (s.eng.homeOf j.ctx) } := by
  unfold exec execDispatch
  refine onEng_eq hl ?_
  rw [hj]
  dsimp only
  rw [if_neg (by simp [ha, hs, hb, hh]), if_neg (by simp [hw]), if_pos hk]

end Dispatch

/-- Settles O14: a descriptor with a walker is queued where `dispatchRegion` sends it, any other runs at its ring's home region. -/
theorem dispatchQueuesAtTheLeadRegion : Obligations.DispatchQueuesAtTheLeadRegion := by
  unfold Obligations.DispatchQueuesAtTheLeadRegion
  intro s h bad j hl ha hh hj hs hb
  refine ⟨fun hw ht => ?_, fun hw hk => ?_⟩
  · have hi := dispatchRegion_inWork s.eng s.mem j bad
    have hr := dispatchRegion_fst s.eng s.mem j bad
    have hx := exec_dispatch_walker bad hl ha hh hj hs hb hw ht
    generalize s.eng.dispatchRegion s.mem j bad = d at hi hr hx
    have hd : d.2.job h = some j := (job_inWork hi h).trans hj
    have hwake := (Eng.wakeRegion_side (d.2.modJob h fun k => { k with stage := .queued, lead := d.1, queueStamp := d.2.now }) d.1).inWork
    obtain ⟨hnow, hctxs, -⟩ := inWork_parts hi
    exact ⟨_, _, hx, (job_inWork hwake h).trans (Eng.job_modJob_self _ hd fun _ => rfl), rfl, hr, hnow,
      (inWork_parts hwake).2.1.trans hctxs⟩
  · have hwake := (Eng.wakeRegion_side (s.eng.modJob h fun k => { k with stage := .running, lead := s.eng.homeOf j.ctx })
      (s.eng.homeOf j.ctx)).inWork
    exact ⟨_, _, exec_dispatch_unit bad hl ha hh hj hs hb hw hk,
      (job_inWork hwake h).trans (Eng.job_modJob_self _ hj fun _ => rfl), rfl, rfl, (inWork_parts hwake).2.1⟩

end Sys2Proof.Machine
end

section
/-! WALKER_GRANT (R33, R136, R324 to R326, R334). -/

namespace Sys2Proof.Machine

/-! ### Whom an arbiter serves -/

theorem lotteryPick_mem {α : Type} {cs : List (α × Nat)} {x : Nat} {a : α} (h : lotteryPick cs x = some a) : a ∈ cs.map (·.1) := by
  induction cs generalizing x with
  | nil => cases h
  | cons c cs ih =>
    unfold lotteryPick at h
    split at h
    · cases h
      exact List.mem_cons_self
    · exact List.mem_cons_of_mem _ (ih h)

theorem lottery_mem {α : Type} {cs : List (α × Nat)} {s : BitVec 32} {a : α} (h : (lottery cs s).1 = some a) : a ∈ cs.map (·.1) := by
  unfold lottery at h
  dsimp only at h
  split at h
  · cases h
  · exact lotteryPick_mem h

/-- The oldest starved competitor is one of those that starve. -/
theorem oldestStarved_mem {α : Type} {cs : List (α × Option Word)} {a : α} (h : oldestStarved cs = some a) : a ∈ cs.map (·.1) := by
  have hfold (pick : Option (α × Word) → α × Option Word → Option (α × Word))
      (hp : ∀ b c x, pick b c = some x → x.1 = c.1 ∨ b = some x) (l : List (α × Option Word)) (b : Option (α × Word)) (x : α × Word)
      (hx : l.foldl pick b = some x) : x.1 ∈ l.map (·.1) ∨ b = some x := by
    induction l generalizing b with
    | nil => exact .inr hx
    | cons c l ih =>
      rcases ih _ hx with hm | hb
      · exact .inl (List.mem_cons_of_mem _ hm)
      · rcases hp b c x hb with hc | hb
        · rw [hc]
          exact .inl List.mem_cons_self
        · exact .inr hb
  cases cs with
  | nil => cases h
  | cons c cs =>
    obtain ⟨x, hx, rfl⟩ := Option.map_eq_some_iff.mp h
    refine (hfold _ (fun b c x hx => ?_) _ none x hx).resolve_right nofun
    split at hx
    · exact .inr hx
    · cases hx
      exact .inl rfl
    · split at hx
      · cases hx
        exact .inl rfl
      · exact .inr hx

theorem inTurn_mem {α : Type} {last : Option Nat} {cs : List (Rival α)} {c : Rival α} (h : inTurn last cs = some c) : c ∈ cs := by
  unfold inTurn at h
  split at h
  · next hf =>
    cases h
    exact List.mem_of_find?_eq_some hf
  · exact List.mem_of_head? h

/-- An arbiter serves one of its competitors. -/
theorem serve_mem {α : Type} {a : Arb} {cs : List (Rival α)} {w : α} (h : (a.serve cs).1 = some w) : w ∈ cs.map (·.who) := by
  have hmap {β : Type} (f : Rival α → α × β) (hf : ∀ c, (f c).1 = c.who) : (cs.map f).map (·.1) = cs.map (·.who) := by
    rw [List.map_map]
    exact List.map_congr_left fun c _ => hf c
  unfold Arb.serve at h
  split at h
  · next ho =>
    cases h
    rw [← hmap (fun c => (c.who, c.starved)) fun _ => rfl]
    exact oldestStarved_mem ho
  · split at h
    · next hl =>
      cases h
      rw [← hmap (fun c => (c.who, c.tickets)) fun _ => rfl]
      exact lottery_mem (congrArg Prod.fst hl)
    · split at h
      · next ht =>
        cases h
        exact List.mem_map_of_mem (inTurn_mem ht)
      · cases h

/-- A descriptor that a unit's arbiter serves is one of its queue. -/
theorem serveUnit_job_mem {e : Eng} {a : Arb} {q : List Job} {ts : List Nat} {j : Job} (h : (e.serveUnit a q ts).1 = some (.job j)) : j ∈ q := by
  unfold Eng.serveUnit at h
  split at h
  · next hf =>
    cases h
    exact List.mem_of_find?_eq_some hf
  · split at h
    · cases h
    · have hm := serve_mem h
      rw [List.map_append, List.map_map, List.map_map, List.mem_append] at hm
      rcases hm with hm | hm
      · obtain ⟨k, hk, hkj⟩ := List.mem_map.mp hm
        cases hkj
        exact hk
      · obtain ⟨k, hk, hkj⟩ := List.mem_map.mp hm
        cases hkj

/-! ### The draw for a walker -/

/-- The grant of a compressor leaves the contexts. -/
theorem grantCompressor_ctxs (e : Eng) (r : Region) : (e.grantCompressor r).ctxs = e.ctxs := by
  unfold Eng.grantCompressor
  split
  · rfl
  · dsimp only
    split <;> rfl

theorem mem_queueOf {e : Eng} {r : Region} {j : Job} (h : j ∈ e.queueOf r) : j ∈ e.jobs := by
  unfold Eng.queueOf inOrder at h
  exact List.mem_of_mem_filter (List.mem_mergeSort.mp h)

/-- The descriptor drawn is in work, and the draw leaves the contexts. -/
theorem drawWalker_some {e : Eng} {r : Region} {j : Job} (h : (e.drawWalker r).1 = some j) :
    j ∈ (e.drawWalker r).2.jobs ∧ (e.drawWalker r).2.ctxs = e.ctxs := by
  have hc := grantCompressor_ctxs e r
  unfold Eng.drawWalker at h ⊢
  dsimp only at h ⊢
  generalize e.grantCompressor r = a at h hc ⊢
  have hm (j : Job) := serveUnit_job_mem (e := a) (a := a.wlk.queue.getD r.toNat {}) (q := a.queueOf r) (ts := a.testQueue r 2) (j := j)
  generalize a.serveUnit (a.wlk.queue.getD r.toNat {}) (a.queueOf r) (a.testQueue r 2) = y at h hm ⊢
  obtain ⟨w, arb⟩ := y
  match w with
  | none => cases h
  | some (.test k) => cases h
  | some (.job k) =>
    cases h
    exact ⟨mem_queueOf (hm j rfl), hc⟩

/-- A descriptor in work is found under its handle, or another with that handle is. -/
theorem job_of_mem {e : Eng} {j : Job} (h : j ∈ e.jobs) : ∃ k, e.job j.handle = some k := by
  unfold Eng.job
  cases hf : e.jobs.find? (·.handle = j.handle) with
  | some k => exact ⟨k, rfl⟩
  | none => exact absurd (decide_eq_true rfl) (List.find?_eq_none.mp hf j h)

/-! ### View records (R82) -/

theorem viewRead_inWork (e : Eng) (m : Memory) (r : Region) (p : PdkNum) (c : CtxNum) (w : BitVec 5) (bad : List (BitVec 24)) (v : BitVec 24) :
    (e.viewRead m r p c w bad v).2.inWork = e.inWork := by
  unfold Eng.viewRead
  split
  · rfl
  · split
    · rfl
    · split
      · rfl
      · extract_lets ws old
        by_cases h : old.length < 1024
        · rw [if_pos h]
          rfl
        · rw [if_neg h]
          rfl

theorem readViews_inWork (e : Eng) (m : Memory) (r : Region) (j : Job) (w : BitVec 5) (bad : List (BitVec 24)) (ss : List Nat) :
    (e.readViews m r j w bad ss).2.inWork = e.inWork := by
  induction ss generalizing e with
  | nil => rfl
  | cons s ss ih => exact (ih _).trans (viewRead_inWork e m r j.paddock j.ctx w bad (j.slotOf s).view)

/-! ### Requests for a yield (R332) -/

/-- A descriptor without what asks it to yield. -/
def Job.unasked (j : Job) : Job := { j with yieldAt := none, yieldTo := none, yieldLevel := 0, cutTo := 0 }

/-- The engine without the requests for a yield. -/
def Eng.unasked (e : Eng) : Eng := { e with jobs := e.jobs.map Job.unasked, svc := { e.svc with bist := [] } }

theorem askYield_unasked (e : Eng) (holder : Job) (waiter : Claimant) (l : Nat) : (e.askYield holder waiter l).unasked = e.unasked := by
  have hj (t next : Option Word) : (e.jobs.map fun j => if j.handle = holder.handle then
      { j with yieldAt := t, yieldTo := next, yieldLevel := l, cutTo := j.lastReached } else j).map Job.unasked = e.jobs.map Job.unasked := by
    rw [List.map_map]
    refine List.map_congr_left fun j _ => ?_
    rw [Function.comp_apply]
    split <;> rfl
  unfold Eng.askYield
  split
  · rfl
  · cases waiter with
    | job k =>
      unfold Eng.unasked
      rw [← hj (some e.now) (some k.handle)]
      rfl
    | test k =>
      unfold Eng.unasked
      rw [← hj (some e.now) none]
      rfl

theorem unasked_foldl {β : Type} {f : Eng → β → Eng} (hf : ∀ e x, (f e x).unasked = e.unasked) (l : List β) (e : Eng) :
    (l.foldl f e).unasked = e.unasked := by
  induction l generalizing e with
  | nil => rfl
  | cons x l ih => exact (ih _).trans (hf e x)

theorem askStarved_unasked (e : Eng) (r : Region) : (e.askStarved r).unasked = e.unasked := by
  unfold Eng.askStarved
  extract_lets e₁
  have h₁ : e₁.unasked = e.unasked := by
    refine unasked_foldl (fun e l => unasked_foldl (fun e j => ?_) _ e) _ e
    split
    · exact askYield_unasked _ _ _ _
    · rfl
  refine (unasked_foldl (fun e k => ?_) _ e₁).trans h₁
  dsimp only
  split
  · exact askYield_unasked _ _ _ _
  · rfl

/-- What is found under a handle is the same but for requests for a yield. -/
theorem job_of_unasked {e e' : Eng} (h : e'.unasked = e.unasked) {k : Word} {j : Job} (hj : e.job k = some j) :
    ∃ j', e'.job k = some j' ∧ j'.unasked = j.unasked := by
  have hm (e : Eng) : (e.job k).map Job.unasked = (e.jobs.map Job.unasked).find? (·.handle = k) := by
    unfold Eng.job
    rw [List.find?_map]
    rfl
  have hjobs : e'.jobs.map Job.unasked = e.jobs.map Job.unasked := (congrArg Eng.jobs h :)
  have he := hm e
  rw [← hjobs, ← hm e', hj] at he
  exact Option.map_eq_some_iff.mp he.symm

/-! ### WALKER_GRANT -/

/-- The descriptor that receives a walker runs with it, and is starved no more; the contexts stand. -/
theorem grant_runs {e : Eng} {j k : Job} (hj : e.job j.handle = some k) (m : Memory) (r : Region) (w : BitVec 5) (bad : List (BitVec 24)) :
    (e.grant m r j w bad).ctxs = e.ctxs ∧
    ∃ j', (e.grant m r j w bad).job j.handle = some j' ∧ j'.stage = .running ∧ j'.walker = some w ∧ j'.starved = none := by
  have hv : (if j.viewWords = [] then e.readViews m r j w bad j.slotWords else (j.viewWords, e)).2.inWork = e.inWork := by
    split
    · exact readViews_inWork _ _ _ _ _ _ _
    · rfl
  unfold Eng.grant
  generalize (if j.viewWords = [] then e.readViews m r j w bad j.slotWords else (j.viewWords, e)) = y at hv ⊢
  obtain ⟨vs, e₁⟩ := y
  exact ⟨(inWork_parts hv).2.1, _, Eng.job_modJob_self _ ((job_inWork hv _).trans hj) (fun _ => rfl), rfl, rfl, rfl⟩

theorem freeWalker_spec {e : Eng} {r : Region} {w : BitVec 5} (h : e.freeWalker r = some w) :
    w ∈ walkersOf r ∧ e.walkerBusy w = false ∧ e.wlk.fenced.contains w = false := by
  have hp := List.find?_some h
  simp only [Bool.and_eq_true, Bool.not_eq_true'] at hp
  exact ⟨List.mem_of_find?_eq_some h, hp.1.1, hp.1.2⟩

theorem exec_walkerGrant {s : State} {r : Region} {bad : List (BitVec 24)} {w : BitVec 5} {j : Job} (hl : s.Live)
    (ha : s.eng.active (.region r) = true) (hf : s.eng.regionFenced r = false) (hh : s.eng.halted = false) (ht : s.eng.testing 6 r.toNat = false)
    (hw : s.eng.freeWalker r = some w) (hd : (s.eng.drawWalker r).1 = some j) :
    exec (.walkerGrant r bad) s = .next { s with eng := ((s.eng.drawWalker r).2.grant s.mem r j w bad).askStarved r } := by
  unfold exec execWalkerGrant
  refine onEng_eq hl ?_
  rw [if_neg (by simp [ha, hf, hh, ht]), hw]
  dsimp only
  generalize s.eng.drawWalker r = y at hd ⊢
  obtain ⟨o, e⟩ := y
  cases hd
  rfl

/-- Settles O15: the walker is a free one of the region, the descriptor drawn is in work and receives it, and the starved that ask then change no more
than requests for a yield. -/
theorem walkerGrantStartsTheDrawnDescriptor : Obligations.WalkerGrantStartsTheDrawnDescriptor := by
  unfold Obligations.WalkerGrantStartsTheDrawnDescriptor
  intro s r bad w j hl ha hf hh ht hw hd
  refine ⟨freeWalker_spec hw, ?_⟩
  have hx := exec_walkerGrant (bad := bad) hl ha hf hh ht hw hd
  obtain ⟨hmem, hctxs⟩ := drawWalker_some hd
  generalize (s.eng.drawWalker r).2 = e at hx hmem hctxs
  obtain ⟨k, hk⟩ := job_of_mem hmem
  obtain ⟨hgctxs, j₁, hj₁, hrun, hwalk, hstarved⟩ := grant_runs hk s.mem r w bad
  have hu := askStarved_unasked (e.grant s.mem r j w bad) r
  obtain ⟨j', hj', hjj⟩ := job_of_unasked hu hj₁
  exact ⟨_, j', hx, hj', (congrArg Job.stage hjj :).trans hrun, (congrArg Job.walker hjj :).trans hwalk,
    (congrArg Job.starved hjj :).trans hstarved, (congrArg Eng.ctxs hu :).trans (hgctxs.trans hctxs), rfl⟩

end Sys2Proof.Machine
end

section
/-! A walker reaches destination positions (R88, R101, R157): what each step of it keeps, and how far it comes. -/

namespace Sys2Proof.Machine

/-! ### A descriptor's plan and its walker -/

/-- What the order of a walker, the ends of its streams and its index elements follow from, and what stays with them as a descriptor goes on. -/
def Job.plan (j : Job) : Job :=
  { handle := j.handle, words := j.words, payload := j.payload, viewWords := j.viewWords, checked := j.checked, asked := j.asked, poisoned := j.poisoned }

/-- The plan, with where the walker stands and what may stop it. -/
def Job.reins (j : Job) : Job := { j.plan with emitted := j.emitted, fault := j.fault, yieldAt := j.yieldAt }

theorem walkAt_plan (j : Job) (t : Nat) : j.plan.walkAt t = j.walkAt t := rfl
theorem total_plan (j : Job) : j.plan.total = j.total := rfl
theorem indexOf_plan (j : Job) (k : Nat) : j.plan.indexOf k = j.indexOf k := rfl

section Plan

variable {j j' : Job} (h : j'.plan = j.plan)

include h

theorem walkAt_of_plan (t : Nat) : j'.walkAt t = j.walkAt t := by rw [← walkAt_plan, h, walkAt_plan]
theorem total_of_plan : j'.total = j.total := by rw [← total_plan, h, total_plan]
theorem indexOf_of_plan (k : Nat) : j'.indexOf k = j.indexOf k := by rw [← indexOf_plan, h, indexOf_plan]
theorem poisoned_of_plan : j'.poisoned = j.poisoned := (congrArg Job.poisoned h :)
theorem asked_of_plan : j'.asked = j.asked := (congrArg Job.asked h :)

end Plan

theorem plan_of_reins {j j' : Job} (h : j'.reins = j.reins) : j'.plan = j.plan := (congrArg Job.plan h :)
theorem emitted_of_reins {j j' : Job} (h : j'.reins = j.reins) : j'.emitted = j.emitted := (congrArg Job.emitted h :)

/-! ### Elements -/

theorem els_setEl (j : Job) (st st' : StreamId) (k : Nat) (x : El) :
    (j.setEl st k x).els st' = if st' = st then mapSet .idle (j.els st) k x else j.els st' := by
  cases st <;> cases st' <;> rfl

theorem setEl_reins (j : Job) (st : StreamId) (k : Nat) (x : El) : (j.setEl st k x).reins = j.reins := by
  cases st <;> rfl

/-- An element set is there, unless it is set to idle. -/
theorem el_setEl_self {j : Job} {st : StreamId} {k : Nat} {x : El} (hx : x ≠ .idle) : (j.setEl st k x).el st k = x := by
  unfold Job.el
  rw [els_setEl, if_pos rfl]
  exact mapGet_mapSet_self_ne _ _ _ _ hx

/-- Elements of other streams are as before. -/
theorem el_setEl_stream (j : Job) {st st' : StreamId} (h : st' ≠ st) (k k' : Nat) (x : El) : (j.setEl st k x).el st' k' = j.el st' k' := by
  unfold Job.el
  rw [els_setEl, if_neg h]

/-- A change of one element takes none back, unless it is set to idle. -/
theorem el_setEl_busy {j : Job} {st st' : StreamId} {k k' : Nat} {x : El} (hx : x ≠ .idle) (h : j.el st' k' ≠ .idle) :
    (j.setEl st k x).el st' k' ≠ .idle := by
  by_cases hs : st' = st
  · subst hs
    by_cases hk : k' = k
    · subst hk
      rw [el_setEl_self hx]
      exact hx
    · unfold Job.el at h ⊢
      rw [els_setEl, if_pos rfl, mapGet_mapSet_ne _ _ _ _ _ hk]
      exact h
  · rw [el_setEl_stream j hs]
    exact h

/-! ### What takes nothing back -/

/-- A change of a descriptor that leaves its plan and its walker's place, and takes back no destination position and no index value. -/
structure Job.Touches (j j' : Job) : Prop where
  plan : j'.plan = j.plan
  emitted : j'.emitted = j.emitted
  dst : ∀ k, j.el .dst k ≠ .idle → j'.el .dst k ≠ .idle
  idx : ∀ k, j.el .idx k ≠ .idle → j'.el .idx k ≠ .idle

theorem Job.Touches.refl (j : Job) : j.Touches j := ⟨rfl, rfl, fun _ => id, fun _ => id⟩

theorem Job.Touches.trans {j j' j'' : Job} (h : j.Touches j') (h' : j'.Touches j'') : j.Touches j'' :=
  ⟨h'.plan.trans h.plan, h'.emitted.trans h.emitted, fun k hk => h'.dst k (h.dst k hk), fun k hk => h'.idx k (h.idx k hk)⟩

theorem touches_foldl {β : Type} {f : Job → β → Job} (hf : ∀ (j : Job) x, j.Touches (f j x)) (l : List β) (j : Job) : j.Touches (l.foldl f j) := by
  induction l generalizing j with
  | nil => exact .refl j
  | cons x l ih => exact (hf j x).trans (ih _)

theorem reins_foldl {β : Type} {f : Job → β → Job} (hf : ∀ j x, (f j x).reins = j.reins) (l : List β) (j : Job) : (l.foldl f j).reins = j.reins := by
  induction l generalizing j with
  | nil => rfl
  | cons x l ih => exact (ih _).trans (hf j x)

theorem setEl_touches (j : Job) (st : StreamId) (k : Nat) {x : El} (hx : x ≠ .idle) : j.Touches (j.setEl st k x) :=
  ⟨plan_of_reins (setEl_reins j st k x), emitted_of_reins (setEl_reins j st k x), fun _ h => el_setEl_busy hx h, fun _ h => el_setEl_busy hx h⟩

/-- A change of a source element takes nothing back, whatever it is. -/
theorem setEl_src_touches (j : Job) (k : Nat) (x : El) : j.Touches (j.setEl .src k x) :=
  ⟨rfl, rfl, fun _ h => h, fun _ h => h⟩

theorem reach_reins (j : Job) (st : StreamId) (k : Nat) : (j.reach st k).reins = j.reins := by
  unfold Job.reach
  split
  · exact setEl_reins _ _ _ _
  · rfl

theorem reach_touches (j : Job) (st : StreamId) (k : Nat) : j.Touches (j.reach st k) := by
  unfold Job.reach
  split
  · exact setEl_touches _ _ _ nofun
  · exact .refl j

theorem reach_el (j : Job) (st : StreamId) (k : Nat) : (j.reach st k).el st k ≠ .idle := by
  unfold Job.reach
  split
  · have ht : El.todo ≠ .idle := nofun
    rw [el_setEl_self ht]
    exact ht
  · next h => exact h

/-! ### One position is reached -/

theorem beginAdvance_reins (j : Job) : j.beginAdvance.reins = j.reins := by
  unfold Job.beginAdvance
  split <;> rfl

theorem beginAdvance_touches (j : Job) : j.Touches j.beginAdvance := by
  unfold Job.beginAdvance
  split
  · exact ⟨rfl, rfl, fun _ => id, fun _ => id⟩
  · exact .refl j

/-- The elements that a destination position needs beside itself are reached. -/
theorem emit1_from (j : Job) (k : Nat) : (j.reach .dst k).Touches (j.emit1 k) ∧ (j.emit1 k).reins = j.reins := by
  have hi := touches_foldl (fun j i => reach_touches j .idx i) (j.indexOf k) (j.reach .dst k)
  have hir := (reins_foldl (fun j i => reach_reins j .idx i) (j.indexOf k) (j.reach .dst k)).trans (reach_reins j .dst k)
  unfold Job.emit1
  extract_lets j₁
  split
  · exact ⟨hi, hir⟩
  · split
    · exact ⟨hi, hir⟩
    · extract_lets b j₂ j₃
      have h₂ : j₁.Touches j₂ := touches_foldl (fun j p => reach_touches j .src p) _ j₁
      have r₂ : j₂.reins = j₁.reins := reins_foldl (fun j p => reach_reins j .src p) _ j₁
      have h₃ : j₂.Touches j₃ ∧ j₃.reins = j₂.reins := by
        unfold j₃
        split
        · exact ⟨reach_touches _ _ _, reach_reins _ _ _⟩
        · exact ⟨.refl _, rfl⟩
      have h₄ := hi.trans (h₂.trans h₃.1)
      have r₄ := h₃.2.trans (r₂.trans hir)
      split
      · exact ⟨h₄.trans (reach_touches _ _ _), (reach_reins _ _ _).trans r₄⟩
      · exact ⟨h₄, r₄⟩

theorem emit1_touches (j : Job) (k : Nat) : j.Touches (j.emit1 k) := (reach_touches j .dst k).trans (emit1_from j k).1

theorem emit1_el (j : Job) (k : Nat) : (j.emit1 k).el .dst k ≠ .idle := (emit1_from j k).1.dst k (reach_el j .dst k)

/-! ### The index stream (R157) -/

/-- A key whose entries a filter keeps reads as before. -/
theorem mapGet_filter_keeps {α : Type} (d : α) (l : SMap α) (p : Nat × α → Bool) (k : Nat) (h : ∀ v, p (k, v) = true) :
    mapGet d (l.filter p) k = mapGet d l k := by
  induction l with
  | nil => rfl
  | cons x l ih =>
    obtain ⟨k', v⟩ := x
    by_cases hk : k' = k
    · subst hk
      simp [List.filter, h, mapGet]
    · by_cases hp : p (k', v) = true <;> simp [List.filter, hp, mapGet, hk, ih]

/-- What is let go of the index stream: nothing else changes, and the value at `i` stays. -/
theorem freeIndex_keeps (j : Job) (i : Nat) {n : Nat} (hn : 0 < n) : (j.freeIndex i n).reins = j.reins ∧ (j.freeIndex i n).dstEl = j.dstEl ∧
    (j.freeIndex i n).el .idx i = j.el .idx i :=
  ⟨rfl, rfl, mapGet_filter_keeps _ _ _ _ fun v => by simp [hn]⟩

/-- What the walker needs of the index stream at position `k`, and what it leaves: the destination, its reins, and the value needed. -/
structure Job.ReadsAhead (j j' : Job) (i : Nat) : Prop where
  reins : j'.reins = j.reins
  dst : ∀ k, j.el .dst k ≠ .idle → j'.el .dst k ≠ .idle
  idx : j.el .idx i ≠ .idle → j'.el .idx i ≠ .idle

theorem Job.ReadsAhead.trans {j j' j'' : Job} {i : Nat} (h : j.ReadsAhead j' i) (h' : j'.ReadsAhead j'' i) : j.ReadsAhead j'' i :=
  ⟨h'.reins.trans h.reins, fun k hk => h'.dst k (h.dst k hk), fun hk => h'.idx (h.idx hk)⟩

theorem freeIndex_readsAhead (c : Prop) [Decidable c] (j : Job) (i : Nat) {n : Nat} (hn : 0 < n) :
    j.ReadsAhead (if c then j else j.freeIndex i n) i := by
  obtain ⟨hr, hd, hi⟩ := freeIndex_keeps j i hn
  split
  · exact ⟨rfl, fun _ => id, id⟩
  · refine ⟨hr, fun k hk => ?_, fun h => hi ▸ h⟩
    show mapGet .idle (j.freeIndex i n).dstEl k ≠ .idle
    rw [hd]
    exact hk

theorem reaches_readsAhead (l : List Nat) (j : Job) (i : Nat) : j.ReadsAhead (l.foldl (fun j i => j.reach .idx i) j) i :=
  have h := touches_foldl (fun j i => reach_touches j .idx i) l j
  ⟨reins_foldl (fun j i => reach_reins j .idx i) l j, h.dst, h.idx i⟩

theorem reach_foldl_el (l : List Nat) (j : Job) {i : Nat} (hi : i ∈ l) : (l.foldl (fun j i => j.reach .idx i) j).el .idx i ≠ .idle := by
  induction l generalizing j with
  | nil => cases hi
  | cons x l ih =>
    rcases List.mem_cons.mp hi with rfl | hi
    · exact (touches_foldl (fun j i => reach_touches j .idx i) l _).idx _ (reach_el _ _ _)
    · exact ih _ hi

/-- Reading ahead without need is nothing. -/
theorem readAhead_nil {j : Job} {k : Nat} (h : j.indexOf k = []) : j.readAhead k = j := by
  unfold Job.readAhead
  rw [h]

theorem readAhead_cons (j : Job) {k i : Nat} {is : List Nat} (h : j.indexOf k = i :: is) : j.ReadsAhead (j.readAhead k) i := by
  unfold Job.readAhead
  extract_lets need
  have hn : need = i :: is := h
  rw [hn]
  dsimp -zeta only
  extract_lets j₁ j₂ j₃ next j₄
  have h₂ : j.ReadsAhead j₂ i := (freeIndex_readsAhead _ j i (by decide)).trans (freeIndex_readsAhead _ j₁ i (by decide))
  split
  · exact h₂
  · have h₄ : j₂.ReadsAhead j₄ i := (reaches_readsAhead _ j₂ i).trans (reaches_readsAhead _ j₃ i)
    have h₅ : j₄.ReadsAhead { j₄ with indexBack := j₄.indexBack || j₄.firstIndexBack } i := ⟨rfl, fun _ => id, id⟩
    exact h₂.trans (h₄.trans h₅)

theorem readAhead_reins (j : Job) (k : Nat) : (j.readAhead k).reins = j.reins ∧ ∀ p, j.el .dst p ≠ .idle → (j.readAhead k).el .dst p ≠ .idle := by
  cases h : j.indexOf k with
  | nil =>
    rw [readAhead_nil h]
    exact ⟨rfl, fun _ => id⟩
  | cons i is =>
    have hr := readAhead_cons j h
    exact ⟨hr.reins, hr.dst⟩

/-- With no index value held there is room for one, and the one that is needed is asked for. -/
theorem readAhead_asks {j : Job} {k i : Nat} (h : j.indexOf k = [i]) (h0 : j.idxEl = []) : (j.readAhead k).el .idx i ≠ .idle := by
  have hroom : j.indexRoom k = true := by
    unfold Job.indexRoom
    simp [h0]
  unfold Job.readAhead
  extract_lets need
  have hn : need = [i] := h
  rw [hn]
  dsimp -zeta only
  extract_lets j₁ j₂ j₃ next j₄
  have h₁ : j₁ = j := if_pos (by rw [h0]; decide)
  have h₂ : j₂ = j := by
    unfold j₂
    rw [h₁, if_pos hroom]
  rw [if_neg (by rw [h₂, hroom]; decide)]
  have h₃ : j₃.el .idx i ≠ .idle := reach_foldl_el [i] j₂ List.mem_cons_self
  have h₄ : j₄.el .idx i ≠ .idle := (reaches_readsAhead _ j₃ i).idx h₃
  clear_value j₄
  exact h₄

/-! ### A step of the walker -/

/-- The walker goes on: its plan stands, what it has reached stays reached, and what it passes is reached; the one index value that it needs where
it stands stays, unless it goes on. -/
structure Job.Walks (j j' : Job) : Prop where
  plan : j'.plan = j.plan
  le : j.emitted ≤ j'.emitted
  dst : ∀ k, j.el .dst k ≠ .idle → j'.el .dst k ≠ .idle
  passed : ∀ p, j.emitted ≤ p → p < j'.emitted → j'.el .dst (j.walkAt p) ≠ .idle
  idx : ∀ i, j.indexOf (j.walkAt j.emitted) = [i] → j.el .idx i ≠ .idle → j.emitted < j'.emitted ∨ j'.el .idx i ≠ .idle

theorem Job.Touches.walks {j j' : Job} (h : j.Touches j') : j.Walks j' where
  plan := h.plan
  le := h.emitted.ge
  dst := h.dst
  passed p h1 h2 := absurd (h.emitted ▸ h2) (by omega)
  idx i _ hi := .inr (h.idx i hi)

theorem Job.Walks.trans {j j' j'' : Job} (h : j.Walks j') (h' : j'.Walks j'') : j.Walks j'' where
  plan := h'.plan.trans h.plan
  le := h.le.trans h'.le
  dst k hk := h'.dst k (h.dst k hk)
  passed p h1 h2 := by
    by_cases hp : p < j'.emitted
    · exact h'.dst _ (h.passed p h1 hp)
    · rw [← walkAt_of_plan h.plan]
      exact h'.passed p (by omega) h2
  idx i hn hi := by
    rcases h.idx i hn hi with hlt | hi'
    · exact .inl (hlt.trans_le h'.le)
    · by_cases hlt : j.emitted < j'.emitted
      · exact .inl (hlt.trans_le h'.le)
      · have he : j'.emitted = j.emitted := by have := h.le; omega
        have hn' : j'.indexOf (j'.walkAt j'.emitted) = [i] := by
          rw [he, walkAt_of_plan h.plan, indexOf_of_plan h.plan]
          exact hn
        rw [← he]
        exact h'.idx i hn' hi'

/-- What a step of the walker makes of a descriptor: it reads ahead, and reaches its next position or waits for an index value. -/
theorem emitStep_cases (j : Job) : (j.mayGo j.emitted = false ∧ j.emitStep = j) ∨
    j.mayGo j.emitted = true ∧
      (j.emitStep = j.readAhead (j.walkAt j.emitted) ∨
        j.emitStep = { (j.readAhead (j.walkAt j.emitted)).beginAdvance.emit1 (j.walkAt j.emitted) with
          emitted := (j.readAhead (j.walkAt j.emitted)).emitted + 1 }) := by
  unfold Job.emitStep
  cases h : j.mayGo j.emitted with
  | false => exact .inl ⟨rfl, rfl⟩
  | true =>
    refine .inr ⟨rfl, ?_⟩
    dsimp only
    rw [if_neg (by decide)]
    split
    · exact .inr rfl
    · exact .inl rfl

theorem emitStep_walks (j : Job) : j.Walks j.emitStep := by
  obtain ⟨hr, hdst⟩ := readAhead_reins j (j.walkAt j.emitted)
  rcases emitStep_cases j with ⟨-, h⟩ | ⟨-, h | h⟩
  · rw [h]
    exact (Job.Touches.refl j).walks
  · rw [h]
    refine ⟨plan_of_reins hr, (emitted_of_reins hr).ge, hdst, fun p h1 h2 => absurd (emitted_of_reins hr ▸ h2) (by omega), fun i hn hi => .inr ?_⟩
    exact (readAhead_cons j hn).idx hi
  · generalize j.readAhead (j.walkAt j.emitted) = a at hr hdst h
    have ht := (beginAdvance_touches a).trans (emit1_touches a.beginAdvance (j.walkAt j.emitted))
    have he := emit1_el a.beginAdvance (j.walkAt j.emitted)
    have hpos := emitted_of_reins hr
    rw [h]
    refine ⟨Eq.trans ?_ (ht.plan.trans (plan_of_reins hr)), by show _ ≤ a.emitted + 1; omega, fun k hk => ht.dst k (hdst k hk), fun p h1 h2 => ?_,
      fun i _ _ => .inl (by show _ < a.emitted + 1; omega)⟩
    · rfl
    · have h2' : p < a.emitted + 1 := h2
      have hp : p = j.emitted := by omega
      subst hp
      exact he

theorem emitStep_le (j : Job) : j.emitStep.emitted ≤ j.emitted + 1 := by
  have hr := emitted_of_reins (readAhead_reins j (j.walkAt j.emitted)).1
  rcases emitStep_cases j with ⟨-, h⟩ | ⟨-, h | h⟩
  · rw [h]
    omega
  · rw [h]
    omega
  · rw [h]
    exact Nat.add_le_add_right hr.le 1

/-- Nothing stops a walker: no fault, no poison, no request for a yield. -/
def Job.Unbridled (j : Job) : Prop := j.fault = none ∧ j.poisoned = false ∧ j.yieldAt = none

theorem unbridled_of_reins {j j' : Job} (h : j'.plan = j.plan) (hf : j'.fault = j.fault) (hy : j'.yieldAt = j.yieldAt) (hj : j.Unbridled) :
    j'.Unbridled := by
  obtain ⟨h1, h2, h3⟩ := hj
  exact ⟨hf.trans h1, (poisoned_of_plan h).trans h2, hy.trans h3⟩

theorem emitStep_unbridled {j : Job} (h : j.Unbridled) : j.emitStep.Unbridled := by
  obtain ⟨hr, -⟩ := readAhead_reins j (j.walkAt j.emitted)
  have keeps {a : Job} (ha : a.reins = j.reins) : a.Unbridled :=
    unbridled_of_reins (plan_of_reins ha) (congrArg Job.fault ha :) (congrArg Job.yieldAt ha :) h
  rcases emitStep_cases j with ⟨-, he⟩ | ⟨-, he | he⟩
  · rw [he]
    exact h
  · rw [he]
    exact keeps hr
  · generalize j.readAhead (j.walkAt j.emitted) = a at hr he
    rw [he]
    exact (keeps ((emit1_from a.beginAdvance (j.walkAt j.emitted)).2.trans ((beginAdvance_reins a).trans hr)) :)

/-- Where the next position needs no index value and has room in a tile, the walker reaches it. -/
theorem emitStep_emits {j : Job} (hg : j.mayGo j.emitted = true) (hn : j.indexOf (j.walkAt j.emitted) = []) :
    j.emitStep.emitted = j.emitted + 1 := by
  unfold Job.emitStep
  dsimp only
  rw [hg, if_neg (by decide), readAhead_nil hn, if_pos]
  unfold Job.indexRoom Job.addressable
  simp [hn]

/-- Where it needs an index value and none is held, it goes on or asks for that value. -/
theorem emitStep_asks {j : Job} {i : Nat} (hg : j.mayGo j.emitted = true) (hn : j.indexOf (j.walkAt j.emitted) = [i]) (h0 : j.idxEl = []) :
    j.emitted < j.emitStep.emitted ∨ j.emitStep.el .idx i ≠ .idle := by
  have hr := emitted_of_reins (readAhead_reins j (j.walkAt j.emitted)).1
  rcases emitStep_cases j with ⟨hm, -⟩ | ⟨-, h | h⟩
  · rw [hg] at hm
    cases hm
  · rw [h]
    exact .inr (readAhead_asks hn h0)
  · rw [h]
    exact .inl (Nat.lt_succ_of_le hr.ge)

end Sys2Proof.Machine
end

section
/-! How far a walker comes towards the position that its commands have let it come to (R101, R134 to R136, R157). -/

namespace Sys2Proof.Machine

/-! ### Steps towards the position asked for -/

theorem emitAsked_eq (j : Job) : j.emitAsked = Job.emitStep^[min j.asked j.total - j.emitted] j := by
  unfold Job.emitAsked
  rw [List.foldl_const, List.length_range]

theorem emitSteps_walks (n : Nat) (j : Job) : j.Walks (Job.emitStep^[n] j) := by
  induction n generalizing j with
  | zero => exact (Job.Touches.refl j).walks
  | succ n ih => exact (emitStep_walks j).trans (ih _)

theorem emitSteps_le (n : Nat) (j : Job) : (Job.emitStep^[n] j).emitted ≤ j.emitted + n := by
  induction n generalizing j with
  | zero => exact Nat.le_refl _
  | succ n ih =>
    have := ih j.emitStep
    have := emitStep_le j
    rw [Function.iterate_succ_apply]
    omega

/-- A descriptor goes on as far as it is asked to at most. -/
structure Job.Onward (j j' : Job) : Prop where
  walks : j.Walks j'
  bound : j'.emitted ≤ max j.emitted (min j.asked j.total)

theorem Job.Touches.onward {j j' : Job} (h : j.Touches j') : j.Onward j' := ⟨h.walks, by rw [h.emitted]; omega⟩

theorem Job.Onward.trans {j j' j'' : Job} (h : j.Onward j') (h' : j'.Onward j'') : j.Onward j'' := by
  refine ⟨h.walks.trans h'.walks, ?_⟩
  have h1 := h.bound
  have h2 := h'.bound
  rw [asked_of_plan h.walks.plan, total_of_plan h.walks.plan] at h2
  omega

theorem emitAsked_onward (j : Job) : j.Onward j.emitAsked := by
  rw [emitAsked_eq]
  have := emitSteps_le (min j.asked j.total - j.emitted) j
  exact ⟨emitSteps_walks _ j, by omega⟩

/-! ### Where nothing is in the way -/

theorem indexOf_none {j : Job} (hg : j.gatherEn = false) (hs : j.scatterEn = false) (k : Nat) : j.indexOf k = [] := by
  unfold Job.indexOf
  simp [hg, hs]

theorem mayGo_unbridled {j : Job} (h : j.Unbridled) (t : Nat) : j.mayGo t = (decide (t < j.total) && j.tileRoom t) := by
  obtain ⟨hf, hp, hy⟩ := h
  simp [Job.mayGo, Job.over, hf, hp, hy]

theorem tileRoom_flat {j : Job} (h : j.tile = false) (t : Nat) : j.tileRoom t = true := by
  unfold Job.tileRoom
  rw [h]
  rfl

/-- Without tiles and index values the walker reaches a position with each step. -/
theorem emitSteps_emits (n : Nat) {j : Job} (hu : j.Unbridled) (ht : j.tile = false) (hi : ∀ k, j.indexOf k = []) (hn : j.emitted + n ≤ j.total) :
    (Job.emitStep^[n] j).emitted = j.emitted + n := by
  induction n generalizing j with
  | zero => rfl
  | succ n ih =>
    have hg : j.mayGo j.emitted = true := by
      rw [mayGo_unbridled hu, tileRoom_flat ht]
      simp
      omega
    have he := emitStep_emits hg (hi _)
    have hp := (emitStep_walks j).plan
    rw [Function.iterate_succ_apply, ih (emitStep_unbridled hu) ((congrArg Job.tile hp :).trans ht)
      (fun k => (indexOf_of_plan hp k).trans (hi k)) (by rw [he, total_of_plan hp]; omega), he]
    omega

/-! ### The first tile block (R133 to R136) -/

/-- The first of a rising list is the first of what is left without repeats. -/
theorem idxOf_dedup_head {a : Nat} {l : List Nat} (h : (a :: l).Pairwise (· ≤ ·)) : (a :: l).dedup.idxOf a = 0 := by
  induction l generalizing a with
  | nil => simp
  | cons b l ih =>
    obtain ⟨hb, hl⟩ := List.pairwise_cons.mp h
    by_cases hm : a ∈ b :: l
    · have hab : a = b := by
        rcases List.mem_cons.mp hm with hab | hm
        · exact hab
        · exact Nat.le_antisymm (hb b List.mem_cons_self) ((List.pairwise_cons.mp hl).1 a hm)
      rw [List.dedup_cons_of_mem hm, hab]
      exact ih hl
    · rw [List.dedup_cons_of_notMem hm]
      exact List.idxOf_cons_self

/-- Tile blocks are reached in the order of their numbers. -/
theorem tileOrder_blocks (j : Job) : (j.tileOrder.map j.blockId).Pairwise (· ≤ ·) := by
  rw [List.pairwise_map]
  unfold Job.tileOrder
  refine (List.pairwise_mergeSort (fun a b c hab hbc => ?_) (fun a b => ?_) (List.range j.total)).imp fun hab => ?_
  · simp only [Bool.or_eq_true, Bool.and_eq_true, decide_eq_true_eq] at hab hbc ⊢
    omega
  · simp only [Bool.or_eq_true, Bool.and_eq_true, decide_eq_true_eq]
    omega
  · simp only [Bool.or_eq_true, Bool.and_eq_true, decide_eq_true_eq] at hab
    omega

/-- The first tile block has a tile. -/
theorem tileRoom_first {j : Job} (h : 0 < j.total) : j.tileRoom 0 = true := by
  by_cases ht : j.tile = true
  · have hw : j.walkAt 0 = j.tileOrder.getD 0 0 := by
      unfold Job.walkAt
      rw [if_pos ht]
    have hs := tileOrder_blocks j
    have hlen : j.tileOrder.length = j.total := by
      unfold Job.tileOrder
      rw [List.length_mergeSort, List.length_range]
    unfold Job.tileRoom
    rw [if_pos ht, hw]
    cases ho : j.tileOrder with
    | nil =>
      rw [ho] at hlen
      exact absurd hlen (by simp; omega)
    | cons x xs =>
      rw [ho] at hs
      have hz : ((x :: xs).map j.blockId).dedup.idxOf (j.blockId x) = 0 := idxOf_dedup_head hs
      simp only [List.getD_cons_zero, hz]
      have h0 : 0 < 2 * max 1 j.units := by omega
      simp [h0]
  · exact tileRoom_flat (by simpa using ht) 0

/-! ### A command asks for `n` positions -/

/-- The descriptor as its command asks it to come up to `n` positions further. -/
def Job.asks (j : Job) (n : Nat) : Job := { j with asked := min j.total (j.emitted + n) }

theorem emitNext_onward (j : Job) (n : Nat) : (j.asks n).Onward (j.emitNext n) := emitAsked_onward (j.asks n)

/-- The steps that a command gives the walker. -/
theorem emitNext_eq (j : Job) (n : Nat) : j.emitNext n = Job.emitStep^[min n (j.total - j.emitted)] (j.asks n) := by
  show (j.asks n).emitAsked = _
  rw [emitAsked_eq]
  congr 1
  show min (min j.total (j.emitted + n)) j.total - j.emitted = _
  omega

theorem emitNext_flat {j : Job} (hu : j.Unbridled) (ht : j.tile = false) (hg : j.gatherEn = false) (hs : j.scatterEn = false) (n : Nat) :
    (j.emitNext n).emitted = j.emitted + min n (j.total - j.emitted) := by
  rw [emitNext_eq]
  by_cases h : j.emitted ≤ j.total
  · exact emitSteps_emits _ (j := j.asks n) hu ht (indexOf_none hg hs) (by show j.emitted + _ ≤ j.total; omega)
  · rw [show min n (j.total - j.emitted) = 0 by omega]
    rfl

/-- The walker's first step of a command, and what follows it. -/
theorem emitNext_first {j : Job} (ht : j.emitted < j.total) {n : Nat} (hn : 0 < n) : (j.asks n).emitStep.Walks (j.emitNext n) := by
  rw [emitNext_eq, show min n (j.total - j.emitted) = min n (j.total - j.emitted) - 1 + 1 by omega, Function.iterate_succ_apply]
  exact emitSteps_walks _ _

section First

variable {j : Job} (hu : j.Unbridled) (hr : j.tile = false ∨ j.emitted = 0) (ht : j.emitted < j.total) {n : Nat} (hn : 0 < n)

include hu hr ht

theorem mayGo_first : j.mayGo j.emitted = true := by
  have hroom : j.tileRoom j.emitted = true := by
    rcases hr with hr | hr
    · exact tileRoom_flat hr _
    · rw [hr]
      exact tileRoom_first (by omega)
  rw [mayGo_unbridled hu, hroom]
  simpa using ht

include hn

/-- The walker reaches a position that needs no index value. -/
theorem emitNext_progress (hi : j.indexOf (j.walkAt j.emitted) = []) : j.emitted < (j.emitNext n).emitted := by
  have h : (j.asks n).emitStep.emitted = j.emitted + 1 := emitStep_emits (j := j.asks n) (mayGo_first hu hr ht) hi
  have := (emitNext_first ht hn).le
  omega

/-- The walker reaches a position that needs one index value, or asks for it where it holds none. -/
theorem emitNext_asks {i : Nat} (hi : j.indexOf (j.walkAt j.emitted) = [i]) (h0 : j.idxEl = []) :
    j.emitted < (j.emitNext n).emitted ∨ (j.emitNext n).el .idx i ≠ .idle := by
  have hs := emitStep_walks (j.asks n)
  have hw := emitNext_first ht hn
  rcases emitStep_asks (j := j.asks n) (mayGo_first hu hr ht) hi h0 with h | h
  · exact .inl (lt_of_lt_of_le h hw.le)
  · by_cases he : (j.asks n).emitStep.emitted = j.emitted
    · rw [← he]
      refine hw.idx i ?_ h
      rw [he, walkAt_of_plan hs.plan, indexOf_of_plan hs.plan]
      exact hi
    · have h1 : j.emitted ≤ (j.asks n).emitStep.emitted := hs.le
      have h2 := hw.le
      exact .inl (by omega)

end First

end Sys2Proof.Machine
end

section
/-! A descriptor's elements are issued (R101, R106, R133, R196): no pass over it takes back a position or an index value. -/

namespace Sys2Proof.Machine

/-! ### Ports, walks, and what leaves -/

theorem inWork_foldl {β : Type} {f : Eng → β → Eng} (hf : ∀ e x, (f e x).inWork = e.inWork) (l : List β) (e : Eng) :
    (l.foldl f e).inWork = e.inWork := by
  induction l generalizing e with
  | nil => rfl
  | cons x l ih => exact (ih _).trans (hf e x)

theorem emit_inWork (e : Eng) (o : Out) : (e.emit o).inWork = e.inWork := rfl

theorem hostPut_inWork (e : Eng) (a : Nat) (bs : List Byte) : (e.hostPut a bs).inWork = e.inWork := (e.hostPut_jrnSide a bs).inWork

theorem wakeFor_inWork (e : Eng) (q : Req) : (e.wakeFor q).inWork = e.inWork := by
  unfold Eng.wakeFor
  split
  · exact (e.wakeRegion_side _).inWork
  · rfl

theorem reaches_inWork (e : Eng) (m : Memory) (r : Region) (p : PdkNum) (d : DevNum) : (e.reaches m r p d).2.inWork = e.inWork := by
  unfold Eng.reaches
  extract_lets base i src atg
  split
  · rfl
  · split
    · rfl
    · split <;> rfl

theorem noteFault_inWork (e : Eng) (r : Region) (p : PdkNum) (ctx : Option CtxNum) (t : Trans) : (e.noteFault r p ctx t).inWork = e.inWork := by
  unfold Eng.noteFault
  split <;> rfl

theorem startWalk_inWork (e : Eng) (r : Region) (p : PdkNum) (va : Nat) : (e.startWalk r p va).inWork = e.inWork := by
  unfold Eng.startWalk
  extract_lets ws
  split <;> rfl

theorem park_inWork (e : Eng) (q : Req) (who : PortUser) : (e.park q who).inWork = e.inWork := by
  unfold Eng.park
  extract_lets port full x src svc
  split
  · rfl
  · split <;> rfl

theorem sendDie_inWork (e : Eng) (d : DieNum) (pa bit bits : Nat) (write : Option Nat) : (e.sendDie d pa bit bits write).inWork = e.inWork :=
  inWork_foldl (fun e _ => emit_inWork e _) _ e

theorem sendRun_inWork (e : Eng) (j : Job) (run : List Shot) : (e.sendRun j run).inWork = e.inWork := by
  unfold Eng.sendRun
  split
  · rfl
  · extract_lets w n v bytes
    split
    · rfl
    · split
      · exact hostPut_inWork _ _ _
      · rfl
    · exact sendDie_inWork _ _ _ _ _ _
    · split
      · rfl
      · split <;> rfl

theorem castElem_inWork (e : Eng) (j : Job) (p v : Nat) : (e.castElem j p v).2.inWork = e.inWork := by
  unfold Eng.castElem
  split
  · rfl
  · extract_lets c r w
    generalize nextRounding c (e.cst.lfsr.getD r 1) = y
    obtain ⟨mode, s⟩ := y
    rfl

/-! ### What goes on with a descriptor's elements -/

/-- The engine goes on in its queues, tallies and messages, and the descriptor keeps what it has reached. -/
structure Pump.Goes (p p' : Pump) : Prop where
  eng : p'.e.inWork = p.e.inWork
  job : p.j.Touches p'.j

theorem Pump.Goes.refl (p : Pump) : p.Goes p := ⟨rfl, .refl _⟩

theorem Pump.Goes.trans {p p' p'' : Pump} (h : p.Goes p') (h' : p'.Goes p'') : p.Goes p'' :=
  ⟨h'.eng.trans h.eng, h.job.trans h'.job⟩

theorem goes_ite {c : Prop} [Decidable c] {p a b : Pump} (ha : p.Goes a) (hb : p.Goes b) : p.Goes (if c then a else b) := by
  split
  · exact ha
  · exact hb

/-- One after the other, as long as no poison stops the descriptor. -/
theorem goes_foldl {β : Type} {f : Pump → β → Pump} (hf : ∀ (p : Pump) x, p.j.poisoned = false → p.Goes (f p x)) (l : List β) (p : Pump)
    (hp : p.j.poisoned = false) : p.Goes (l.foldl f p) := by
  induction l generalizing p with
  | nil => exact .refl p
  | cons x l ih =>
    have h := hf p x hp
    exact h.trans (ih _ ((poisoned_of_plan h.job.plan).trans hp))

theorem put_goes (p : Pump) (st : StreamId) (k : Nat) {x : El} (hx : x ≠ .idle) : p.Goes (p.put st k x) := ⟨rfl, setEl_touches _ _ _ hx⟩

/-- The element of a position changes, and the engine goes on. -/
theorem goes_set {p p' : Pump} {st : StreamId} {k : Nat} {x : El} (he : p'.e.inWork = p.e.inWork) (hj : p'.j = p.j.setEl st k x) (hx : x ≠ .idle) :
    p.Goes p' :=
  ⟨he, hj ▸ setEl_touches _ _ _ hx⟩

theorem look_goes (p : Pump) (st : StreamId) (k : Nat) : p.Goes (p.look st k) := by
  unfold Pump.look
  extract_lets key
  exact goes_ite (.refl p) ⟨rfl, ⟨rfl, rfl, fun _ => id, fun _ => id⟩⟩

theorem accept_goes (p : Pump) (st : StreamId) (k : Nat) (q : Req) (v : Nat) (bad : Bool) : p.Goes (p.accept st k q v bad) :=
  goes_set (wakeFor_inWork _ _) rfl nofun

theorem send_goes (p : Pump) (m : Memory) (st : StreamId) (k : Nat) (q : Req) (v : Nat) (bad : Bool) : p.Goes (p.send m st k q v bad) := by
  unfold Pump.send
  split
  · exact accept_goes _ _ _ _ _ _
  · extract_lets e
    have he : e.inWork = p.e.inWork := wakeFor_inWork _ _
    refine goes_set ?_ rfl nofun
    show (if e.withinStack m p.j q then e else e.park q (.job p.j.handle)).inWork = _
    split
    · exact he
    · exact (park_inWork _ _ _).trans he

theorem resend_goes (p : Pump) (st : StreamId) (k : Nat) (q : Req) (v : Nat) (bad : Bool) : p.Goes (p.resend st k q v bad) := by
  unfold Pump.resend
  exact goes_ite (accept_goes _ _ _ _ _ _) (.refl p)

theorem fire_goes (p : Pump) (m : Memory) (st : StreamId) (k va bit v : Nat) (bad : Bool) : p.Goes (p.fire m st k va bit v bad) := by
  unfold Pump.fire
  extract_lets j d w p₁
  split
  · have h₁ : p.Goes p₁ := look_goes p st k
    split
    · exact h₁.trans (send_goes _ _ _ _ _ _ _)
    · exact h₁.trans (goes_set (startWalk_inWork _ _ _ _) rfl nofun)
    · exact h₁.trans (goes_set (noteFault_inWork _ _ _ _ _) rfl nofun)
  · have h₁ := reaches_inWork p.e m j.lead j.paddock d
    generalize p.e.reaches m j.lead j.paddock d = x at h₁ ⊢
    obtain ⟨ok, e⟩ := x
    dsimp only
    split
    · exact goes_set ((noteFault_inWork _ _ _ _ _).trans h₁) rfl nofun
    · split
      · exact goes_set h₁ rfl nofun
      · exact Pump.Goes.trans (p' := { p with e := e }) ⟨h₁, .refl _⟩ (send_goes _ _ _ _ _ _ _)

/-! ### Reads -/

theorem noteMerge_inWork (e : Eng) (m : Memory) (j : Job) (a b : Nat) : (e.noteMerge m j a b).inWork = e.inWork := by
  unfold Eng.noteMerge
  split
  · rfl
  · split
    · split <;> rfl
    · rfl

theorem tryRead_goes (m : Memory) (st : StreamId) (p : Pump) (k : Nat) : p.Goes (Pump.tryRead m st p k) := by
  unfold Pump.tryRead
  split
  · exact resend_goes _ _ _ _ _ _
  · split
    · exact .refl p
    · exact put_goes _ _ _ nofun
    · extract_lets p₁
      have h₁ : p.Goes p₁ := goes_ite ⟨rfl, .refl _⟩ (.refl p)
      refine h₁.trans (put_goes p₁ _ _ ?_)
      split
      · exact nofun
      · split
        · exact nofun
        · split <;> exact nofun
    · extract_lets shared
      clear_value shared
      split
      · refine ⟨?_, setEl_src_touches _ _ _⟩
        show (if _ then p.e.noteMerge m p.j _ _ else p.e).inWork = _
        split
        · exact noteMerge_inWork _ _ _ _ _
        · rfl
      · exact fire_goes _ _ _ _ _ _ _ _

theorem tryReads_goes (m : Memory) (st : StreamId) (ks : List Nat) (p : Pump) (hp : p.j.poisoned = false) : p.Goes (ks.foldl (Pump.tryRead m st) p) :=
  goes_foldl (fun p k _ => tryRead_goes m st p k) ks p hp

theorem shareReads_touches (j : Job) : j.Touches j.shareReads := by
  unfold Job.shareReads
  refine touches_foldl (fun j x => ?_) _ j
  obtain ⟨k, x⟩ := x
  cases x with
  | same p0 =>
    dsimp only
    generalize j.el .src p0 = y
    cases y with
    | got _ _ => exact setEl_src_touches _ _ _
    | failed _ _ => exact setEl_src_touches _ _ _
    | same _ => exact setEl_src_touches _ _ _
    | idle => exact setEl_src_touches _ _ _
    | _ => exact .refl j
  | _ => exact .refl j

/-! ### The cast unit -/

theorem castGrant_goes (e : Eng) (j : Job) : (e.castGrant j).1.inWork = e.inWork ∧ j.Touches (e.castGrant j).2 := by
  have hl (l : List Nat) (f : Eng × SMap Nat → Nat → Eng × SMap Nat) (hf : ∀ x i, (f x i).1.inWork = x.1.inWork) (x : Eng × SMap Nat) :
      (l.foldl f x).1.inWork = x.1.inWork := by
    induction l generalizing x with
    | nil => rfl
    | cons i l ih => exact (ih _).trans (hf x i)
  have hf (x : Eng × SMap Nat) (i : Nat) : (match j.sourceOf (j.walkAt (j.castNext + i)), j.inputAt (j.walkAt (j.castNext + i)) with
      | some p, .ok _ _ =>
        let (v, e) := x.1.castElem j p (match j.srcInput p with | .ok v _ => v | _ => 0)
        (e, mapSet 0 x.2 p v)
      | _, _ => x).1.inWork = x.1.inWork := by
    split
    · exact castElem_inWork _ _ _ _
    · rfl
  have he := hl (List.range (j.castEnd - j.castNext)) _ hf (e, j.castVal)
  unfold Eng.castGrant
  dsimp -zeta only
  generalize (List.range (j.castEnd - j.castNext)).foldl _ (e, j.castVal) = y at he ⊢
  exact ⟨he, ⟨rfl, rfl, fun _ => id, fun _ => id⟩⟩

theorem castAll_goes (n : Nat) (e : Eng) (j : Job) : (Eng.castAll n e j).1.inWork = e.inWork ∧ j.Touches (Eng.castAll n e j).2 := by
  induction n generalizing e j with
  | zero => exact ⟨rfl, .refl j⟩
  | succ n ih =>
    unfold Eng.castAll
    split
    · obtain ⟨he, hj⟩ := castGrant_goes e j
      obtain ⟨he', hj'⟩ := ih (e.castGrant j).1 (e.castGrant j).2
      exact ⟨he'.trans he, hj.trans hj'⟩
    · exact ⟨rfl, .refl j⟩

/-! ### Writes -/

/-- Without poison no destination element is given up with the elements that share its bytes. -/
theorem mateGate_ne_drop {j : Job} (hp : j.poisoned = false) (k : Nat) : j.mateGate k ≠ .drop := by
  unfold Job.mateGate
  extract_lets unknown gone
  split
  · exact nofun
  · split
    · split
      · exact nofun
      · rw [hp]
        exact nofun
    · split <;> exact nofun

theorem byteGate_ne_drop {j : Job} (hp : j.poisoned = false) (e : Eng) (k a b : Nat) : j.byteGate e k a b ≠ .drop := by
  unfold Job.byteGate
  extract_lets w
  split
  · exact nofun
  · split
    · exact mateGate_ne_drop hp k
    · have hg : (if (j.runOf .dst k).2 + 1 < j.total && j.dstWhere ((j.runOf .dst k).2 + 1) = .wait then Gate.hold
          else if j.bitAt (j.runOf .dst k).1 ≠ 0 || (j.bitAt (j.runOf .dst k).2 + w) % 8 ≠ 0 then .clash
          else j.mateGate k) ≠ .drop := by
        split
        · exact nofun
        · split
          · exact nofun
          · exact mateGate_ne_drop hp k
      split
      · split
        · exact hg
        · exact hg
        · exact nofun
      · exact nofun

theorem fireDst_goes (m : Memory) (p : Pump) (k : Nat) (hp : p.j.poisoned = false) : p.Goes (Pump.fireDst m p k) := by
  unfold Pump.fireDst
  extract_lets go whole
  have hgo (p : Pump) (i : Nat) : p.Goes (go p i) := by
    show p.Goes (match p.j.outValue i, p.j.dstWhere i with
      | .ok v bad, .at a b _ => if p.j.skips i then p.put .dst i .done else p.fire m .dst i a b v bad
      | _, _ => p)
    split
    · exact goes_ite (put_goes _ _ _ nofun) (fire_goes _ _ _ _ _ _ _ _)
    · exact .refl p
  exact goes_ite (goes_foldl (fun p i _ => hgo p i) _ p hp) (hgo p k)

theorem tryDst_goes (m : Memory) (p : Pump) (k : Nat) (hp : p.j.poisoned = false) : p.Goes (Pump.tryDst m p k) := by
  unfold Pump.tryDst
  extract_lets p₁ gated
  have hgated (v : Nat) (bad : Bool) : p.Goes (gated v bad) := by
    dsimp only [gated]
    split
    · split
      · exact put_goes _ _ _ nofun
      · exact (look_goes p .dst k).trans (goes_set (st := .dst) (k := k) (x := .failed stAccessFault 0) (noteFault_inWork _ _ _ _ _) rfl nofun)
      · exact put_goes _ _ _ nofun
      · next h => exact absurd h (byteGate_ne_drop hp _ _ _ _)
      · exact fireDst_goes _ _ _ hp
    · exact .refl p
  split
  · exact resend_goes _ _ _ _ _ _
  · exact hgated _ _
  · exact hgated _ _
  · split
    · exact .refl p
    · split
      · exact .refl p
      · exact put_goes _ _ _ nofun
      · split
        · exact put_goes _ _ _ nofun
        · exact Pump.Goes.trans (p' := { p with e := p.e.count subWlk p.j.lead.toNat 1, j := { p.j with oob := p.j.oob + 1 } })
            ⟨rfl, ⟨rfl, rfl, fun _ => id, fun _ => id⟩⟩ (put_goes _ _ _ nofun)
        · exact goes_ite (.refl p) (hgated _ _)
        · exact .refl p
  · exact .refl p

theorem tryScaleOut_goes (m : Memory) (p : Pump) (b : Nat) : p.Goes (Pump.tryScaleOut m p b) := by
  unfold Pump.tryScaleOut
  extract_lets go
  have hgo (p : Pump) (v : Nat) : p.Goes (go p v) := by
    dsimp only [go]
    split
    · exact fire_goes _ _ _ _ _ _ _ _
    · exact put_goes _ _ _ nofun
  split
  · exact resend_goes _ _ _ _ _ _
  · exact hgo _ _
  · split
    · exact .refl p
    · exact put_goes _ _ _ nofun
    · next bad _ =>
      have hd : (if bad then p.e.draw else (0, p.e)).2.inWork = p.e.inWork := by split <;> rfl
      generalize (if bad then p.e.draw else (0, p.e)) = x at hd ⊢
      obtain ⟨n, e⟩ := x
      dsimp -zeta only at hd ⊢
      extract_lets v
      refine Pump.Goes.trans (p' := { p with e := if v = 0xFF then e.count subCst (12 + p.j.lead.toNat) 1 else e }) ⟨?_, .refl _⟩ (hgo _ _)
      show (if v = 0xFF then e.count subCst (12 + p.j.lead.toNat) 1 else e).inWork = _
      split <;> exact hd
  · exact .refl p

/-! ### Passes -/

/-- The engine goes on, and the descriptor comes as far as it is asked to. -/
structure Pump.Advances (p p' : Pump) : Prop where
  eng : p'.e.inWork = p.e.inWork
  job : p.j.Onward p'.j

theorem Pump.Advances.trans {p p' p'' : Pump} (h : p.Advances p') (h' : p'.Advances p'') : p.Advances p'' :=
  ⟨h'.eng.trans h.eng, h.job.trans h'.job⟩

theorem Pump.Goes.advances {p p' : Pump} (h : p.Goes p') : p.Advances p' := ⟨h.eng, h.job.onward⟩

theorem walkOn_advances (p : Pump) : p.Advances p.walkOn := by
  unfold Pump.walkOn
  split
  · exact ⟨rfl, emitAsked_onward _⟩
  · exact (Pump.Goes.refl p).advances

theorem pass_advances (m : Memory) (p : Pump) (hp : p.j.poisoned = false) : p.Advances (Pump.pass m p) := by
  unfold Pump.pass
  extract_lets p₁ p₂ p₃ p₄
  have h₁ : p.Advances p₁ := walkOn_advances p
  have hp₁ : p₁.j.poisoned = false := (poisoned_of_plan h₁.job.walks.plan).trans hp
  have keeps {a b : Pump} (h : a.Goes b) (ha : a.j.poisoned = false) : b.j.poisoned = false := (poisoned_of_plan h.job.plan).trans ha
  have h₂ : p₁.Goes p₂ := tryReads_goes m .idx _ p₁ hp₁
  have h₃ : p₂.Goes p₃ := tryReads_goes m .scaleIn _ p₂ (keeps h₂ hp₁)
  have h₄ : p₃.Goes p₄ := tryReads_goes m .src _ p₃ (keeps h₃ (keeps h₂ hp₁))
  have hp₄ := keeps h₄ (keeps h₃ (keeps h₂ hp₁))
  obtain ⟨he, hj⟩ := castAll_goes (p₄.j.total + 1) p₄.e p₄.j.shareReads
  generalize Eng.castAll (p₄.j.total + 1) p₄.e p₄.j.shareReads = x at he hj ⊢
  obtain ⟨e, j⟩ := x
  dsimp -zeta only at he hj ⊢
  extract_lets p₅ p₆ p₇
  have h₅ : p₄.Goes p₅ := ⟨he, (shareReads_touches _).trans hj⟩
  have h₆ : p₅.Goes p₆ := goes_foldl (tryDst_goes m) _ p₅ (keeps h₅ hp₄)
  have h₇ : p₆.Goes p₇ := goes_foldl (fun p b _ => tryScaleOut_goes m p b) _ p₆ (keeps h₆ (keeps h₅ hp₄))
  clear_value p₇
  have h₈ : p₇.Goes { p₇ with j := p₇.j.noteFirst } := ⟨rfl, ⟨rfl, rfl, fun _ => id, fun _ => id⟩⟩
  exact h₁.trans (h₂.trans (h₃.trans (h₄.trans (h₅.trans (h₆.trans (h₇.trans h₈)))))).advances

theorem passes_advance (m : Memory) (n : Nat) (p : Pump) (hp : p.j.poisoned = false) :
    p.Advances ((List.range n).foldl (fun p _ => Pump.pass m p) p) := by
  rw [List.foldl_const, List.length_range]
  induction n generalizing p with
  | zero => exact (Pump.Goes.refl p).advances
  | succ n ih =>
    have h := pass_advances m p hp
    exact h.trans (ih _ ((poisoned_of_plan h.job.walks.plan).trans hp))

/-- What is found under its handle once a descriptor has been put there. -/
theorem job_modJob_const {e : Eng} {h : Word} {j k : Job} (hj : e.job h = some j) (hk : k.handle = h) :
    (e.modJob h fun _ => k).job h = some k := by
  unfold Eng.job at *
  rw [Eng.modJob_jobs]
  generalize e.jobs = l at *
  induction l with
  | nil => cases hj
  | cons x xs ih =>
    by_cases hx : x.handle = h
    · simp [hx, hk]
    · simp only [List.find?_cons, hx, decide_false] at hj
      simpa [hx] using ih hj

/-- A descriptor goes on: the contexts stand, and it comes as far as it is asked to. -/
theorem pumpJob_onward {e : Eng} {h : Word} {j : Job} (hj : e.job h = some j) (hp : j.poisoned = false) (m : Memory) :
    (e.pumpJob m h).ctxs = e.ctxs ∧ ∃ j', (e.pumpJob m h).job h = some j' ∧ j.Onward j' := by
  unfold Eng.pumpJob
  rw [hj]
  dsimp only
  split
  · exact ⟨rfl, j, hj, (Job.Touches.refl j).onward⟩
  · obtain ⟨he, hw⟩ := passes_advance m 3 ({ e := e, j := j } : Pump) hp
    generalize (List.range 3).foldl (fun p _ => Pump.pass m p) ({ e := e, j := j } : Pump) = p at he hw ⊢
    have hs := (inWork_foldl (fun e r => sendRun_inWork e p.j r) (runsOf p.j.width p.shots) p.e).trans he
    exact ⟨(inWork_parts hs).2.1, _,
      job_modJob_const ((job_inWork hs h).trans hj) ((congrArg Job.handle hw.walks.plan :).trans (e.job_spec hj).2), hw⟩

end Sys2Proof.Machine
end

section
/-! COPY, TRANSFORM, GATHER, SCATTER, SCATTER_ACC, REDUCE and PUT_INLINE (R88, R101, R120, R135, R151, R157, R159, R172, R331). -/

namespace Sys2Proof.Machine

/-! ### Where a descriptor stands -/

/-- What a descriptor has reached: what its chunks, its walker's release and its end leave as it is. -/
def Job.stand (j : Job) : Job := { j.plan with emitted := j.emitted, idxEl := j.idxEl, dstEl := j.dstEl }

/-- The contexts, and where each descriptor stands. -/
def Eng.stand (e : Eng) : Eng := { ctxs := e.ctxs, jobs := e.jobs.map Job.stand }

theorem stand_of_inWork {e e' : Eng} (h : e'.inWork = e.inWork) : e'.stand = e.stand := by
  obtain ⟨-, hc, hj⟩ := inWork_parts h
  unfold Eng.stand
  rw [hc, hj]

theorem modJob_stand (e : Eng) (h : Word) {f : Job → Job} (hf : ∀ j, (f j).stand = j.stand) : (e.modJob h f).stand = e.stand := by
  have hj : (e.modJob h f).jobs.map Job.stand = e.jobs.map Job.stand := by
    rw [Eng.modJob_jobs, List.map_map]
    refine List.map_congr_left fun j _ => ?_
    rw [Function.comp_apply]
    split
    · exact hf j
    · rfl
  unfold Eng.stand
  rw [hj]
  rfl

theorem stand_foldl {β : Type} {f : Eng → β → Eng} (hf : ∀ e x, (f e x).stand = e.stand) (l : List β) (e : Eng) : (l.foldl f e).stand = e.stand := by
  induction l generalizing e with
  | nil => rfl
  | cons x l ih => exact (ih _).trans (hf e x)

theorem job_of_stand {e e' : Eng} (h : e'.stand = e.stand) {k : Word} {j : Job} (hj : e.job k = some j) :
    ∃ j', e'.job k = some j' ∧ j'.stand = j.stand := by
  have hm (e : Eng) : (e.job k).map Job.stand = (e.jobs.map Job.stand).find? (·.handle = k) := by
    unfold Eng.job
    rw [List.find?_map]
    rfl
  have hjobs : e'.jobs.map Job.stand = e.jobs.map Job.stand := (congrArg Eng.jobs h :)
  have he := hm e
  rw [← hjobs, ← hm e', hj] at he
  exact Option.map_eq_some_iff.mp he.symm

theorem ctxs_of_stand {e e' : Eng} (h : e'.stand = e.stand) : e'.ctxs = e.ctxs := (congrArg Eng.ctxs h :)

/-- Where a descriptor stands, its elements are as they were. -/
theorem el_of_stand {j j' : Job} (h : j'.stand = j.stand) (k : Nat) : j'.el .dst k = j.el .dst k ∧ j'.el .idx k = j.el .idx k := by
  have hd : j'.dstEl = j.dstEl := (congrArg Job.dstEl h :)
  have hi : j'.idxEl = j.idxEl := (congrArg Job.idxEl h :)
  unfold Job.el Job.els
  rw [hd, hi]
  exact ⟨rfl, rfl⟩

theorem touches_of_stand {j j' : Job} (h : j'.stand = j.stand) : j.Touches j' where
  plan := (congrArg Job.plan h :)
  emitted := (congrArg Job.emitted h :)
  dst k hk := by rwa [(el_of_stand h k).1]
  idx k hk := by rwa [(el_of_stand h k).2]

/-! ### The release of a walker, and the end -/

theorem writeApplied_stand (e : Eng) (h : Word) (pick : Nat × Nat × Word → Bool) : (e.writeApplied h pick).stand = e.stand := by
  unfold Eng.writeApplied
  split
  · rfl
  · extract_lets rs left e₁
    exact (stand_foldl (fun e r => stand_of_inWork (e.jAppend_side _).inWork) rs e₁).trans (modJob_stand _ _ fun _ => rfl)

theorem noteChunks_stand (e : Eng) (h : Word) (cs : List Nat) : (e.noteChunks h cs).stand = e.stand := by
  unfold Eng.noteChunks
  split
  · rfl
  · split
    · rfl
    · extract_lets new
      split
      · rfl
      · exact (writeApplied_stand _ _ _).trans (modJob_stand _ _ fun _ => rfl)

theorem noteDropped_stand (e : Eng) (h : Word) : (e.noteDropped h).stand = e.stand := by
  unfold Eng.noteDropped
  split
  · rfl
  · exact noteChunks_stand _ _ _

theorem noteQuiet_stand (e : Eng) (r : Region) : (e.noteQuiet r).stand = e.stand := stand_of_inWork (e.noteQuiet_side r).inWork

theorem handOver_stand (e : Eng) (j : Job) : (e.handOver j).stand = e.stand := by
  unfold Eng.handOver
  split
  · exact modJob_stand _ _ fun _ => rfl
  · rfl

theorem freeWalkerOf_stand (e : Eng) (h : Word) : (e.freeWalkerOf h).stand = e.stand := by
  unfold Eng.freeWalkerOf
  split
  · rfl
  · exact (noteQuiet_stand _ _).trans ((handOver_stand _ _).trans (modJob_stand _ _ fun _ => rfl))

theorem release_stand (e : Eng) (h : Word) : (e.release h).stand = e.stand := by
  unfold Eng.release
  split
  · rfl
  · exact (handOver_stand _ _).trans (modJob_stand _ _ fun _ => rfl)

theorem finish_stand (e : Eng) (h : Word) (st : Status) (d : Word) : (e.finish h st d).stand = e.stand := by
  refine (noteQuiet_stand _ _).trans (Eq.trans (modJob_stand _ _ ?_) (release_stand e h))
  exact fun _ => rfl

theorem checkEnd_stand (e : Eng) (h : Word) : (e.checkEnd h).stand = e.stand := by
  unfold Eng.checkEnd
  split
  · rfl
  · next j _ =>
    split
    · rfl
    · extract_lets e₁ e₂
      have h₁ : e₁.stand = e.stand := by
        show (if _ then e.freeWalkerOf h else e).stand = _
        split
        · exact freeWalkerOf_stand _ _
        · rfl
      have h₂ : e₂.stand = e₁.stand := by
        show (if _ then e₁.writeAllApplied h else e₁).stand = _
        split
        · exact writeApplied_stand _ _ _
        · rfl
      split
      · exact (finish_stand _ _ _ _).trans (h₂.trans h₁)
      · exact h₁

/-- A descriptor advances: the contexts stand, and it comes as far as it is asked to. -/
theorem advanceJob_onward {e : Eng} {h : Word} {j : Job} (hj : e.job h = some j) (hp : j.poisoned = false) (m : Memory) :
    (e.advanceJob m h).ctxs = e.ctxs ∧ ∃ j', (e.advanceJob m h).job h = some j' ∧ j.Onward j' := by
  obtain ⟨hc, k, hk, ho⟩ := pumpJob_onward hj hp m
  have hs : (e.advanceJob m h).stand = (e.pumpJob m h).stand := (checkEnd_stand _ _).trans (noteDropped_stand _ _)
  obtain ⟨j', hj', hs'⟩ := job_of_stand hs hk
  exact ⟨(ctxs_of_stand hs).trans hc, j', hj', ho.trans (touches_of_stand hs').onward⟩

/-! ### A descriptor that fails its checks -/

/-- A descriptor that ends holds its status and no walker, and stands where it stood. -/
theorem finish_ends {e : Eng} {h : Word} {j : Job} (hj : e.job h = some j) (st : Status) (d : Word) :
    ∃ j', (e.finish h st d).job h = some j' ∧ j'.stage = .finished ∧ j'.status = st ∧ j'.detail = d ∧ j'.walker = none ∧ j'.stand = j.stand := by
  have hr : ∃ k, (e.release h).job h = some k ∧ k.walker = none := by
    unfold Eng.release
    rw [hj]
    dsimp only
    have h₁ := Eng.job_modJob_self (fun j : Job => { j with walker := none, units := 0, compressor := false, starved := none, yieldAt := none, yieldTo := none, slot := false })
      hj fun _ => rfl
    unfold Eng.handOver
    split
    · next w _ _ =>
      by_cases hw : w = h
      · subst hw
        exact ⟨_, Eng.job_modJob_self _ h₁ fun _ => rfl, rfl⟩
      · refine ⟨_, Eq.trans (Eng.job_modJob_ne _ w h _ (Ne.symm hw) ?_) h₁, rfl⟩
        exact fun _ => rfl
    · exact ⟨_, h₁, rfl⟩
  obtain ⟨k, hk, hw⟩ := hr
  have hq (e : Eng) (r : Region) : (e.noteQuiet r).job h = e.job h := job_inWork (e.noteQuiet_side r).inWork h
  have hf := (hq _ (((e.job h).map (·.lead)).getD 0)).trans (Eng.job_modJob_self (fun j : Job => { j with stage := .finished, status := st, detail := d, ready := some e.now }) hk fun _ => rfl)
  obtain ⟨j', hj', hs⟩ := job_of_stand (finish_stand e h st d) hj
  have he : some j' = _ := hj'.symm.trans hf
  refine ⟨_, hf, rfl, rfl, rfl, hw, ?_⟩
  rw [← Option.some.inj he]
  exact hs

/-! ### The seven commands -/

/-- The commands that let a data descriptor's walker come up to `n` positions further, each with its opcode. -/
def dataCommands (h : Word) (n : Nat) : List (Instr × Nat) :=
  [(.copy h n, opCopy), (.transform h n, opTransform), (.gather h n, opGather), (.scatter h n, opScatter),
    (.scatterAcc h n, opScatterAcc), (.reduce h n, opReduce), (.putInline h n, opPutInline)]

/-- They all are one step. -/
theorem exec_dataCommand {s : State} (hl : s.Live) {h : Word} {n op : Nat} {i : Instr} (hi : (i, op) ∈ dataCommands h n) :
    exec i s = .next { s with eng := s.eng.dataStep s.mem h n op } := by
  have hx : exec i s = onEng s fun m e => e.dataStep m h n op := by
    unfold dataCommands at hi
    simp only [List.mem_cons, List.not_mem_nil, or_false, Prod.mk.injEq] at hi
    rcases hi with ⟨rfl, rfl⟩ | ⟨rfl, rfl⟩ | ⟨rfl, rfl⟩ | ⟨rfl, rfl⟩ | ⟨rfl, rfl⟩ | ⟨rfl, rfl⟩ | ⟨rfl, rfl⟩ <;> rfl
  exact hx.trans (onEng_eq hl rfl)

section Step

variable {e : Eng} {h : Word} {n op : Nat} {j : Job} (hj : e.job h = some j) (ho : j.opcode = op) (hs : j.stage = .running)
  (hw : j.walker.isSome = true) (hserve : e.serves j = true) (hh : e.halted = false)

include hj ho hs hw hserve hh

/-- A descriptor that passes its checks goes on. -/
theorem dataStep_passes (m : Memory) (hc : j.checked = true ∨ e.failedChecks j = none) :
    e.dataStep m h n op = (e.modJob h fun j => { j with checked := true }.emitNext n).advanceJob m h := by
  have hn : (if j.checked then none else e.failedChecks j) = none := by
    rcases hc with hc | hc
    · rw [if_pos hc]
    · rw [hc, ite_self]
  unfold Eng.dataStep
  rw [hj]
  dsimp only
  rw [if_neg (by simp [ho, hs, hserve, hh, Option.isSome_iff_ne_none.mp hw]), hn]

/-- One that fails them ends. -/
theorem dataStep_fails (m : Memory) {st : Status} {d : Word} (hc : j.checked = false) (hf : e.failedChecks j = some (st, d)) :
    e.dataStep m h n op = e.finish h st d := by
  unfold Eng.dataStep
  rw [hj]
  dsimp only
  rw [if_neg (by simp [ho, hs, hserve, hh, Option.isSome_iff_ne_none.mp hw]), hc, hf]
  rfl

end Step

/-- The descriptor that has passed its checks. -/
def Job.passes (j : Job) : Job := { j with checked := true }

theorem passes_total (j : Job) : j.passes.total = j.total := rfl
theorem passes_walkAt (j : Job) (t : Nat) : j.passes.walkAt t = j.walkAt t := rfl

/-- A command's effect on the descriptor that has passed its checks: it comes up to `n` positions further. -/
theorem dataStep_onward {e : Eng} {h : Word} {j : Job} (hj : e.job h = some j) (hp : j.poisoned = false) (m : Memory) (n : Nat) :
    ((e.modJob h fun j => { j with checked := true }.emitNext n).advanceJob m h).ctxs = e.ctxs ∧
    ∃ j', ((e.modJob h fun j => { j with checked := true }.emitNext n).advanceJob m h).job h = some j' ∧ (j.passes.emitNext n).Onward j' := by
  have hk : ∀ k : Job, (k.passes.emitNext n).plan = (k.passes.asks n).plan := fun k => (emitNext_onward k.passes n).walks.plan
  have h₁ := Eng.job_modJob_self (fun k => k.passes.emitNext n) hj fun k => (congrArg Job.handle (hk k) :)
  exact advanceJob_onward h₁ ((poisoned_of_plan (hk j)).trans hp) m

section Reaches

variable {k k' : Job} {n : Nat} (hon : (k.emitNext n).Onward k')

include hon

theorem onward_passed : (k.asks n).Onward k' := (emitNext_onward k n).trans hon

/-- It comes at most `n` positions further, and not past the end. -/
theorem onward_bounds : k.emitted ≤ k'.emitted ∧ k'.emitted ≤ k.emitted + min n (k.total - k.emitted) := by
  have h := onward_passed hon
  have hle : k.emitted ≤ k'.emitted := h.walks.le
  have hb : k'.emitted ≤ max k.emitted (min (min k.total (k.emitted + n)) k.total) := h.bound
  omega

variable (hu : k.Unbridled)

include hu

/-- It comes exactly that far where no tile, gather or scatter is in the way. -/
theorem onward_flat (ht : k.tile = false) (hg : k.gatherEn = false) (hs : k.scatterEn = false) :
    k'.emitted = k.emitted + min n (k.total - k.emitted) := by
  have he := emitNext_flat hu ht hg hs n
  have hle := hon.walks.le
  have hup := (onward_bounds hon).2
  omega

variable (hr : k.tile = false ∨ k.emitted = 0) (hn : 0 < n) (ht : k.emitted < k.total)

include hr hn ht

theorem onward_progress (hi : k.indexOf (k.walkAt k.emitted) = []) : k.emitted < k'.emitted :=
  lt_of_lt_of_le (emitNext_progress hu hr ht hn hi) hon.walks.le

/-- It goes on, or it has asked for the index value that it needs. -/
theorem onward_asks {i : Nat} (hi : k.indexOf (k.walkAt k.emitted) = [i]) (h0 : k.idxEl = []) : k.emitted < k'.emitted ∨ k'.el .idx i ≠ .idle := by
  have hw := (emitNext_onward k n).walks
  rcases emitNext_asks hu hr ht hn hi h0 with hlt | hask
  · exact .inl (lt_of_lt_of_le hlt hon.walks.le)
  · by_cases he : (k.emitNext n).emitted = k.emitted
    · rw [← he]
      refine hon.walks.idx i ?_ hask
      rw [he, walkAt_of_plan hw.plan, indexOf_of_plan hw.plan]
      exact hi
    · have h1 : k.emitted ≤ (k.emitNext n).emitted := hw.le
      have h2 := hon.walks.le
      exact .inl (by omega)

end Reaches

/-- Settles O16: `emitNext` says how far the walker comes, and every pass that follows leaves what it has reached and goes no further than asked. -/
theorem dataCommandsReachTheNextPositions : Obligations.DataCommandsReachTheNextPositions := by
  unfold Obligations.DataCommandsReachTheNextPositions
  refine ⟨fun s h n i op j hi hl hj ho hs hw hserve hh hc hy hf hp => ?_, fun s h n i op j st det hi hl hj ho hs hw hserve hh hc hfail => ?_⟩
  · have hx := exec_dataCommand hl hi
    rw [dataStep_passes hj ho hs hw hserve hh s.mem hc] at hx
    obtain ⟨hctxs, j', hj', hon⟩ := dataStep_onward hj hp s.mem n
    have hu : j.passes.Unbridled := ⟨hf, hp, hy⟩
    have hall := onward_passed hon
    obtain ⟨hle, hup⟩ := onward_bounds hon
    have hflat := onward_flat hon hu
    have hprogress := fun hr hn ht => onward_progress hon hu hr hn ht
    have hasks := fun hr hn ht i => onward_asks (i := i) hon hu hr hn ht
    have hpassed (p : Nat) (h1 : j.emitted ≤ p) (h2 : p < j'.emitted) : j'.el .dst (j.walkAt p) ≠ .idle := by
      rw [← passes_walkAt]
      exact hall.walks.passed p h1 h2
    rw [passes_total] at hup hflat hprogress hasks
    exact ⟨_, j', hx, hj', (congrArg Job.checked hall.walks.plan :), hle, hup, hflat, fun hi hr hn ht => hprogress hr hn ht hi,
      fun i hi h0 hr hn ht => hasks hr hn ht i hi h0, hpassed, hctxs, rfl⟩
  · have hx := exec_dataCommand hl hi
    rw [dataStep_fails hj ho hs hw hserve hh s.mem hc hfail] at hx
    obtain ⟨j', hj', hstage, hst, hd, hwalk, hstand⟩ := finish_ends hj st det
    exact ⟨_, j', hx, hj', hstage, hst, hd, hwalk, (congrArg Job.dstEl hstand :), (congrArg Job.emitted hstand :), rfl⟩

end Sys2Proof.Machine
end

section
/-! What a region's action fences stays fenced, and what has reached FLT stays there (R19, R353, R414). -/

namespace Sys2Proof.Machine

/-! ### FLT, while waits end and descriptors are dispatched again -/

theorem flt_foldl {β : Type} {f : Eng → β → Eng} (hf : ∀ e x, (f e x).flt = e.flt) (l : List β) (e : Eng) : (l.foldl f e).flt = e.flt := by
  induction l generalizing e with
  | nil => rfl
  | cons x l ih => exact (ih _).trans (hf e x)

theorem PowerSide.flt {e e' : Eng} (h : PowerSide e e') : e'.flt = e.flt := by
  rw [h.1]

theorem JrnSide.flt {e e' : Eng} (h : JrnSide e e') : e'.flt = e.flt := by
  rw [h.1]

theorem handOver_flt (e : Eng) (j : Job) : (e.handOver j).flt = e.flt := by
  unfold Eng.handOver
  split <;> rfl

theorem release_flt (e : Eng) (h : Word) : (e.release h).flt = e.flt := by
  unfold Eng.release
  split
  · rfl
  · exact handOver_flt _ _

theorem finish_flt (e : Eng) (h : Word) (st : Status) (d : Word) : (e.finish h st d).flt = e.flt :=
  (Eng.noteQuiet_side _ _).flt.trans (release_flt e h)

theorem writeAllApplied_flt (e : Eng) (h : Word) : (e.writeAllApplied h).flt = e.flt := by
  unfold Eng.writeAllApplied Eng.writeApplied
  split
  · rfl
  · exact flt_foldl (fun e r => (e.jAppend_side _).flt) _ _

theorem waitEnds_flt (e : Eng) (h : Word) (st : Status) (d t : Word) : (e.waitEnds h st d t).flt = e.flt := by
  unfold Eng.waitEnds
  split
  · rfl
  · split
    · rfl
    · split
      · exact finish_flt e h st d
      · exact (Eng.wakeRegion_side _ _).flt

theorem answerWait_flt (e : Eng) (w : Wait) (st : Status) (d t : Word) : (e.answerWait w st d t).flt = e.flt := by
  have hp : (if st = stUnsynced || st = stPodMismatch then e.podRefused else e).flt = e.flt := by split <;> rfl
  unfold Eng.answerWait
  dsimp only
  split
  · exact (waitEnds_flt _ _ _ _ _).trans hp
  · exact hp
  · exact hp

theorem tallyWait_flt (e : Eng) (r : Region) (st : Status) : (e.tallyWait r st).flt = e.flt := by
  unfold Eng.tallyWait
  repeat' split
  all_goals rfl

theorem endWait_flt (e : Eng) (w : Wait) (st : Status) (d t : Word) : (e.endWait w st d t).flt = e.flt :=
  (answerWait_flt _ _ _ _ _).trans (tallyWait_flt _ _ _)

theorem dropWait_flt (e : Eng) (w : Wait) (how : Option (Status × Word)) : (e.dropWait w how).flt = e.flt := by
  cases how with
  | none => rfl
  | some x => exact endWait_flt _ _ _ _ _

theorem endEarly_flt (e : Eng) (t : Word) (w : Wait) (how : Option (Status × Word)) : (e.endEarly t w how).flt = e.flt := by
  unfold Eng.endEarly
  split
  · exact endWait_flt _ _ _ _ _
  · exact dropWait_flt _ _ _

theorem orphanAll_flt (e : Eng) (t : Word) (p : Wait → Bool) : (e.orphanAll t p).flt = e.flt :=
  flt_foldl (fun e w => endEarly_flt e t w _) _ _

theorem giveSets_flt (e : Eng) (h : Word) : (e.giveSets h).flt = e.flt := by
  unfold Eng.giveSets
  extract_lets ns e₁
  have h₁ : e₁.flt = e.flt := by
    refine flt_foldl (f := fun e n => if (e.drover n).sets.contains h then e.setFree n else e) (fun e n => ?_) ns e
    split <;> rfl
  clear_value e₁
  exact h₁

theorem redispatch_flt (e : Eng) (h : Word) : (e.redispatch h).flt = e.flt := by
  unfold Eng.redispatch
  split
  · rfl
  · next j _ =>
    split
    · rfl
    · extract_lets e₁
      have h₁ : e₁.flt = e.flt := giveSets_flt _ _
      split
      · exact (finish_flt _ _ _ _).trans h₁
      · refine (release_flt _ _).trans (Eq.trans ?_ h₁)
        show (if j.cls = .a then e₁.writeAllApplied h else e₁).flt = _
        split
        · exact writeAllApplied_flt _ _
        · rfl

theorem redispatch_steady (e : Eng) (h : Word) : (e.redispatch h).steady = e.steady := by
  unfold Eng.redispatch
  split
  · rfl
  · next j _ =>
    split
    · rfl
    · extract_lets e₁
      have h₁ : e₁.steady = e.steady := giveSets_steady _ _
      split
      · exact (finish_steady _ _ _ _).trans h₁
      · refine (release_steady _ _).trans (Eq.trans ?_ h₁)
        show (if j.cls = .a then e₁.writeAllApplied h else e₁).steady = _
        split
        · exact writeAllApplied_steady _ _
        · rfl

/-! ### What is fenced stays fenced -/

/-- The AO cycle stands, no event is taken back, and nothing that is fenced becomes free. -/
structure Eng.Fences (e e' : Eng) : Prop where
  cycle : e'.aoCycle = e.aoCycle
  events : e.flt.events ⊆ e'.flt.events
  walkers : e.wlk.fenced ⊆ e'.wlk.fenced
  regions : e.syn.lostRegions ⊆ e'.syn.lostRegions
  drovers : ∀ n < 20, (e.drv.getD n {}).fenced = true → (e'.drv.getD n {}).fenced = true

theorem Eng.Fences.refl (e : Eng) : e.Fences e := ⟨rfl, fun _ => id, fun _ => id, fun _ => id, fun _ _ => id⟩

theorem Eng.Fences.trans {e e' e'' : Eng} (h : e.Fences e') (h' : e'.Fences e'') : e.Fences e'' :=
  ⟨h'.cycle.trans h.cycle, fun _ x => h'.events (h.events x), fun _ x => h'.walkers (h.walkers x), fun _ x => h'.regions (h.regions x),
    fun n hn x => h'.drovers n hn (h.drovers n hn x)⟩

theorem fences_foldl {β : Type} {f : Eng → β → Eng} (hf : ∀ (e : Eng) x, e.Fences (f e x)) (l : List β) (e : Eng) : e.Fences (l.foldl f e) := by
  induction l generalizing e with
  | nil => exact .refl e
  | cons x l ih => exact (hf e x).trans (ih _)

/-- What keeps the engine steady and FLT as it is fences nothing and frees nothing. -/
theorem fences_of_steady {e e' : Eng} (h : e'.steady = e.steady) (hf : e'.flt = e.flt) : e.Fences e' where
  cycle := (congrArg Eng.aoCycle h :)
  events := by rw [hf]; exact fun _ => id
  walkers := by
    have hw : e'.wlk.fenced = e.wlk.fenced := congrArg (·.wlk.fenced) h
    rw [hw]
    exact fun _ => id
  regions := by
    have hl : e'.syn.lostRegions = e.syn.lostRegions := congrArg (·.syn.lostRegions) h
    rw [hl]
    exact fun _ => id
  drovers n hn hd := by
    have hm : (e'.steady.drv.getD n {}).fenced = (e.steady.drv.getD n {}).fenced := by rw [h]
    have hg (x : Eng) : (x.steady.drv.getD n {}).fenced = (x.drv.getD n {}).fenced := by
      simp [Eng.steady, List.getD_eq_getElem?_getD, hn]
    rw [hg, hg] at hm
    exact hm.trans hd

theorem redispatch_fences (e : Eng) (h : Word) : e.Fences (e.redispatch h) := fences_of_steady (redispatch_steady e h) (redispatch_flt e h)

theorem fenceDrover_drover (e : Eng) (n : BitVec 5) {k : Nat} (hk : k < 20) :
    (e.fenceDrover n).drv.getD k {} = if k = n.toNat then { e.drv.getD n.toNat {} with fenced := true } else e.drv.getD k {} :=
  setRow_getD _ _ _ _ _ _ hk

theorem fenceDrover_fences (e : Eng) (n : BitVec 5) : e.Fences (e.fenceDrover n) where
  cycle := rfl
  events _ := id
  walkers _ := id
  regions _ := id
  drovers k hk hd := by
    rw [fenceDrover_drover e n hk]
    split
    · rfl
    · exact hd

/-- A region that is fenced is lost, and so is nothing else forgotten. -/
theorem fenceRegion_fences (e : Eng) (r : Region) : e.Fences (e.fenceRegion r) ∧ (e.fenceRegion r).regionFenced r = true := by
  unfold Eng.fenceRegion
  extract_lets e₁ e₂ e₃
  have h₁ : e.Fences e₁ := by
    refine ⟨rfl, fun _ => id, fun _ => id, fun x hx => ?_, fun _ _ => id⟩
    show x ∈ if e.syn.lostRegions.contains r then e.syn.lostRegions else r :: e.syn.lostRegions
    split
    · exact hx
    · exact List.mem_cons_of_mem _ hx
  have hr : r ∈ e₁.syn.lostRegions := by
    show r ∈ if e.syn.lostRegions.contains r then e.syn.lostRegions else r :: e.syn.lostRegions
    split
    · next h => exact List.contains_iff_mem.mp h
    · exact List.mem_cons_self
  have h₂ : e₁.Fences e₂ := fences_of_steady ((steady_foldl (fun e w => dropWait_steady e w _) _ _).trans (orphanAll_steady _ _ _))
    ((flt_foldl (fun e w => dropWait_flt e w _) _ _).trans (orphanAll_flt _ _ _))
  have h₃ : e₂.Fences e₃ := fences_foldl (fun e i => fenceDrover_fences e (BitVec.ofNat 5 (5 * r.toNat + i))) _ e₂
  have h₄ := fences_foldl (fun e (j : Job) => (redispatch_fences e j.handle).trans (e' := e.redispatch j.handle)
    (e'' := (e.redispatch j.handle).modJob j.handle fun k => if k.stage = .waiting then { k with lead := e.homeOf k.ctx } else k)
    (fences_of_steady rfl rfl)) (e₃.jobs.filter fun j => j.lead = r) e₃
  refine ⟨h₁.trans (h₂.trans (h₃.trans h₄)), List.contains_iff_mem.mpr ?_⟩
  exact (h₂.trans (h₃.trans h₄)).regions hr

/-! ### Units (R414) -/

theorem fenceUnit_fences (e : Eng) (sub : BitVec 4) (inst : Nat) : e.Fences (e.fenceUnit sub inst) := by
  unfold Eng.fenceUnit
  split
  · extract_lets w hs wlk e₁
    have h₁ : e.Fences e₁ := by
      refine ⟨rfl, fun _ => id, fun x hx => ?_, fun _ => id, fun _ _ => id⟩
      show x ∈ if e.wlk.fenced.contains w then e.wlk.fenced else w :: e.wlk.fenced
      split
      · exact hx
      · exact List.mem_cons_of_mem _ hx
    exact h₁.trans (fences_foldl redispatch_fences hs e₁)
  · split
    · extract_lets u h lay e₁
      have h₁ : e.Fences e₁ := ⟨rfl, fun _ => id, fun _ => id, fun _ => id, fun _ _ => id⟩
      clear_value h
      split
      · exact h₁.trans (redispatch_fences _ _)
      · exact h₁
    · split
      · extract_lets r hs cdc e₁
        have h₁ : e.Fences e₁ := ⟨rfl, fun _ => id, fun _ => id, fun _ => id, fun _ _ => id⟩
        exact h₁.trans (fences_foldl redispatch_fences hs e₁)
      · split
        · exact fenceDrover_fences _ _
        · split
          · exact (fenceRegion_fences _ _).1
          · split
            · exact (fenceRegion_fences _ _).1
            · exact .refl e

/-- A Drover that is fenced is. -/
theorem fenceUnit_drover (e : Eng) {inst : Nat} (h : inst < 20) : ((e.fenceUnit subDrv inst).drover (BitVec.ofNat 5 inst)).fenced = true := by
  show ((e.fenceDrover (BitVec.ofNat 5 inst)).drv.getD (BitVec.ofNat 5 inst).toNat {}).fenced = true
  rw [fenceDrover_drover e _ (by rw [BitVec.toNat_ofNat]; omega), if_pos rfl]

/-- So is a walker. -/
theorem fenceUnit_walker (e : Eng) {inst : Nat} (h : inst < 24) : BitVec.ofNat 5 inst ∈ (e.fenceUnit subWlk inst).wlk.fenced := by
  unfold Eng.fenceUnit
  rw [if_pos (by simp [h])]
  extract_lets w hs wlk e₁
  refine (fences_foldl redispatch_fences hs e₁).walkers ?_
  show w ∈ if e.wlk.fenced.contains w then e.wlk.fenced else w :: e.wlk.fenced
  split
  · next h => exact List.contains_iff_mem.mp h
  · exact List.mem_cons_self

/-! ### Self-test targets -/

/-- An entry that a change of entries leaves as it is stays, when those like the absent one are left out. -/
theorem mapGet_map_filter_ne {α : Type} [DecidableEq α] {d : α} {f : Nat × α → Nat × α} (hf : ∀ x, (f x).1 = x.1) {m : SMap α} {k : Nat} {v : α}
    (h : mapGet d m k = v) (hv : v ≠ d) (hk : f (k, v) = (k, v)) : mapGet d ((m.map f).filter fun x => x.2 ≠ d) k = v := by
  induction m with
  | nil => exact absurd h.symm hv
  | cons x m ih =>
    obtain ⟨k', w⟩ := x
    by_cases hx : k' = k
    · subst hx
      have hw : w = v := by simpa [mapGet] using h
      subst hw
      simp [hk, hv, mapGet]
    · have h' : mapGet d m k = v := by simpa [mapGet, hx] using h
      have hfx : (f (k', w)).1 ≠ k := by rw [hf]; exact hx
      rw [List.map_cons, List.filter_cons]
      split
      · generalize f (k', w) = y at hfx ⊢
        obtain ⟨a, b⟩ := y
        rw [show mapGet d ((a, b) :: _) k = mapGet d _ k from if_neg hfx]
        exact ih h'
      · exact ih h'

/-- A target that is fenced and on which no segment runs stays so. -/
theorem stopFenced_bistOf {e : Eng} {k : Nat} (hf : (e.bistOf k).fenced = true) (ha : (e.bistOf k).active = false) :
    e.stopFenced.bistOf k = e.bistOf k := by
  refine mapGet_map_filter_ne (fun b => ?_) rfl (fun h => ?_) ?_
  · split <;> rfl
  · rw [h] at hf
    cases hf
  · dsimp only
    rw [if_neg]
    show ¬ ((e.bistOf k).active && _) = true
    rw [ha]
    exact Bool.false_ne_true

theorem stopFenced_fences (e : Eng) : e.Fences e.stopFenced := ⟨rfl, fun _ => id, fun _ => id, fun _ => id, fun _ _ => id⟩

/-- A target is fenced, and no segment goes on there. -/
theorem modBist_fenced (e : Eng) (k : Nat) :
    let e' := e.modBist k fun b => { b with fenced := true, active := false }
    (e'.bistOf k).fenced = true ∧ (e'.bistOf k).active = false := by
  intro e'
  have h : e'.bistOf k = { e.bistOf k with fenced := true, active := false } :=
    mapGet_mapSet_self_ne _ _ _ _ fun h => Bool.true_eq_false_eq_False (congrArg Bist.fenced h)
  rw [h]
  exact ⟨rfl, rfl⟩

/-! ### A region's action -/

theorem svcExpiry_fences (e : Eng) : e.Fences e.svcExpiry := by
  obtain ⟨ev, hev, -⟩ := svcExpiry_cases e
  have hs : e.svcExpiry.aoCycle = e.aoCycle ∧ e.svcExpiry.wlk = e.wlk ∧ e.svcExpiry.syn = e.syn ∧ e.svcExpiry.drv = e.drv := by
    by_cases h : e.expiresAgain
    · rw [svcExpiry_again h]
      exact ⟨rfl, rfl, rfl, rfl⟩
    · rw [svcExpiry_restart h]
      exact ⟨rfl, rfl, rfl, rfl⟩
  obtain ⟨hc, hw, hy, hd⟩ := hs
  refine ⟨hc, ?_, ?_, ?_, fun n _ h => ?_⟩
  · rw [hev]
    exact List.subset_append_left _ _
  · rw [hw]
    exact fun _ => id
  · rw [hy]
    exact fun _ => id
  · rw [hd]
    exact h

theorem regionActs_fences (e : Eng) (v : FEvent) : e.Fences (e.regionActs v) := by
  unfold Eng.regionActs
  extract_lets sub inst code e₁ e₂
  refine Eng.Fences.trans (e' := e₂) ?_ (stopFenced_fences e₂)
  unfold e₂
  split
  · have h₁ : e.Fences e₁ := fenceUnit_fences _ _ _
    split
    · exact h₁.trans ⟨rfl, fun _ => id, fun _ => id, fun _ => id, fun _ _ => id⟩
    · exact h₁
  · split
    · exact fenceUnit_fences _ _ _
    · split
      · exact (fenceRegion_fences _ _).1
      · split
        · split
          · exact .refl e
          · exact svcExpiry_fences e
        · split
          · exact fenceDrover_fences _ _
          · exact .refl e

/-- A unit reported BIST_UNREPAIRABLE: what its unit's fence leaves stands, and its target is fenced. -/
theorem regionActs_unrepairable (e : Eng) {v : FEvent} (h : srcCode v.source = 7) :
    (e.fenceUnit (srcSub v.source) (srcInst v.source).toNat).Fences (e.regionActs v) ∧
    ∀ k, targetKey (srcSub v.source) (srcInst v.source).toNat = some k →
      ((e.regionActs v).bistOf k).fenced = true ∧ ((e.regionActs v).bistOf k).active = false := by
  have hx : e.regionActs v = (match targetKey (srcSub v.source) (srcInst v.source).toNat with
      | some k => (e.fenceUnit (srcSub v.source) (srcInst v.source).toNat).modBist k fun b => { b with fenced := true, active := false }
      | none => e.fenceUnit (srcSub v.source) (srcInst v.source).toNat).stopFenced := congrArg Eng.stopFenced (if_pos h)
  rw [hx]
  generalize e.fenceUnit (srcSub v.source) (srcInst v.source).toNat = a
  cases targetKey (srcSub v.source) (srcInst v.source).toNat with
  | none => exact ⟨stopFenced_fences a, nofun⟩
  | some k =>
    refine ⟨Eng.Fences.trans (e' := a.modBist k _) ⟨rfl, fun _ => id, fun _ => id, fun _ => id, fun _ _ => id⟩ (stopFenced_fences _), fun q hq => ?_⟩
    cases hq
    obtain ⟨hf, ha⟩ := modBist_fenced a k
    dsimp only
    rw [stopFenced_bistOf hf ha]
    exact ⟨hf, ha⟩

/-- The Drover of a lost stack. -/
theorem regionActs_lost (e : Eng) {v : FEvent} (h : srcCode v.source = 0x12) (hs : srcSub v.source = subDrv) :
    e.regionActs v = (e.fenceDrover (BitVec.ofNat 5 (srcInst v.source).toNat)).stopFenced := by
  unfold Eng.regionActs
  rw [h, hs]
  rfl

/-- A region that WLK names. -/
theorem regionActs_named (e : Eng) {v : FEvent} (h : srcCode v.source = 4) (hs : srcSub v.source = subWlk) :
    e.regionActs v = (e.fenceRegion (v.detail.extractLsb' 8 2)).stopFenced := by
  unfold Eng.regionActs
  rw [h, hs]
  rfl

end Sys2Proof.Machine
end

section
/-! Events reach FLT, and are entered in its history; what is reported from outside raises its own (R19, R20, R353, R358, R359, R362, R364 to R366,
R372, R414). -/

namespace Sys2Proof.Machine

/-! ### Time moves forward to an AO cycle -/

theorem advanceCycles_untimed (e : Eng) (c : Nat) : (e.advanceCycles c).untimed = e.untimed := by
  unfold Eng.advanceCycles
  split
  · exact elapse_untimed _ _
  · rfl

theorem advanceCycles_cycle (e : Eng) (c : Nat) : (e.advanceCycles c).aoCycle = max e.aoCycle c := by
  unfold Eng.advanceCycles
  split
  · show e.aoCycle + (c - e.aoCycle) = _
    omega
  · omega

theorem sameJobs_of_untimed {e e' : Eng} (h : e'.untimed = e.untimed) : e.sameJobs e' := (congrArg Eng.jobs h :)

theorem sameCtxs_of_untimed {e e' : Eng} (h : e'.untimed = e.untimed) : e.sameCtxs e' := ctx_of_untimed h

/-- What FLT holds, and AUTO, but for what passing time changes. -/
theorem flt_of_untimed {e e' : Eng} (h : e'.untimed = e.untimed) : e'.flt.events = e.flt.events ∧ e'.flt.severity = e.flt.severity ∧
    e'.flt.fatal = e.flt.fatal ∧ e'.flt.hist = e.flt.hist ∧ e'.flt.lost = e.flt.lost ∧ e'.svc.reset.auto = e.svc.reset.auto :=
  ⟨congrArg (·.flt.events) h, congrArg (·.flt.severity) h, congrArg (·.flt.fatal) h, congrArg (·.flt.hist) h, congrArg (·.flt.lost) h,
    congrArg (·.svc.reset.auto) h⟩

/-! ### An event reaches FLT -/

/-- The event as it stands once it has reached FLT. -/
def Eng.arrived (e : Eng) (v : FEvent) : FEvent := { v with reached := true, sev := e.severityOf v }

/-- The engine once an event has reached FLT, before anything acts on it. -/
def Eng.receives (e : Eng) (v : FEvent) : Eng :=
  (e.advanceCycles (v.cycle + faultDelay v.source)).modFlt fun t =>
    { t with events := e.flt.events.erase v ++ if (e.arrived v).sev = .ignore then [] else [e.arrived v] }

theorem severityOf_congr {e e' : Eng} (hs : e'.flt.severity = e.flt.severity) (v : FEvent) : e'.severityOf v = e.severityOf v := by
  unfold Eng.severityOf
  rw [hs]

theorem overruled_congr {e e' : Eng} (he : e'.flt.events = e.flt.events) (hs : e'.flt.severity = e.flt.severity) (v : FEvent) :
    e'.overruled v = e.overruled v := by
  unfold Eng.overruled Eng.severityNow Eng.severityOf
  rw [he, hs]

theorem deliver_eq (e : Eng) (m : Memory) (v : FEvent) : (e.deliver m v).2 = (e.receives v).eventActs m (e.arrived v) := by
  obtain ⟨hev, hsev, -⟩ := flt_of_untimed (advanceCycles_untimed e (v.cycle + faultDelay v.source))
  unfold Eng.deliver Eng.reached Eng.receives Eng.arrived
  dsimp only
  rw [severityOf_congr hsev, hev]

section Receives

variable (e : Eng) (v : FEvent)

theorem receives_cycle : (e.receives v).aoCycle = max e.aoCycle (v.cycle + faultDelay v.source) := advanceCycles_cycle _ _

theorem receives_same : e.sameJobs (e.receives v) ∧ e.sameCtxs (e.receives v) :=
  have h := advanceCycles_untimed e (v.cycle + faultDelay v.source)
  ⟨(sameJobs_of_untimed h :), (sameCtxs_of_untimed h :)⟩

theorem receives_flt : (e.receives v).flt.severity = e.flt.severity ∧ (e.receives v).flt.fatal = e.flt.fatal ∧
    (e.receives v).svc.reset.auto = e.svc.reset.auto := by
  obtain ⟨-, hs, hf, -, -, ha⟩ := flt_of_untimed (advanceCycles_untimed e (v.cycle + faultDelay v.source))
  exact ⟨hs, hf, ha⟩

theorem receives_events (h : (e.arrived v).sev ≠ .ignore) : (e.receives v).flt.events = e.flt.events.erase v ++ [e.arrived v] := by
  show _ ++ (if (e.arrived v).sev = .ignore then [] else [e.arrived v]) = _
  rw [if_neg h]

theorem receives_ignored (h : (e.arrived v).sev = .ignore) : (e.receives v).flt.events = e.flt.events.erase v := by
  show _ ++ (if (e.arrived v).sev = .ignore then [] else [e.arrived v]) = _
  rw [if_pos h, List.append_nil]

end Receives

/-! ### What severity makes of it -/

/-- What the tallies of an event change: nothing else. -/
theorem countEvent_side (e : Eng) (v : FEvent) : PowerSide e (e.countEvent v) := by
  unfold Eng.countEvent
  extract_lets s c e₁
  have h₁ : PowerSide e e₁ := by
    show PowerSide e (if v.cls = .corrected then e.count subFlt s 1 else e)
    split
    · exact e.count_side _ _ _
    · exact .refl e
  split
  · exact h₁.trans (e₁.count_side _ _ _)
  · exact h₁

theorem eventActs_quiet (e : Eng) (m : Memory) {v : FEvent} (h : v.sev = .log ∨ v.sev = .ignore) : e.eventActs m v = e.countEvent v := by
  unfold Eng.eventActs
  rcases h with h | h <;> rw [h] <;> rfl

/-- The pin follows at CONTAINED where it is enabled; the region acts unless another event takes the place of that. -/
theorem eventActs_contained (e : Eng) (m : Memory) {v : FEvent} (h : v.sev = .contained) : ∃ a, e.Fences a ∧
    a.flt.events = e.flt.events ∧ a.flt.severity = e.flt.severity ∧ e.eventActs m v = if a.overruled v then a else a.regionActs v := by
  have hc := (countEvent_side e v).frame
  obtain ⟨-, -, hcyc, -, -, -, -, -, -, hwlk, -, -, -, -, hdrv, -, -, -, hsyn, hrest⟩ := hc
  have hflt := (countEvent_side e v).flt
  have hf : e.Fences (e.countEvent v) := ⟨hcyc, by rw [hflt]; exact fun _ => id, by rw [hwlk]; exact fun _ => id, by rw [hsyn]; exact fun _ => id,
    fun n _ hd => by rw [hdrv]; exact hd⟩
  have hx : e.eventActs m v = (fun a : Eng => if !a.overruled v then a.regionActs v else a)
      (if (e.countEvent v).flt.alert.contEn then (e.countEvent v).alertCause else e.countEvent v) := by
    unfold Eng.eventActs
    simp [h]
  have hflip (a : Eng) : (if !a.overruled v then a.regionActs v else a) = if a.overruled v then a else a.regionActs v := by
    cases a.overruled v <;> rfl
  refine ⟨if (e.countEvent v).flt.alert.contEn then (e.countEvent v).alertCause else e.countEvent v, ?_, ?_, ?_, hx.trans (hflip _)⟩
  · split
    · exact hf.trans ⟨rfl, fun _ => id, fun _ => id, fun _ => id, fun _ _ => id⟩
    · exact hf
  · split
    · exact (congrArg Flt.events hflt :)
    · exact (congrArg Flt.events hflt :)
  · split
    · exact (congrArg Flt.severity hflt :)
    · exact (congrArg Flt.severity hflt :)

theorem alertCause_pending (e : Eng) : e.alertCause.flt.alert.pending = true := by
  unfold Eng.alertCause Eng.modAlert Eng.modFlt
  dsimp only
  split
  · rfl
  · split <;> rfl

/-- The Fatal state is entered, and the alert is pending; without AUTO no reset begins. -/
theorem eventActs_fatal {e : Eng} (m : Memory) {v : FEvent} (h : v.sev = .fatal) (hf : e.flt.fatal = false) (ha : e.svc.reset.auto = false) :
    e.eventActs m v = (e.countEvent v).alertCause.modFlt fun t => { t with fatal := true, firstSource := v.source } := by
  have hs := countEvent_side e v
  have hf' : (e.countEvent v).alertCause.flt.fatal = false := (congrArg Flt.fatal hs.flt :).trans hf
  have ha' : (e.countEvent v).svc.reset.auto = false := by
    rw [hs.1]
    exact ha
  have hx : e.eventActs m v = (e.countEvent v).alertCause.enterFatal m v.source := by
    unfold Eng.eventActs
    simp [h]
  rw [hx]
  unfold Eng.enterFatal
  rw [hf', if_neg Bool.false_ne_true]
  refine if_neg fun hc => ?_
  rw [Bool.and_eq_true] at hc
  exact Bool.false_ne_true (ha'.symm.trans hc.1)

theorem noteWork_fences (e : Eng) : e.Fences e.noteWork := fences_of_steady (noteWork_steady e) (Eng.noteWork_side e).flt

/-! ### FAULT_EVENT -/

section Raised

variable {s : State} (hl : s.Live) {n : Nat} {v : FEvent} (hv : (s.eng.flt.events.filter fun x => !x.reached)[n]? = some v)

include hl hv

theorem exec_faultEvent : exec (.faultEvent (.raised n)) s =
    .next { s with eng := ((s.eng.receives v).eventActs s.mem (s.eng.arrived v)).noteWork } := by
  unfold exec execFaultEvent
  refine (onMem_live hl _).trans ?_
  dsimp only
  rw [hv]
  dsimp only
  rw [deliver_eq]
  rfl

/-- An event at LOG or IGNORE is tallied; no descriptor, context or memory changes. -/
theorem faultEvent_quiet (h : (s.eng.arrived v).sev = .log ∨ (s.eng.arrived v).sev = .ignore) : ∃ t, exec (.faultEvent (.raised n)) s = .next t ∧
    t.eng.flt.events = (s.eng.receives v).flt.events ∧ s.eng.sameCtxs t.eng ∧
    t.eng.aoCycle = max s.eng.aoCycle (v.cycle + faultDelay v.source) ∧ s.eng.sameJobs t.eng ∧ t.mem = s.mem := by
  have hx := exec_faultEvent hl hv
  rw [eventActs_quiet _ _ h] at hx
  have hs : PowerSide (s.eng.receives v) ((s.eng.receives v).countEvent (s.eng.arrived v)).noteWork :=
    (countEvent_side _ _).trans (Eng.noteWork_side _)
  have hc := receives_cycle s.eng v
  obtain ⟨hj, hctx⟩ := receives_same s.eng v
  generalize s.eng.receives v = a at *
  generalize (a.countEvent (s.eng.arrived v)).noteWork = b at *
  obtain ⟨-, hctxs, hjobs⟩ := inWork_parts hs.inWork
  refine ⟨_, hx, (congrArg Flt.events hs.flt :), fun c => ?_, ?_, ?_, rfl⟩
  · have hcc : b.ctx c = a.ctx c := by
      unfold Eng.ctx
      rw [hctxs]
    dsimp only
    rw [hcc]
    exact hctx c
  · exact ((congrArg Eng.aoCycle hs.1).trans rfl).trans hc
  · show b.jobs.map _ = _
    rw [hjobs]
    exact hj

/-- At FATAL the Fatal state is entered with this source first, and the alert is pending. -/
theorem faultEvent_fatal (h : (s.eng.arrived v).sev = .fatal) (hf : s.eng.flt.fatal = false) (ha : s.eng.svc.reset.auto = false) :
    ∃ t, exec (.faultEvent (.raised n)) s = .next t ∧ t.eng.flt.events = s.eng.flt.events.erase v ++ [s.eng.arrived v] ∧ t.eng.flt.fatal = true ∧
      t.eng.flt.firstSource = v.source ∧ t.eng.flt.alert.pending = true ∧
      t.eng.aoCycle = max s.eng.aoCycle (v.cycle + faultDelay v.source) ∧ s.eng.sameJobs t.eng ∧ t.mem = s.mem := by
  have hx := exec_faultEvent hl hv
  obtain ⟨-, hfat, hauto⟩ := receives_flt s.eng v
  rw [eventActs_fatal s.mem h (hfat.trans hf) (hauto.trans ha)] at hx
  have hev := receives_events s.eng v (by rw [h]; decide)
  have hc := receives_cycle s.eng v
  have hj := (receives_same s.eng v).1
  generalize s.eng.receives v = a at *
  have hcount := countEvent_side a (s.eng.arrived v)
  generalize a.countEvent (s.eng.arrived v) = b at *
  have hw := Eng.noteWork_side (b.alertCause.modFlt fun t => { t with fatal := true, firstSource := (s.eng.arrived v).source })
  generalize (b.alertCause.modFlt fun t => { t with fatal := true, firstSource := (s.eng.arrived v).source }).noteWork = d at *
  have hd := hw.flt
  have hjobs : d.jobs = a.jobs := (inWork_parts hw.inWork).2.2.trans (inWork_parts hcount.inWork).2.2
  have hcyc : d.aoCycle = a.aoCycle := ((congrArg Eng.aoCycle hw.1).trans rfl).trans ((congrArg Eng.aoCycle hcount.1).trans rfl)
  refine ⟨_, hx, ?_, ?_, ?_, ?_, hcyc.trans hc, ?_, rfl⟩
  · exact (congrArg Flt.events hd :).trans ((congrArg Flt.events hcount.flt :).trans hev)
  · exact (congrArg Flt.fatal hd :)
  · exact (congrArg Flt.firstSource hd :)
  · refine (congrArg (fun t : Flt => t.alert.pending) hd :).trans ?_
    exact alertCause_pending b
  · show d.jobs.map _ = _
    rw [hjobs]
    exact hj

/-- At CONTAINED its region acts, unless another event of the cycle takes the place of that. -/
theorem faultEvent_contained (h : (s.eng.arrived v).sev = .contained) : ∃ (t : State) (a : Eng), exec (.faultEvent (.raised n)) s = .next t ∧ t.mem = s.mem ∧
    a.flt.events = s.eng.flt.events.erase v ++ [s.eng.arrived v] ∧ a.aoCycle = max s.eng.aoCycle (v.cycle + faultDelay v.source) ∧
    a.Fences t.eng ∧
    (({ s.eng with flt := { s.eng.flt with events := s.eng.flt.events.erase v ++ [s.eng.arrived v] } } : Eng).overruled (s.eng.arrived v) = false →
      t.eng = (a.regionActs (s.eng.arrived v)).noteWork) := by
  have hx := exec_faultEvent hl hv
  obtain ⟨a, ha, hev, hsev, he⟩ := eventActs_contained (s.eng.receives v) s.mem h
  have hevents := hev.trans (receives_events s.eng v (by rw [h]; decide))
  have hover := overruled_congr (e := { s.eng with flt := { s.eng.flt with events := s.eng.flt.events.erase v ++ [s.eng.arrived v] } }) hevents
    (hsev.trans (receives_flt s.eng v).1) (s.eng.arrived v)
  rw [he] at hx
  have hacts : a.Fences (if a.overruled (s.eng.arrived v) then a else a.regionActs (s.eng.arrived v)) := by
    split
    · exact .refl a
    · exact regionActs_fences _ _
  have hfences := hacts.trans (noteWork_fences _)
  refine ⟨_, a, hx, rfl, hevents, ha.cycle.trans (receives_cycle _ _), hfences, fun ho => ?_⟩
  dsimp only
  rw [hover, ho, if_neg Bool.false_ne_true]

end Raised

/-- What the region's action fences, by the code of the event. -/
theorem regionActs_noteWork_fenced (a : Eng) (v : FEvent) :
    let t := (a.regionActs v).noteWork
    let sub := srcSub v.source
    let inst := (srcInst v.source).toNat
    let code := srcCode v.source
    (code = 7 → ∀ k, targetKey sub inst = some k → (t.bistOf k).fenced = true ∧ (t.bistOf k).active = false) ∧
    (code = 7 ∨ code = 0x12 → sub = subDrv → inst < 20 → (t.drover (BitVec.ofNat 5 inst)).fenced = true) ∧
    (code = 7 → sub = subWlk → inst < 24 → BitVec.ofNat 5 inst ∈ t.wlk.fenced) ∧
    (code = 4 → sub = subWlk → t.regionFenced (v.detail.extractLsb' 8 2) = true) := by
  intro t sub inst code
  have ht : (a.regionActs v).Fences t := noteWork_fences _
  have hunit (h : code = 7) : (a.fenceUnit sub inst).Fences t := (regionActs_unrepairable a h).1.trans ht
  have hlt (h : inst < 20) : (BitVec.ofNat 5 inst).toNat < 20 := by
    rw [BitVec.toNat_ofNat]
    omega
  refine ⟨fun h k hk => ?_, fun h hs hi => ?_, fun h hs hi => ?_, fun h hs => ?_⟩
  · rw [bistOf_of_steady (noteWork_steady _)]
    exact (regionActs_unrepairable a h).2 k hk
  · rcases h with h | h
    · exact (hunit h).drovers _ (hlt hi) (hs ▸ fenceUnit_drover a hi)
    · rw [regionActs_lost a h hs] at ht
      refine ((stopFenced_fences _).trans ht).drovers _ (hlt hi) ?_
      rw [fenceDrover_drover _ _ (hlt hi), if_pos rfl]
  · exact (hunit h).walkers (hs ▸ fenceUnit_walker a hi)
  · rw [regionActs_named a h hs] at ht
    exact List.contains_iff_mem.mpr (((stopFenced_fences _).trans ht).regions (List.contains_iff_mem.mp (fenceRegion_fences _ _).2))

end Sys2Proof.Machine
end

section
/-! HISTORY_ENTRY, and losses reported from outside (R362, R364 to R366, R414); what FAULT_EVENT and they come to. -/

namespace Sys2Proof.Machine

/-! ### The history (R365, R366) -/

theorem histLimit_eq (c : FClass) : histLimit c = if c = .fatal then 64 else if c = .contained then 60 else 48 := by
  cases c <;> rfl

/-- An event that does not merge is entered below its class's limit. -/
theorem record_enters {t : Flt} {v : FEvent} (hm : ¬ ∃ x, t.hist.getLast? = some x ∧ merges v x = true) (hl : t.hist.length < histLimit v.cls) :
    t.record v = { t with hist := t.hist ++ [Flt.record.entry v] } := by
  unfold Flt.record
  split
  · next x hx =>
    rw [if_neg fun h => hm ⟨x, hx, h⟩, if_pos hl]
  · next hx => rw [List.getLast?_eq_none_iff.mp hx, List.nil_append]

/-- At the limit it is lost. -/
theorem record_loses {t : Flt} {v : FEvent} (hm : ¬ ∃ x, t.hist.getLast? = some x ∧ merges v x = true) (hl : histLimit v.cls ≤ t.hist.length) :
    t.record v = { t with lost := min (t.lost + 1) (2 ^ 32 - 1) } := by
  unfold Flt.record
  split
  · next x hx =>
    rw [if_neg fun h => hm ⟨x, hx, h⟩, if_neg (Nat.not_lt.mpr hl)]
  · next hx =>
    rw [List.getLast?_eq_none_iff.mp hx, histLimit_eq] at hl
    exfalso
    revert hl
    cases v.cls <;> simp

/-- One that merges is counted in the newest entry. -/
theorem record_merges {t : Flt} {v : FEvent} {x : HistEntry} (hx : t.hist.getLast? = some x) (hm : merges v x = true) :
    t.record v = { t with hist := t.hist.dropLast ++ [{ x with count := min (x.count + 1) 65535 }] } := by
  unfold Flt.record
  rw [hx]
  exact if_pos hm

/-- The next event is entered 16 AO cycles after its stamp, when no other is due. -/
theorem exec_historyEntry {s : State} (hl : s.Live) {v : FEvent} (hv : firstEvent s.eng.flt.events = some v) (hr : v.reached = true)
    (hi : v.sev ≠ .ignore) (hd : ∀ x ∈ s.eng.flt.events, x.reached = true ∨ v.cycle + 16 < x.cycle + faultDelay x.source) :
    exec .historyEntry s = .next { s with eng := (s.eng.advanceCycles (v.cycle + 16)).modFlt fun t =>
      { (t.record v) with events := t.events.erase v } } := by
  have hnone : s.eng.deliverDue s.mem (v.cycle + 16) = s.eng := by
    have hf : (s.eng.flt.events.filter fun v' => !v'.reached && decide (v'.cycle + faultDelay v'.source ≤ v.cycle + 16)) = [] := by
      refine List.filter_eq_nil_iff.mpr fun x hx => ?_
      rcases hd x hx with h | h
      · simp [h]
      · simp [h]
    unfold Eng.deliverDue
    dsimp only
    rw [hf, List.mergeSort_nil]
    rfl
  have hself : ({ v with reached := true, sev := s.eng.severityNow v } : FEvent) = v := by
    unfold Eng.severityNow
    rw [if_pos hr, ← hr]
  unfold exec execHistoryEntry
  refine onEng_eq hl ?_
  rw [hv]
  show (fun w : FEvent => if w.sev = .ignore then (s.eng.deliverDue s.mem (v.cycle + 16)).advanceCycles (v.cycle + 16)
    else ((s.eng.deliverDue s.mem (v.cycle + 16)).advanceCycles (v.cycle + 16)).modFlt fun t => { (t.record w) with events := t.events.erase w })
      { v with reached := true, sev := (s.eng.deliverDue s.mem (v.cycle + 16)).severityNow v } = _
  rw [hnone, hself]
  exact if_neg hi

section History

variable {s : State} (hl : s.Live) {v : FEvent} (hv : firstEvent s.eng.flt.events = some v) (hr : v.reached = true)
  (hi : v.sev ≠ .ignore) (hd : ∀ x ∈ s.eng.flt.events, x.reached = true ∨ v.cycle + 16 < x.cycle + faultDelay x.source)

include hl hv hr hi hd

/-- The event is entered, lost or merged. -/
theorem historyEntry_records : ∃ (t : State) (a : Flt), exec .historyEntry s = .next t ∧ a.hist = s.eng.flt.hist ∧ a.lost = s.eng.flt.lost ∧
    t.eng.flt.hist = (a.record v).hist ∧ t.eng.flt.lost = (a.record v).lost ∧ t.eng.flt.events = s.eng.flt.events.erase v ∧
    t.eng.aoCycle = max s.eng.aoCycle (v.cycle + 16) ∧ s.eng.sameJobs t.eng ∧ t.mem = s.mem := by
  have hx := exec_historyEntry hl hv hr hi hd
  have hu := advanceCycles_untimed s.eng (v.cycle + 16)
  obtain ⟨hev, -, -, hh, hlost, -⟩ := flt_of_untimed hu
  exact ⟨_, _, hx, hh, hlost, rfl, rfl, congrArg (·.erase v) hev, advanceCycles_cycle _ _, (sameJobs_of_untimed hu :), rfl⟩

end History

/-! ### Sources -/

theorem srcSub_sourceOf (sub : BitVec 4) (inst code : BitVec 6) : srcSub (sourceOf sub inst code) = sub := by
  have h (i : Nat) (hi : i < 4) : (sub ++ inst ++ code : BitVec (4 + 6 + 6)).getLsbD (12 + i) = sub[i] := by
    rw [BitVec.getLsbD_append, if_neg (by omega), BitVec.getLsbD_append, if_neg (by omega), show 12 + i - 6 - 6 = i by omega,
      BitVec.getLsbD_eq_getElem hi]
  ext i hi
  unfold srcSub
  rw [BitVec.getElem_extractLsb']
  exact h i hi

theorem srcInst_sourceOf (sub : BitVec 4) (inst code : BitVec 6) : srcInst (sourceOf sub inst code) = inst := by
  have h (i : Nat) (hi : i < 6) : (sub ++ inst ++ code : BitVec (4 + 6 + 6)).getLsbD (6 + i) = inst[i] := by
    rw [BitVec.getLsbD_append, if_neg (by omega), BitVec.getLsbD_append, if_pos (by omega), show 6 + i - 6 = i by omega,
      BitVec.getLsbD_eq_getElem hi]
  ext i hi
  unfold srcInst
  rw [BitVec.getElem_extractLsb']
  exact h i hi

/-! ### STACK_LOST -/

/-- A fault on a unit changes its self-test target alone. -/
theorem stopTest_eq (e : Eng) (sub : BitVec 4) (inst : Nat) : ∃ b, e.stopTest sub inst = { e with svc := { e.svc with bist := b } } := by
  unfold Eng.stopTest
  split
  · split
    · exact ⟨_, rfl⟩
    · exact ⟨e.svc.bist, rfl⟩
  · exact ⟨e.svc.bist, rfl⟩

/-- The event of a lost stack. -/
def Eng.lossOf (e : Eng) (n : BitVec 5) : FEvent := e.newEvent subDrv (n.setWidth 6) 0x12 none 0

/-- An event that has just been raised overrules itself no more than before. -/
theorem overruled_raised {e e' : Eng} {v : FEvent} (he : e'.flt.events = e.flt.events ++ [v]) (hs : e'.flt.severity = e.flt.severity) :
    e'.overruled v = e.overruled v := by
  unfold Eng.overruled Eng.severityNow Eng.severityOf
  rw [he, hs, List.any_append]
  simp

/-- The engine once the event of a lost stack is raised, with the self-test targets as they then are. -/
def Eng.losing (e : Eng) (n : BitVec 5) (bist : SMap Bist) : Eng :=
  { e with svc := { e.svc with bist := bist }, flt := { e.flt with events := e.flt.events ++ [e.lossOf n] } }

/-- The engine once the stack's Drover is fenced, where that is due. -/
def Eng.withLoss (e : Eng) (n : BitVec 5) (bist : SMap Bist) : Eng :=
  if e.severityOf (e.lossOf n) = .contained ∧ e.overruled (e.lossOf n) = false then ((e.losing n bist).fenceDrover n).stopFenced else e.losing n bist

theorem exec_stackLost {s : State} (hl : s.Live) (n : BitVec 5) :
    ∃ bist, exec (.stackLost n) s = .next { s with eng := (s.eng.withLoss n bist).noteWork } := by
  obtain ⟨b, hb⟩ := stopTest_eq (s.eng.raise subDrv (n.setWidth 6) 0x12 none 0) subDrv n.toNat
  refine ⟨b, ?_⟩
  have ha : (s.eng.raise subDrv (n.setWidth 6) 0x12 none 0).stopTest subDrv n.toNat = s.eng.losing n b := hb
  have hc : srcCode (s.eng.lossOf n).source = 0x12 := srcCode_sourceOf _ _ _
  have hs : srcSub (s.eng.lossOf n).source = subDrv := srcSub_sourceOf _ _ _
  have hi : BitVec.ofNat 5 (srcInst (s.eng.lossOf n).source).toNat = n := by
    rw [show srcInst (s.eng.lossOf n).source = n.setWidth 6 from srcInst_sourceOf _ _ _, BitVec.toNat_setWidth, Nat.mod_eq_of_lt (by have := n.isLt; omega),
      BitVec.ofNat_toNat, BitVec.setWidth_eq]
  have hact := regionActs_lost (s.eng.losing n b) hc hs
  rw [hi] at hact
  have ho : (s.eng.losing n b).overruled (s.eng.lossOf n) = s.eng.overruled (s.eng.lossOf n) := overruled_raised rfl rfl
  have hv : (s.eng.losing n b).severityOf (s.eng.lossOf n) = s.eng.severityOf (s.eng.lossOf n) := severityOf_congr rfl _
  unfold exec execStackLost
  refine onEng_eq hl ?_
  dsimp only
  rw [ha]
  show (if (s.eng.losing n b).severityOf (s.eng.lossOf n) = .contained && !(s.eng.losing n b).overruled (s.eng.lossOf n) then
    (s.eng.losing n b).regionActs (s.eng.lossOf n) else s.eng.losing n b).noteWork = _
  rw [ho, hv, hact]
  unfold Eng.withLoss
  congr 1
  simp

/-- In SERVICE its severity is CONTAINED. -/
theorem lossOf_contained {e : Eng} (h : e.flt.mode = 1) (n : BitVec 5) : e.severityOf (e.lossOf n) = .contained :=
  if_pos h

/-- STACK_LOST raises its event, and fences its Drover and no other. -/
theorem stackLost_fences {s : State} (hl : s.Live) {n : BitVec 5} (hn : n.toNat < 20) : ∃ t, exec (.stackLost n) s = .next t ∧
    t.eng.flt.events = s.eng.flt.events ++ [s.eng.lossOf n] ∧
    (s.eng.flt.mode = 1 → s.eng.overruled (s.eng.lossOf n) = false → (t.eng.drover n).fenced = true) ∧
    (∀ k : BitVec 5, k.toNat < 20 → k ≠ n → t.eng.drover k = s.eng.drover k) ∧ t.eng.jobs = s.eng.jobs ∧ t.mem = s.mem := by
  obtain ⟨b, hx⟩ := exec_stackLost hl n
  generalize hc : s.eng.withLoss n b = c at hx
  have hev : c.flt.events = s.eng.flt.events ++ [s.eng.lossOf n] := by
    rw [← hc]
    unfold Eng.withLoss
    split <;> rfl
  have hjobs : c.jobs = s.eng.jobs := by
    rw [← hc]
    unfold Eng.withLoss
    split <;> rfl
  have hother (k : BitVec 5) (hk : k.toNat < 20) (hkn : k ≠ n) : c.drv.getD k.toNat {} = s.eng.drv.getD k.toNat {} := by
    rw [← hc]
    unfold Eng.withLoss
    split
    · exact (fenceDrover_drover _ n hk).trans (if_neg fun h => hkn (BitVec.eq_of_toNat_eq h))
    · rfl
  have hown (hm : s.eng.flt.mode = 1) (ho : s.eng.overruled (s.eng.lossOf n) = false) : (c.drv.getD n.toNat {}).fenced = true := by
    rw [← hc]
    unfold Eng.withLoss
    rw [if_pos ⟨lossOf_contained hm n, ho⟩]
    refine (congrArg Drover.fenced (fenceDrover_drover _ n hn)).trans ?_
    rw [if_pos rfl]
  have hw := Eng.noteWork_side c
  have hdrv : c.noteWork.drv = c.drv := (congrArg Eng.drv hw.1 :)
  rw [← hdrv] at hother hown
  exact ⟨_, hx, (congrArg Flt.events hw.flt :).trans hev, hown, hother, (inWork_parts hw.inWork).2.2.trans hjobs, rfl⟩

/-! ### NETWORK_PORT_LOST -/

theorem exec_networkPortLost {s : State} (hl : s.Live) (p : BitVec 5) : exec (.networkPortLost p) s =
    .next { s with eng := { s.eng with flt := { s.eng.flt with
      events := s.eng.flt.events ++ [s.eng.newEvent subNpi 0 0x10 none (p.setWidth 64)] } } } := by
  unfold exec execNetworkPortLost
  exact onEng_eq hl rfl

/-! ### All of them -/

theorem faultDelay_bounds (source : BitVec 16) : 1 ≤ faultDelay source ∧ faultDelay source ≤ 8 := by
  unfold faultDelay
  omega

/-- Settles O49: the severity decides between `faultEvent_quiet`, `faultEvent_contained` and `faultEvent_fatal`, and the history between
`record_enters`, `record_loses` and `record_merges`. -/
theorem faultEventsReachFltAndAreEntered : Obligations.FaultEventsReachFltAndAreEntered := by
  unfold Obligations.FaultEventsReachFltAndAreEntered
  intro s hl
  refine ⟨fun n v hv => ?_, fun v hv hr hi hd => ?_, fun n hn => ?_, fun p => ?_⟩
  · refine ⟨faultDelay_bounds _, fun h => ?_, fun h => ?_, fun h => ?_, fun h hf ha => ?_⟩
    · obtain ⟨t, hx, hev, hc, hrest⟩ := faultEvent_quiet hl hv (.inl h)
      exact ⟨t, hx, hev.trans (receives_events _ _ (by rw [show (s.eng.arrived v).sev = .log from h]; decide)), hc, hrest⟩
    · obtain ⟨t, hx, hev, hc, hrest⟩ := faultEvent_quiet hl hv (.inr h)
      exact ⟨t, hx, hev.trans (receives_ignored _ _ h), hc, hrest⟩
    · obtain ⟨t, a, hx, hm, hev, hc, hf, ho⟩ := faultEvent_contained hl hv h
      refine ⟨t, hx, hf.events (hev ▸ List.mem_append_right _ List.mem_cons_self), hf.cycle.trans hc, hm, fun hno => ?_⟩
      rw [ho hno]
      exact regionActs_noteWork_fenced a (s.eng.arrived v)
    · exact faultEvent_fatal hl hv h hf ha
  · obtain ⟨t, a, hx, hh, hlost, hth, htl, hev, hc, hj, hm⟩ := historyEntry_records hl hv hr hi hd
    refine ⟨t, hx, hev, hc, hj, hm, fun hmer hlim => ?_, fun hmer hlim => ?_, fun x hx hmer => ?_⟩
    · rw [← hh] at hmer hlim ⊢
      rw [← histLimit_eq] at hlim
      rw [record_enters hmer hlim] at hth
      exact ⟨_, hth, rfl, rfl, rfl, rfl, rfl, rfl, rfl, rfl⟩
    · rw [← hh] at hmer hlim ⊢
      rw [← histLimit_eq] at hlim
      rw [record_loses hmer hlim] at hth htl
      exact ⟨hth, htl.trans (by rw [hlost])⟩
    · rw [← hh] at hx ⊢
      rw [record_merges hx hmer] at hth htl
      exact ⟨hth, htl.trans hlost⟩
  · obtain ⟨t, hx, hev, hfence, hother, hjobs, hm⟩ := stackLost_fences hl hn
    exact ⟨t, _, hx, hev, rfl, rfl, rfl, hfence, hother, hjobs, hm⟩
  · exact ⟨s.eng.newEvent subNpi 0 0x10 none (p.setWidth 64), exec_networkPortLost hl p, rfl, rfl, rfl⟩

end Sys2Proof.Machine
end

section
/-! Bits of the stacks' memory (R195): what a read of some bits gives after a write of the same or of others. -/

namespace Sys2Proof.Machine

/-- The bit of memory that lies `p` bits from address 0, as a read under a tag finds it. -/
def Memory.bitAt (m : Memory) (t : Tag) (p : Nat) : Bool := (m.byte t (p / 8)).getLsbD (p % 8)

theorem bitAt_of_byte {m m' : Memory} {t : Tag} {p : Nat} (h : m'.byte t (p / 8) = m.byte t (p / 8)) : m'.bitAt t p = m.bitAt t p := by
  unfold Memory.bitAt
  rw [h]

/-- The bits of a number are those of its bytes. -/
theorem leNat_testBit (bs : List Byte) (i : Nat) : (leNat bs).testBit i = (bs.getD (i / 8) 0).getLsbD (i % 8) := by
  induction bs generalizing i with
  | nil => simp [leNat]
  | cons b bs ih =>
    have hn : leNat (b :: bs) = 2 ^ 8 * leNat bs + b.toNat := Nat.add_comm _ _
    rw [hn, Nat.testBit_two_pow_mul_add _ b.isLt]
    split
    · next h =>
      rw [Nat.div_eq_of_lt h, Nat.mod_eq_of_lt h]
      rfl
    · next h =>
      rw [ih, show i / 8 = (i - 8) / 8 + 1 by omega, show (i - 8) % 8 = i % 8 by omega, List.getD_cons_succ]

theorem bytes_testBit (m : Memory) (t : Tag) (a : Nat) {n i : Nat} (h : i < 8 * n) : (leNat (m.bytes t a n)).testBit i = m.bitAt t (8 * a + i) := by
  have hl : i / 8 < n := by omega
  rw [leNat_testBit, List.getD_eq_getElem _ _ (by simpa using hl), Memory.bytes_getElem _ _ _ _ _ hl]
  unfold Memory.bitAt
  rw [show (8 * a + i) / 8 = a + i / 8 by omega, show (8 * a + i) % 8 = i % 8 by omega]

/-- What some bits read as, bit by bit. -/
theorem bitsAt_testBit (m : Memory) (t : Tag) (a bit bits i : Nat) :
    (m.bitsAt t a bit bits).testBit i = (decide (i < bits) && m.bitAt t (8 * a + bit + i)) := by
  unfold Memory.bitsAt
  rw [Nat.testBit_mod_two_pow, Nat.testBit_div_two_pow]
  by_cases h : i < bits
  · rw [bytes_testBit _ _ _ (by omega), show 8 * a + (i + bit) = 8 * a + bit + i by omega]
  · simp [h]

/-- Bits that stand as before read as before. -/
theorem bitsAt_congr {m m' : Memory} {t : Tag} {a bit bits : Nat} (h : ∀ i < bits, m'.bitAt t (8 * a + bit + i) = m.bitAt t (8 * a + bit + i)) :
    m'.bitsAt t a bit bits = m.bitsAt t a bit bits := by
  refine Nat.eq_of_testBit_eq fun i => ?_
  rw [bitsAt_testBit, bitsAt_testBit]
  by_cases hi : i < bits
  · rw [h i hi]
  · simp [hi]

/-- A number with some of its bits put in place of another's. -/
theorem testBit_put (old v bit bits i : Nat) :
    (old % 2 ^ bit + v % 2 ^ bits * 2 ^ bit + old / 2 ^ (bit + bits) * 2 ^ (bit + bits)).testBit i =
      if bit ≤ i ∧ i < bit + bits then v.testBit (i - bit) else old.testBit i := by
  have hlow : old % 2 ^ bit < 2 ^ bit := Nat.mod_lt _ (Nat.two_pow_pos _)
  have hv : v % 2 ^ bits < 2 ^ bits := Nat.mod_lt _ (Nat.two_pow_pos _)
  have hmid : 2 ^ bit * (v % 2 ^ bits) + old % 2 ^ bit < 2 ^ (bit + bits) := by
    have := Nat.mul_le_mul_left (2 ^ bit) (Nat.succ_le_of_lt hv)
    rw [Nat.pow_add]
    rw [Nat.mul_succ] at this
    omega
  have hn : old % 2 ^ bit + v % 2 ^ bits * 2 ^ bit + old / 2 ^ (bit + bits) * 2 ^ (bit + bits) =
      2 ^ (bit + bits) * (old / 2 ^ (bit + bits)) + (2 ^ bit * (v % 2 ^ bits) + old % 2 ^ bit) := by ring
  rw [hn, Nat.testBit_two_pow_mul_add _ hmid, Nat.testBit_two_pow_mul_add _ hlow, Nat.testBit_mod_two_pow, Nat.testBit_mod_two_pow,
    Nat.testBit_div_two_pow]
  by_cases h1 : i < bit
  · simp [h1, show i < bit + bits by omega, show ¬ bit ≤ i by omega]
  · by_cases h2 : i < bit + bits
    · simp [h1, h2, show bit ≤ i by omega, show i - bit < bits by omega]
    · simp [h2, show bit + bits ≤ i by omega]

/-- Memory after a write of some bits under a tag. -/
def Memory.put (m : Memory) (t : Tag) (a bit bits v : Nat) : Memory := m.write t a (m.putBits t a bit bits v).bytes

/-- Under that tag the bits written are there, and every other bit is as before. -/
theorem put_bitAt {m : Memory} (w : m.wf) (t : Tag) (a bit bits v p : Nat) : (m.put t a bit bits v).bitAt t p =
    if 8 * a + bit ≤ p ∧ p < 8 * a + bit + bits then v.testBit (p - (8 * a + bit)) else m.bitAt t p := by
  have hlen : (m.putBits t a bit bits v).bytes.length = (bit + bits + 7) / 8 := Memory.putBits_length _ _ _ _ _ _
  by_cases hin : 8 * a ≤ p ∧ p < 8 * a + 8 * ((bit + bits + 7) / 8)
  · have hb : (m.put t a bit bits v).bytes t a ((bit + bits + 7) / 8) = (m.putBits t a bit bits v).bytes := by
      rw [← hlen]
      exact Memory.bytes_write t _ m a w
    have hi : p - 8 * a < 8 * ((bit + bits + 7) / 8) := by omega
    have ht := bytes_testBit (m.put t a bit bits v) t a hi
    have hold := bytes_testBit m t a hi
    rw [show 8 * a + (p - 8 * a) = p by omega] at ht hold
    rw [← ht, hb]
    unfold Memory.putBits
    dsimp only
    rw [leNat_leBytes, show (256 : Nat) = 2 ^ 8 from rfl, ← Nat.pow_mul, Nat.testBit_mod_two_pow, testBit_put, hold]
    simp only [hi, decide_true, Bool.true_and]
    by_cases hp : 8 * a + bit ≤ p ∧ p < 8 * a + bit + bits
    · rw [if_pos hp, if_pos (by omega), show p - 8 * a - bit = p - (8 * a + bit) by omega]
    · rw [if_neg hp, if_neg (by omega)]
  · rw [if_neg (by omega)]
    exact bitAt_of_byte (Memory.byte_write_out t _ m a t _ (by rw [hlen]; omega))

/-- The bits written read back. -/
theorem put_bitsAt_self {m : Memory} (w : m.wf) (t : Tag) (a bit bits v : Nat) : (m.put t a bit bits v).bitsAt t a bit bits = v % 2 ^ bits := by
  refine Nat.eq_of_testBit_eq fun i => ?_
  rw [bitsAt_testBit, Nat.testBit_mod_two_pow, put_bitAt w]
  by_cases hi : i < bits
  · rw [if_pos (by omega), show 8 * a + bit + i - (8 * a + bit) = i by omega]
  · simp [hi]

/-- Bytes that no bit written lies in read under every tag as before. -/
theorem put_byte_out (m : Memory) (t : Tag) (a bit bits v : Nat) (g : Tag) {b : Nat} (h : b < a ∨ a + (bit + bits + 7) / 8 ≤ b) :
    (m.put t a bit bits v).byte g b = m.byte g b :=
  Memory.byte_write_out t _ m a g b (by rw [Memory.putBits_length]; exact h)

end Sys2Proof.Machine
end

section
/-! A Drover applies the elements of a peer's put or accumulate (R161, R166 to R171). -/

namespace Sys2Proof.Machine

/-! ### One element -/

theorem recordWrite_inWork (e : Eng) (n : BitVec 5) (pa len : Nat) (w : Writer) : (e.recordWrite n pa len w).inWork = e.inWork := by
  unfold Eng.recordWrite
  refine inWork_foldl (fun e b => ?_) _ e
  rfl

theorem recordWrite_npi (e : Eng) (n : BitVec 5) (pa len : Nat) (w : Writer) : (e.recordWrite n pa len w).npi = e.npi := by
  unfold Eng.recordWrite
  generalize beatsOf pa len = l
  induction l generalizing e with
  | nil => rfl
  | cons b l ih => exact ih _

/-- The value that a Drover's element write leaves in its bits. -/
def DrvWrite.result (o : DrvWrite) (m : Memory) (t : Tag) : Nat :=
  match o.acc with
  | none => o.v
  | some a => accCombine a.dtype a.op (m.bitsAt t o.pa o.bit o.bits) o.v

/-- A word that is not reported adds its write to the operations, and replaces no word; descriptors and requests are as before. -/
theorem write_good (r : DrvResult) (m : Memory) (t : Tag) (o : DrvWrite) :
    (r.write m t o false).x.ops = r.x.ops ++ [(r.x.mem m).putBits t o.pa o.bit o.bits (o.result (r.x.mem m) t)] ∧
    (r.write m t o false).words = r.words ∧ (r.write m t o false).x.eng.inWork = r.x.eng.inWork ∧ (r.write m t o false).x.eng.npi = r.x.eng.npi := by
  have hhit (e : Eng) (c : Bool) : (if c then e.count subDrv (20 + o.n.toNat) 1 else e).inWork = e.inWork ∧
      (if c then e.count subDrv (20 + o.n.toNat) 1 else e).npi = e.npi := by
    cases c <;> exact ⟨rfl, rfl⟩
  unfold DrvResult.write DrvWrite.result
  extract_lets mem len hit e₁
  have h₁ : e₁.inWork = r.x.eng.inWork ∧ e₁.npi = r.x.eng.npi := by
    unfold e₁
    cases o.opStart <;> exact ⟨rfl, rfl⟩
  clear_value hit e₁
  have hrec (e : Eng) : (e.recordWrite o.n o.pa len o.writer).inWork = e.inWork ∧ (e.recordWrite o.n o.pa len o.writer).npi = e.npi :=
    ⟨recordWrite_inWork _ _ _ _ _, recordWrite_npi _ _ _ _ _⟩
  cases o.acc with
  | none =>
    obtain ⟨h1, h2⟩ := hhit (r.x.eng.recordWrite o.n o.pa len o.writer) hit
    exact ⟨rfl, rfl, h1.trans (hrec _).1, h2.trans (hrec _).2⟩
  | some a =>
    obtain ⟨h1, h2⟩ := hhit (e₁.recordWrite o.n o.pa len o.writer) hit
    exact ⟨rfl, rfl, h1.trans ((hrec _).1.trans h₁.1), h2.trans ((hrec _).2.trans h₁.2)⟩

/-! ### The elements of a request -/

/-- The bit of the request's first byte at which element `k` begins. -/
def PeerServe.bitOf (y : PeerServe) (k : Nat) : Nat := y.q.bit.toNat + k * y.q.ebits

/-- What element `k` brings. -/
def PeerServe.sent (y : PeerServe) (k : Nat) : Nat := leNat y.bytes / 2 ^ y.bitOf k % 2 ^ y.q.ebits

/-- What a read of element `k` of a request at `pa` gives. -/
def Memory.elem (m : Memory) (t : Tag) (pa : Nat) (y : PeerServe) (k : Nat) : Nat :=
  m.bitsAt t (pa + y.bitOf k / 8) (y.bitOf k % 8) y.q.ebits

/-- What element `k` makes of memory: the value sent, or the combination of what stood there with it, or FILL where it is poisoned. -/
def PeerServe.makes (y : PeerServe) (m : Memory) (t : Tag) (pa k : Nat) : Nat :=
  match y.op with
  | .acc o ty fill ps => if ps.contains k then fill.toNat else accCombine ty o (m.elem t pa y k) (y.sent k)
  | _ => y.sent k

theorem drvWrite_place (y : PeerServe) (n : BitVec 5) (pa k : Nat) : (y.drvWrite n pa k).pa = pa + y.bitOf k / 8 ∧
    (y.drvWrite n pa k).bit = y.bitOf k % 8 ∧ (y.drvWrite n pa k).bits = y.q.ebits := by
  unfold PeerServe.drvWrite
  extract_lets q bit v base
  split
  · exact ⟨rfl, rfl, rfl⟩
  · exact ⟨rfl, rfl, rfl⟩
  · split <;> exact ⟨rfl, rfl, rfl⟩

theorem drvWrite_result (y : PeerServe) (n : BitVec 5) (m : Memory) (t : Tag) (pa k : Nat) :
    (y.drvWrite n pa k).result m t = y.makes m t pa k := by
  unfold PeerServe.drvWrite PeerServe.makes
  extract_lets q bit v base
  cases y.op with
  | put sc => rfl
  | get => rfl
  | acc o ty fill ps =>
    dsimp only
    split <;> rfl

/-- The elements of a request below `N`, written in their order by a Drover. -/
def PeerServe.written (y : PeerServe) (r : DrvResult) (m : Memory) (t : Tag) (n : BitVec 5) (pa N : Nat) : DrvResult :=
  (List.range N).foldl (fun r i => r.write m t (y.drvWrite n pa i) false) r

theorem written_succ (y : PeerServe) (r : DrvResult) (m : Memory) (t : Tag) (n : BitVec 5) (pa N : Nat) :
    y.written r m t n pa (N + 1) = (y.written r m t n pa N).write m t (y.drvWrite n pa N) false := by
  unfold PeerServe.written
  rw [List.range_succ, List.foldl_append]
  rfl

theorem written_keeps (y : PeerServe) (r : DrvResult) (m : Memory) (t : Tag) (n : BitVec 5) (pa N : Nat) :
    (y.written r m t n pa N).words = r.words ∧ (y.written r m t n pa N).x.eng.inWork = r.x.eng.inWork ∧
    (y.written r m t n pa N).x.eng.npi = r.x.eng.npi := by
  induction N with
  | zero => exact ⟨rfl, rfl, rfl⟩
  | succ N ih =>
    obtain ⟨h1, h2, h3⟩ := ih
    rw [written_succ]
    obtain ⟨-, hw, he, hn⟩ := write_good (y.written r m t n pa N) m t (y.drvWrite n pa N)
    exact ⟨hw.trans h1, he.trans h2, hn.trans h3⟩

/-- Memory after one element more. -/
theorem written_mem_succ (y : PeerServe) (r : DrvResult) (m : Memory) (t : Tag) (n : BitVec 5) (pa N : Nat) :
    (y.written r m t n pa (N + 1)).x.mem m = ((y.written r m t n pa N).x.mem m).put t (pa + y.bitOf N / 8) (y.bitOf N % 8) y.q.ebits
      (y.makes ((y.written r m t n pa N).x.mem m) t pa N) := by
  obtain ⟨ho, -⟩ := write_good (y.written r m t n pa N) m t (y.drvWrite n pa N)
  obtain ⟨hpa, hbit, hbits⟩ := drvWrite_place y n pa N
  rw [written_succ]
  unfold Eff.mem at ho ⊢
  rw [ho, applyOps_append, drvWrite_result, hpa, hbit, hbits]
  rfl

/-- What has been written once the elements below `N` have: each of those, and nothing beside them. -/
structure Writes (y : PeerServe) (m m' : Memory) (t : Tag) (pa N : Nat) : Prop where
  wf : m'.wf
  elems : ∀ k < N, m'.elem t pa y k = y.makes m t pa k % 2 ^ y.q.ebits
  later : ∀ p, 8 * pa + y.bitOf N ≤ p → m'.bitAt t p = m.bitAt t p
  around : ∀ g b, (b < pa ∨ pa + (y.bitOf N + 7) / 8 ≤ b) → m'.byte g b = m.byte g b

theorem bitOf_succ (y : PeerServe) (k : Nat) : y.bitOf (k + 1) = y.bitOf k + y.q.ebits := by
  unfold PeerServe.bitOf
  rw [Nat.succ_mul, Nat.add_assoc]

theorem bitOf_le {y : PeerServe} {k N : Nat} (h : k ≤ N) : y.bitOf k ≤ y.bitOf N :=
  Nat.add_le_add_left (Nat.mul_le_mul_right _ h) _

/-- An element that has not been written yet makes of memory what it would have made at first. -/
theorem Writes.makes {y : PeerServe} {m m' : Memory} {t : Tag} {pa N : Nat} (h : Writes y m m' t pa N) : y.makes m' t pa N = y.makes m t pa N := by
  have he : m'.elem t pa y N = m.elem t pa y N := bitsAt_congr fun i _ => h.later _ (by omega)
  unfold PeerServe.makes
  rw [he]

theorem Writes.next {y : PeerServe} {m m' : Memory} {t : Tag} {pa N : Nat} (h : Writes y m m' t pa N) :
    Writes y m (m'.put t (pa + y.bitOf N / 8) (y.bitOf N % 8) y.q.ebits (y.makes m' t pa N)) t pa (N + 1) := by
  have hs := bitOf_succ y N
  refine ⟨Memory.write_wf _ _ _ _ h.wf, fun k hk => ?_, fun p hp => ?_, fun g b hb => ?_⟩
  · rcases Nat.lt_succ_iff_lt_or_eq.mp hk with hk | rfl
    · have hle : y.bitOf (k + 1) ≤ y.bitOf N := bitOf_le hk
      rw [bitOf_succ] at hle
      refine Eq.trans (bitsAt_congr fun i hi => ?_) (h.elems k hk)
      rw [put_bitAt h.wf, if_neg (by omega)]
    · exact (put_bitsAt_self h.wf _ _ _ _ _).trans (by rw [h.makes])
  · rw [put_bitAt h.wf, if_neg (by omega)]
    exact h.later p (by omega)
  · exact (put_byte_out _ _ _ _ _ _ _ (by omega)).trans (h.around g b (by omega))

theorem written_writes {m : Memory} (w : m.wf) (y : PeerServe) (e : Eng) (t : Tag) (n : BitVec 5) (pa N : Nat) :
    Writes y m ((y.written { x := ⟨e, []⟩ } m t n pa N).x.mem m) t pa N := by
  induction N with
  | zero => exact ⟨w, nofun, fun _ _ => rfl, fun _ _ _ => rfl⟩
  | succ N ih =>
    rw [written_mem_succ]
    exact ih.next

/-! ### The whole request -/

theorem badWords_nil (y : PeerServe) : y.badWords [] = [] := by
  unfold PeerServe.badWords
  simp

theorem spoiled_nil (y : PeerServe) : y.spoiled [] = [] := by
  unfold PeerServe.spoiled
  simp

/-- Without replaced words no other request's contribution is overwritten. -/
theorem fillPeers_nil (r : DrvResult) (m : Memory) (y : PeerServe) (t : Tag) (h : r.words = []) : r.fillPeers m y t = r := by
  have hskip (o : PeerServe) (n : BitVec 5) (pa : Nat) (fill : BitVec 32) (is : List Nat) : is.foldl (fun r i =>
      if r.words.contains ((o.drvWrite n pa i).pa / 8) then
        r.write m t { o.drvWrite n pa i with v := fill.toNat, acc := none, opStart := false } false else r) r = r := by
    induction is with
    | nil => rfl
    | cons i is ih =>
      rw [List.foldl_cons, h, if_neg (by simp)]
      exact ih
  unfold DrvResult.fillPeers
  generalize List.filter _ r.x.eng.npi.serving = l
  induction l with
  | nil => rfl
  | cons o l ih =>
    rw [List.foldl_cons]
    have ho : (match o.op, o.req with
        | .acc _ _ fill _, some x => (match x.dest with
          | .stack n pa => (List.range o.count).foldl (fun r i =>
              let w := o.drvWrite n pa i
              if r.words.contains (w.pa / 8) then r.write m t { w with v := fill.toNat, acc := none, opStart := false } false else r) r
          | _ => r)
        | _, _ => r) = r := by
      split
      · split
        · exact hskip _ _ _ _ _
        · rfl
      · rfl
    exact (congrArg (fun z => List.foldl _ z l) ho).trans ih

end Sys2Proof.Machine
end

section
/-! A peer's put, get or accumulate is taken, and answered (R32, R107, R171, R235, R291, R343, R412). -/

namespace Sys2Proof.Machine

/-! ### What follows of power sends nothing (R342) -/

theorem out_foldl {β : Type} {f : Eng → β → Eng} (hf : ∀ e x, (f e x).out = e.out) (l : List β) (e : Eng) : (l.foldl f e).out = e.out := by
  induction l generalizing e with
  | nil => rfl
  | cons x l ih => exact (ih _).trans (hf e x)

theorem modDom_out (e : Eng) (d : Domain) (f : Dom → Dom) : (e.modDom d f).out = e.out := by
  cases d <;> rfl

theorem admitRegion_out (e : Eng) (r : Region) : (e.admitRegion r).out = e.out := (beginWake_out _ _).trans (wakeEngine_out e)

theorem lowerQuiet_out (e : Eng) (r : Region) : (e.lowerQuiet r).out = e.out := by
  unfold Eng.lowerQuiet
  extract_lets d
  split
  · rfl
  · split
    · split
      · rfl
      · exact modDom_out _ _ _
    · split
      · split
        · exact modDom_out _ _ _
        · rfl
      · rfl

theorem lowerUntil_out (p : Eng → Bool) (rs : List Region) (e : Eng) : (Eng.lowerUntil p rs e).out = e.out := by
  induction rs generalizing e with
  | nil => rfl
  | cons r rs ih =>
    unfold Eng.lowerUntil
    split
    · rfl
    · exact (ih _).trans (lowerQuiet_out e r)

theorem serveQueue_out (n : Nat) (e : Eng) : (Eng.serveQueue n e).out = e.out := by
  induction n generalizing e with
  | zero => rfl
  | succ n ih =>
    unfold Eng.serveQueue
    split
    · rfl
    · split
      · rfl
      · split
        · exact (ih _).trans (admitRegion_out _ _)
        · extract_lets e'
          split
          · exact (ih _).trans ((admitRegion_out _ _).trans (lowerUntil_out _ _ _))
          · rfl

theorem lendRegion_out (e : Eng) (r : Region) : (e.lendRegion r).out = e.out := by
  unfold Eng.lendRegion
  extract_lets c d
  split
  · split
    · exact (serveQueue_out 4 _).trans (modDom_out _ _ _)
    · split
      · exact (serveQueue_out 4 _).trans (modDom_out _ _ _)
      · rfl
  · rfl

theorem noteWorkOf_out (e : Eng) (d : Domain) : (e.noteWorkOf d).out = e.out := by
  have h : (if (e.domOf d).busy then e else e.modDom d fun x => { x with busy := true }).out = e.out := by
    split
    · rfl
    · exact modDom_out _ _ _
  unfold Eng.noteWorkOf
  split
  · cases d with
    | region r => exact (lendRegion_out _ r).trans h
    | engine => exact h
  · split
    · exact modDom_out _ _ _
    · rfl

theorem noteWork_out (e : Eng) : e.noteWork.out = e.out := out_foldl noteWorkOf_out _ e

/-! ### Answers -/

/-- What answers a request: the data of a get, or an acknowledgement. -/
def PeerServe.answer (y : PeerServe) (st : Status) (bad : List Nat) (bs : List Byte) (col rep : Nat) : Out :=
  match y.op with
  | .get => .npi y.q.dev (.data y.q.id st bad bs)
  | _ => .npi y.q.dev (.ack y.q.id st col rep)

/-- An answer leaves, and its request is served no more. -/
theorem answerPeer_answers (e : Eng) (y : PeerServe) (st : Status) (bad : List Nat) (bs : List Byte) (col rep : Nat) :
    (e.answerPeer y st bad bs col rep).out = e.out ++ [y.answer st bad bs col rep] ∧
    (e.answerPeer y st bad bs col rep).npi.serving = e.npi.serving.filter (fun z => z.id ≠ y.id) ∧
    (e.answerPeer y st bad bs col rep).jobs = e.jobs := by
  unfold Eng.answerPeer PeerServe.answer
  cases y.op <;> exact ⟨rfl, rfl, rfl⟩

theorem answer_get {y : PeerServe} (h : y.op = .get) (st : Status) (bad : List Nat) (bs : List Byte) (col rep : Nat) :
    y.answer st bad bs col rep = .npi y.q.dev (.data y.q.id st bad bs) := by
  unfold PeerServe.answer
  rw [h]

theorem answer_write {y : PeerServe} (h : y.op ≠ .get) (st : Status) (bad : List Nat) (bs : List Byte) (col rep : Nat) :
    y.answer st bad bs col rep = .npi y.q.dev (.ack y.q.id st col rep) := by
  unfold PeerServe.answer
  split
  · next ho => exact absurd ho h
  · rfl

section Answered

variable {s : State} (hl : s.Live) {id : Nat} {y : PeerServe} {x : Req} {n : BitVec 5} {pa : Nat} {tg : Tag}
  (hy : s.eng.npi.serving.find? (fun z => z.id = id) = some y) (hr : y.req = some x) (hd : x.dest = .stack n pa) (hw : x.waiting = false)

include hl hy hr hd hw

/-- The bytes of a get leave as they read under the tag that its Drover serves. -/
theorem readReturn_get (ho : y.op = .get) (hs : y.spoilt = []) (ht : s.eng.atDrover x n false = .tag tg none) :
    ∃ t, exec (.readReturn (.peer id) ⟨0, [], []⟩) s = .next t ∧
      t.eng.out = s.eng.out ++ [.npi y.q.dev (.data y.q.id stOk [] (s.mem.bytes tg pa ((y.q.bit.toNat + y.q.bits + 7) / 8)))] ∧
      t.mem = s.mem ∧ t.eng.jobs = s.eng.jobs := by
  have hx : s.eng.peerRead s.mem id ⟨0, [], []⟩ = s.eng.answerPeer y stOk [] (s.mem.bytes tg pa ((y.q.bit.toNat + y.q.bits + 7) / 8)) 0 0 := by
    unfold Eng.peerRead
    rw [hy]
    dsimp only
    rw [hr]
    dsimp only
    rw [if_neg (by simp [ho, hw]), hd]
    dsimp only
    rw [ht]
    dsimp only
    rw [badWords_nil, hs, badWords_nil]
    rfl
  obtain ⟨hout, -, hjobs⟩ := answerPeer_answers s.eng y stOk [] (s.mem.bytes tg pa ((y.q.bit.toNat + y.q.bits + 7) / 8)) 0 0
  rw [answer_get ho] at hout
  refine ⟨{ s with eng := (s.eng.peerRead s.mem id ⟨0, [], []⟩).noteWork }, ?_, ?_, rfl, ?_⟩
  · unfold exec execReadReturn
    exact onMem_live hl _
  · rw [hx]
    exact (noteWork_out _).trans hout
  · rw [hx]
    exact (inWork_parts (Eng.noteWork_side _).inWork).2.2.trans hjobs

/-- The elements of a put or accumulate are written, and it is acknowledged. -/
theorem writeAck_write (ho : y.op ≠ .get) (hm : MemInv s) (ht : s.eng.atDrover x n true = .tag tg none) :
    ∃ t c, exec (.writeAck (.peer id) ⟨0, [], 0, 0⟩) s = .next t ∧ Out.npi y.q.dev (.ack y.q.id stOk c y.replaced) ∈ t.eng.out ∧
      Writes y s.mem t.mem tg pa y.count ∧ t.eng.jobs = s.eng.jobs := by
  obtain ⟨hwords, hin, -⟩ := written_keeps y { x := ⟨s.eng, []⟩ } s.mem tg n pa y.count
  have hwr := written_writes hm y s.eng tg n pa y.count
  have hx : s.eng.peerAck s.mem id ⟨0, [], 0, 0⟩ = (y.written { x := ⟨s.eng, []⟩ } s.mem tg n pa y.count).x.on fun e =>
      e.answerPeer y stOk [] [] (y.written { x := ⟨s.eng, []⟩ } s.mem tg n pa y.count).collisions (y.replaced + 0) := by
    unfold Eng.peerAck
    rw [hy]
    dsimp only
    rw [hr]
    dsimp only
    rw [if_neg (by simp [ho, hw]), hd]
    dsimp only
    rw [ht]
    dsimp only
    rw [badWords_nil, spoiled_nil]
    have hf : (List.range y.count).foldl (fun r i => r.write s.mem tg (y.drvWrite n pa i) ([].contains i)) ({ x := ⟨s.eng, []⟩ } : DrvResult) =
        y.written { x := ⟨s.eng, []⟩ } s.mem tg n pa y.count := rfl
    rw [hf, fillPeers_nil _ _ _ _ hwords, hwords]
    rfl
  generalize y.written { x := ⟨s.eng, []⟩ } s.mem tg n pa y.count = r at hwords hin hwr hx
  obtain ⟨hout, -, hjobs⟩ := answerPeer_answers r.x.eng y stOk [] [] r.collisions (y.replaced + 0)
  rw [answer_write ho] at hout
  refine ⟨{ s with eng := ((s.eng.peerAck s.mem id ⟨0, [], 0, 0⟩).on Eng.noteWork).eng, mem := applyOps s.mem ((s.eng.peerAck s.mem id ⟨0, [], 0, 0⟩).on Eng.noteWork).ops },
    r.collisions, ?_, ?_, ?_, ?_⟩
  · unfold exec execWriteAck
    exact onMem_live hl _
  · rw [hx]
    show _ ∈ (r.x.eng.answerPeer y stOk [] [] r.collisions (y.replaced + 0)).noteWork.out
    rw [noteWork_out, hout]
    exact List.mem_append_right _ List.mem_cons_self
  · rw [hx]
    exact hwr
  · rw [hx]
    exact (inWork_parts (Eng.noteWork_side _).inWork).2.2.trans (hjobs.trans (inWork_parts hin).2.2)

end Answered

end Sys2Proof.Machine
end

section
/-! PEER_PUT, PEER_GET and PEER_ACCUMULATE (R32, R107, R171, R235, R291, R343, R412). -/

namespace Sys2Proof.Machine

/-! ### A message from a device -/

theorem wakeEngine_eq (e : Eng) : ∃ d, e.wakeEngine = { e with svc := { e.svc with power := { e.svc.power with engine := d } } } := by
  unfold Eng.wakeEngine
  extract_lets d
  split
  · exact ⟨e.svc.power.engine, rfl⟩
  · split
    · exact ⟨_, rfl⟩
    · exact ⟨_, rfl⟩

/-- The engine once a message has been heard: routes and pairs noted, and the engine domain woken. -/
def Eng.hearing (e : Eng) (lost pairs : List DevNum) (d : Dom) (tally : SMap Word) : Eng := { e with
  npi := { e.npi with lost := lost, pairs := pairs }
  svc := { e.svc with power := { e.svc.power with engine := d } }
  tally := tally }

theorem heard_hearing {e : Eng} (h : e.svc.power.dormant = false) (m : Memory) (d : DevNum) :
    ∃ lost pairs x, e.heard m d = e.hearing lost pairs x e.tally := by
  unfold Eng.heard
  extract_lets src npi
  rw [ended_awake (e := { e with npi := npi }) h]
  obtain ⟨x, hx⟩ := wakeEngine_eq { e with npi := npi }
  rw [hx]
  exact ⟨_, _, x, rfl⟩

/-- The request as NPI takes it. -/
def Eng.newServe (e : Eng) (q : PeerReq) (op : PeerOp) (bs : List Byte) : PeerServe :=
  { id := e.npi.nextReq, q := q, op := op, bytes := bs, req := none }

/-- The engine once it has heard a request and taken it under the next local number. -/
def Eng.taking (e : Eng) (y : PeerServe) (lost pairs : List DevNum) (d : Dom) (tally : SMap Word) : Eng :=
  let a := e.hearing lost pairs d tally
  { a with npi := { a.npi with nextReq := e.npi.nextReq + 1, serving := e.npi.serving ++ [y] } }

/-- The three commands are one arrival; an accumulate is counted first. -/
theorem exec_peerRequest {s : State} (hl : s.Live) {q : PeerReq} {i : Instr} {op : PeerOp}
    (hi : (∃ bs sc, i = .peerPut q bs sc ∧ op = .put sc) ∨ (i = .peerGet q ∧ op = .get) ∨
      (∃ o ty bs f ps, i = .peerAccumulate q o ty bs f ps ∧ op = .acc o ty f ps)) :
    ∃ bs tally, exec i s = .next { s with eng := ({ s.eng with tally := tally } : Eng).peerArrives s.mem q op bs } := by
  rcases hi with ⟨bs, sc, rfl, rfl⟩ | ⟨rfl, rfl⟩ | ⟨o, ty, bs, f, ps, rfl, rfl⟩
  · refine ⟨bs, s.eng.tally, ?_⟩
    unfold exec execPeerPut
    exact onEng_live hl _
  · refine ⟨[], s.eng.tally, ?_⟩
    unfold exec execPeerGet
    exact onEng_live hl _
  · refine ⟨bs, (s.eng.count subNpi 0 1).tally, ?_⟩
    unfold exec execPeerAccumulate
    exact onEng_live hl _

section Arrives

variable {e : Eng} (hd : e.svc.power.dormant = false) (m : Memory) (q : PeerReq) (op : PeerOp) (bs : List Byte) (tally : SMap Word)

include hd

/-- While NPI refuses, nothing is taken. -/
theorem peerArrives_refused (hr : e.refusing = true) : ∃ lost pairs d, ({ e with tally := tally } : Eng).peerArrives m q op bs =
    (e.hearing lost pairs d tally).emit (.npi q.dev (.refused q.id)) := by
  obtain ⟨lost, pairs, d, hh⟩ := heard_hearing (e := { e with tally := tally }) hd m q.dev
  refine ⟨lost, pairs, d, ?_⟩
  unfold Eng.peerArrives
  rw [hh]
  exact if_pos hr

/-- Otherwise the request is taken, and begins. -/
theorem peerArrives_taken (hr : e.refusing = false) : ∃ lost pairs d tally', ({ e with tally := tally } : Eng).peerArrives m q op bs =
    (e.taking (e.newServe q op bs) lost pairs d tally').startPeer m (e.newServe q op bs) := by
  obtain ⟨lost, pairs, d, hh⟩ := heard_hearing (e := { e with tally := tally }) hd m q.dev
  refine ⟨lost, pairs, d, (({ e with tally := tally } : Eng).count subAtg (peerSlice q).toNat 1).tally, ?_⟩
  unfold Eng.peerArrives
  rw [hh]
  refine (if_neg ?_).trans rfl
  show ¬ e.refusing = true
  rw [hr]
  exact Bool.false_ne_true

end Arrives

/-! ### A request begins -/

theorem reaches_congr {e e' : Eng} (hp : e'.pdks = e.pdks) (ha : e'.atg = e.atg) (m : Memory) (r : Region) (p : PdkNum) (d : DevNum) :
    (e'.reaches m r p d).1 = (e.reaches m r p d).1 := by
  unfold Eng.reaches Eng.pdk
  rw [hp, ha]
  extract_lets base i
  split
  · rfl
  · split
    · rfl
    · split <;> rfl

/-- A look at a reach bitmap changes ATG's copies of it alone. -/
theorem reaches_eq (e : Eng) (m : Memory) (r : Region) (p : PdkNum) (d : DevNum) : ∃ reach bad,
    (e.reaches m r p d).2 = { e with atg := { e.atg with reach := reach, reachBad := bad } } := by
  unfold Eng.reaches
  extract_lets base i src atg
  split
  · exact ⟨e.atg.reach, e.atg.reachBad, rfl⟩
  · split
    · exact ⟨e.atg.reach, e.atg.reachBad, rfl⟩
    · split
      · exact ⟨e.atg.reach, _, rfl⟩
      · exact ⟨_, e.atg.reachBad, rfl⟩

theorem wakeRegion_npi (e : Eng) (r : Region) : (e.wakeRegion r).npi = e.npi := by
  rw [(e.wakeRegion_side r).1]

theorem wakeFor_npi (e : Eng) (q : Req) : (e.wakeFor q).npi = e.npi := by
  unfold Eng.wakeFor
  split
  · exact wakeRegion_npi _ _
  · rfl

theorem park_npi (e : Eng) (q : Req) (who : PortUser) : (e.park q who).npi = e.npi := by
  unfold Eng.park
  extract_lets port full x src svc
  split
  · rfl
  · split <;> rfl

section Starts

variable {e : Eng} {y : PeerServe} (hf : e.flt.fatal = false) (hr : y.req = none) (m : Memory)

include hf hr

/-- A request whose slice cannot look it up waits. -/
theorem startPeer_waits (h : e.active (.region (peerSlice y.q)) = false ∨ e.testing 5 (peerSlice y.q).toNat = true) :
    e.startPeer m y = e.wakeRegion (peerSlice y.q) := by
  unfold Eng.startPeer
  dsimp only
  rw [hf, if_neg Bool.false_ne_true, hr]
  refine if_pos ?_
  rcases h with h | h
  · rw [h]
    rfl
  · rw [h, Bool.or_true]

variable (ha : e.active (.region (peerSlice y.q)) = true) (ht : e.testing 5 (peerSlice y.q).toNat = false)

include ha ht

/-- A device that the reach bitmap does not admit is answered PADDOCK_FAULT. -/
theorem startPeer_faults (h : (e.reaches m (peerSlice y.q) y.q.paddock y.q.dev).1 = false) : e.startPeer m y =
    ((e.reaches m (peerSlice y.q) y.q.paddock y.q.dev).2.noteFault (peerSlice y.q) y.q.paddock none (.fail stPaddockFault)).answerPeer y stPaddockFault [] [] 0 0 := by
  unfold Eng.startPeer
  dsimp only
  rw [hf, if_neg Bool.false_ne_true, hr]
  dsimp only
  rw [if_neg (by rw [ha, ht]; decide)]
  generalize e.reaches m (peerSlice y.q) y.q.paddock y.q.dev = z at h ⊢
  obtain ⟨ok, a⟩ := z
  have h : ok = false := h
  rw [h]
  rfl

/-- One that is admitted, and whose address lies in a stack, is in service with its translation; it waits where the stack's region cannot serve it. -/
theorem startPeer_serves (h : (e.reaches m (peerSlice y.q) y.q.paddock y.q.dev).1 = true) {x : Req} {n : BitVec 5} {pa : Nat}
    (hx : e.translate (peerSlice y.q) y.q.paddock y.q.va.toNat y.q.bit.toNat ((y.q.bit.toNat + y.q.bits + 7) / 8) y.want = .ok x) (hd : x.dest = .stack n pa) :
    (e.startPeer m y).jobs = e.jobs ∧
    (e.startPeer m y).npi = (e.modServe { y with req := some { x with waiting := !e.canServe x } }).npi := by
  obtain ⟨reach, bad, he⟩ := reaches_eq e m (peerSlice y.q) y.q.paddock y.q.dev
  have hc : (e.reaches m (peerSlice y.q) y.q.paddock y.q.dev).2.canServe x = e.canServe x := by
    rw [he]
    rfl
  have hmod (z : PeerServe) : ((e.reaches m (peerSlice y.q) y.q.paddock y.q.dev).2.modServe z).npi = (e.modServe z).npi := by
    rw [he]
    rfl
  have hjobs (z : PeerServe) : ((e.reaches m (peerSlice y.q) y.q.paddock y.q.dev).2.modServe z).jobs = e.jobs := by
    rw [he]
    rfl
  have htr : (e.reaches m (peerSlice y.q) y.q.paddock y.q.dev).2.translate (peerSlice y.q) y.q.paddock y.q.va.toNat y.q.bit.toNat
      ((y.q.bit.toNat + y.q.bits + 7) / 8) y.want = .ok x := by
    rw [he]
    exact hx
  have hwake (a : Eng) : (a.wakeFor x).jobs = a.jobs := (inWork_parts (wakeFor_inWork a x)).2.2
  unfold Eng.startPeer
  dsimp only
  rw [hf, if_neg Bool.false_ne_true, hr]
  dsimp only
  rw [if_neg (by rw [ha, ht]; decide)]
  generalize e.reaches m (peerSlice y.q) y.q.paddock y.q.dev = z at h hc hmod hjobs htr ⊢
  obtain ⟨ok, a⟩ := z
  have h : ok = true := h
  have hc : a.canServe x = e.canServe x := hc
  rw [h, htr, show (if (!true) = true then Trans.fail stPaddockFault else .ok x) = .ok x from rfl]
  dsimp only
  rw [hd, hc, if_neg (by simp)]
  by_cases hs : e.canServe x = true
  · rw [hs, if_pos rfl]
    unfold Eng.sendPeerOn
    dsimp only
    rw [hd]
    exact ⟨(hwake _).trans (hjobs _), (wakeFor_npi _ _).trans (hmod _)⟩
  · have hs : e.canServe x = false := by simpa using hs
    rw [hs, if_neg Bool.false_ne_true]
    exact ⟨(inWork_parts (park_inWork _ _ _)).2.2.trans ((hwake _).trans (hjobs _)), (park_npi _ _ _).trans ((wakeFor_npi _ _).trans (hmod _))⟩

end Starts

/-! ### A request taken -/

section Taken

variable (e : Eng) (y : PeerServe) (lost pairs : List DevNum) (d : Dom) (tally : SMap Word)

theorem taking_serving : (e.taking y lost pairs d tally).npi.serving = e.npi.serving ++ [y] := rfl

theorem taking_canServe (x : Req) : (e.taking y lost pairs d tally).canServe x = e.canServe x := rfl

theorem taking_translate (r : Region) (p : PdkNum) (va bit n : Nat) (w : Want) :
    (e.taking y lost pairs d tally).translate r p va bit n w = e.translate r p va bit n w := rfl

theorem taking_reaches (m : Memory) (r : Region) (p : PdkNum) (x : DevNum) :
    ((e.taking y lost pairs d tally).reaches m r p x).1 = (e.reaches m r p x).1 :=
  reaches_congr (e' := e.taking y lost pairs d tally) (e := e) rfl rfl m r p x

end Taken

/-- A request of an arrival that has a translation is among those served. -/
theorem mem_modServe {e : Eng} {y y' : PeerServe} (hy : y ∈ e.npi.serving) (h : y'.id = y.id) : y' ∈ (e.modServe y').npi.serving :=
  List.mem_map.mpr ⟨y, hy, if_pos h.symm⟩

section Begins

variable {e : Eng} (hd : e.svc.power.dormant = false) (hr : e.refusing = false) (hf : e.flt.fatal = false) (m : Memory) (q : PeerReq) (op : PeerOp)
  (bs : List Byte) (tally : SMap Word)

include hd hr hf

theorem peerArrives_waits (h : e.active (.region (peerSlice q)) = false ∨ e.testing 5 (peerSlice q).toNat = true) :
    (({ e with tally := tally } : Eng).peerArrives m q op bs).npi.serving = e.npi.serving ++ [e.newServe q op bs] ∧
    (({ e with tally := tally } : Eng).peerArrives m q op bs).jobs = e.jobs := by
  obtain ⟨lost, pairs, d, tally', he⟩ := peerArrives_taken hd m q op bs tally hr
  have hs := startPeer_waits (e := e.taking (e.newServe q op bs) lost pairs d tally') (y := e.newServe q op bs) hf rfl m h
  rw [he, hs]
  exact ⟨congrArg Npi.serving (wakeRegion_npi _ _), (inWork_parts (Eng.wakeRegion_side _ _).inWork).2.2⟩

variable (ha : e.active (.region (peerSlice q)) = true) (ht : e.testing 5 (peerSlice q).toNat = false)

include ha ht

theorem peerArrives_faults (hno : (e.reaches m (peerSlice q) q.paddock q.dev).1 = false) (hfree : ∀ x ∈ e.npi.serving, x.id ≠ e.npi.nextReq) :
    (({ e with tally := tally } : Eng).peerArrives m q op bs).npi.serving = e.npi.serving ∧
    (({ e with tally := tally } : Eng).peerArrives m q op bs).jobs = e.jobs ∧
    (e.newServe q op bs).answer stPaddockFault [] [] 0 0 ∈ (({ e with tally := tally } : Eng).peerArrives m q op bs).out := by
  obtain ⟨lost, pairs, d, tally', he⟩ := peerArrives_taken hd m q op bs tally hr
  have hno' := (taking_reaches e (e.newServe q op bs) lost pairs d tally' m (peerSlice q) q.paddock q.dev).trans hno
  have hs := startPeer_faults (e := e.taking (e.newServe q op bs) lost pairs d tally') (y := e.newServe q op bs) hf rfl m ha ht hno'
  rw [he, hs]
  obtain ⟨reach, bad, hat⟩ := reaches_eq (e.taking (e.newServe q op bs) lost pairs d tally') m (peerSlice q) q.paddock q.dev
  obtain ⟨hout, hserv, hjobs⟩ := answerPeer_answers (((e.taking (e.newServe q op bs) lost pairs d tally').reaches m (peerSlice q) q.paddock q.dev).2.noteFault
    (peerSlice q) q.paddock none (.fail stPaddockFault)) (e.newServe q op bs) stPaddockFault [] [] 0 0
  refine ⟨hserv.trans ?_, hjobs.trans ?_, ?_⟩
  · rw [hat]
    show (e.npi.serving ++ [e.newServe q op bs]).filter (fun z => z.id ≠ e.npi.nextReq) = e.npi.serving
    rw [List.filter_append, List.filter_eq_self.mpr fun x hx => by simpa using hfree x hx]
    simp [Eng.newServe]
  · rw [hat]
    rfl
  · refine hout ▸ ?_
    exact List.mem_append_right _ List.mem_cons_self

theorem peerArrives_serves (hok : (e.reaches m (peerSlice q) q.paddock q.dev).1 = true) {x : Req} {n : BitVec 5} {pa : Nat}
    (hx : e.translate (peerSlice q) q.paddock q.va.toNat q.bit.toNat ((q.bit.toNat + q.bits + 7) / 8) (e.newServe q op bs).want = .ok x)
    (hdest : x.dest = .stack n pa) :
    { e.newServe q op bs with req := some { x with waiting := !e.canServe x } } ∈ (({ e with tally := tally } : Eng).peerArrives m q op bs).npi.serving ∧
    (({ e with tally := tally } : Eng).peerArrives m q op bs).npi.nextReq = e.npi.nextReq + 1 ∧
    (({ e with tally := tally } : Eng).peerArrives m q op bs).jobs = e.jobs := by
  obtain ⟨lost, pairs, d, tally', he⟩ := peerArrives_taken hd m q op bs tally hr
  have hok' := (taking_reaches e (e.newServe q op bs) lost pairs d tally' m (peerSlice q) q.paddock q.dev).trans hok
  have hx' := (taking_translate e (e.newServe q op bs) lost pairs d tally' (peerSlice q) q.paddock q.va.toNat q.bit.toNat
    ((q.bit.toNat + q.bits + 7) / 8) (e.newServe q op bs).want).trans hx
  obtain ⟨hjobs, hnpi⟩ := startPeer_serves (e := e.taking (e.newServe q op bs) lost pairs d tally') (y := e.newServe q op bs) hf rfl m ha ht hok' hx' hdest
  rw [taking_canServe] at hnpi
  rw [he]
  refine ⟨?_, ?_, hjobs⟩
  · rw [hnpi]
    refine mem_modServe (y := e.newServe q op bs) ?_ rfl
    rw [taking_serving]
    exact List.mem_append_right _ List.mem_cons_self
  · rw [hnpi]
    rfl

end Begins

/-! ### All of it -/

/-- What a request wants, by its operation. -/
theorem newServe_want (e : Eng) (q : PeerReq) (op : PeerOp) (bs : List Byte) : (e.newServe q op bs).want = (match op with
    | .get => { write := false }
    | .put _ => { write := true }
    | .acc _ _ _ _ => { write := true, stackOnly := true } : Want) := by
  cases op <;> rfl

/-- What each element of a put or accumulate leaves in its bits. -/
theorem makes_mod (y : PeerServe) (m : Memory) (t : Tag) (pa k : Nat) : y.makes m t pa k % 2 ^ y.q.ebits = match y.op with
    | .acc o ty fill ps => (if ps.contains k then fill.toNat else accCombine ty o (m.elem t pa y k) (y.sent k)) % 2 ^ y.q.ebits
    | _ => y.sent k := by
  have hs : y.sent k % 2 ^ y.q.ebits = y.sent k := Nat.mod_mod _ _
  unfold PeerServe.makes
  cases y.op with
  | acc o ty fill ps => rfl
  | put sc => exact hs
  | get => exact hs

/-- Settles O57: an arrival by `peerArrives_refused` or, once taken, by what `startPeer` makes of it; answers by `readReturn_get` and
`writeAck_write`. -/
theorem peerRequestsAreServedOrRefused : Obligations.PeerRequestsAreServedOrRefused := by
  unfold Obligations.PeerRequestsAreServedOrRefused
  intro s q i op hl hi want r
  refine ⟨fun hd => ?_, fun id y x n pa tg hy hq hop hr hdest hw => ?_⟩
  · obtain ⟨bs, tally, hx⟩ := exec_peerRequest hl hi
    refine ⟨fun hr => ?_, fun hr hf h => ?_, fun hr hf ha ht hno hfree => ?_, fun x n pa hr hf ha ht hok htr hdest => ?_⟩
    · obtain ⟨lost, pairs, d, he⟩ := peerArrives_refused hd s.mem q op bs tally hr
      rw [he] at hx
      exact ⟨_, hx, List.mem_append_right _ List.mem_cons_self, rfl, rfl, rfl⟩
    · obtain ⟨hserv, hjobs⟩ := peerArrives_waits hd hr hf s.mem q op bs tally h
      exact ⟨_, s.eng.newServe q op bs, hx, hserv, rfl, rfl, rfl, rfl, hjobs, rfl⟩
    · obtain ⟨hserv, hjobs, hout⟩ := peerArrives_faults hd hr hf s.mem q op bs tally ha ht hno hfree
      refine ⟨_, hx, hserv, hjobs, rfl, fun ho => ?_, fun ho => ?_⟩
      · exact answer_get (y := s.eng.newServe q op bs) ho stPaddockFault [] [] 0 0 ▸ hout
      · exact answer_write (y := s.eng.newServe q op bs) ho stPaddockFault [] [] 0 0 ▸ hout
    · obtain ⟨hserv, hnext, hjobs⟩ := peerArrives_serves hd hr hf s.mem q op bs tally ha ht hok
        ((congrArg _ (newServe_want s.eng q op bs)).trans htr) hdest
      exact ⟨_, _, hx, hserv, rfl, rfl, rfl, rfl, hnext, hjobs, rfl⟩
  · subst hq hop
    refine ⟨fun ho hs ht => readReturn_get hl hy hr hdest hw ho hs ht, fun ho hm h0 ht => ?_⟩
    obtain ⟨t, c, hx, hack, hwr, hjobs⟩ := writeAck_write hl hy hr hdest hw ho hm ht
    refine ⟨t, c, hx, hack, fun k hk => ?_, fun g b hb => hwr.around g b ?_, hjobs⟩
    · have hlt : k < y.count := (Nat.le_div_iff_mul_le h0).mpr hk
      exact (hwr.elems k hlt).trans (makes_mod y s.mem tg pa k)
    · have hle : y.count * y.q.ebits ≤ y.q.bits := Nat.div_mul_le_self _ _
      unfold PeerServe.bitOf
      omega

end Sys2Proof.Machine
end

section
/-! The canonical form of the engine's tables (R42, R251, R266, R278, R376, R469): what keeps it, from the named updates upwards. -/

namespace Sys2Proof.Machine

/-- Tables in canonical form: contexts, paddocks, flags, folds, tallies, the vector of peers and the self-test targets. -/
abbrev TablesWf (ctxs : SMap Ctx) (pdks : SMap Paddock) (flags : SMap Flag) (folds : SMap Fold) (tally : SMap Word) (peers : SMap PeerStat)
    (bist : SMap Bist) : Prop :=
  MapWf {} ctxs ∧ MapWf {} pdks ∧ MapWf {} flags ∧ MapWf {} folds ∧ MapWf 0 tally ∧ MapWf {} peers ∧ MapWf {} bist

/-- The engine's tables have their canonical form. -/
def Eng.Canon (e : Eng) : Prop := TablesWf e.ctxs e.pdks e.syn.flags e.syn.folds e.tally e.npi.peers e.svc.bist

theorem tabInv_iff {s : State} : TabInv s ↔ s.eng.Canon := Iff.rfl

variable {e : Eng} {x : Eff}

/-- Tables that are those of an engine in canonical form. -/
theorem Eng.Canon.of (h : TablesWf e.ctxs e.pdks e.syn.flags e.syn.folds e.tally e.npi.peers e.svc.bist) : e.Canon := h

theorem Eng.Canon.ite {c : Prop} [Decidable c] {e e' : Eng} (h : e.Canon) (h' : e'.Canon) : (if c then e else e').Canon := by
  split
  · exact h
  · exact h'

theorem Eng.Canon.iteEff {c : Prop} [Decidable c] {x y : Eff} (h : x.eng.Canon) (h' : y.eng.Canon) : (if c then x else y).eng.Canon := by
  split
  · exact h
  · exact h'

theorem Eng.Canon.foldl {β : Type} {f : Eng → β → Eng} {l : List β} (hc : e.Canon) (hf : ∀ e x, (he : e.Canon) → (f e x).Canon) :
    (l.foldl f e).Canon := by
  induction l generalizing e with
  | nil => exact hc
  | cons x l ih => exact ih (hf _ _ hc)

theorem Eng.Canon.foldlEff {β : Type} {f : Eff → β → Eff} {l : List β} (hc : x.eng.Canon) (hf : ∀ x y, (hx : x.eng.Canon) → (f x y).eng.Canon) :
    (l.foldl f x).eng.Canon := by
  induction l generalizing x with
  | nil => exact hc
  | cons y l ih => exact ih (hf _ _ hc)

theorem Eng.Canon.foldlPump {β : Type} {p : Pump} {f : Pump → β → Pump} {l : List β} (hc : p.e.Canon)
    (hf : ∀ p y, (hp : p.e.Canon) → (f p y).e.Canon) : (l.foldl f p).e.Canon := by
  induction l generalizing p with
  | nil => exact hc
  | cons y l ih => exact ih (hf _ _ hc)

theorem Eng.Canon.foldlDrv {β : Type} {r : DrvResult} {f : DrvResult → β → DrvResult} {l : List β} (hc : r.x.eng.Canon)
    (hf : ∀ r y, (hr : r.x.eng.Canon) → (f r y).x.eng.Canon) : (l.foldl f r).x.eng.Canon := by
  induction l generalizing r with
  | nil => exact hc
  | cons y l ih => exact ih (hf _ _ hc)

theorem Eng.Canon.foldlAck {β : Type} {a : AckState} {f : AckState → β → AckState} {l : List β} (hc : a.r.x.eng.Canon)
    (hf : ∀ a y, (ha : a.r.x.eng.Canon) → (f a y).r.x.eng.Canon) : (l.foldl f a).r.x.eng.Canon := by
  induction l generalizing a with
  | nil => exact hc
  | cons y l ih => exact ih (hf _ _ hc)

theorem Eng.Canon.foldlFst {β γ : Type} {s : Eng × γ} {f : Eng × γ → β → Eng × γ} {l : List β} (hc : s.1.Canon)
    (hf : ∀ s y, (hs : s.1.Canon) → (f s y).1.Canon) : (l.foldl f s).1.Canon := by
  induction l generalizing s with
  | nil => exact hc
  | cons y l ih => exact ih (hf _ _ hc)

theorem Eng.Canon.foldlEffFst {β γ : Type} {s : Eff × γ} {f : Eff × γ → β → Eff × γ} {l : List β} (hc : s.1.eng.Canon)
    (hf : ∀ s y, (hs : s.1.eng.Canon) → (f s y).1.eng.Canon) : (l.foldl f s).1.eng.Canon := by
  induction l generalizing s with
  | nil => exact hc
  | cons y l ih => exact ih (hf _ _ hc)

theorem Eng.Canon.snd {α : Type} {p : α × Eng} {a : α} (hc : p.2.Canon) (hp : p = (a, e)) : e.Canon := by
  subst hp
  exact hc

/-! ### Maps rewritten entry by entry -/

section
variable {α β : Type} {d : α}

/-- A rewriting that keeps every key and lists no default keeps the canonical form. -/
theorem mapWf_map {m : SMap α} {g : Nat × α → Nat × α} (w : MapWf d m) (hk : ∀ x, (g x).1 = x.1) (hd : ∀ x, x.2 ≠ d → (g x).2 ≠ d) :
    MapWf d (m.map g) := by
  refine ⟨List.pairwise_map.mpr (w.1.imp fun h => ?_), fun p hp => ?_⟩
  · rw [hk, hk]
    exact h
  · obtain ⟨x, hx, rfl⟩ := List.mem_map.mp hp
    exact hd x (w.2 x hx)

/-- A rewriting that keeps every key, with the defaults that it makes dropped. -/
theorem mapWf_map_filter [DecidableEq α] {m : SMap α} {g : Nat × α → Nat × α} (w : MapWf d m) (hk : ∀ x, (g x).1 = x.1) :
    MapWf d ((m.map g).filter (·.2 ≠ d)) := by
  refine ⟨(List.pairwise_map.mpr (w.1.imp fun h => ?_)).filter _, fun p hp => of_decide_eq_true (List.mem_filter.mp hp).2⟩
  rw [hk, hk]
  exact h

theorem mapWf_foldl_mapSet [DecidableEq α] {l : List β} {k : β → Nat} {v : β → α} {m : SMap α} (w : MapWf d m) :
    MapWf d (l.foldl (fun t x => mapSet d t (k x) (v x)) m) := by
  induction l generalizing m with
  | nil => exact w
  | cons x l ih => exact ih (mapSet_wf _ _ _ _ w)

end

/-! ### The named updates -/

theorem Eng.Canon.modPower {f} (hc : e.Canon) : (e.modPower f).Canon := hc

theorem Eng.Canon.count {s t n} (hc : e.Canon) : (e.count s t n).Canon := by
  obtain ⟨hctx, hpdk, hflag, hfold, htally, hrest⟩ := hc
  exact .of ⟨hctx, hpdk, hflag, hfold, mapUpd_tally_wf e s t n htally, hrest⟩

theorem Eng.Canon.setCtx {c x} (hc : e.Canon) : (e.setCtx c x).Canon := .of ⟨mapSet_wf _ _ _ _ hc.1, hc.2⟩

theorem Eng.Canon.modPdk {p f} (hc : e.Canon) : (e.modPdk p f).Canon := .of ⟨hc.1, mapUpd_wf _ _ _ _ hc.2.1, hc.2.2⟩

theorem Eng.Canon.setFlag {f x} (hc : e.Canon) : (e.setFlag f x).Canon := by
  obtain ⟨hctx, hpdk, hflag, hrest⟩ := hc
  exact .of ⟨hctx, hpdk, mapSet_wf _ _ _ _ hflag, hrest⟩

theorem Eng.Canon.setFold {g x} (hc : e.Canon) : (e.setFold g x).Canon := by
  obtain ⟨hctx, hpdk, hflag, hfold, hrest⟩ := hc
  exact .of ⟨hctx, hpdk, hflag, mapSet_wf _ _ _ _ hfold, hrest⟩

/-- A vector of peers in canonical form takes the place of the one that stood. -/
theorem Eng.Canon.withPeers {v} (hc : e.Canon) (hv : MapWf {} v) : ({ e with npi := { e.npi with peers := v } } : Eng).Canon := by
  obtain ⟨hctx, hpdk, hflag, hfold, htally, -, hbist⟩ := hc
  exact .of ⟨hctx, hpdk, hflag, hfold, htally, hv, hbist⟩

/-- Self-test targets in canonical form take the place of those that stood. -/
theorem Eng.Canon.withBist {t} (hc : e.Canon) (ht : MapWf {} t) : ({ e with svc := { e.svc with bist := t } } : Eng).Canon := by
  obtain ⟨hctx, hpdk, hflag, hfold, htally, hpeer, -⟩ := hc
  exact .of ⟨hctx, hpdk, hflag, hfold, htally, hpeer, ht⟩

theorem Eng.Canon.modBist {k f} (hc : e.Canon) : (e.modBist k f).Canon := hc.withBist (mapUpd_wf _ _ _ _ hc.2.2.2.2.2.2)

theorem Eng.Canon.emit {o} (hc : e.Canon) : (e.emit o).Canon := hc

theorem Eng.Canon.raise {sub inst code ctx d} (hc : e.Canon) : (e.raise sub inst code ctx d).Canon := hc

theorem Eng.Canon.on {f} (hc : x.eng.Canon) (hf : ∀ e, (he : e.Canon) → (f e).Canon) : (x.on f).eng.Canon := hf _ hc

theorem Eng.Canon.andThen {m f} (hc : x.eng.Canon) (hf : ∀ m e, (he : e.Canon) → (f m e).eng.Canon) : (x.andThen m f).eng.Canon := hf _ _ hc

/-! ### Power -/

end Sys2Proof.Machine
end

section
/-! The operations that the meanings share: what keeps the canonical form of the tables. -/

namespace Sys2Proof.Machine

variable {e : Eng} {x : Eff}

theorem Eng.Canon.dropLines {a n} (hc : e.Canon) : (e.dropLines a n).Canon := by
  unfold Eng.dropLines
  exact .of hc

theorem Eng.Canon.modDrover {n f} (hc : e.Canon) : (e.modDrover n f).Canon := by
  unfold Eng.modDrover
  exact .of hc

theorem Eng.Canon.recordWrite {n pa len w} (hc : e.Canon) : (e.recordWrite n pa len w).Canon := by
  unfold Eng.recordWrite
  exact hc.foldl (fun _ _ he => he.modDrover.count)

theorem Eng.Canon.store {o} (hc : x.eng.Canon) : (x.store o).eng.Canon := by
  unfold Eff.store
  exact hc.dropLines

theorem Eng.Canon.put {o} (hc : x.eng.Canon) : (x.put o).eng.Canon := by
  unfold Eff.put
  refine .store ?_
  split
  · exact hc.on (fun _ he => he.recordWrite)
  · exact hc

theorem Eng.Canon.draw (hc : e.Canon) : e.draw.2.Canon := by
  unfold Eng.draw
  exact .of hc

theorem Eng.Canon.modCtx {c f} (hc : e.Canon) : (e.modCtx c f).Canon := by
  unfold Eng.modCtx
  exact hc.setCtx

theorem Eng.Canon.modJob {h f} (hc : e.Canon) : (e.modJob h f).Canon := by
  unfold Eng.modJob
  exact .of hc

theorem Eng.Canon.dropJob {h} (hc : e.Canon) : (e.dropJob h).Canon := by
  unfold Eng.dropJob
  exact .of hc

theorem Eng.Canon.hostPut {a bs} (hc : e.Canon) : (e.hostPut a bs).Canon := by
  unfold Eng.hostPut
  exact .ite hc.emit (.of hc)

theorem Eng.Canon.releaseHeld (hc : e.Canon) : e.releaseHeld.Canon := by
  unfold Eng.releaseHeld
  exact .ite (.of hc) hc

end Sys2Proof.Machine
end

section
/-! Power states, wakes, admission, lending and rotation (10: R340 to R350): what keeps the canonical form of the tables. -/

namespace Sys2Proof.Machine

variable {e : Eng} {x : Eff}

theorem Eng.Canon.modRegion {r f} (hc : e.Canon) : (e.modRegion r f).Canon := by
  unfold Eng.modRegion
  exact hc.modPower

theorem Eng.Canon.modDom {d f} (hc : e.Canon) : (e.modDom d f).Canon := by
  unfold Eng.modDom
  split
  · exact hc.modRegion
  · exact hc.modPower

theorem Eng.Canon.enter {d st} (hc : e.Canon) : (e.enter d st).Canon := by
  unfold Eng.enter
  exact hc.modDom

theorem Eng.Canon.beginWake {d} (hc : e.Canon) : (e.beginWake d).Canon := by
  unfold Eng.beginWake
  extract_lets x e₁
  have he₁ : e₁.Canon := hc.modDom
  split
  · exact he₁.count
  · exact he₁.count
  · exact he₁

theorem Eng.Canon.wakeEngine (hc : e.Canon) : e.wakeEngine.Canon := by
  unfold Eng.wakeEngine
  extract_lets d
  exact .ite hc (.ite hc.beginWake hc.modDom)

theorem Eng.Canon.lowerQuiet {r} (hc : e.Canon) : (e.lowerQuiet r).Canon := by
  unfold Eng.lowerQuiet
  extract_lets d
  exact .ite hc (.ite (.ite hc hc.enter) (.ite (.ite hc.enter hc) hc))

theorem Eng.Canon.lowerUntil {fits rs} (hc : e.Canon) : (Eng.lowerUntil fits rs e).Canon := by
  induction rs generalizing e with
  | nil => exact hc
  | cons r rs ih =>
    unfold Eng.lowerUntil
    exact .ite hc (ih hc.lowerQuiet)

theorem Eng.Canon.admitRegion {r} (hc : e.Canon) : (e.admitRegion r).Canon := by
  unfold Eng.admitRegion
  exact hc.wakeEngine.beginWake

theorem Eng.Canon.serveQueue {n} (hc : e.Canon) : (e.serveQueue n).Canon := by
  induction n generalizing e with
  | zero => exact hc
  | succ n ih =>
    unfold Eng.serveQueue
    split
    · exact hc
    · split
      · exact hc
      · extract_lets e'
        exact .ite (ih hc.admitRegion) (.ite (ih hc.lowerUntil.admitRegion) hc)

theorem Eng.Canon.beginExit (hc : e.Canon) : e.beginExit.Canon := by
  unfold Eng.beginExit
  exact .ite hc.modPower hc

theorem Eng.Canon.wakeRegion {r} (hc : e.Canon) : (e.wakeRegion r).Canon := by
  unfold Eng.wakeRegion
  extract_lets e₁ d e₂
  have he₁ : e₁.Canon := hc.modRegion
  have he₂ : e₂.Canon := .ite he₁.modPower.modRegion.emit he₁
  exact .ite he₁ he₂.modRegion.serveQueue

theorem Eng.Canon.wakeMany {rs} (hc : e.Canon) : (e.wakeMany rs).Canon := by
  unfold Eng.wakeMany
  exact hc.foldl (fun _ _ he => he.wakeRegion)

theorem Eng.Canon.lowerBusy {r} (hc : e.Canon) : (e.lowerBusy r).Canon := by
  unfold Eng.lowerBusy
  extract_lets p target
  exact .ite hc hc.enter.modRegion

theorem Eng.Canon.lowerFurther {r} (hc : e.Canon) : (e.lowerFurther r).Canon := by
  unfold Eng.lowerFurther
  exact .ite hc.enter hc

theorem Eng.Canon.fitWith {f rs} (hc : e.Canon) (hf : ∀ e r, (he : e.Canon) → (f e r).Canon) : (Eng.fitWith f rs e).Canon := by
  induction rs generalizing e with
  | nil => exact hc
  | cons r rs ih =>
    unfold Eng.fitWith
    exact .ite hc (ih (hf _ _ hc))

theorem Eng.Canon.limitChanged (hc : e.Canon) : e.limitChanged.Canon := by
  unfold Eng.limitChanged
  split
  · exact hc
  · extract_lets e₁ e₂ e₃ e₄
    have he₁ : e₁.Canon := hc.fitWith (fun _ _ he => he.lowerQuiet)
    have he₂ : e₂.Canon := he₁.fitWith (fun _ _ he => he.lowerBusy)
    have he₃ : e₃.Canon := he₂.fitWith (fun _ _ he => he.lowerFurther)
    have he₄ : e₄.Canon := .ite he₃.wakeEngine he₃
    exact he₄.serveQueue

theorem Eng.Canon.lendRegion {r} (hc : e.Canon) : (e.lendRegion r).Canon := by
  unfold Eng.lendRegion
  extract_lets c d
  exact .ite (.ite hc.enter.modRegion.count.serveQueue (.ite hc.enter.serveQueue hc)) hc

theorem Eng.Canon.noteWorkOf {d} (hc : e.Canon) : (e.noteWorkOf d).Canon := by
  unfold Eng.noteWorkOf
  split
  · extract_lets e₁
    have he₁ : e₁.Canon := .ite hc hc.modDom
    split
    · exact he₁.lendRegion
    · exact he₁
  · exact .ite hc.modDom hc

theorem Eng.Canon.noteWork (hc : e.Canon) : e.noteWork.Canon := by
  unfold Eng.noteWork
  exact hc.foldl (fun _ _ he => he.noteWorkOf)

theorem Eng.Canon.noteQuiet {r} (hc : e.Canon) : (e.noteQuiet r).Canon := by
  unfold Eng.noteQuiet
  exact hc.noteWorkOf

theorem Eng.Canon.engineFloor (hc : e.Canon) : e.engineFloor.Canon := by
  unfold Eng.engineFloor
  extract_lets x f
  exact .ite hc.wakeEngine hc

theorem Eng.Canon.floorRaised {r} (hc : e.Canon) : (e.floorRaised r).Canon := by
  unfold Eng.floorRaised
  extract_lets d f
  exact .ite hc.wakeRegion hc

end Sys2Proof.Machine
end

section
/-! Address translation and guard (03: R106 to R114): what keeps the canonical form of the tables. -/

namespace Sys2Proof.Machine

variable {e : Eng} {x : Eff}

theorem Eng.Canon.tlbFill {r p va l} (hc : e.Canon) : (e.tlbFill r p va l).Canon := by
  unfold Eng.tlbFill
  extract_lets old
  dsimp only
  show (if old.length < 8192 then (0, e) else e.draw).2.Canon
  split
  · exact hc
  · exact hc.draw

theorem Eng.Canon.reaches {m r p d} (hc : e.Canon) : (e.reaches m r p d).2.Canon := by
  unfold Eng.reaches
  extract_lets base i src b
  split
  · exact hc
  · split
    · exact hc
    · split
      · exact .of hc
      · exact .of hc

theorem Eng.Canon.noteFault {r pn ctx t} (hc : e.Canon) : (e.noteFault r pn ctx t).Canon := by
  unfold Eng.noteFault
  split
  · exact hc.count
  · exact hc.count.count.raise
  · exact hc

theorem Eng.Canon.startWalk {r pn va} (hc : e.Canon) : (e.startWalk r pn va).Canon := by
  unfold Eng.startWalk
  extract_lets ws src
  exact .ite hc (.count (.of hc))

theorem Eng.Canon.noteMalformed {r pn va level} (hc : e.Canon) : (e.noteMalformed r pn va level).Canon := by
  unfold Eng.noteMalformed
  exact hc.raise

theorem Eng.Canon.wakeFor {q} (hc : e.Canon) : (e.wakeFor q).Canon := by
  unfold Eng.wakeFor
  split
  · exact hc.wakeRegion
  · exact hc

end Sys2Proof.Machine
end

section
/-! The acceptance journal (12: R390 to R398): what keeps the canonical form of the tables. -/

namespace Sys2Proof.Machine

variable {e : Eng} {x : Eff}

theorem Eng.Canon.modJrn {f} (hc : e.Canon) : (e.modJrn f).Canon := by
  unfold Eng.modJrn
  exact .of hc

theorem Eng.Canon.jFlush (hc : e.Canon) : e.jFlush.Canon := by
  unfold Eng.jFlush
  exact .ite hc.emit.modJrn hc

theorem Eng.Canon.jWrite {r} (hc : e.Canon) : (e.jWrite r).Canon := by
  unfold Eng.jWrite
  extract_lets r₁
  exact hc.hostPut.modJrn.count

theorem Eng.Canon.jCarry (hc : e.Canon) : e.jCarry.Canon := by
  unfold Eng.jCarry
  split
  · extract_lets lim old e₁
    have he₁ : e₁.Canon := hc.foldl (fun _ _ he => he.jWrite.count)
    exact he₁.modJrn
  · exact hc

theorem Eng.Canon.jPump (hc : e.Canon) : e.jPump.Canon := by
  unfold Eng.jPump
  split
  · extract_lets n go e₁
    have he₁ : e₁.Canon := hc.modJrn
    exact ((he₁.foldl (fun _ _ he => he.jWrite)).jCarry).jFlush
  · exact hc

theorem Eng.Canon.jAppend {r} (hc : e.Canon) : (e.jAppend r).Canon := by
  unfold Eng.jAppend
  exact hc.modJrn.jPump

theorem Eng.Canon.jPrune (hc : e.Canon) : e.jPrune.Canon := by
  unfold Eng.jPrune
  exact hc.modJrn

theorem Eng.Canon.jRewrite (hc : e.Canon) : e.jRewrite.Canon := by
  unfold Eng.jRewrite
  exact hc.foldl (fun _ _ he => he.hostPut)

end Sys2Proof.Machine
end

section
/-! The context record and its backing store (01: R16; 12: R407): what keeps the canonical form of the tables. -/

namespace Sys2Proof.Machine

variable {e : Eng} {x : Eff}

theorem Eng.Canon.evictCtx {c} (hc : e.Canon) : (e.evictCtx c).eng.Canon := by
  unfold Eng.evictCtx
  exact .put (.of hc)

theorem Eng.Canon.storeIdx {c} (hc : x.eng.Canon) : (x.storeIdx c).eng.Canon := by
  unfold Eff.storeIdx
  extract_lets r
  exact hc.put.put.on (fun _ he => .of he)

theorem Eng.Canon.loadCtx {m c} (hc : e.Canon) : (e.loadCtx m c).Canon := by
  unfold Eng.loadCtx
  split
  · exact hc
  · extract_lets found src e₁
    have he₁ : e₁.Canon := .of hc
    exact .ite he₁ he₁.modCtx

theorem Eng.Canon.touchCtx {m c} (hc : e.Canon) : (e.touchCtx m c).eng.Canon := by
  unfold Eng.touchCtx
  split
  · exact hc
  · extract_lets e₁ src
    have he₁ : e₁.Canon := hc.loadCtx
    split
    · exact .of he₁
    · exact .on (.evictCtx (.of he₁)) (fun _ he => .of he)

end Sys2Proof.Machine
end

section
/-! Rings, doorbells, fetch and completions (02: R39 to R78): what keeps the canonical form of the tables. -/

namespace Sys2Proof.Machine

variable {e : Eng} {x : Eff}

theorem Eng.Canon.parkRing {c cause index retries} (hc : e.Canon) : (e.parkRing c cause index retries).Canon := by
  unfold Eng.parkRing
  exact hc.modCtx

theorem Eng.Canon.signal {c} (hc : e.Canon) : (e.signal c).Canon := by
  unfold Eng.signal
  extract_lets x
  exact .ite hc.emit hc

theorem Eng.Canon.ringStallNow {c} (hc : e.Canon) : (e.ringStallNow c).Canon := by
  unfold Eng.ringStallNow
  extract_lets x
  exact hc.parkRing.raise.signal.count

theorem Eng.Canon.dbIgnored (hc : e.Canon) : e.dbIgnored.Canon := by
  unfold Eng.dbIgnored
  exact hc.count

theorem Eng.Canon.takeTail {c n} (hc : e.Canon) : (e.takeTail c n).Canon := by
  unfold Eng.takeTail
  extract_lets x h
  exact .ite hc.parkRing (.ite hc.dbIgnored hc.modCtx)

theorem Eng.Canon.ringSq {c v} (hc : e.Canon) : (e.ringSq c v).Canon := by
  unfold Eng.ringSq
  split
  · exact hc.dbIgnored
  · split
    · extract_lets late
      exact .ite hc.ringStallNow.takeTail hc.takeTail
    · exact hc.takeTail
    · exact hc.dbIgnored

theorem Eng.Canon.ringCq {c v} (hc : e.Canon) : (e.ringCq c v).Canon := by
  unfold Eng.ringCq
  extract_lets x n
  split
  · exact hc.dbIgnored
  · split
    · exact .ite hc.modCtx hc.dbIgnored
    · exact .ite hc.modCtx hc.dbIgnored
    · exact hc.dbIgnored

theorem Eng.Canon.catchDoorbell {c cq v} (hc : e.Canon) : (e.catchDoorbell c cq v).Canon := by
  unfold Eng.catchDoorbell
  extract_lets set r r₁
  exact .wakeEngine (.wakeRegion (.of hc))

theorem Eng.Canon.doorbell {c cq v} (hc : e.Canon) : (e.doorbell c cq v).Canon := by
  unfold Eng.doorbell
  exact .ite (.noteWorkOf (.ite hc.ringCq hc.ringSq)) hc.catchDoorbell

theorem Eng.Canon.useLines {c ext} (hc : e.Canon) : (e.useLines c ext).Canon := by
  unfold Eng.useLines
  extract_lets x
  exact .ite hc (hc.foldl (fun _ _ he => .of he))

theorem Eng.Canon.mismatch {c timed} (hc : e.Canon) : (e.mismatch c timed).Canon := by
  unfold Eng.mismatch
  exact hc.modCtx

theorem Eng.Canon.fetchEntry {m c reply timed} (hc : e.Canon) : (e.fetchEntry m c reply timed).Canon := by
  unfold Eng.fetchEntry
  extract_lets x e₁ d slots e₂ j e₃
  have he₁ : e₁.Canon := .ite hc.modCtx hc
  have he₂ : e₂.Canon := he₁.useLines
  have he₃ : e₃.Canon := he₂.modCtx
  exact .ite he₁.parkRing.raise (.ite (.jAppend (.of he₃)) he₂.mismatch)

theorem Eng.Canon.fetchOne {m c reply timed} (hc : e.Canon) : (e.fetchOne m c reply timed).eng.Canon := by
  unfold Eng.fetchOne
  exact hc.touchCtx.andThen (fun _ _ he => he.fetchEntry.noteWork)

theorem Eng.Canon.putRing {a host bs} (hc : x.eng.Canon) : (x.putRing a host bs).eng.Canon := by
  unfold Eff.putRing
  split
  · exact hc.on (fun _ he => he.hostPut)
  · exact hc.put

theorem Eng.Canon.storeIdle {c} (hc : x.eng.Canon) : (x.storeIdle c).eng.Canon := by
  unfold Eff.storeIdle
  split
  · exact hc.storeIdx
  · exact hc

theorem Eng.Canon.postRecord {c j} (hc : e.Canon) : (e.postRecord c j).eng.Canon := by
  unfold Eng.postRecord
  extract_lets x bs
  refine .storeIdle ?_
  refine .on (.putRing hc) (fun e₁ he => ?_)
  extract_lets e₂ e₃
  have he₂ : e₂.Canon := he.modCtx
  have he₃ : e₃.Canon := .ite he₂.count he₂
  exact he₃.dropJob.jAppend

theorem Eng.Canon.spoolRecord {c j} (hc : e.Canon) : (e.spoolRecord c j).eng.Canon := by
  unfold Eng.spoolRecord
  extract_lets x
  exact .on (.put hc) (fun _ he => he.modCtx.modJob)

theorem Eng.Canon.endRun {c} (hc : e.Canon) : (e.endRun c).Canon := by
  unfold Eng.endRun
  exact .ite hc hc.signal

theorem Eng.Canon.handOver {j} (hc : e.Canon) : (e.handOver j).Canon := by
  unfold Eng.handOver
  split
  · exact hc.modJob
  · exact hc

theorem Eng.Canon.release {h} (hc : e.Canon) : (e.release h).Canon := by
  unfold Eng.release
  split
  · exact hc
  · exact hc.modJob.handOver

theorem Eng.Canon.finish {h st detail} (hc : e.Canon) : (e.finish h st detail).Canon := by
  unfold Eng.finish
  exact hc.release.modJob.noteQuiet

end Sys2Proof.Machine
end

section
/-! The choice of a lead region and the walker queue (01: R22; 10: R324 to R334): what keeps the canonical form of the tables. -/

namespace Sys2Proof.Machine

variable {e : Eng} {x : Eff}

theorem Eng.Canon.viewRead {m r p c w bad v} (hc : e.Canon) : (e.viewRead m r p c w bad v).2.Canon := by
  unfold Eng.viewRead
  split
  · exact hc
  · split
    · exact hc
    · split
      · exact hc.raise
      · extract_lets ws old
        dsimp only
        show (if old.length < 1024 then (0, e) else e.draw).2.Canon
        split
        · exact hc
        · exact hc.draw

theorem Eng.Canon.readViews {m r j wk bad ss} (hc : e.Canon) : (e.readViews m r j wk bad ss).2.Canon := by
  induction ss generalizing e with
  | nil => exact hc
  | cons s ss ih => exact ih hc.viewRead

theorem Eng.Canon.probe {m r pn a bad} (hc : e.Canon) : (e.probe m r pn a bad).2.Canon := by
  unfold Eng.probe
  extract_lets p e₁ e₂
  have he₁ : e₁.Canon := hc.count
  have he₂ : e₂.Canon := he₁.count
  split
  · exact he₁
  · split
    · exact he₁
    · split
      · exact he₂.tlbFill
      · exact he₂.noteMalformed
      · exact he₂

theorem Eng.Canon.firstRegion {m home j slotWord table bad} (hc : e.Canon) : (e.firstRegion m home j slotWord table bad).2.Canon := by
  unfold Eng.firstRegion
  extract_lets s va
  clear_value va
  split
  · exact hc
  · split
    · exact hc
    · exact hc.probe

theorem Eng.Canon.leadRegion {m j bad} (hc : e.Canon) : (e.leadRegion m j bad).2.Canon := by
  unfold Eng.leadRegion
  extract_lets home dstWord
  split
  · next hr => exact hc.firstRegion.snd hr
  · next hr =>
    have he := hc.firstRegion.snd hr
    split
    · exact he
    · split
      · next hr' => exact he.firstRegion.snd hr'
      · next hr' => exact he.firstRegion.snd hr'

theorem Eng.Canon.grantTest {k} (hc : e.Canon) : (e.grantTest k).Canon := hc.modBist

theorem Eng.Canon.grantCompressor {r} (hc : e.Canon) : (e.grantCompressor r).Canon := by
  unfold Eng.grantCompressor
  split
  · exact hc
  · dsimp only
    split
    · exact hc
    · exact .grantTest (.of hc)
    · exact .modJob (.of hc)

theorem Eng.Canon.drawWalker {r} (hc : e.Canon) : (e.drawWalker r).2.Canon := by
  unfold Eng.drawWalker
  extract_lets e₁ src
  have he₁ : e₁.Canon := hc.grantCompressor
  dsimp only
  split
  · exact .of he₁
  · exact .grantTest (.of he₁)
  · exact .of he₁

theorem Eng.Canon.park {q who} (hc : e.Canon) : (e.park q who).Canon := by
  unfold Eng.park
  extract_lets port full x src e₁
  have he₁ : e₁.Canon := .of hc
  exact .ite hc (.ite he₁ he₁.count)

theorem Eng.Canon.openPort {port} (hc : e.Canon) : (e.openPort port).2.Canon := by
  unfold Eng.openPort
  extract_lets here parked free src
  exact .of hc

end Sys2Proof.Machine
end

section
/-! Armed injections at the first write (11: R375): what keeps the canonical form of the tables. -/

namespace Sys2Proof.Machine

variable {e : Eng} {x : Eff}

theorem Eng.Canon.injectSeen (hc : e.Canon) : e.injectSeen.Canon := by
  unfold Eng.injectSeen
  extract_lets i now w src
  exact .ite (.of hc) hc

theorem Eng.Canon.disarm (hc : e.Canon) : e.disarm.Canon := by
  unfold Eng.disarm
  extract_lets e₁ src src₁
  have he₁ : e₁.Canon := hc.injectSeen
  exact .of he₁

theorem Eng.Canon.alertTick {c} (hc : e.Canon) : (e.alertTick c).Canon := by
  unfold Eng.alertTick
  split
  · split
    · extract_lets src src₁ e₁
      have he₁ : e₁.Canon := .of hc
      exact .ite he₁.count he₁
    · exact hc
  · exact hc

end Sys2Proof.Machine
end

section
/-! What passing time does (00: R9 to R11): what keeps the canonical form of the tables. -/

namespace Sys2Proof.Machine

variable {e : Eng} {x : Eff}

theorem Eng.Canon.countWaits {cycles} (hc : e.Canon) : (e.countWaits cycles).Canon := by
  have hb : MapWf {} (e.countWaits cycles).svc.bist := by
    refine mapWf_map hc.2.2.2.2.2.2 (fun x => ?_) fun x hx => ?_
    · split <;> rfl
    · split
      · next hw =>
        have h1 : x.2.wants = true := by simp_all
        exact fun h0 => absurd ((congrArg Bist.wants h0).symm.trans h1) (by decide)
      · exact hx
  exact hc.withBist hb

theorem Eng.Canon.suspendStopped (hc : e.Canon) : e.suspendStopped.Canon := by
  refine .of ⟨mapWf_map hc.1 (fun x => ?_) fun x hx => ?_, hc.2⟩
  · split
    · split <;> rfl
    · rfl
  · split
    · split
      · exact fun h0 => Option.some_ne_none _ (congrArg Ctx.refetch h0)
      · exact hx
    · exact hx

theorem Eng.Canon.tallyCycles {cycles} (hc : e.Canon) : (e.tallyCycles cycles).Canon := by
  unfold Eng.tallyCycles
  extract_lets x x₁
  have hx : x.Canon := .ite hc.count hc
  have hx₁ : x₁.Canon := by
    unfold x₁
    refine hx.foldl (fun e₁ x₂ he => ?_)
    extract_lets x₃ x₄
    have hx₃ : x₃.Canon := .ite he.count he
    have hx₄ : x₄.Canon := .ite hx₃.count hx₃
    exact .ite hx₄.count hx₄
  exact hx₁.foldl (fun _ _ he => .ite he.count he)

theorem Eng.Canon.elapse {n} (hc : e.Canon) : (e.elapse n).Canon := by
  unfold Eng.elapse
  extract_lets p k step x src src₁
  have hx : x.Canon := .ite hc hc.countWaits.tallyCycles.suspendStopped.injectSeen.alertTick
  exact .of hx

theorem Eng.Canon.advanceTo {t} (hc : e.Canon) : (e.advanceTo t).Canon := by
  unfold Eng.advanceTo
  exact .ite hc.elapse hc

theorem Eng.Canon.advanceCycles {c} (hc : e.Canon) : (e.advanceCycles c).Canon := by
  unfold Eng.advanceCycles
  exact .ite hc.elapse hc

theorem Eng.Canon.advanceFrom {t n} (hc : e.Canon) : (e.advanceFrom t n).Canon := by
  unfold Eng.advanceFrom
  exact hc.advanceTo

theorem Eng.Canon.passCycles {n} (hc : e.Canon) : (e.passCycles n).Canon := by
  unfold Eng.passCycles
  exact hc.advanceFrom

end Sys2Proof.Machine
end

section
/-! Register pages and the return from Dormant (14: R467; 10: R346): what keeps the canonical form of the tables. -/

namespace Sys2Proof.Machine

variable {e : Eng} {x : Eff}

theorem Eng.Canon.loadSeeds (hc : e.Canon) : e.loadSeeds.Canon := by
  unfold Eng.loadSeeds
  exact .of hc

theorem Eng.Canon.coldCaches (hc : e.Canon) : e.coldCaches.Canon := by
  unfold Eng.coldCaches
  exact .of hc

theorem Eng.Canon.restoreHomes {m} (hc : e.Canon) : (e.restoreHomes m).Canon := by
  unfold Eng.restoreHomes
  split
  · exact hc
  · extract_lets image found
    split
    · exact hc
    · obtain ⟨hctx, hpdk, -, -, hrest⟩ := hc
      exact .of ⟨hctx, hpdk, mapWf_foldl_mapSet (mapWf_nil _), mapWf_foldl_mapSet (mapWf_nil _), hrest⟩

theorem Eng.Canon.exitDormant {m} (hc : e.Canon) : (e.exitDormant m).Canon := by
  unfold Eng.exitDormant
  extract_lets e₁ e₂ src e₃
  have he₂ : e₂.Canon := (hc.restoreHomes.coldCaches.loadSeeds.modPower.foldl fun _ _ he => he.enter).enter
  have he₃ : e₃.Canon := he₂.withBist (mapWf_map_filter he₂.2.2.2.2.2.2 fun _ => rfl)
  exact (Eng.Canon.ite he₃.wakeEngine he₃).engineFloor.serveQueue

theorem Eng.Canon.ended {m} (hc : e.Canon) : (e.ended m).Canon := by
  unfold Eng.ended
  split
  · extract_lets e₁
    have he₁ : e₁.Canon := hc.beginExit
    exact he₁.advanceTo.exitDormant
  · exact hc

theorem Eng.Canon.reach {m sub} (hc : e.Canon) : (e.reach m sub).Canon := by
  unfold Eng.reach
  exact .ite hc hc.ended

theorem Eng.Canon.access {m sub f} (hc : e.Canon) (hf : ∀ e, (he : e.Canon) → (f e).Canon) : (e.access m sub f).Canon := by
  unfold Eng.access
  exact .ite (hf _ hc.reach) hc

end Sys2Proof.Machine
end

section
/-! Completions, the spool and the commands of CXS_CTX_CMD (02: R41 to R77): what keeps the canonical form of the tables. -/

namespace Sys2Proof.Machine

variable {e : Eng} {x : Eff}

theorem Eng.Canon.ctxResult {r} (hc : e.Canon) : (e.ctxResult r).Canon := by
  unfold Eng.ctxResult
  exact .of hc

theorem Eng.Canon.ctxCommand {m legal f} (hc : e.Canon) (hf : ∀ c x e, (he : e.Canon) → (f c x e).Canon) : (e.ctxCommand m legal f).Canon := by
  unfold Eng.ctxCommand
  refine hc.access (fun a he => ?_)
  split
  · exact he
  · extract_lets x
    exact .ite (hf _ _ _ he.ctxResult) he.ctxResult

theorem Eng.Canon.close {c k} (hc : e.Canon) : (e.close c k).Canon := by
  unfold Eng.close
  extract_lets src src₁
  have hsrc : src.Canon := hc.modCtx
  exact .of hsrc

theorem Eng.Canon.cancelUnbegun {c} (hc : e.Canon) : (e.cancelUnbegun c).Canon := by
  unfold Eng.cancelUnbegun
  exact hc.foldl (fun _ _ he => he.finish)

end Sys2Proof.Machine
end

section
/-! The windows of a sweep at the Drovers (09: R305 to R307): what keeps the canonical form of the tables. -/

namespace Sys2Proof.Machine

variable {e : Eng} {x : Eff}

theorem Eng.Canon.modSweep {h f} (hc : e.Canon) : (e.modSweep h f).Canon := by
  unfold Eng.modSweep
  exact .of hc

theorem Eng.Canon.abandonCopy {q next} (hc : e.Canon) : (e.abandonCopy q next).Canon := by
  unfold Eng.abandonCopy
  split
  · split
    · exact hc
    · exact hc.modSweep.count
  · exact hc

end Sys2Proof.Machine
end

section
/-! The streams of a descriptor (03: R88 to R101): what keeps the canonical form of the tables. -/

namespace Sys2Proof.Machine

variable {e : Eng} {x : Eff}

theorem Eng.Canon.castElem {j p v} (hc : e.Canon) : (e.castElem j p v).2.Canon := by
  unfold Eng.castElem
  split
  · exact hc
  · extract_lets c r w b src
    exact .count (.count (.count (.count (.of hc))))

theorem Eng.Canon.castGrant {j} (hc : e.Canon) : (e.castGrant j).1.Canon := by
  unfold Eng.castGrant
  dsimp only
  refine hc.foldlFst (fun s y hs => ?_)
  split
  · exact hs.castElem
  · exact hs

theorem Eng.Canon.castAll {n j} (hc : e.Canon) : (e.castAll n j).1.Canon := by
  induction n generalizing e j with
  | zero => exact hc
  | succ n ih =>
    unfold Eng.castAll
    split
    · exact ih hc.castGrant
    · exact hc

end Sys2Proof.Machine
end

section
/-! Requests of a descriptor, and how it ends (03: R106 to R119; 02: R72, R73): what keeps the canonical form of the tables. -/

namespace Sys2Proof.Machine

variable {e : Eng} {x : Eff}

theorem Eng.Canon.pumpPut {p : Pump} {st k x} (hc : p.e.Canon) : (p.put st k x).e.Canon := by
  unfold Pump.put
  exact hc

theorem Eng.Canon.pumpLook {p : Pump} {st k} (hc : p.e.Canon) : (p.look st k).e.Canon := by
  unfold Pump.look
  extract_lets key src
  split
  · exact hc
  · exact hc.count

theorem Eng.Canon.pumpAccept {p : Pump} {st k q v bad} (hc : p.e.Canon) : (p.accept st k q v bad).e.Canon := by
  unfold Pump.accept
  extract_lets q₁
  exact hc.wakeFor

theorem Eng.Canon.pumpSend {p : Pump} {m st k q v bad} (hc : p.e.Canon) : (p.send m st k q v bad).e.Canon := by
  unfold Pump.send
  split
  · exact hc.pumpAccept
  · extract_lets e
    have he : e.Canon := hc.wakeFor
    exact .ite he he.park

theorem Eng.Canon.pumpResend {p : Pump} {st k q v bad} (hc : p.e.Canon) : (p.resend st k q v bad).e.Canon := by
  unfold Pump.resend
  split
  · exact hc.pumpAccept
  · exact hc

theorem Eng.Canon.pumpFire {p : Pump} {m st k va bit v bad} (hc : p.e.Canon) : (p.fire m st k va bit v bad).e.Canon := by
  unfold Pump.fire
  extract_lets j d w p₁
  have hp₁ : p₁.e.Canon := hc.pumpLook
  split
  · split
    · exact hp₁.pumpSend
    · exact hp₁.startWalk
    · exact hp₁.noteFault
  · dsimp only
    split
    · exact hc.reaches.noteFault
    · split
      · exact hc.reaches
      · exact .pumpSend hc.reaches

theorem Eng.Canon.noteMerge {m j a b} (hc : e.Canon) : (e.noteMerge m j a b).Canon := by
  unfold Eng.noteMerge
  split
  · exact hc
  · split
    · split
      · exact hc.count
      · exact hc
    · exact hc

theorem Eng.Canon.pumpTryRead {p : Pump} {m st k} (hc : p.e.Canon) : (Pump.tryRead m st p k).e.Canon := by
  unfold Pump.tryRead
  split
  · exact hc.pumpResend
  · split
    · exact hc
    · exact hc.pumpPut
    · refine Eng.Canon.pumpPut ?_
      split
      · exact hc.count
      · exact hc
    · extract_lets shared
      clear_value shared
      split
      · exact .ite hc.noteMerge hc
      · exact hc.pumpFire

theorem Eng.Canon.pumpFireDst {p : Pump} {m k} (hc : p.e.Canon) : (p.fireDst m k).e.Canon := by
  unfold Pump.fireDst
  extract_lets go whole
  split
  · refine hc.foldlPump (fun p₁ y hp => ?_)
    unfold go
    split
    · split
      · exact hp.pumpPut
      · exact hp.pumpFire
    · exact hp
  · unfold go
    split
    · split
      · exact hc.pumpPut
      · exact hc.pumpFire
    · exact hc

theorem Eng.Canon.pumpTryDst {p : Pump} {m k} (hc : p.e.Canon) : (p.tryDst m k).e.Canon := by
  unfold Pump.tryDst
  extract_lets p₁ gated src
  have hp₁ : p₁.e.Canon := hc.pumpLook
  split
  · exact hc.pumpResend
  · unfold gated
    split
    · split
      · exact hc.pumpPut
      · exact .pumpPut hp₁.noteFault
      · exact hc.pumpPut
      · exact hc.pumpPut
      · exact hc.pumpFireDst
    · exact hc
  · unfold gated
    split
    · split
      · exact hc.pumpPut
      · exact .pumpPut hp₁.noteFault
      · exact hc.pumpPut
      · exact hc.pumpPut
      · exact hc.pumpFireDst
    · exact hc
  · split
    · exact hc
    · split
      · exact hc
      · exact hc.pumpPut
      · split
        · exact hc.pumpPut
        · exact .pumpPut hc.count
        · split
          · exact hc
          · unfold gated
            split
            · split
              · exact hc.pumpPut
              · exact .pumpPut hp₁.noteFault
              · exact hc.pumpPut
              · exact hc.pumpPut
              · exact hc.pumpFireDst
            · exact hc
        · exact hc
  · exact hc

theorem Eng.Canon.pumpTryScaleOut {p : Pump} {m b} (hc : p.e.Canon) : (p.tryScaleOut m b).e.Canon := by
  unfold Pump.tryScaleOut
  extract_lets go
  split
  · exact hc.pumpResend
  · unfold go
    split
    · exact hc.pumpFire
    · exact hc.pumpPut
  · split
    · exact hc
    · exact hc.pumpPut
    · dsimp only
      unfold go
      dsimp only
      split
      · refine .pumpFire ?_
        dsimp only
        split
        · exact .ite hc.draw.count hc.draw
        · exact .ite (.count hc) hc
      · refine .pumpPut ?_
        dsimp only
        split
        · exact .ite hc.draw.count hc.draw
        · exact .ite (.count hc) hc
  · exact hc

theorem Eng.Canon.sendDie {d pa bit bits write} (hc : e.Canon) : (e.sendDie d pa bit bits write).Canon := by
  unfold Eng.sendDie
  extract_lets a n
  refine hc.foldl (fun e₁ x he => ?_)
  extract_lets first lastBits
  exact he.emit

theorem Eng.Canon.sendNpi {d msg} (hc : e.Canon) : (e.sendNpi d msg).Canon := by
  unfold Eng.sendNpi
  extract_lets src src₁
  have hsrc : src.Canon := hc.emit
  exact .of hc

theorem Eng.Canon.sendRun {j run} (hc : e.Canon) : (e.sendRun j run).Canon := by
  unfold Eng.sendRun
  split
  · exact hc
  · extract_lets w n v bytes q
    split
    · exact hc
    · exact .ite hc.hostPut hc.emit
    · exact hc.sendDie
    · exact .ite hc.sendNpi (.ite hc.sendNpi.count hc.sendNpi)

theorem Eng.Canon.pumpWalkOn {p : Pump} (hc : p.e.Canon) : p.walkOn.e.Canon := by
  unfold Pump.walkOn
  split
  · exact hc
  · exact hc

theorem Eng.Canon.pumpPass {p : Pump} {m} (hc : p.e.Canon) : (p.pass m).e.Canon := by
  unfold Pump.pass
  extract_lets p₁ p₂ p₃ p₄
  have hp₁ : p₁.e.Canon := hc.pumpWalkOn
  have hp₂ : p₂.e.Canon := by
    unfold p₂
    exact hp₁.foldlPump (fun _ _ hp => hp.pumpTryRead)
  have hp₃ : p₃.e.Canon := by
    unfold p₃
    exact hp₂.foldlPump (fun _ _ hp => hp.pumpTryRead)
  have hp₄ : p₄.e.Canon := by
    unfold p₄
    exact hp₃.foldlPump (fun _ _ hp => hp.pumpTryRead)
  dsimp only
  exact .foldlPump (.foldlPump hp₄.castAll (fun _ _ hp => hp.pumpTryDst)) (fun _ _ hp => hp.pumpTryScaleOut)

theorem Eng.Canon.pumpJob {m h} (hc : e.Canon) : (e.pumpJob m h).Canon := by
  unfold Eng.pumpJob
  split
  · exact hc
  · split
    · exact hc
    · extract_lets p
      have hp : p.e.Canon := by
        unfold p
        exact .foldlPump hc (fun _ _ hp => hp.pumpPass)
      exact (hp.foldl (fun _ _ he => he.sendRun)).modJob

theorem Eng.Canon.writeApplied {h pick} (hc : e.Canon) : (e.writeApplied h pick).Canon := by
  unfold Eng.writeApplied
  split
  · exact hc
  · extract_lets rs left e₁
    have he₁ : e₁.Canon := hc.modJob
    exact he₁.foldl (fun _ _ he => he.jAppend)

theorem Eng.Canon.writeAllApplied {h} (hc : e.Canon) : (e.writeAllApplied h).Canon := by
  unfold Eng.writeAllApplied
  exact hc.writeApplied

theorem Eng.Canon.noteChunks {h cs} (hc : e.Canon) : (e.noteChunks h cs).Canon := by
  unfold Eng.noteChunks
  split
  · exact hc
  · split
    · exact hc
    · extract_lets new
      exact .ite hc hc.modJob.writeApplied

theorem Eng.Canon.noteDropped {h} (hc : e.Canon) : (e.noteDropped h).Canon := by
  unfold Eng.noteDropped
  split
  · exact hc
  · exact hc.noteChunks

theorem Eng.Canon.freeWalkerOf {h} (hc : e.Canon) : (e.freeWalkerOf h).Canon := by
  unfold Eng.freeWalkerOf
  split
  · exact hc
  · exact hc.modJob.handOver.noteQuiet

theorem Eng.Canon.checkEnd {h} (hc : e.Canon) : (e.checkEnd h).Canon := by
  unfold Eng.checkEnd
  split
  · exact hc
  · split
    · exact hc
    · extract_lets e₁ e₂
      have he₁ : e₁.Canon := .ite hc.freeWalkerOf hc
      have he₂ : e₂.Canon := .ite he₁.writeAllApplied he₁
      exact .ite he₂.finish he₁

theorem Eng.Canon.advanceJob {m h} (hc : e.Canon) : (e.advanceJob m h).Canon := by
  unfold Eng.advanceJob
  exact hc.pumpJob.noteDropped.checkEnd

theorem Eng.Canon.dataStep {m h n op} (hc : e.Canon) : (e.dataStep m h n op).Canon := by
  unfold Eng.dataStep
  split
  · exact hc
  · split
    · exact hc
    · split
      · exact hc.finish
      · exact hc.modJob.advanceJob

end Sys2Proof.Machine
end

section
/-! What a Drover does with a request (05: R160 to R171): what keeps the canonical form of the tables. -/

namespace Sys2Proof.Machine

variable {e : Eng} {x : Eff}

theorem Eng.Canon.noteUncorr {n ctx pa} (hc : e.Canon) : (e.noteUncorr n ctx pa).Canon := by
  unfold Eng.noteUncorr
  exact hc.raise

theorem Eng.Canon.drvResultWrite {r : DrvResult} {m t o bad} (hc : r.x.eng.Canon) : (r.write m t o bad).x.eng.Canon := by
  unfold DrvResult.write
  extract_lets mem len hit e
  have he : e.Canon := .ite hc.count hc
  dsimp only
  refine .store ?_
  dsimp only
  split
  · refine .count ?_
    refine .recordWrite ?_
    split
    · exact hc
    · split
      · exact .ite he he.noteUncorr
      · exact he
  · refine .recordWrite ?_
    split
    · exact hc
    · split
      · exact .ite he he.noteUncorr
      · exact he

end Sys2Proof.Machine
end

section
/-! Reads that return and writes that are acknowledged (08: R235 to R237): what keeps the canonical form of the tables. -/

namespace Sys2Proof.Machine

variable {e : Eng} {x : Eff}

theorem Eng.Canon.machineReadOne {p : Pump} {m st reply badIn bit0 k i} (hc : p.e.Canon) : (readOne m st reply badIn bit0 p k i).e.Canon := by
  unfold readOne
  extract_lets j w x
  split
  · extract_lets bw
    split
    · exact hc
    · split
      · extract_lets word
        split
        · exact hc
        · extract_lets x₁
          exact .foldlPump hc (fun _ _ hp => .ite hp hp.noteUncorr)
        · split
          · exact hc
          · exact hc.wakeFor
      · split
        · exact hc
        · split
          · exact hc
          · exact hc
  · exact hc

theorem Eng.Canon.holdReads {h st pos n} (hc : e.Canon) : (e.holdReads h st pos n).Canon := by
  unfold Eng.holdReads
  split
  · exact hc
  · extract_lets ks
    split
    · exact hc
    · exact hc.count.modJob

theorem Eng.Canon.jobRead {m h st pos n reply} (hc : e.Canon) : (e.jobRead m h st pos n reply).Canon := by
  unfold Eng.jobRead
  split
  · exact hc
  · split
    · exact hc
    · extract_lets p
      have hp : p.e.Canon := by
        unfold p
        exact .foldlPump hc (fun _ _ hp => hp.machineReadOne)
      exact hp.modJob.holdReads

theorem Eng.Canon.machineAckOne {x : AckState} {m st reply badIn k} (hc : x.r.x.eng.Canon) : (ackOne m st reply badIn x k).r.x.eng.Canon := by
  unfold ackOne
  extract_lets j e src
  have he : e.Canon := hc
  have hsrc : src.x.eng.Canon := hc
  split
  · split
    · exact hc
    · split
      · extract_lets write
        split
        · exact hc
        · exact hc.drvResultWrite
        · exact hc.on (fun _ he => he.wakeFor)
        · exact hc.drvResultWrite
        · exact .drvResultWrite (hc.on (fun _ he => he.abandonCopy))
      · split
        · exact hc
        · split
          · exact hc
          · exact hc
  · exact hc

theorem Eng.Canon.drvResultFillMates {r : DrvResult} {m j pos n} (hc : r.x.eng.Canon) : (r.fillMates m j pos n).x.eng.Canon := by
  unfold DrvResult.fillMates
  refine hc.foldlDrv (fun r₁ y hr => ?_)
  refine hr.foldlDrv (fun r₂ y₁ hr₁ => ?_)
  extract_lets pa src q src₁
  split
  · exact hr₁.drvResultWrite
  · exact hr₁

theorem Eng.Canon.jobAck {m h st pos n reply} (hc : e.Canon) : (e.jobAck m h st pos n reply).eng.Canon := by
  unfold Eng.jobAck
  split
  · exact hc
  · split
    · exact hc
    · extract_lets peer x r src j
      have hx : x.r.x.eng.Canon := by
        unfold x
        exact .foldlAck hc (fun _ _ ha => ha.machineAckOne)
      have hr : r.x.eng.Canon := by
        unfold r
        split
        · exact hx.drvResultFillMates
        · exact hx
      refine hr.on (fun e₁ he => ?_)
      extract_lets e₂
      have he₂ : e₂.Canon := he.modJob
      exact .ite he₂.noteChunks he₂

end Sys2Proof.Machine
end

section
/-! Data requests of peers and compute dies (01: R32; 08: R246): what keeps the canonical form of the tables. -/

namespace Sys2Proof.Machine

variable {e : Eng} {x : Eff}

theorem Eng.Canon.heard {m d} (hc : e.Canon) : (e.heard m d).Canon := by
  unfold Eng.heard
  extract_lets src npi
  exact .wakeEngine (.ended (.of hc))

theorem Eng.Canon.endDisables (hc : e.Canon) : e.endDisables.Canon := by
  unfold Eng.endDisables
  exact .of hc

theorem Eng.Canon.answerPeer {s st bad bs col rep} (hc : e.Canon) : (e.answerPeer s st bad bs col rep).Canon := by
  unfold Eng.answerPeer
  extract_lets held src e₁
  have he₁ : e₁.Canon := .of hc
  split
  · exact he₁.emit
  · exact he₁.emit

theorem Eng.Canon.modServe {s} (hc : e.Canon) : (e.modServe s).Canon := by
  unfold Eng.modServe
  exact .of hc

theorem Eng.Canon.sendPeerOn {s x} (hc : e.Canon) : (e.sendPeerOn s x).Canon := by
  unfold Eng.sendPeerOn
  extract_lets q e₁
  have he₁ : e₁.Canon := hc.modServe
  split
  · exact he₁.wakeFor
  · exact .ite he₁.hostPut he₁.emit
  · exact he₁.sendDie
  · exact he₁

theorem Eng.Canon.startPeer {m s} (hc : e.Canon) : (e.startPeer m s).Canon := by
  unfold Eng.startPeer
  extract_lets q r n part
  split
  · exact hc
  · split
    · exact .ite hc.sendPeerOn hc
    · split
      · exact hc.wakeRegion
      · dsimp only
        split
        · exact .ite hc.reaches.noteFault.answerPeer (.ite hc.reaches.sendPeerOn hc.reaches.modServe.wakeFor.park)
        · exact hc.reaches.startWalk
        · exact hc.reaches.noteFault.answerPeer

theorem Eng.Canon.peerArrives {m q op bs} (hc : e.Canon) : (e.peerArrives m q op bs).Canon := by
  unfold Eng.peerArrives
  extract_lets e₁ s src e₂
  have he₁ : e₁.Canon := hc.heard
  have he₂ : e₂.Canon := .of he₁
  exact .ite he₁.emit he₂.count.startPeer

theorem Eng.Canon.drvResultFillPeers {r : DrvResult} {m s t} (hc : r.x.eng.Canon) : (r.fillPeers m s t).x.eng.Canon := by
  unfold DrvResult.fillPeers
  refine hc.foldlDrv (fun r₁ y hr => ?_)
  split
  · split
    · refine hr.foldlDrv (fun r₂ y₁ hr₁ => ?_)
      extract_lets w
      split
      · exact hr₁.drvResultWrite
      · exact hr₁
    · exact hr
  · exact hr

theorem Eng.Canon.peerAck {m id reply} (hc : e.Canon) : (e.peerAck m id reply).eng.Canon := by
  unfold Eng.peerAck
  split
  · exact hc
  · split
    · exact hc
    · split
      · exact hc
      · split
        · split
          · exact hc.wakeFor
          · exact hc.answerPeer
          · extract_lets e₁ bad r r₁
            have he₁ : e₁.Canon := by
              unfold e₁
              split
              · exact hc.abandonCopy
              · exact hc
            have hr : r.x.eng.Canon := by
              unfold r
              exact .foldlDrv he₁ (fun _ _ hr => hr.drvResultWrite)
            have hr₁ : r₁.x.eng.Canon := hr.drvResultFillPeers
            exact hr₁.on (fun _ he => he.answerPeer)
        · split
          · exact hc.answerPeer.endDisables
          · exact hc

theorem Eng.Canon.answerGet {s st ws bs} (hc : e.Canon) : (e.answerGet s st ws bs).Canon := by
  unfold Eng.answerGet
  exact .ite hc.answerPeer (.answerPeer (.of hc))

theorem Eng.Canon.peerRead {m id reply} (hc : e.Canon) : (e.peerRead m id reply).Canon := by
  unfold Eng.peerRead
  split
  · exact hc
  · split
    · exact hc
    · split
      · exact hc
      · extract_lets ws len
        split
        · split
          · exact .ite (.ite hc hc.count.modServe) hc.wakeFor
          · exact hc.answerGet
          · exact (hc.foldl (fun _ _ he => he.noteUncorr)).answerGet
        · exact .ite hc.answerGet.endDisables hc

theorem Eng.Canon.answerDie {s st bs} (hc : e.Canon) : (e.answerDie s st bs).Canon := by
  unfold Eng.answerDie
  exact .emit (.endDisables (.of hc))

theorem Eng.Canon.modDieServe {s t} (hc : e.Canon) : (e.modDieServe s t).Canon := by
  unfold Eng.modDieServe
  exact .of hc

theorem Eng.Canon.startDie {s} (hc : e.Canon) : (e.startDie s).Canon := by
  unfold Eng.startDie
  extract_lets a p
  split
  · exact hc
  · split
    · exact .ite hc.modDieServe.wakeFor hc
    · split
      · exact hc.wakeRegion
      · split
        · exact .ite hc.modDieServe.wakeFor hc.modDieServe.wakeFor.park
        · exact hc.startWalk
        · exact hc.noteFault.answerDie

theorem Eng.Canon.dieAck {id} (hc : e.Canon) : (e.dieAck id).eng.Canon := by
  unfold Eng.dieAck
  split
  · exact hc
  · split
    · exact hc
    · split
      · exact hc
      · split
        · split
          · exact hc.wakeFor
          · exact hc.answerDie
          · extract_lets e₁
            have he₁ : e₁.Canon := by
              unfold e₁
              split
              · exact hc.abandonCopy
              · exact hc
            exact .on (.store he₁.recordWrite) (fun _ he => he.answerDie)
        · exact hc

theorem Eng.Canon.dieRead {m id reply} (hc : e.Canon) : (e.dieRead m id reply).Canon := by
  unfold Eng.dieRead
  split
  · exact hc
  · split
    · exact hc
    · split
      · exact hc
      · split
        · split
          · exact .ite (.ite hc hc.count.modDieServe) hc.wakeFor
          · exact hc.answerDie
          · exact .ite hc.noteUncorr.answerDie (.ite hc.answerDie hc.answerDie)
        · exact hc

theorem Eng.Canon.retryOthers {m r} (hc : e.Canon) : (e.retryOthers m r).Canon := by
  unfold Eng.retryOthers
  extract_lets e₁
  have he₁ : e₁.Canon := hc.foldl (fun _ _ he => he.startPeer)
  exact he₁.foldl (fun _ _ he => he.startDie)

theorem Eng.Canon.resumeOther {m u} (hc : e.Canon) : (e.resumeOther m u).Canon := by
  unfold Eng.resumeOther
  split
  · split
    · exact hc.startPeer
    · exact hc
  · split
    · exact hc.startDie
    · exact hc
  · exact hc

end Sys2Proof.Machine
end

section
/-! Requests for a yield (10: R329 to R335): what keeps the canonical form of the tables. -/

namespace Sys2Proof.Machine

variable {e : Eng} {x : Eff}

theorem Eng.Canon.askYield {holder waiter l} (hc : e.Canon) : (e.askYield holder waiter l).Canon := by
  unfold Eng.askYield
  split
  · exact hc
  · cases waiter with
    | job k => exact hc.modJob
    | test k => exact hc.modBist.modJob

theorem Eng.Canon.askStarved {r} (hc : e.Canon) : (e.askStarved r).Canon := by
  unfold Eng.askStarved
  extract_lets e₁
  have he₁ : e₁.Canon := by
    unfold e₁
    refine hc.foldl (fun e₂ x he => ?_)
    refine he.foldl (fun e₃ x₁ he₁ => ?_)
    split
    · exact he₁.askYield
    · exact he₁
  refine he₁.foldl (fun e₂ x he => ?_)
  extract_lets l
  split
  · exact he.askYield
  · exact he

end Sys2Proof.Machine
end

section
/-! EXPAND and COMPRESS (07: R212 to R234): what keeps the canonical form of the tables. -/

namespace Sys2Proof.Machine

variable {e : Eng} {x : Eff}

theorem Eng.Canon.pumpTryGiven {p : Pump} {m k} (hc : p.e.Canon) : (p.tryGiven m k).e.Canon := by
  unfold Pump.tryGiven
  extract_lets src go
  split
  · unfold go
    split
    · exact hc.pumpFire
    · exact hc.pumpPut
    · exact .pumpPut hc.count
    · exact hc
  · unfold go
    split
    · exact hc.pumpFire
    · exact hc.pumpPut
    · exact .pumpPut hc.count
    · exact hc
  · exact hc.pumpResend
  · exact hc

theorem Eng.Canon.pumpCerhus {m h} (hc : e.Canon) : (e.pumpCerhus m h).Canon := by
  unfold Eng.pumpCerhus
  split
  · exact hc
  · split
    · exact hc
    · extract_lets p p₁ p₂ p₃
      have hp : p.e.Canon := hc
      have hp₁ : p₁.e.Canon := by
        unfold p₁
        exact hp.foldlPump (fun _ _ hp => hp.pumpTryRead)
      have hp₂ : p₂.e.Canon := by
        unfold p₂
        exact .foldlPump hp₁ (fun _ _ hp => hp.pumpTryRead)
      have hp₃ : p₃.e.Canon := by
        unfold p₃
        exact hp₂.foldlPump (fun _ _ hp => hp.pumpTryGiven)
      exact (hp₃.foldl (fun _ _ he => he.sendRun)).modJob

theorem Eng.Canon.takeSet {m h i} (hc : e.Canon) : (e.takeSet m h i).Canon := by
  unfold Eng.takeSet
  split
  · exact hc
  · split
    · extract_lets n d
      exact .ite hc (.ite hc.modDrover.modJob hc.modJob)
    · exact hc

theorem Eng.Canon.takeSets {m h} (hc : e.Canon) : (e.takeSets m h).Canon := by
  unfold Eng.takeSets
  split
  · exact hc
  · exact hc.modJob.foldl (fun _ _ he => he.takeSet)

theorem Eng.Canon.setFree {n} (hc : e.Canon) : (e.setFree n).Canon := by
  unfold Eng.setFree
  exact .of hc

theorem Eng.Canon.giveSet {h i} (hc : e.Canon) : (e.giveSet h i).Canon := by
  unfold Eng.giveSet
  split
  · exact hc
  · split
    · exact hc
    · extract_lets left e₁
      have he₁ : e₁.Canon := hc.modJob
      exact .ite he₁ he₁.modDrover.setFree

theorem Eng.Canon.giveSets {h} (hc : e.Canon) : (e.giveSets h).Canon := by
  unfold Eng.giveSets
  extract_lets ns e₁ src
  have he₁ : e₁.Canon := hc.foldl fun _ _ he => .ite he.setFree he
  clear_value e₁
  exact .of he₁

theorem Eng.Canon.expandHeader {h} (hc : e.Canon) : (e.expandHeader h).Canon := by
  unfold Eng.expandHeader
  split
  · exact hc
  · split
    · exact hc
    · extract_lets spoil n empty j'
      have hspoil : spoil.Canon := hc.modJob
      split
      · exact hc
      · exact hc.modJob
      · exact hspoil
      · split
        · exact hspoil
        · split
          · exact hc
          · exact hc.modJob
          · exact hspoil
          · exact .ite hspoil (.ite hc.finish hc.count.modJob)

theorem Eng.Canon.endExpand {h} (hc : e.Canon) : (e.endExpand h).Canon := by
  unfold Eng.endExpand
  split
  · exact hc
  · split
    · exact hc
    · extract_lets ff e₁ j all issued e₂ whole o e₃ e₄
      have he₁ : e₁.Canon := hc.modJob
      have he₂ : e₂.Canon := .ite he₁.freeWalkerOf he₁
      have he₃ : e₃.Canon := he₂.giveSets
      have he₄ : e₄.Canon := by
        unfold e₄
        split
        · split
          · exact he₃.raise
          · split
            · exact he₃.raise
            · exact he₃
        · exact he₃
      exact .ite he₄.finish he₂

theorem Eng.Canon.advanceExpand {m h} (hc : e.Canon) : (e.advanceExpand m h).Canon := by
  unfold Eng.advanceExpand
  exact hc.pumpCerhus.expandHeader.pumpCerhus.endExpand

theorem Eng.Canon.blockArrives {m h i} (hc : e.Canon) : (e.blockArrives m h i).Canon := by
  unfold Eng.blockArrives
  split
  · exact hc
  · split
    · exact hc
    · extract_lets k n fill close drv spoiled fails
      split
      · exact hc
      · exact hc.modJob.giveSet.advanceExpand
      · exact hc.count.modJob.giveSet.advanceExpand
      · exact hc.modJob.giveSet.advanceExpand
      · split
        · exact hc
        · exact hc.modJob.giveSet.advanceExpand
        · exact hc.modJob.giveSet.advanceExpand
        · split
          · exact hc.count.modJob.giveSet.advanceExpand
          · exact hc.count.count.modJob.giveSet.advanceExpand

theorem Eng.Canon.expandStep {m h n} (hc : e.Canon) : (e.expandStep m h n).Canon := by
  unfold Eng.expandStep
  split
  · exact hc
  · split
    · exact hc
    · split
      · exact hc.finish
      · split
        · exact hc
        · extract_lets e₁
          have he₁ : e₁.Canon := hc.modJob.takeSets
          exact he₁.modJob.advanceExpand

theorem Eng.Canon.codeBlocks {h n} (hc : e.Canon) : (e.codeBlocks h n).Canon := by
  induction n generalizing e with
  | zero => exact hc
  | succ n ih =>
    unfold Eng.codeBlocks
    split
    · exact hc
    · extract_lets i
      split
      · exact hc
      · split
        · extract_lets b off raw e₁
          exact ih (Eng.Canon.ite hc.count hc).count.modJob
        · exact hc

theorem Eng.Canon.scribble {m j lo hi} (hc : e.Canon) : (e.scribble m j lo hi).eng.Canon := by
  unfold Eng.scribble
  dsimp only
  refine hc.draw.foldlEff (fun x y hx => ?_)
  split
  · split
    · split
      · split
        · exact hx
        · exact (hx.on (fun _ he => he.recordWrite)).store
      · exact hx
    · exact hx
  · exact hx

theorem Eng.Canon.endCompress {m h} (hc : e.Canon) : (e.endCompress m h).eng.Canon := by
  have hend {f : Job → Job} {c : Prop} [Decidable c] :
      Eng.Canon (if c then (e.modJob h f).freeWalkerOf h else e.modJob h f) := .ite hc.modJob.freeWalkerOf hc.modJob
  unfold Eng.endCompress
  split
  · exact hc
  · split
    · exact hc
    · refine .iteEff ?_ hend
      split
      · exact hend.scribble.on fun _ he => he.finish
      · exact hend.scribble.on fun _ he => he.finish

theorem Eng.Canon.advanceCompress {m h} (hc : e.Canon) : (e.advanceCompress m h).eng.Canon := by
  unfold Eng.advanceCompress
  extract_lets e₁ e₂
  have he₁ : e₁.Canon := hc.modJob.pumpCerhus
  have he₂ : e₂.Canon := he₁.modJob.codeBlocks
  exact he₂.modJob.pumpCerhus.endCompress

theorem Eng.Canon.compressStep {m h n} (hc : e.Canon) : (e.compressStep m h n).eng.Canon := by
  unfold Eng.compressStep
  split
  · exact hc
  · split
    · exact hc
    · split
      · exact hc.finish
      · split
        · exact hc
        · extract_lets src j k e₁ j'
          have he₁ : e₁.Canon := hc.count
          exact he₁.modJob.advanceCompress

theorem Eng.Canon.passEnd {m h choice} (hc : e.Canon) : (e.passEnd m h choice).eng.Canon := by
  unfold Eng.passEnd
  split
  · exact hc
  · split
    · exact hc
    · split
      · split
        · exact hc.count.modJob.advanceCompress
        · exact hc
      · split
        · extract_lets nb hd bytes e₁
          have he₁ : e₁.Canon := hc.count
          exact he₁.modJob.advanceCompress
        · exact hc

end Sys2Proof.Machine
end

section
/-! The data opcodes, and translations that arrive (03: R111, R112): what keeps the canonical form of the tables. -/

namespace Sys2Proof.Machine

variable {e : Eng} {x : Eff}

theorem Eng.Canon.invalidateRuns {h n} (hc : e.Canon) : (e.invalidateRuns h n).Canon := by
  induction n generalizing e with
  | zero => exact hc
  | succ n ih =>
    unfold Eng.invalidateRuns
    split
    · exact hc
    · extract_lets va left page n key e₁
      have he₁ : e₁.Canon := .ite hc hc.count.modJob
      split
      · exact hc
      · split
        · exact ih (he₁.foldl fun _ _ he => he.emit.count).modJob
        · exact he₁.startWalk
        · exact he₁.noteFault.modJob

theorem Eng.Canon.endInvalidate {h} (hc : e.Canon) : (e.endInvalidate h).Canon := by
  unfold Eng.endInvalidate
  split
  · exact hc
  · split
    · exact hc
    · split
      · exact hc.finish
      · exact .ite hc.finish hc

theorem Eng.Canon.advanceInvalidate {h} (hc : e.Canon) : (e.advanceInvalidate h).Canon := by
  unfold Eng.advanceInvalidate
  split
  · exact hc
  · exact hc.invalidateRuns.endInvalidate

theorem Eng.Canon.goOn {m h} (hc : e.Canon) : (e.goOn m h).eng.Canon := by
  unfold Eng.goOn
  split
  · exact hc
  · split
    · exact hc
    · split
      · exact hc.advanceCompress
      · split
        · exact hc.advanceExpand
        · split
          · exact .ite hc.advanceInvalidate hc
          · exact hc.advanceJob

theorem Eng.Canon.failPage {r p page h} (hc : e.Canon) : (e.failPage r p page h).Canon := by
  unfold Eng.failPage
  split
  · exact hc
  · exact .ite (.ite hc.noteFault.modJob hc) (hc.foldl (fun _ _ he => he.foldl (fun _ _ he => he.noteFault.modJob)))

theorem Eng.Canon.failOthers {r p page} (hc : e.Canon) : (e.failOthers r p page).Canon := by
  unfold Eng.failOthers
  extract_lets e₁
  have he₁ : e₁.Canon := hc.foldl (fun _ _ he => he.noteFault.answerPeer)
  exact he₁.foldl (fun _ _ he => he.noteFault.answerDie)

theorem Eng.Canon.goOnRegion {m r} (hc : e.Canon) : (e.goOnRegion m r).eng.Canon := by
  unfold Eng.goOnRegion
  exact .foldlEff hc (fun _ _ hx => hx.andThen (fun _ _ he => he.goOn))

theorem Eng.Canon.resumeRegion {m r} (hc : e.Canon) : (e.resumeRegion m r).eng.Canon := by
  unfold Eng.resumeRegion
  exact hc.goOnRegion.on (fun _ he => he.retryOthers)

theorem Eng.Canon.endWalk {m r w va bad} (hc : e.Canon) : (e.endWalk m r w va bad).Canon := by
  unfold Eng.endWalk
  extract_lets src e₁
  have he₁ : e₁.Canon := .of hc
  split
  · exact he₁.tlbFill
  · extract_lets e₂ e₃
    have he₂ : e₂.Canon := by
      unfold e₂
      split
      · exact he₁.noteMalformed
      · exact he₁
    have he₃ : e₃.Canon := he₂.foldl (fun _ _ he => he.failPage)
    exact he₃.failOthers

end Sys2Proof.Machine
end

section
/-! Flags, waits and folds at their homes (08: R249 to R278): what keeps the canonical form of the tables. -/

namespace Sys2Proof.Machine

variable {e : Eng} {x : Eff}

theorem Eng.Canon.podRefused (hc : e.Canon) : e.podRefused.Canon := by
  unfold Eng.podRefused
  exact hc.count

theorem Eng.Canon.waitEnds {h st det ready} (hc : e.Canon) : (e.waitEnds h st det ready).Canon := by
  unfold Eng.waitEnds
  split
  · exact hc
  · exact .ite hc (.ite hc.finish.modJob hc.modJob.wakeRegion)

theorem Eng.Canon.answerWait {w st det ready} (hc : e.Canon) : (e.answerWait w st det ready).Canon := by
  unfold Eng.answerWait
  extract_lets e₁
  have he₁ : e₁.Canon := .ite hc.podRefused hc
  split
  · exact he₁.waitEnds
  · exact he₁.emit
  · exact he₁.emit

theorem Eng.Canon.tallyWait {r st} (hc : e.Canon) : (e.tallyWait r st).Canon := by
  unfold Eng.tallyWait
  exact .ite hc.count (.ite hc.count (.ite hc.count hc))

theorem Eng.Canon.dropWaits {p} (hc : e.Canon) : (e.dropWaits p).Canon := by
  unfold Eng.dropWaits
  exact .of hc

theorem Eng.Canon.freeWait {id} (hc : e.Canon) : (e.freeWait id).Canon := by
  unfold Eng.freeWait
  exact hc.dropWaits

theorem Eng.Canon.endWait {w st det ready} (hc : e.Canon) : (e.endWait w st det ready).Canon := by
  unfold Eng.endWait
  exact hc.freeWait.tallyWait.answerWait

theorem Eng.Canon.timeoutWait {w} (hc : e.Canon) : (e.timeoutWait w).Canon := by
  unfold Eng.timeoutWait
  exact hc.endWait

theorem Eng.Canon.dropWait {w a} (hc : e.Canon) : (e.dropWait w a).Canon := by
  unfold Eng.dropWait
  split
  · exact hc.freeWait
  · exact hc.endWait

theorem Eng.Canon.endEarly {t w how} (hc : e.Canon) : (e.endEarly t w how).Canon := by
  unfold Eng.endEarly
  exact .ite hc.timeoutWait hc.dropWait

theorem Eng.Canon.orphanWait {t w} (hc : e.Canon) : (e.orphanWait t w).Canon := by
  unfold Eng.orphanWait
  exact hc.endEarly

theorem Eng.Canon.orphanHeld {p} (hc : e.Canon) : (e.orphanHeld p).Canon := by
  unfold Eng.orphanHeld
  exact hc.foldl (fun _ _ he => he.dropWait)

theorem Eng.Canon.orphanAll {t p} (hc : e.Canon) : (e.orphanAll t p).Canon := by
  unfold Eng.orphanAll
  exact hc.foldl (fun _ _ he => he.orphanWait)

theorem Eng.Canon.releaseWait {fl stamp w} (hc : e.Canon) : (e.releaseWait fl stamp w).Canon := by
  unfold Eng.releaseWait
  exact .ite hc.timeoutWait hc.endWait

theorem Eng.Canon.applyChange {f v scope dev src stamp} (hc : e.Canon) : (e.applyChange f v scope dev src stamp).Canon := by
  unfold Eng.applyChange
  extract_lets src₁ fl e₁
  have he₁ : e₁.Canon := hc.setFlag.count
  exact he₁.foldl (fun _ _ he => he.releaseWait)

theorem Eng.Canon.flagOp {f v x} (hc : e.Canon) : (e.flagOp f v x).2.Canon := by
  unfold Eng.flagOp
  extract_lets r
  split
  · exact hc
  · split
    · exact hc.count.raise
    · exact hc.applyChange

theorem Eng.Canon.lendFor {w} (hc : e.Canon) : (e.lendFor w).Canon := by
  unfold Eng.lendFor
  split
  · split
    · exact hc.lendRegion
    · exact hc
  · exact hc

theorem Eng.Canon.makeLong {w} (hc : e.Canon) : (e.makeLong w).Canon := by
  unfold Eng.makeLong
  exact .lendFor (.count (.of hc))

theorem Eng.Canon.routeTo {d} (hc : e.Canon) : (e.routeTo d).2.Canon := by
  unfold Eng.routeTo
  exact .of hc

theorem Eng.Canon.beginWait {w} (hc : e.Canon) : (e.beginWait w).Canon := by
  unfold Eng.beginWait
  extract_lets r w₁ e₁ e₂ fl
  have he₁ : e₁.Canon := hc.count
  have he₂ : e₂.Canon := .ite he₁.count he₁
  exact .ite he₂.endWait (.ite he₂.timeoutWait (.of he₂))

theorem Eng.Canon.arriveWait {w pk} (hc : e.Canon) : (e.arriveWait w pk).Canon := by
  unfold Eng.arriveWait
  extract_lets r e₁ e₂
  have he₁ : e₁.Canon := .of hc
  have he₂ : e₂.Canon := .ite he₁ he₁.count
  split
  · exact he₁.answerWait
  · split
    · exact he₁.beginWait
    · split
      · exact he₂.emit
      · exact .of hc

theorem Eng.Canon.nextWaitId (hc : e.Canon) : e.nextWaitId.2.Canon := by
  unfold Eng.nextWaitId
  exact .of hc

theorem Eng.Canon.releaseKids {x kids} (hc : e.Canon) : (e.releaseKids x kids).1.Canon := by
  unfold Eng.releaseKids
  extract_lets near far
  exact hc.foldl (fun _ _ he => he.emit)

theorem Eng.Canon.foldReleases {g scope} (hc : e.Canon) : (e.foldReleases g scope).1.Canon := by
  unfold Eng.foldReleases
  extract_lets fo v x e₁
  have he₁ : e₁.Canon := hc.setFold.count
  split
  · exact he₁
  · exact he₁.releaseKids

theorem Eng.Canon.foldAccepts {g n scope child} (hc : e.Canon) : (e.foldAccepts g n scope child).1.Canon := by
  unfold Eng.foldAccepts
  extract_lets fo fo₁ e₁ e₂ m
  have he₁ : e₁.Canon := hc.setFold.count
  have he₂ : e₂.Canon := he₁.setFold
  split
  · exact he₁
  · split
    · exact he₁.foldReleases
    · split
      · exact he₂
      · split
        · exact he₂
        · exact he₂.sendNpi

theorem Eng.Canon.rejectChild {g child d} (hc : e.Canon) : (e.rejectChild g child d).Canon := by
  unfold Eng.rejectChild
  exact hc.raise

theorem Eng.Canon.childArrives {g child x} (hc : e.Canon) : (e.childArrives g child x).1.Canon := by
  unfold Eng.childArrives
  extract_lets fo barred
  split
  · exact hc.rejectChild
  · split
    · exact hc.count.rejectChild
    · exact hc.foldAccepts

theorem Eng.Canon.releaseArrives {g scope} (hc : e.Canon) : (e.releaseArrives g scope).1.Canon := by
  unfold Eng.releaseArrives
  split
  · exact hc.foldReleases
  · exact hc

theorem Eng.Canon.foldOp {g n x} (hc : e.Canon) : (e.foldOp g n x).2.1.Canon := by
  unfold Eng.foldOp
  extract_lets r
  split
  · exact hc
  · split
    · exact hc.count.raise
    · exact hc.foldAccepts

theorem Eng.Canon.homeAnswered {h st} (hc : e.Canon) : (e.homeAnswered h st).Canon := by
  unfold Eng.homeAnswered
  split
  · exact hc
  · extract_lets e₁
    have he₁ : e₁.Canon := .ite hc.modJob.writeAllApplied hc
    exact he₁.finish

theorem Eng.Canon.replyTo {y st} (hc : e.Canon) : (e.replyTo y st).Canon := by
  unfold Eng.replyTo
  split
  · exact hc
  · exact hc.homeAnswered
  · exact hc.emit
  · exact hc.emit

theorem Eng.Canon.refuseEvent {v st d} (hc : e.Canon) : (e.refuseEvent v st d).Canon := by
  unfold Eng.refuseEvent
  split
  · exact hc.answerWait
  · exact hc.rejectChild
  · exact hc.podRefused.replyTo

theorem Eng.Canon.applyEvent {v} (hc : e.Canon) : (e.applyEvent v).1.Canon := by
  unfold Eng.applyEvent
  split
  · exact hc.refuseEvent
  · extract_lets x
    split
    · extract_lets y
      have hy : y.2.Canon := hc.flagOp
      exact hy.replyTo
    · extract_lets y
      have hy : y.2.1.Canon := hc.foldOp
      exact hy.replyTo
    · exact hc.arriveWait
    · exact hc.childArrives
    · exact hc.releaseArrives
    · exact .releaseKids (.ite hc hc.applyChange)
    · exact hc.timeoutWait
    · exact .ite hc.endEarly hc
    · exact hc.orphanAll

theorem Eng.Canon.homeRun {n vs} (hc : e.Canon) : (Eng.homeRun n vs e).Canon := by
  induction n generalizing e vs with
  | zero => exact hc
  | succ n ih =>
    cases vs with
    | nil => exact hc
    | cons v vs =>
      unfold Eng.homeRun
      extract_lets e₁ y
      exact .ite (ih hc.wakeRegion.applyEvent.noteWorkOf) (ih hc.wakeRegion)

theorem Eng.Canon.homeGo {v} (hc : e.Canon) : (e.homeGo v).Canon := by
  unfold Eng.homeGo
  exact hc.homeRun

theorem Eng.Canon.endWaits {p how} (hc : e.Canon) : (e.endWaits p how).Canon := by
  unfold Eng.endWaits
  extract_lets mine late e₁
  have he₁ : e₁.Canon := hc.foldl (fun _ _ he => he.dropWait)
  exact he₁.foldl (fun _ _ he => he.homeGo)

theorem Eng.Canon.homeWakes {r} (hc : e.Canon) : (e.homeWakes r).Canon := by
  unfold Eng.homeWakes
  extract_lets key mine
  exact .homeRun (.of hc)

theorem Eng.Canon.answersWake {r} (hc : e.Canon) : (e.answersWake r).Canon := by
  unfold Eng.answersWake
  refine hc.foldl (fun e₁ x he => ?_)
  split
  · exact he.finish.modJob
  · exact he

end Sys2Proof.Machine
end

section
/-! NOP, FENCE and QUERY (02: R55 to R68): what keeps the canonical form of the tables. -/

namespace Sys2Proof.Machine

variable {e : Eng} {x : Eff}

theorem Eng.Canon.beginSimple {h op go} (hc : e.Canon) (hgo : ∀ j e, (he : e.Canon) → (go j e).Canon) : (e.beginSimple h op go).Canon := by
  unfold Eng.beginSimple
  split
  · exact hc
  · split
    · exact hc
    · split
      · exact hc.finish
      · exact hgo _ _ hc

end Sys2Proof.Machine
end

section
/-! Descriptors and messages of flags and folds (08: R244 to R278): what keeps the canonical form of the tables. -/

namespace Sys2Proof.Machine

variable {e : Eng} {x : Eff}

theorem Eng.Canon.beginSync {h op go} (hc : e.Canon) (hgo : ∀ j e, (he : e.Canon) → (go j e).Canon) : (e.beginSync h op go).Canon := by
  unfold Eng.beginSync
  refine hc.beginSimple (fun a a₁ he => ?_)
  split
  · exact he.finish
  · split
    · exact he.podRefused.finish
    · exact .ite he.finish (hgo _ _ he)

theorem Eng.Canon.startRelease {h op} (hc : e.Canon) : (e.startRelease h op).Canon := by
  unfold Eng.startRelease
  exact hc.beginSync (fun _ _ he => .ite he (.ite he.modJob.homeGo he.sendNpi.modJob))

theorem Eng.Canon.syncAck {h st} (hc : e.Canon) : (e.syncAck h st).Canon := by
  unfold Eng.syncAck
  split
  · exact hc
  · exact .ite hc.homeAnswered hc

theorem Eng.Canon.applyPeerSync {m op} (hc : e.Canon) : (e.applyPeerSync m op).Canon := by
  unfold Eng.applyPeerSync
  exact hc.homeGo

theorem Eng.Canon.peerSyncArrives {mem m op} (hc : e.Canon) : (e.peerSyncArrives mem m op).Canon := by
  unfold Eng.peerSyncArrives
  extract_lets e₁ behind src
  have he₁ : e₁.Canon := hc.heard
  exact .ite he₁.emit (.ite he₁.applyPeerSync (.of he₁))

theorem Eng.Canon.lostAt {d h} (hc : e.Canon) : (e.lostAt d h).Canon := by
  unfold Eng.lostAt
  split
  · exact hc
  · extract_lets shots op
    exact .ite hc (.ite (.ite hc hc.count.waitEnds) (.ite hc.finish (.ite hc (.ite hc.sendNpi (hc.foldl (fun _ _ he => he.sendRun))))))

theorem Eng.Canon.fromDie {m d f} (hc : e.Canon) (hf : ∀ e, (he : e.Canon) → (f e).Canon) : (e.fromDie m d f).Canon := by
  unfold Eng.fromDie
  extract_lets e₁
  have he₁ : e₁.Canon := hc.ended
  exact .ite he₁ (hf _ he₁.wakeEngine)

theorem Eng.Canon.dieFlag {m d f v} (hc : e.Canon) : (e.dieFlag m d f v).Canon := by
  unfold Eng.dieFlag
  exact hc.fromDie (fun _ he => he.homeGo)

theorem Eng.Canon.stopWait {j st} (hc : e.Canon) : (e.stopWait j st).Canon := by
  unfold Eng.stopWait
  exact .ite hc.emit.finish (.ite hc.endWaits hc.finish)

theorem Eng.Canon.cancelWait {j} (hc : e.Canon) : (e.cancelWait j).Canon := by
  unfold Eng.cancelWait
  exact hc.stopWait

theorem Eng.Canon.fireDeadline {w} (hc : e.Canon) : (e.fireDeadline w).Canon := by
  unfold Eng.fireDeadline
  split
  · exact hc
  · extract_lets e₁ src e₂
    have he₁ : e₁.Canon := hc.advanceTo
    have he₂ : e₂.Canon := .of he₁
    exact .ite he₂.timeoutWait he₂.freeWait.homeGo

theorem Eng.Canon.fireDue {t} (hc : e.Canon) : (e.fireDue t).Canon := by
  unfold Eng.fireDue
  extract_lets due
  exact hc.foldl (fun _ _ he => he.fireDeadline)

theorem Eng.Canon.ownerReset {c} (hc : e.Canon) : (e.ownerReset c).Canon := by
  unfold Eng.ownerReset
  exact hc.foldl (fun _ _ he => he.homeGo)

end Sys2Proof.Machine
end

section
/-! Invalidations and the commands of ATG_PDK_CMD (09: R292 to R316): what keeps the canonical form of the tables. -/

namespace Sys2Proof.Machine

variable {e : Eng} {x : Eff}

theorem Eng.Canon.mapJobReqs {f} (hc : e.Canon) : (e.mapJobReqs f).Canon := by
  unfold Eng.mapJobReqs
  exact .of hc

theorem Eng.Canon.mapPeerReqs {f} (hc : e.Canon) : (e.mapPeerReqs f).Canon := by
  unfold Eng.mapPeerReqs
  exact .of hc

theorem Eng.Canon.mapReqs {f} (hc : e.Canon) : (e.mapReqs f).Canon := by
  unfold Eng.mapReqs
  extract_lets e₁ src
  have he₁ : e₁.Canon := hc.mapJobReqs.mapPeerReqs
  exact .of he₁

theorem Eng.Canon.dropViews {p} (hc : e.Canon) : (e.dropViews p).Canon := by
  unfold Eng.dropViews
  exact .of hc

theorem Eng.Canon.vcInv {m w op} (hc : e.Canon) : (e.vcInv m w op).Canon := by
  unfold Eng.vcInv
  refine hc.access (fun a he => ?_)
  extract_lets i i₁ src i₂
  exact .ite (.of he) (.dropViews (.of he))

theorem Eng.Canon.dropLeaves {p} (hc : e.Canon) : (e.dropLeaves p).Canon := by
  unfold Eng.dropLeaves
  extract_lets old through e₁ src
  have he₁ : e₁.Canon := hc.mapReqs
  exact .of he₁

theorem Eng.Canon.restartWalks (hc : e.Canon) : e.restartWalks.Canon := by
  unfold Eng.restartWalks
  extract_lets again src
  exact .of hc

theorem Eng.Canon.tlbInv {m w op} (hc : e.Canon) : (e.tlbInv m w op).Canon := by
  unfold Eng.tlbInv
  refine hc.access (fun a he => ?_)
  extract_lets a₁ a₂ n va a₃
  exact .ite (.of he) (.restartWalks (.dropLeaves (.of he)))

theorem Eng.Canon.dropReach {p} (hc : e.Canon) : (e.dropReach p).Canon := by
  unfold Eng.dropReach
  extract_lets e₁ src
  have he₁ : e₁.Canon := hc.mapJobReqs.mapPeerReqs
  exact .of he₁

theorem Eng.Canon.pdkBusy {b} (hc : e.Canon) : (e.pdkBusy b).Canon := by
  unfold Eng.pdkBusy
  exact .of hc

theorem Eng.Canon.pdkResult {r} (hc : e.Canon) : (e.pdkResult r).Canon := by
  unfold Eng.pdkResult
  exact .of hc

theorem Eng.Canon.pdkCommand {m w f} (hc : e.Canon) (hf : ∀ e, (he : e.Canon) → (f e).Canon) : (e.pdkCommand m w f).Canon := by
  unfold Eng.pdkCommand
  refine hc.access (fun a he => ?_)
  split
  · exact he
  · extract_lets src e₁
    have he₁ : e₁.Canon := .of he
    exact .ite (hf _ he₁) he₁

theorem Eng.Canon.setSlotKey {n k} (hc : e.Canon) : (e.setSlotKey n k).Canon := by
  unfold Eng.setSlotKey
  exact .of hc

theorem Eng.Canon.eraseSlot {p} (hc : e.Canon) : (e.eraseSlot p).Canon := by
  unfold Eng.eraseSlot
  exact hc.emit.setSlotKey.modPdk

end Sys2Proof.Machine
end

section
/-! REKEY_SWEEP and SCRUB (09: R303 to R320): what keeps the canonical form of the tables. -/

namespace Sys2Proof.Machine

variable {e : Eng} {x : Eff}

theorem Eng.Canon.startSweep {j} (hc : e.Canon) : (e.startSweep j).Canon := by
  unfold Eng.startSweep
  extract_lets h p scrub e₁ e₂ src
  have he₁ : e₁.Canon := hc.modJob
  have he₂ : e₂.Canon := he₁.modPdk
  split
  · exact hc.finish
  · split
    · exact hc
    · split
      · exact hc
      · exact .ite hc.finish (.ite hc.finish (.of he₂))

theorem Eng.Canon.setSweep {s} (hc : e.Canon) : (e.setSweep s).Canon := by
  unfold Eng.setSweep
  exact hc.modSweep

theorem Eng.Canon.sweepScan {s fs} (hc : e.Canon) : (e.sweepScan s fs).1.Canon := by
  induction fs generalizing e s with
  | nil => exact hc
  | cons f fs ih =>
    unfold Eng.sweepScan
    split
    · exact ih hc.noteMalformed
    · split
      · exact ih hc
      · exact hc
      · exact hc

theorem Eng.Canon.present {s o} (hc : x.eng.Canon) : (x.present s o).eng.Canon := by
  unfold Eff.present
  refine .store ?_
  refine hc.on (fun e he => ?_)
  split
  · exact he.recordWrite
  · exact he

theorem Eng.Canon.copyIn {m s pa b bad} (hc : e.Canon) : (e.copyIn m s pa b bad).1.eng.Canon := by
  unfold Eng.copyIn
  split
  extract_lets e₁
  have he₁ : e₁.Canon := by
    unfold e₁
    split
    · exact hc.foldl fun _ _ he => he.noteUncorr
    · exact hc
  clear_value e₁
  exact .present he₁

theorem Eng.Canon.wakeGranule {pa} (hc : e.Canon) : (e.wakeGranule pa).Canon := by
  unfold Eng.wakeGranule
  split
  · exact hc.wakeRegion
  · exact hc

theorem Eng.Canon.issueCursor {s va copied b} (hc : e.Canon) : (e.issueCursor s va copied b).Canon := by
  unfold Eng.issueCursor
  exact hc.jAppend

theorem Eng.Canon.sweepCopying {m s bad} (hc : e.Canon) : (e.sweepCopying m s bad).eng.Canon := by
  unfold Eng.sweepCopying
  split
  · exact hc.wakeGranule
  · exact hc.setSweep
  · dsimp only
    exact hc.copyIn.on (fun _ he => he.setSweep.issueCursor)

theorem Eng.Canon.sweepWriting {m s bad} (hc : e.Canon) : (e.sweepWriting m s bad).eng.Canon := by
  unfold Eng.sweepWriting
  split
  · dsimp only
    exact hc.copyIn.on (fun _ he => he.setSweep)
  · split
    · exact hc.wakeGranule
    · exact hc.setSweep
    · extract_lets bs x copied
      have hx : x.eng.Canon := .present hc.count
      split
      · exact hx.on (fun _ he => he.setSweep)
      · exact hx.on (fun _ he => he.setSweep.issueCursor)

theorem Eng.Canon.sweepClosing {s} (hc : e.Canon) : (e.sweepClosing s).Canon := by
  unfold Eng.sweepClosing
  split
  · exact hc
  · split
    · exact hc.setSweep
    · extract_lets src t
      exact hc.setSweep

theorem Eng.Canon.scrubGranule {s} (hc : e.Canon) : (e.scrubGranule s).eng.Canon := by
  unfold Eng.scrubGranule
  extract_lets next
  split
  · exact hc.wakeGranule
  · exact hc.setSweep
  · refine .on (.present hc.count) (fun e₁ he => ?_)
    unfold next
    split
    · exact he.setSweep
    · exact he.setSweep

theorem Eng.Canon.sweepLeaf {m s bad} (hc : e.Canon) : (e.sweepLeaf m s bad).eng.Canon := by
  unfold Eng.sweepLeaf
  extract_lets drop ours r t
  split
  · split
    · exact hc.dropLeaves.setSweep
    · split
      · exact hc.setSweep.issueCursor
      · extract_lets w
        exact .on (.present hc) (fun _ he => he.dropLeaves.setSweep)
  · split
    · exact hc.dropLeaves.setSweep
    · exact hc.noteMalformed.dropLeaves.setSweep
  · exact hc.dropLeaves.setSweep

theorem Eng.Canon.sweepLeafWait {s} (hc : e.Canon) : (e.sweepLeafWait s).Canon := by
  unfold Eng.sweepLeafWait
  extract_lets last
  exact .ite hc hc.setSweep.issueCursor

theorem Eng.Canon.sweepFinish {s} (hc : e.Canon) : (e.sweepFinish s).Canon := by
  unfold Eng.sweepFinish
  extract_lets p src e₁ e₂
  have he₁ : e₁.Canon := .of hc
  have he₂ : e₂.Canon := .ite he₁.modPdk.dropLeaves.dropViews.dropReach he₁.modPdk
  exact he₂.finish

theorem Eng.Canon.scrubQuiesce {s} (hc : e.Canon) : (e.scrubQuiesce s).Canon := by
  unfold Eng.scrubQuiesce
  extract_lets p x f e₁ s₁
  have he₁ : e₁.Canon := hc.eraseSlot.modPdk
  exact .ite hc he₁.setSweep.issueCursor

theorem Eng.Canon.sweepStep {m s bad} (hc : e.Canon) : (e.sweepStep m s bad).eng.Canon := by
  unfold Eng.sweepStep
  split
  · exact hc.scrubQuiesce
  · exact hc.sweepScan.setSweep
  · exact hc.sweepCopying
  · exact .ite hc.setSweep hc
  · split
    · exact hc.scrubGranule
    · exact hc.sweepWriting
  · exact hc.sweepClosing
  · exact hc.sweepLeaf
  · exact hc.sweepLeafWait
  · exact .ite hc.setSweep hc
  · exact hc.sweepFinish

theorem Eng.Canon.countStaged {q} (hc : e.Canon) : (e.countStaged q).Canon := by
  unfold Eng.countStaged
  split
  · exact hc.count
  · exact hc

theorem Eng.Canon.heldOver {qs} (hc : e.Canon) : (e.heldOver qs).Canon := by
  unfold Eng.heldOver
  exact hc.foldl (fun _ _ he => he.advanceTo)

end Sys2Proof.Machine
end

section
/-! Quanta, starvation, pre-emption and cut-off (10: R329 to R338): what keeps the canonical form of the tables. -/

namespace Sys2Proof.Machine

variable {e : Eng} {x : Eff}

theorem Eng.Canon.arbSignal {was} (hc : e.Canon) : (e.arbSignal was).Canon := by
  unfold Eng.arbSignal
  exact .ite hc.emit hc

theorem Eng.Canon.noteStarved {l} (hc : e.Canon) : (e.noteStarved l).Canon := by
  unfold Eng.noteStarved
  extract_lets was src
  exact .arbSignal (.count (.of hc))

theorem Eng.Canon.noteCut {l} (hc : e.Canon) : (e.noteCut l).Canon := by
  unfold Eng.noteCut
  extract_lets was src
  exact .arbSignal (.of hc)

theorem Eng.Canon.drawFor {r l js ts} (hc : e.Canon) : (e.drawFor r l js ts).2.Canon := by
  unfold Eng.drawFor
  extract_lets cs a src a₁ src₁
  split
  · exact .of hc
  · exact .of hc

theorem Eng.Canon.untilStarved {l w} (hc : e.Canon) : (e.untilStarved l w).Canon := by
  unfold Eng.untilStarved
  exact hc.passCycles

theorem Eng.Canon.starveJob {j} (hc : e.Canon) : (e.starveJob j).Canon := by
  unfold Eng.starveJob
  extract_lets l e₁ e₂
  have he₁ : e₁.Canon := hc.untilStarved
  have he₂ : e₂.Canon := he₁.modJob.noteStarved
  exact .ite hc he₂.askStarved

theorem Eng.Canon.starveTest {k} (hc : e.Canon) : (e.starveTest k).Canon := by
  unfold Eng.starveTest
  extract_lets b l e₁ src e₂
  have he₂ : e₂.Canon := hc.untilStarved.modBist.noteStarved
  split
  · exact hc
  · cases bistRegion (k / 64) (k % 64) with
    | none => exact he₂
    | some r => exact he₂.askStarved

theorem Eng.Canon.starveCtx {c} (hc : e.Canon) : (e.starveCtx c).Canon := by
  unfold Eng.starveCtx
  split
  · exact hc
  · extract_lets e₁ src
    have he₁ : e₁.Canon := hc.untilStarved
    exact .noteStarved (.of he₁)

theorem Eng.Canon.starvePort {l port who} (hc : e.Canon) : (e.starvePort l port who).Canon := by
  unfold Eng.starvePort
  split
  · exact hc
  · split
    · exact hc
    · extract_lets e₁ src
      have he₁ : e₁.Canon := hc.untilStarved
      exact .noteStarved (.of he₁)

theorem Eng.Canon.starveBrief {l} (hc : e.Canon) : (e.starveBrief l).Canon := by
  unfold Eng.starveBrief
  exact .ite hc hc.noteStarved

theorem Eng.Canon.savePreempted {j} (hc : e.Canon) : (e.savePreempted j).Canon := by
  unfold Eng.savePreempted
  extract_lets h comp e₁ e₂
  have he₁ : e₁.Canon := .ite hc.writeAllApplied.jAppend hc
  have he₂ : e₂.Canon := .ite he₁.count he₁.count
  exact he₂.modJob.handOver.noteWork

end Sys2Proof.Machine
end

section
/-! The power rows (10: R342 to R350): what keeps the canonical form of the tables. -/

namespace Sys2Proof.Machine

variable {e : Eng} {x : Eff}

theorem Eng.Canon.wakeEnds {d} (hc : e.Canon) : (e.wakeEnds d).Canon := by
  unfold Eng.wakeEnds
  exact hc.enter.modDom

theorem Eng.Canon.resumeUsers {m us} (hc : e.Canon) : (e.resumeUsers m us).eng.Canon := by
  unfold Eng.resumeUsers
  refine hc.foldlEff (fun x y hx => ?_)
  refine hx.andThen (fun m₁ e₁ he => ?_)
  split
  · exact he.goOn
  · exact he.resumeOther

theorem Eng.Canon.portOpens {m port} (hc : e.Canon) : (e.portOpens m port).eng.Canon := by
  unfold Eng.portOpens
  exact hc.openPort.resumeUsers

theorem Eng.Canon.regionWakes {m r} (hc : e.Canon) : (e.regionWakes m r).eng.Canon := by
  unfold Eng.regionWakes
  extract_lets x x₁
  have hx : x.eng.Canon := hc.homeWakes.answersWake.portOpens
  have hx₁ : x₁.eng.Canon := by
    unfold x₁
    exact hx.foldlEff (fun _ _ hx => hx.andThen (fun _ _ he => he.portOpens))
  exact (hx₁.andThen (fun _ _ he => he.resumeRegion)).on (fun _ he => he.noteWork)

end Sys2Proof.Machine
end

section
/-! Self-test targets and the full self-test (11: R376 to R383): what keeps the canonical form of the tables. -/

namespace Sys2Proof.Machine

variable {e : Eng} {x : Eff}

theorem Eng.Canon.stopFenced (hc : e.Canon) : e.stopFenced.Canon := by
  refine hc.withBist (mapWf_map_filter hc.2.2.2.2.2.2 fun b => ?_)
  split
  · rfl
  · rfl

theorem Eng.Canon.bootTest (hc : e.Canon) : e.bootTest.Canon := by
  unfold Eng.bootTest
  split
  · exact hc
  · extract_lets e₁ ts e₂
    have he₁ : e₁.Canon := hc.modPower
    have he₂ : e₂.Canon := he₁.foldl fun _ _ he => he.modBist
    clear_value e₂
    exact (he₂.foldl fun _ _ he => he.wakeRegion).wakeEngine

end Sys2Proof.Machine
end

section
/-! The journal's rows, engine resets and replay (12: R391 to R420): what keeps the canonical form of the tables. -/

namespace Sys2Proof.Machine

variable {e : Eng} {x : Eff}

theorem Eng.Canon.acceptDurable (hc : e.Canon) : e.acceptDurable.Canon := by
  unfold Eng.acceptDurable
  exact hc.foldl (fun _ _ he => he.modJob.modCtx)

theorem Eng.Canon.hostBack (hc : e.Canon) : e.hostBack.Canon := by
  unfold Eng.hostBack
  extract_lets e₁
  have he₁ : e₁.Canon := hc.releaseHeld
  exact .ite he₁.jRewrite.jPump he₁

theorem Eng.Canon.hostReturns {m} (hc : e.Canon) : (e.hostReturns m).eng.Canon := by
  unfold Eng.hostReturns
  split
  · exact hc
  · extract_lets held leave here src src₁ e₁ x
    have he₁ : e₁.Canon := .of hc
    have hx : x.1.eng.Canon := by
      unfold x
      exact .foldlEffFst he₁ (fun _ _ hs => (hs.on (fun _ he => he.foldl (fun _ _ he => he.emit))).andThen (fun _ _ he => he.resumeUsers))
    exact (hx.on (fun _ he => he.foldl (fun _ _ he => he.emit))).on (fun _ he => he.hostBack)

theorem Eng.Canon.jrnCommand {m legal f} (hc : e.Canon) (hf : ∀ e, (he : e.Canon) → (f e).Canon) : (e.jrnCommand m legal f).Canon := by
  unfold Eng.jrnCommand
  exact hc.access (fun _ he => .ite he (.ite he.modJrn (hf _ he.modJrn)))

theorem Eng.Canon.endAdopt {st res} (hc : e.Canon) : (e.endAdopt st res).Canon := by
  unfold Eng.endAdopt
  exact hc.modJrn

theorem Eng.Canon.redispatch {h} (hc : e.Canon) : (e.redispatch h).Canon := by
  unfold Eng.redispatch
  split
  · exact hc
  · split
    · exact hc
    · extract_lets e₁
      have he₁ : e₁.Canon := hc.count.giveSets
      exact .ite he₁.finish (.endDisables (.modJob (.release (.ite he₁.writeAllApplied he₁))))

theorem Eng.Canon.modReset {f} (hc : e.Canon) : (e.modReset f).Canon := by
  unfold Eng.modReset
  exact .of hc

theorem Eng.Canon.tellWaiters (hc : e.Canon) : e.tellWaiters.Canon := by
  unfold Eng.tellWaiters
  split
  · exact hc
  · extract_lets theirs e₁ e₂
    have he₁ : e₁.Canon := hc.orphanAll
    have he₂ : e₂.Canon := he₁.foldl (fun _ _ he => he.dropWait)
    exact he₂.foldl (fun _ _ he => he.emit)

theorem Eng.Canon.orphanDies (hc : e.Canon) : e.orphanDies.Canon := by
  unfold Eng.orphanDies
  refine hc.foldl (fun e₁ x he => ?_)
  split
  · exact he.count
  · exact he

theorem Eng.Canon.clearSyn (hc : e.Canon) : e.clearSyn.Canon := by
  unfold Eng.clearSyn
  extract_lets e₁ e₂
  have he₁ : e₁.Canon := .of hc.orphanDies
  have he₂ : e₂.Canon := he₁.foldl (fun _ _ he => he.setFlag)
  exact he₂.foldl (fun _ _ he => .ite he.setFold he)

theorem Eng.Canon.startResetPhase (hc : e.Canon) : e.startResetPhase.Canon := by
  obtain ⟨hctx, hpdk, hflag, hfold, htally, hpeer, hbist⟩ := hc.disarm.coldCaches.clearSyn
  refine .modReset (.endDisables ?_)
  exact .of ⟨hctx, hpdk, hflag, hfold, htally, hpeer, mapWf_map_filter hbist fun _ => rfl⟩

theorem Eng.Canon.endSettle {settled} (hc : e.Canon) : (e.endSettle settled).Canon := by
  unfold Eng.endSettle
  extract_lets e₁ e₂
  have he₁ : e₁.Canon := hc.tellWaiters.modReset
  have he₂ : e₂.Canon := .ite he₁ he₁.count
  exact .ite he₂ he₂.startResetPhase

theorem Eng.Canon.breakSettle (hc : e.Canon) : e.breakSettle.Canon := by
  unfold Eng.breakSettle
  exact .ite hc.endSettle hc

theorem Eng.Canon.stopWalkers (hc : e.Canon) : e.stopWalkers.Canon := by
  unfold Eng.stopWalkers
  exact .of hc

theorem Eng.Canon.drainReached {m} (hc : e.Canon) : (e.drainReached m).Canon := by
  unfold Eng.drainReached
  exact hc.foldl (fun _ _ he => he.advanceJob)

theorem Eng.Canon.beginReset {m byPin} (hc : e.Canon) : (e.beginReset m byPin).Canon := by
  unfold Eng.beginReset
  extract_lets e₁ e₂ src e₃
  have he₁ : e₁.Canon := hc.reach
  have he₂ : e₂.Canon := he₁.count.modReset
  have he₃ : e₃.Canon := .of he₂
  exact .ite (.ite ((he₃.hostBack.foldl (fun _ _ he => he.retryOthers)).drainReached) he₃.hostBack.stopWalkers) he₃.endSettle

theorem Eng.Canon.engResetWrite {m w} (hc : e.Canon) : (e.engResetWrite m w).Canon := by
  unfold Eng.engResetWrite
  extract_lets e₁
  have he₁ : e₁.Canon := hc.modReset
  exact .ite he₁.beginReset he₁

theorem Eng.Canon.pinHigh (hc : e.Canon) : e.pinHigh.Canon := by
  unfold Eng.pinHigh
  split
  · exact hc.startResetPhase
  · exact hc.modReset
  · exact hc.bootTest

theorem Eng.Canon.resetGoesOn (hc : e.Canon) : e.resetGoesOn.Canon := by
  unfold Eng.resetGoesOn
  exact .ite (.ite hc hc.endSettle) (.ite hc.pinHigh hc)

theorem Eng.Canon.markProgress {j} (hc : e.Canon) : (e.markProgress j).Canon := by
  unfold Eng.markProgress
  split
  · exact hc
  · extract_lets e₁ doubt
    have he₁ : e₁.Canon := hc.writeAllApplied
    exact .ite he₁.jAppend he₁

theorem Eng.Canon.spoolFinished (hc : e.Canon) : e.spoolFinished.eng.Canon := by
  unfold Eng.spoolFinished
  exact .foldlEff hc (fun _ _ hx => hx.spoolRecord)

theorem Eng.Canon.finalFlush (hc : e.Canon) : e.finalFlush.Canon := by
  unfold Eng.finalFlush
  extract_lets e₁
  have he₁ : e₁.Canon := hc.jPump
  exact he₁.modJrn.count.acceptDurable.jPrune

theorem Eng.Canon.sweepFrom {m w} (hc : e.Canon) : (e.sweepFrom m w).Canon := by
  unfold Eng.sweepFrom
  exact hc.sweepScan.setSweep

theorem Eng.Canon.resumeSweep {m w} (hc : e.Canon) : (e.resumeSweep m w).Canon := by
  unfold Eng.resumeSweep
  split
  · extract_lets w₁
    exact .ite hc.setSweep hc.sweepFrom
  · extract_lets b va w₁ e₁
    have he₁ : e₁.Canon := hc.sweepFrom
    split
    · exact .ite he₁.setSweep he₁
    · exact he₁

theorem Eng.Canon.resumeSweeps {m} (hc : e.Canon) : (e.resumeSweeps m).Canon := by
  unfold Eng.resumeSweeps
  exact hc.foldl (fun _ _ he => he.resumeSweep)

theorem Eng.Canon.readJournal {host} (hc : e.Canon) : (e.readJournal host).Canon := by
  unfold Eng.readJournal
  extract_lets rs tail late e₁
  have he₁ : e₁.Canon := hc.foldl (fun _ _ he => he.modCtx)
  exact he₁.modJrn

theorem Eng.Canon.retireFound {m host c r} (hc : e.Canon) : (e.retireFound m host c r).Canon := by
  unfold Eng.retireFound
  extract_lets bs
  exact hc.jAppend

theorem Eng.Canon.replayCtx {m host c} (hc : e.Canon) : (e.replayCtx m host c).Canon := by
  unfold Eng.replayCtx
  extract_lets x rs mine posted left e₁ jobs e₂ cqTail sqHead all e₃
  have he₁ : e₁.Canon := hc.foldl (fun _ _ he => he.retireFound)
  have he₂ : e₂.Canon := he₁.count
  have he₃ : e₃.Canon := he₂.setCtx
  exact .of he₃

theorem Eng.Canon.retireLate {m host} (hc : e.Canon) : (e.retireLate m host).Canon := by
  unfold Eng.retireLate
  refine hc.foldl (fun e₁ x he => ?_)
  extract_lets c x₁
  exact .ite (.ite he he.jAppend) (.ite he.retireFound he)

theorem Eng.Canon.noticeDies (hc : e.Canon) : e.noticeDies.Canon := by
  unfold Eng.noticeDies
  exact hc.foldl (fun _ _ he => .ite (he.foldl (fun _ _ he => he.emit)) he)

end Sys2Proof.Machine
end

section
/-! Fault events, history, alert and losses (11: R353 to R375): what keeps the canonical form of the tables. -/

namespace Sys2Proof.Machine

variable {e : Eng} {x : Eff}

theorem Eng.Canon.modFlt {f} (hc : e.Canon) : (e.modFlt f).Canon := by
  unfold Eng.modFlt
  exact .of hc

theorem Eng.Canon.modAlert {f} (hc : e.Canon) : (e.modAlert f).Canon := by
  unfold Eng.modAlert
  exact hc.modFlt

theorem Eng.Canon.alertCause (hc : e.Canon) : e.alertCause.Canon := by
  unfold Eng.alertCause
  exact hc.modAlert

theorem Eng.Canon.alertRelease {c} (hc : e.Canon) : (e.alertRelease c).Canon := by
  unfold Eng.alertRelease
  extract_lets a
  exact .ite hc.modAlert.alertTick hc

theorem Eng.Canon.alertCtlWrite {w} (hc : e.Canon) : (e.alertCtlWrite w).Canon := by
  unfold Eng.alertCtlWrite
  extract_lets clear e₁ e₂
  have he₁ : e₁.Canon := hc.modAlert
  have he₂ : e₂.Canon := he₁.alertRelease
  exact .ite he₂.alertCause he₂

theorem Eng.Canon.svcExpiry (hc : e.Canon) : e.svcExpiry.Canon := by
  unfold Eng.svcExpiry
  extract_lets again src e₁ n src₁ e₂
  have he₂ : e₂.Canon := hc.withBist (mapWf_foldl_mapSet hc.2.2.2.2.2.2)
  exact .ite (Eng.Canon.raise (e := e₁) hc) he₂.raise

theorem Eng.Canon.stopJob {m h} (hc : e.Canon) : (e.stopJob m h).eng.Canon := by
  unfold Eng.stopJob
  split
  · exact hc
  · split
    · exact hc
    · split
      · exact hc.modSweep
      · split
        · exact hc.modJob.goOn
        · exact .ite hc.stopWait hc.finish

theorem Eng.Canon.stopJobs {m hs} (hc : e.Canon) : (e.stopJobs m hs).eng.Canon := by
  unfold Eng.stopJobs
  exact .foldlEff hc (fun _ _ hx => hx.andThen (fun _ _ he => he.stopJob))

theorem Eng.Canon.ctxPoisoned {m c} (hc : e.Canon) : (e.ctxPoisoned m c).eng.Canon := by
  unfold Eng.ctxPoisoned
  extract_lets e₁
  have he₁ : e₁.Canon := .ite hc.parkRing hc
  exact he₁.stopJobs

theorem Eng.Canon.homePoisoned {r structId word} (hc : e.Canon) : (e.homePoisoned r structId word).Canon := by
  unfold Eng.homePoisoned
  extract_lets base hit e₁ g src
  have he₁ : e₁.Canon := by
    unfold e₁
    refine hc.foldl (fun e₂ x he => ?_)
    extract_lets f src₁
    exact he.setFlag
  split
  · exact he₁.orphanAll.orphanHeld
  · split
    · exact hc.setFold
    · split
      · exact hc.orphanWait
      · exact hc

theorem Eng.Canon.peerPoisoned {s word} (hc : e.Canon) : (e.peerPoisoned s word).Canon := by
  unfold Eng.peerPoisoned
  extract_lets ks w
  split
  · exact hc.modServe
  · exact hc.modServe
  · exact .modServe (.of hc)

theorem Eng.Canon.diePoisoned {s word} (hc : e.Canon) : (e.diePoisoned s word).Canon := by
  unfold Eng.diePoisoned
  exact .modDieServe (.of hc)

theorem Eng.Canon.othersPoisoned {inst word} (hc : e.Canon) : (e.othersPoisoned inst word).Canon := by
  unfold Eng.othersPoisoned
  split
  · exact hc.peerPoisoned
  · split
    · exact hc.diePoisoned
    · exact hc

theorem Eng.Canon.dataPoisoned {sub inst c word} (hc : e.Canon) : (e.dataPoisoned sub inst c word).Canon := by
  unfold Eng.dataPoisoned
  extract_lets serves n
  split
  · exact hc.modJob
  · exact .ite hc.othersPoisoned hc

theorem Eng.Canon.unitActs {m v word} (hc : e.Canon) : (e.unitActs m v word).eng.Canon := by
  have hctx : (match v.ctx with
      | some c => e.ctxPoisoned m c
      | none => ⟨e, []⟩).eng.Canon := by
    split
    · exact hc.ctxPoisoned
    · exact hc
  exact .iteEff (.of hc) (.iteEff hctx (.iteEff (.of hc) (.iteEff hc.stopJobs (.iteEff (.of hc) (.iteEff hc.modDrover
    (.iteEff hc.dataPoisoned (.iteEff hc.stopJobs (.iteEff hc.homePoisoned (.iteEff hc.modFlt hc)))))))))

theorem Eng.Canon.fenceDrover {n} (hc : e.Canon) : (e.fenceDrover n).Canon := by
  unfold Eng.fenceDrover
  exact hc.modDrover

theorem Eng.Canon.fenceRegion {r} (hc : e.Canon) : (e.fenceRegion r).Canon := by
  unfold Eng.fenceRegion
  extract_lets e₁ e₂ e₃
  have he₁ : e₁.Canon := .of hc
  have he₂ : e₂.Canon := he₁.orphanAll.orphanHeld
  have he₃ : e₃.Canon := he₂.foldl (fun _ _ he => he.fenceDrover)
  exact he₃.foldl (fun _ _ he => he.redispatch.modJob)

theorem Eng.Canon.fenceUnit {sub inst} (hc : e.Canon) : (e.fenceUnit sub inst).Canon := by
  unfold Eng.fenceUnit
  split
  · exact Eng.Canon.foldl hc fun _ _ he => he.redispatch
  · split
    · extract_lets u h src e₁
      have he₁ : e₁.Canon := .of hc
      clear_value h
      split
      · exact he₁.redispatch
      · exact he₁
    · exact .ite (Eng.Canon.foldl hc fun _ _ he => he.redispatch) (.ite hc.fenceDrover (.ite hc.fenceRegion (.ite hc.fenceRegion hc)))

theorem Eng.Canon.regionActs {v} (hc : e.Canon) : (e.regionActs v).Canon := by
  unfold Eng.regionActs
  extract_lets sub inst code e₁ e₂
  have he₁ : e₁.Canon := hc.fenceUnit
  have he₂ : e₂.Canon := by
    unfold e₂
    split
    · split
      · exact he₁.modBist
      · exact he₁
    · exact .ite hc.fenceUnit (.ite hc.fenceRegion (.ite (.ite hc hc.svcExpiry) (.ite hc.fenceDrover hc)))
  exact he₂.stopFenced

theorem Eng.Canon.countEvent {v} (hc : e.Canon) : (e.countEvent v).Canon := by
  unfold Eng.countEvent
  extract_lets s c e₁
  have he₁ : e₁.Canon := .ite hc.count hc
  exact .ite he₁.count he₁

theorem Eng.Canon.enterFatal {m source} (hc : e.Canon) : (e.enterFatal m source).Canon := by
  unfold Eng.enterFatal
  split
  · exact hc
  · extract_lets e₁
    have he₁ : e₁.Canon := hc.modFlt
    exact .ite he₁.beginReset he₁

theorem Eng.Canon.eventActs {m v} (hc : e.Canon) : (e.eventActs m v).Canon := by
  unfold Eng.eventActs
  extract_lets e₁ e₂
  have he₁ : e₁.Canon := hc.countEvent
  have he₂ : e₂.Canon := .ite he₁.alertCause he₁
  exact .ite he₂.enterFatal (.ite he₂.regionActs he₂)

theorem Eng.Canon.reached {v others} (hc : e.Canon) : (e.reached v others).2.Canon := by
  unfold Eng.reached
  extract_lets v₁
  exact hc.modFlt

theorem Eng.Canon.deliver {m v} (hc : e.Canon) : (e.deliver m v).2.Canon := by
  unfold Eng.deliver
  extract_lets e₁
  have he₁ : e₁.Canon := hc.advanceCycles
  exact he₁.modFlt.eventActs

theorem Eng.Canon.wordEvent {sub inst st bits} (hc : e.Canon) : (e.wordEvent sub inst st bits).2.Canon := by
  unfold Eng.wordEvent
  split
  · exact hc
  · split
    · exact hc
    · split
      · exact hc
      · split
        · exact hc
        · exact .of hc

theorem Eng.Canon.takePlant {sub inst st word bits} (hc : e.Canon) : (e.takePlant sub inst st word bits).2.Canon := by
  unfold Eng.takePlant
  extract_lets e₁
  have he₁ : e₁.Canon := hc.injectSeen
  split
  · exact he₁.modFlt
  · exact he₁

theorem Eng.Canon.stopTest {sub inst} (hc : e.Canon) : (e.stopTest sub inst).Canon := by
  unfold Eng.stopTest
  split
  · exact .ite hc.modBist hc
  · exact hc

theorem Eng.Canon.detect {m d} (hc : e.Canon) : (e.detect m d).1.eng.Canon := by
  unfold Eng.detect
  split
  · dsimp only
    split
    · next hw => exact hc.takePlant.wordEvent.snd hw
    · next hw => exact (Eng.Canon.modFlt (hc.takePlant.wordEvent.snd hw).stopTest).unitActs
  · exact .of hc

theorem Eng.Canon.detectAll {m ds vs} (hc : x.eng.Canon) : (Eng.detectAll m ds x vs).1.eng.Canon := by
  induction ds generalizing x vs with
  | nil => exact hc
  | cons d ds ih => exact ih hc.detect

theorem Eng.Canon.deliverAll {m vs} (hc : e.Canon) : (e.deliverAll m vs).Canon := by
  unfold Eng.deliverAll
  exact hc.foldl (fun _ _ he => he.deliver)

theorem Eng.Canon.deliverDue {m c} (hc : e.Canon) : (e.deliverDue m c).Canon := by
  unfold Eng.deliverDue
  extract_lets at_
  exact hc.foldl (fun _ _ he => he.deliver)

theorem Eng.Canon.injectWrite {w} (hc : e.Canon) : (e.injectWrite w).Canon := by
  unfold Eng.injectWrite
  split
  · exact hc
  · split
    · exact hc
    · extract_lets e₁ bits sub inst st
      have he₁ : e₁.Canon := hc.injectSeen
      exact he₁.modFlt

end Sys2Proof.Machine
end

section
/-! Periodic self-test, repair and fuses (11: R376 to R384): what keeps the canonical form of the tables. -/

namespace Sys2Proof.Machine

variable {e : Eng} {x : Eff}

theorem Eng.Canon.dropTested {row inst} (hc : e.Canon) : (e.dropTested row inst).Canon := by
  unfold Eng.dropTested
  extract_lets b n g e₁ src src₁ src₂ e₂ i
  have he₁ : e₁.Canon := hc.injectSeen
  have he₂ : e₂.Canon := .ite (.of he₁) (.ite (.of he₁) (.ite (.of he₁) he₁))
  exact .ite he₂.modFlt he₂

theorem Eng.Canon.startSlice {r} (hc : e.Canon) : (e.startSlice r).Canon := by
  unfold Eng.startSlice
  split
  · exact hc
  · split
    · exact hc
    · extract_lets e₁
      have he₁ : e₁.Canon := hc.dropTested.modBist
      split
      · exact he₁.wakeRegion
      · exact he₁

theorem Eng.Canon.grantSegment {row inst} (hc : e.Canon) : (e.grantSegment row inst).Canon := by
  unfold Eng.grantSegment
  extract_lets k b test src
  exact .ite (.ite (.noteWork (.grantTest (.dropTested (.of hc)))) (.of hc)) hc

theorem Eng.Canon.sample (hc : e.Canon) : e.sample.Canon := by
  unfold Eng.sample
  extract_lets mhz mv src
  exact .of hc

theorem Eng.Canon.leaveSlice {m t f} (hc : e.Canon) : (e.leaveSlice m t f).eng.Canon := by
  unfold Eng.leaveSlice
  extract_lets boot e₁ x
  have he₁ : e₁.Canon := hc.modBist
  have hx : x.eng.Canon := by
    unfold x
    split
    · exact he₁.portOpens
    · exact he₁
  split
  · exact he₁.noteWork.serveQueue
  · split
    · refine .on ?_ (fun e₂ he => ?_)
      · split
        · exact hx.andThen (fun _ _ he => he.resumeRegion)
        · exact he₁
      · exact he.noteWork
    · exact (he₁.portOpens.andThen (fun _ _ he => he.portOpens)).on (fun _ he => he.noteWork)

theorem Eng.Canon.visitDone {m t} (hc : e.Canon) : (e.visitDone m t).eng.Canon := by
  unfold Eng.visitDone
  extract_lets now
  exact hc.leaveSlice

theorem Eng.Canon.noteFailure {t r} (hc : e.Canon) : (e.noteFailure t r).Canon := by
  unfold Eng.noteFailure
  extract_lets k m e₁ src i e₂
  have he₁ : e₁.Canon := hc.modBist
  clear_value i
  split
  · exact he₁
  · split
    · exact he₁
    · exact he₁

theorem Eng.Canon.repairMacro {t x} (hc : e.Canon) : (e.repairMacro t x).Canon := by
  unfold Eng.repairMacro
  extract_lets k
  split
  · exact hc
  · extract_lets e₁ e₂
    have he₁ : e₁.Canon := hc.noteFailure
    have he₂ : e₂.Canon := he₁.foldl (fun _ _ he => he.modBist.count)
    exact he₂.modBist
  · exact hc.noteFailure.modBist

theorem Eng.Canon.unrepairable {m t structId} (hc : e.Canon) : (e.unrepairable m t structId).eng.Canon := by
  unfold Eng.unrepairable
  extract_lets src dead
  exact hc.raise.visitDone.on (fun _ he => he.modBist)

theorem Eng.Canon.repairedEvents {t seen rs} (hc : e.Canon) : (e.repairedEvents t seen rs).Canon := by
  induction rs generalizing e seen with
  | nil => exact hc
  | cons r rs ih =>
    unfold Eng.repairedEvents
    exact .ite (ih hc) (ih hc.raise)

theorem Eng.Canon.visitEnds {m t x} (hc : e.Canon) : (e.visitEnds m t x).eng.Canon := by
  unfold Eng.visitEnds
  extract_lets k b good ms
  split
  · split
    · exact hc.repairedEvents.visitDone
    · exact hc.count.unrepairable
  · split
    · exact (hc.foldl (fun _ _ he => he.repairMacro)).leaveSlice
    · split
      · exact hc.visitDone
      · exact hc.count.leaveSlice

theorem Eng.Canon.segmentEnds {m t x} (hc : e.Canon) : (e.segmentEnds m t x).eng.Canon := by
  unfold Eng.segmentEnds
  extract_lets b src c v endsSlice e₁
  have he₁ : e₁.Canon := .ite hc.count hc
  split
  · exact hc.raise.leaveSlice
  · split
    · exact hc.count.leaveSlice
    · split
      · exact hc.visitEnds
      · split
        · exact he₁.visitEnds
        · split
          · exact he₁.leaveSlice
          · exact he₁.modBist.dropTested

end Sys2Proof.Machine
end

section
/-! Pods and the Bellwether (13: R424 to R445): what keeps the canonical form of the tables. -/

namespace Sys2Proof.Machine

variable {e : Eng} {x : Eff}

theorem Eng.Canon.modPod {f} (hc : e.Canon) : (e.modPod f).Canon := by
  unfold Eng.modPod
  exact .of hc

theorem Eng.Canon.modTime {f} (hc : e.Canon) : (e.modTime f).Canon := by
  unfold Eng.modTime
  exact hc.modFlt

theorem Eng.Canon.podSignal {was} (hc : e.Canon) : (e.podSignal was).Canon := by
  unfold Eng.podSignal
  exact .ite hc.emit hc

theorem Eng.Canon.setChanged (hc : e.Canon) : e.setChanged.Canon := by
  unfold Eng.setChanged
  exact hc.modPod.podSignal

theorem Eng.Canon.setRival (hc : e.Canon) : e.setRival.Canon := by
  unfold Eng.setRival
  exact hc.modPod.podSignal

theorem Eng.Canon.foreign (hc : e.Canon) : e.foreign.Canon := by
  unfold Eng.foreign
  exact hc.count

theorem Eng.Canon.unsyncWaits {d p} (hc : e.Canon) : (e.unsyncWaits d p).Canon := by
  unfold Eng.unsyncWaits
  exact hc.endWaits

theorem Eng.Canon.unsyncRemote (hc : e.Canon) : e.unsyncRemote.Canon := by
  unfold Eng.unsyncRemote
  exact hc.foldl (fun _ _ he => he.podRefused.emit.waitEnds)

theorem Eng.Canon.reportTime (hc : e.Canon) : e.reportTime.Canon := by
  unfold Eng.reportTime
  exact hc.emit

theorem Eng.Canon.sendSyncReq (hc : e.Canon) : e.sendSyncReq.Canon := by
  unfold Eng.sendSyncReq
  exact hc.modTime.reportTime

theorem Eng.Canon.enterUnsynced (hc : e.Canon) : e.enterUnsynced.Canon := by
  unfold Eng.enterUnsynced
  split
  · exact hc.modTime
  · extract_lets e₁
    have he₁ : e₁.Canon := hc.modTime.count
    exact he₁.unsyncWaits.unsyncRemote.reportTime

theorem Eng.Canon.sendJoin {restarted} (hc : e.Canon) : (e.sendJoin restarted).Canon := by
  unfold Eng.sendJoin
  exact .ite hc.modPod.emit hc

theorem Eng.Canon.setPeer {d st cause} (hc : e.Canon) : (e.setPeer d st cause).Canon := by
  unfold Eng.setPeer
  extract_lets old src e₁
  have he₁ : e₁.Canon := hc.withPeers (mapSet_wf _ _ _ _ hc.2.2.2.2.2.1)
  exact .ite he₁.unsyncWaits he₁

theorem Eng.Canon.writeMember {d ident epoch measure2 digest st cause} (hc : e.Canon) : (e.writeMember d ident epoch measure2 digest st cause).eng.Canon := by
  unfold Eng.writeMember
  extract_lets pad bytes
  split
  · exact hc
  · exact .put hc

theorem Eng.Canon.recordPeer {d} (hc : x.eng.Canon) : (x.recordPeer d).eng.Canon := by
  unfold Eff.recordPeer
  extract_lets p a
  refine .put ?_
  split
  · exact hc
  · exact hc.put

theorem Eng.Canon.recorded {was} (hc : x.eng.Canon) : (x.recorded was).eng.Canon := by
  unfold Eff.recorded
  split
  · exact hc
  · extract_lets now keys
    exact hc.foldlEff (fun _ _ hx => hx.recordPeer)

theorem Eng.Canon.noteBad {st} (hc : e.Canon) : (e.noteBad st).Canon := by
  unfold Eng.noteBad
  exact .ite hc.count hc

theorem Eng.Canon.startJoins {n} (hc : e.Canon) : (e.startJoins n).Canon := by
  induction n generalizing e with
  | zero => exact hc
  | succ n ih =>
    unfold Eng.startJoins
    split
    · exact hc
    · exact .ite hc (ih hc.modPod.emit)

theorem Eng.Canon.takeEpoch {m d epoch} (hc : e.Canon) : (e.takeEpoch m d epoch).Canon := by
  unfold Eng.takeEpoch
  extract_lets p src e₁
  have he₁ : e₁.Canon := hc.withPeers (mapSet_wf _ _ _ _ hc.2.2.2.2.2.1)
  exact .ite hc (.ite (.ite (.ite he₁.setPeer he₁.setPeer) he₁) (.ite he₁.setPeer he₁))

theorem Eng.Canon.joinArrives {m j} (hc : e.Canon) : (e.joinArrives m j).Canon := by
  unfold Eng.joinArrives
  extract_lets p
  exact .ite hc (.ite hc.setPeer (.ite hc.setPeer hc.takeEpoch))

theorem Eng.Canon.queueJoin {j} (hc : e.Canon) : (e.queueJoin j).Canon := by
  unfold Eng.queueJoin
  exact hc.modPod.startJoins

theorem Eng.Canon.takeVerdict {m d j v} (hc : e.Canon) : (e.takeVerdict m d j v).eng.Canon := by
  unfold Eng.takeVerdict
  extract_lets p judged again
  split
  · exact (Eng.Canon.ite hc.setPeer hc).count
  · split
    · exact (Eng.Canon.ite hc.setPeer hc).count
    · split
      extract_lets e₁ src e₂ e₃
      have he₁ : e₁.Canon := hc.setPeer.noteBad
      have he₂ : e₂.Canon := he₁.withPeers (mapUpd_wf _ _ _ _ he₁.2.2.2.2.2.1)
      exact he₂.modPod.writeMember

theorem Eng.Canon.rejudge {m d p} (hc : e.Canon) : (e.rejudge m d p).eng.Canon := by
  unfold Eng.rejudge
  exact hc.setPeer.noteBad.writeMember

theorem Eng.Canon.reverify {m} (hc : e.Canon) : (e.reverify m).eng.Canon := by
  unfold Eng.reverify
  split
  · exact hc
  · exact .foldlEff hc (fun _ _ hx => hx.rejudge)

theorem Eng.Canon.podCtlWrite {m w} (hc : e.Canon) : (e.podCtlWrite m w).eng.Canon := by
  unfold Eng.podCtlWrite
  extract_lets quiet e₁ e₂ src e₃ e₄
  have he₂ : e₂.Canon := .ite hc.modPod hc.modPod.modTime
  have he₃ : e₃.Canon := he₂.withPeers (mapWf_nil _)
  have he₄ : e₄.Canon := .ite he₃.modPod.sendJoin he₂
  split
  · exact he₄.reverify
  · exact he₄

theorem Eng.Canon.checkEpochs (hc : e.Canon) : e.checkEpochs.Canon := by
  unfold Eng.checkEpochs
  exact hc.foldl (fun _ _ he => he.setPeer)

theorem Eng.Canon.takeVector {b} (hc : e.Canon) : (e.takeVector b).Canon := by
  unfold Eng.takeVector
  extract_lets v e₁ src e₂ e₃
  have he₁ : e₁.Canon := .ite hc hc.setChanged
  have he₂ : e₂.Canon := he₁.withPeers (mapWf_foldl_mapSet (mapWf_nil _))
  exact he₂.modPod.foldl fun _ _ he => he.unsyncWaits

theorem Eng.Canon.noteLostExchange (hc : e.Canon) : e.noteLostExchange.Canon := by
  unfold Eng.noteLostExchange
  split
  · exact hc
  · extract_lets e₁
    have he₁ : e₁.Canon := hc.modTime.count
    exact .ite he₁.enterUnsynced he₁

theorem Eng.Canon.takeReport {m q} (hc : e.Canon) : (e.takeReport m q).Canon := by
  unfold Eng.takeReport
  extract_lets was e₁ p
  have he₁ : e₁.Canon := hc.takeEpoch
  exact .ite he₁ (.ite he₁.setPeer (.ite he₁.setPeer he₁))

theorem Eng.Canon.correct {theta} (hc : e.Canon) : (e.correct theta).Canon := by
  unfold Eng.correct
  exact .ite (.of hc) hc.modTime

theorem Eng.Canon.syncUnreachable {d j} (hc : e.Canon) : (e.syncUnreachable d j).Canon := by
  unfold Eng.syncUnreachable
  extract_lets det
  exact .ite hc.waitEnds hc.wakeRegion.finish

theorem Eng.Canon.spdmAnswer {k} (hc : e.Canon) : (e.spdmAnswer k).2.Canon := by
  unfold Eng.spdmAnswer
  extract_lets values
  split
  · exact hc
  · exact hc
  · exact hc
  · exact hc
  · exact hc
  · exact .of hc
  · exact hc
  · exact .of hc
  · exact hc

theorem Eng.Canon.answerSpdm {src k} (hc : e.Canon) : (e.answerSpdm src k).Canon := by
  unfold Eng.answerSpdm
  exact hc.spdmAnswer.emit.count

end Sys2Proof.Machine
end

section
/-! Bring-up and the boundary (14: R446 to R465): what keeps the canonical form of the tables. -/

namespace Sys2Proof.Machine

variable {e : Eng} {x : Eff}

theorem Eng.Canon.coldReset {low} : (e.coldReset low).Canon :=
  .of ⟨mapWf_nil _, mapWf_nil _, mapWf_nil _, mapWf_nil _, mapWf_nil _, mapWf_nil _, mapWf_nil _⟩

theorem Eng.Canon.startPhase {n} (hc : e.Canon) : (e.startPhase n).Canon := by
  unfold Eng.startPhase
  exact .of hc

theorem Eng.Canon.stopElapsed {f} (hc : e.Canon) : (e.stopElapsed f).Canon := by
  unfold Eng.stopElapsed
  extract_lets us src src₁
  exact .of hc

theorem Eng.Canon.startFails {cause} (hc : e.Canon) : (e.startFails cause).Canon := by
  unfold Eng.startFails
  exact hc.stopElapsed

theorem Eng.Canon.startEngine (hc : e.Canon) : e.startEngine.Canon := by
  unfold Eng.startEngine
  extract_lets src src₁ e₁ e₂ e₃ src₂
  have he₁ : e₁.Canon := ⟨mapWf_nil _, hc.2⟩
  clear_value e₁
  have he₂ : e₂.Canon := (he₁.foldl fun _ _ he => he.enter).enter
  clear_value e₂
  exact .foldl (.engineFloor (.of he₂)) fun _ _ he => he.floorRaised

theorem Eng.Canon.endSelfTest (hc : e.Canon) : e.endSelfTest.Canon := hc.withBist (mapWf_foldl_mapSet hc.2.2.2.2.2.2)

theorem Eng.Canon.becomeReady (hc : e.Canon) : e.becomeReady.Canon := by
  unfold Eng.becomeReady
  exact hc.startPhase.stopElapsed

theorem Eng.Canon.endPhase (hc : e.Canon) : e.endPhase.Canon := by
  unfold Eng.endPhase
  extract_lets n e₁ src src₁ e₂
  have he₁ : e₁.Canon := hc.advanceTo.sample
  clear_value e₁
  have he₂ : e₂.Canon := .of he₁
  split
  · exact .ite hc he₂.startPhase.bootTest
  · split
    · exact .ite hc hc.endSelfTest.startPhase
    · split
      · refine .startPhase (.loadSeeds ?_)
        exact .of hc
      · split
        · exact .startPhase (.of hc)
        · exact .ite hc.startEngine.becomeReady hc.startPhase

theorem Eng.Canon.failPhase {m cause} (hc : e.Canon) : (e.failPhase m cause).Canon := by
  unfold Eng.failPhase
  extract_lets e₁
  have he₁ : e₁.Canon := hc.startFails
  exact .ite he₁.alertCause.enterFatal he₁

theorem Eng.Canon.seeInputs {corePg valid num} (hc : e.Canon) : (e.seeInputs corePg valid num).Canon := by
  unfold Eng.seeInputs
  exact .of hc

theorem Eng.Canon.phaseEnds {m x} (hc : e.Canon) : (e.phaseEnds m x).Canon := by
  unfold Eng.phaseEnds
  extract_lets st
  split
  · exact hc
  · split
    · exact .ite hc hc.endPhase
    · exact .ite hc.seeInputs.endPhase hc
    · exact .ite hc.failPhase hc

theorem Eng.Canon.modDie {d f} (hc : e.Canon) : (e.modDie d f).Canon := by
  unfold Eng.modDie
  exact .of hc

theorem Eng.Canon.dieCfgWrite {d w} (hc : e.Canon) : (e.dieCfgWrite d w).Canon := by
  unfold Eng.dieCfgWrite
  extract_lets c on c₁ r
  exact .ite (.ite hc hc.modDie.endDisables) (.ite hc.modDie hc.modDie)

theorem Eng.Canon.dieLost {m d} (hc : e.Canon) : (e.dieLost m d).eng.Canon := by
  unfold Eng.dieLost
  extract_lets hs e₁ e₂ e₃ e₄ mine e₅
  have he₁ : e₁.Canon := hc.modDie
  have he₂ : e₂.Canon := he₁.foldl (fun _ _ he => he.modJob)
  have he₃ : e₃.Canon := he₂.foldl (fun _ _ he => he.answerDie)
  have he₄ : e₄.Canon := he₃.foldl (fun _ _ he => he.answerPeer)
  have he₅ : e₅.Canon := .endWaits (.of he₄)
  exact .foldlEff he₅ (fun _ _ hx => hx.andThen (fun _ _ he => he.goOn))

end Sys2Proof.Machine
end

section
/-! Doorbells, the landing buffer and grants (02: R48 to R67): what keeps the canonical form of the tables. -/

namespace Sys2Proof.Machine

variable {e : Eng} {x : Eff}

theorem Eng.Canon.takeCaught {k} (hc : e.Canon) : (e.takeCaught k).Canon := by
  unfold Eng.takeCaught
  extract_lets e₁
  have he₁ : e₁.Canon := by
    unfold e₁
    split
    · exact hc.ringSq
    · exact hc
  split
  · exact he₁.ringCq
  · exact he₁

theorem Eng.Canon.capture {line bs} (hc : e.Canon) : (e.capture line bs).Canon := by
  unfold Eng.capture
  extract_lets kept kept₁ src
  exact .of hc

theorem Eng.Canon.grant {m r j w bad} (hc : e.Canon) : (e.grant m r j w bad).Canon := by
  unfold Eng.grant
  extract_lets units
  dsimp only
  refine .modJob ?_
  split
  · exact hc.readViews
  · exact hc

end Sys2Proof.Machine
end

section
/-! Writes of registers that have no row of their own (14: R466 to R468): what keeps the canonical form of the tables. -/

namespace Sys2Proof.Machine

variable {e : Eng} {x : Eff}

theorem Eng.Canon.cxsWrite {off w} (hc : e.Canon) : (e.cxsWrite off w).Canon := by
  unfold Eng.cxsWrite
  exact .ite (.ite (.of hc) hc) (.ite hc.modCtx hc)

theorem Eng.Canon.jrnWrite {off w} (hc : e.Canon) : (e.jrnWrite off w).Canon := by
  unfold Eng.jrnWrite
  exact .ite hc.modJrn hc

theorem Eng.Canon.wlkWrite {off w} (hc : e.Canon) : (e.wlkWrite off w).Canon := by
  unfold Eng.wlkWrite
  exact .ite (.of hc) hc

theorem Eng.Canon.atgWrite {off w} (hc : e.Canon) : (e.atgWrite off w).Canon := by
  unfold Eng.atgWrite
  extract_lets a
  exact .ite (.ite (.of hc) hc) (.ite (.of hc) (.ite (.of hc) (.ite (.of hc) (.ite hc.modPdk hc))))

theorem Eng.Canon.npiWrite {off w} (hc : e.Canon) : (e.npiWrite off w).Canon := by
  unfold Eng.npiWrite
  exact .ite (.of hc) hc

theorem Eng.Canon.synWrite {off w} (hc : e.Canon) : (e.synWrite off w).Canon := by
  unfold Eng.synWrite
  extract_lets g x
  exact .ite (.of hc) (.ite (.of hc) (.ite (.ite hc hc.setFold) hc))

theorem Eng.Canon.podAreaWrite {w} (hc : e.Canon) : (e.podAreaWrite w).Canon := by
  unfold Eng.podAreaWrite
  extract_lets b
  exact hc.modPod

theorem Eng.Canon.svcWrite {m off w} (hc : e.Canon) : (e.svcWrite m off w).Canon := by
  unfold Eng.svcWrite
  split
  · exact hc.engResetWrite
  · exact .ite (.of hc) hc
  · exact .of hc
  · exact .of hc
  · exact .ite hc hc.modPower
  · exact .of hc
  · exact .of hc
  · exact hc.modPod
  · exact hc.podAreaWrite
  · exact .ite (.of hc) hc

theorem Eng.Canon.fltWrite {off w} (hc : e.Canon) : (e.fltWrite off w).Canon := by
  unfold Eng.fltWrite
  split
  · exact hc.alertCtlWrite
  · exact .ite hc.modFlt hc
  · exact hc.injectWrite
  · exact .ite hc.modFlt hc
  · exact .ite hc.modFlt hc

theorem Eng.Canon.plainWrite {m sub off w} (hc : e.Canon) : (e.plainWrite m sub off w).Canon := by
  unfold Eng.plainWrite
  exact .ite hc.cxsWrite (.ite hc.jrnWrite (.ite hc.wlkWrite (.ite hc.atgWrite (.ite hc.npiWrite (.ite hc.synWrite (.ite hc.svcWrite (.ite hc.fltWrite hc)))))))

end Sys2Proof.Machine
end

section
/-! Every command keeps the canonical form of the engine's tables (R42, R251, R266, R278, R376, R469). -/

namespace Sys2Proof.Machine

section
variable {e : Eng}

theorem Eng.Canon.mkEff {os} (hc : e.Canon) : (Eff.mk e os).eng.Canon := hc

/-- A fuse that is programmed (R383). -/
theorem Eng.Canon.fused {b c f} (hc : e.Canon) : ({ e with svc := { e.svc with fuseBusy := b, cands := c }, fuses := f } : Eng).Canon := .of hc

/-- The self-test's interval begins again (R379). -/
theorem Eng.Canon.sliceClock {t w} (hc : e.Canon) : ({ e with svc := { e.svc with bistAt := t, wheelAt := w } } : Eng).Canon := .of hc

end

/-- An answer whose tables, where there is a next state, have their canonical form. -/
def KeepsTables (a : Answer) : Prop := ∀ t, a = .next t → t.eng.Canon

theorem keepsTables_next {t : State} (h : t.eng.Canon) : KeepsTables (.next t) := by
  intro u hu
  cases hu
  exact h

theorem onEng_keepsTables {s : State} {f : Memory → Eng → Eng} (h : s.eng.Canon) (hf : ∀ m e, (he : e.Canon) → (f m e).Canon) :
    KeepsTables (onEng s f) := by
  refine keepsTables_next ?_
  split
  · exact hf _ _ h
  · exact h

theorem onMem_keepsTables {s : State} {f : Memory → Eng → Eff} (h : s.eng.Canon) (hf : ∀ m e, (he : e.Canon) → (f m e).eng.Canon) :
    KeepsTables (onMem s f) := by
  refine keepsTables_next ?_
  split
  · exact hf _ _ h
  · exact h

variable {s : State}

theorem execSubmissionDoorbell_keepsTables {c h v} (hc : s.eng.Canon) : KeepsTables (execSubmissionDoorbell c h v s) := by
  refine onEng_keepsTables hc fun m e he => ?_
  split
  · exact he.doorbell
  · exact he.dbIgnored

theorem execCompletionDoorbell_keepsTables {c h v} (hc : s.eng.Canon) : KeepsTables (execCompletionDoorbell c h v s) := by
  refine onEng_keepsTables hc fun m e he => ?_
  split
  · exact he.doorbell
  · exact he.dbIgnored

theorem execOpiDoorbellMessage_keepsTables {d c completion v} (hc : s.eng.Canon) : KeepsTables (execOpiDoorbellMessage d c completion v s) := by
  refine onEng_keepsTables hc fun m e he => ?_
  extract_lets e₁
  have he₁ : e₁.Canon := he.ended
  exact .ite he₁ (.ite he₁.doorbell he₁.dbIgnored)

theorem execTakeRecordedDoorbell_keepsTables {c} (hc : s.eng.Canon) : KeepsTables (execTakeRecordedDoorbell c s) := by
  refine onEng_keepsTables hc fun m e he => ?_
  split
  · exact he
  · split
    · exact .noteWorkOf (.takeCaught (.of he))
    · split
      · exact .doorbell (.of he)
      · exact he

theorem execLandingCapture_keepsTables {a bs} (hc : s.eng.Canon) : KeepsTables (execLandingCapture a bs s) := by
  refine onMem_keepsTables hc fun m e he => ?_
  extract_lets o m' lines
  exact he.foldl (fun _ _ he => .ite he (.ite he.capture he.dropLines))

theorem execDescriptorFetch_keepsTables {reply} (hc : s.eng.Canon) : KeepsTables (execDescriptorFetch reply s) := by
  refine onMem_keepsTables hc fun m e he => ?_
  split
  · exact he
  · dsimp only
    split
    · exact he
    · exact .fetchOne (.of he)

theorem execTimedRefetch_keepsTables {c reply} (hc : s.eng.Canon) : KeepsTables (execTimedRefetch c reply s) := by
  refine onMem_keepsTables hc fun m e he => ?_
  split
  · exact he
  · split
    · exact he
    · extract_lets e₁
      have he₁ : e₁.Canon := he.advanceTo
      split
      · exact he₁.modCtx
      · exact he₁.fetchOne

theorem execRingStall_keepsTables {c} (hc : s.eng.Canon) : KeepsTables (execRingStall c s) := by
  refine onEng_keepsTables hc fun m e he => ?_
  split
  · exact .ite he.ringStallNow he
  · exact he

theorem execFetchResume_keepsTables {c reply} (hc : s.eng.Canon) : KeepsTables (execFetchResume c reply s) := by
  refine onMem_keepsTables hc fun m e he => ?_
  split
  · split
    · exact he.fetchOne
    · exact he
  · exact he

theorem execDispatch_keepsTables {h bad} (hc : s.eng.Canon) : KeepsTables (execDispatch h bad s) := by
  refine onEng_keepsTables hc fun m e he => ?_
  split
  · exact he
  · split
    · exact he
    · split
      · split
        · exact he
        · dsimp only
          refine .wakeRegion ?_
          refine .modJob ?_
          split
          · exact he
          · exact he.leadRegion
      · split
        · extract_lets r
          exact he.modJob.wakeRegion
        · exact he.finish

theorem execWalkerGrant_keepsTables {r bad} (hc : s.eng.Canon) : KeepsTables (execWalkerGrant r bad s) := by
  refine onEng_keepsTables hc fun m e he => ?_
  split
  · exact he
  · split
    · exact he
    · split
      · next hp => exact (he.drawWalker.snd hp).askStarved
      · next hp => exact (he.drawWalker.snd hp).grant.askStarved

theorem execNop_keepsTables {h} (hc : s.eng.Canon) : KeepsTables (execNop h s) :=
  onEng_keepsTables hc fun _ _ he => he.beginSimple (fun _ _ he => he.finish)

theorem execCopy_keepsTables {h n} (hc : s.eng.Canon) : KeepsTables (execCopy h n s) :=
  onEng_keepsTables hc fun _ _ he => he.dataStep

theorem execTransform_keepsTables {h n} (hc : s.eng.Canon) : KeepsTables (execTransform h n s) :=
  onEng_keepsTables hc fun _ _ he => he.dataStep

theorem execGather_keepsTables {h n} (hc : s.eng.Canon) : KeepsTables (execGather h n s) :=
  onEng_keepsTables hc fun _ _ he => he.dataStep

theorem execScatter_keepsTables {h n} (hc : s.eng.Canon) : KeepsTables (execScatter h n s) :=
  onEng_keepsTables hc fun _ _ he => he.dataStep

theorem execScatterAcc_keepsTables {h n} (hc : s.eng.Canon) : KeepsTables (execScatterAcc h n s) :=
  onEng_keepsTables hc fun _ _ he => he.dataStep

theorem execReduce_keepsTables {h n} (hc : s.eng.Canon) : KeepsTables (execReduce h n s) :=
  onEng_keepsTables hc fun _ _ he => he.dataStep

theorem execPutInline_keepsTables {h n} (hc : s.eng.Canon) : KeepsTables (execPutInline h n s) :=
  onEng_keepsTables hc fun _ _ he => he.dataStep

theorem execCompress_keepsTables {h n} (hc : s.eng.Canon) : KeepsTables (execCompress h n s) :=
  onMem_keepsTables hc fun _ _ he => he.compressStep

theorem execCompressPassEnd_keepsTables {h choice} (hc : s.eng.Canon) : KeepsTables (execCompressPassEnd h choice s) :=
  onMem_keepsTables hc fun _ _ he => he.passEnd

theorem execExpand_keepsTables {h n} (hc : s.eng.Canon) : KeepsTables (execExpand h n s) :=
  onEng_keepsTables hc fun _ _ he => he.expandStep

theorem execExpandBlockArrival_keepsTables {h i} (hc : s.eng.Canon) : KeepsTables (execExpandBlockArrival h i s) :=
  onEng_keepsTables hc fun _ _ he => he.blockArrives

theorem execFlagSet_keepsTables {h} (hc : s.eng.Canon) : KeepsTables (execFlagSet h s) :=
  onEng_keepsTables hc fun _ _ he => he.startRelease

theorem execFlagClear_keepsTables {h} (hc : s.eng.Canon) : KeepsTables (execFlagClear h s) :=
  onEng_keepsTables hc fun _ _ he => he.startRelease

theorem execFlagWait_keepsTables {h} (hc : s.eng.Canon) : KeepsTables (execFlagWait h s) := by
  refine onEng_keepsTables hc fun m e he => ?_
  refine he.beginSync (fun _ e₁ he₁ => ?_)
  split
  · exact .homeGo (.modJob (.of he₁))
  · extract_lets id
    exact he₁.sendNpi.modJob.lendRegion

theorem execFoldArrive_keepsTables {h} (hc : s.eng.Canon) : KeepsTables (execFoldArrive h s) :=
  onEng_keepsTables hc fun _ _ he => he.startRelease

theorem execFence_keepsTables {h} (hc : s.eng.Canon) : KeepsTables (execFence h s) :=
  onEng_keepsTables hc fun _ _ he => he.beginSimple (fun _ _ he => he.modJob)

theorem execInvalidate_keepsTables {h} (hc : s.eng.Canon) : KeepsTables (execInvalidate h s) := by
  refine onEng_keepsTables hc fun m e he => ?_
  split
  · exact he
  · split
    · exact he
    · split
      · exact he.finish
      · exact .ite he.modJob.advanceInvalidate he

theorem execRekeySweep_keepsTables {h} (hc : s.eng.Canon) : KeepsTables (execRekeySweep h s) :=
  onEng_keepsTables hc fun _ _ he => he.beginSimple (fun _ _ he => he.startSweep)

theorem execScrub_keepsTables {h} (hc : s.eng.Canon) : KeepsTables (execScrub h s) :=
  onEng_keepsTables hc fun _ _ he => he.beginSimple (fun _ _ he => he.startSweep)

theorem execQuery_keepsTables {h} (hc : s.eng.Canon) : KeepsTables (execQuery h s) :=
  onEng_keepsTables hc fun _ _ he => he.beginSimple (fun _ _ he => he.finish)

theorem execFenceDone_keepsTables {h} (hc : s.eng.Canon) : KeepsTables (execFenceDone h s) := by
  refine onEng_keepsTables hc fun m e he => ?_
  split
  · exact he
  · exact .ite he.finish he

theorem execPageWalkDone_keepsTables {r p va bad} (hc : s.eng.Canon) : KeepsTables (execPageWalkDone r p va bad s) := by
  refine onMem_keepsTables hc fun m e he => ?_
  split
  · exact he
  · exact he.endWalk.resumeRegion.on (fun _ he => he.noteWork)

theorem execReadReturn_keepsTables {t reply} (hc : s.eng.Canon) : KeepsTables (execReadReturn t reply s) := by
  refine onMem_keepsTables hc fun m e he => ?_
  split
  · exact .on (.goOn (.endDisables (.jobRead he))) fun _ he => he.noteWork
  · exact .mkEff (.noteWork (.peerRead he))
  · exact .mkEff (.noteWork (.dieRead he))

theorem execWriteAck_keepsTables {t reply} (hc : s.eng.Canon) : KeepsTables (execWriteAck t reply s) := by
  refine onMem_keepsTables hc fun m e he => ?_
  refine .on ?_ (fun e₁ he₁ => ?_)
  · split
    · exact he.jobAck.andThen (fun _ _ he => he.endDisables.goOn)
    · exact he.peerAck
    · exact he.dieAck
    · exact he.syncAck
  · exact he₁.noteWork

theorem execAppliedTimer_keepsTables {h} (hc : s.eng.Canon) : KeepsTables (execAppliedTimer h s) := by
  refine onEng_keepsTables hc fun m e he => ?_
  split
  · exact he
  · split
    · exact he
    · extract_lets e₁
      have he₁ : e₁.Canon := he.advanceTo
      exact he₁.writeApplied

theorem execPostCompletion_keepsTables {c} (hc : s.eng.Canon) : KeepsTables (execPostCompletion c s) := by
  refine onMem_keepsTables hc fun m e he => ?_
  split
  · exact he
  · split
    · exact he
    · split
      · exact he.postRecord.on (fun _ he => he.endRun.noteWork)
      · exact he.spoolRecord.on (fun _ he => he.noteWork)

theorem execSpoolDrain_keepsTables {c} (hc : s.eng.Canon) : KeepsTables (execSpoolDrain c s) := by
  refine onMem_keepsTables hc fun m e he => ?_
  split
  · exact he
  · split
    · exact he.postRecord.on (fun _ he => he.endRun.noteWork)
    · exact he

theorem execContextClosed_keepsTables {c} (hc : s.eng.Canon) : KeepsTables (execContextClosed c s) := by
  refine onEng_keepsTables hc fun m e he => ?_
  extract_lets x e₁ busy src src₁
  have he₁ : e₁.Canon := by
    unfold e₁
    split
    · exact he.modCtx.ownerReset
    · exact he
  have hsrc : src.Canon := he₁.modCtx
  exact .ite he (.of hsrc)

theorem execJournalFlushReturn_keepsTables {ok} (hc : s.eng.Canon) : KeepsTables (execJournalFlushReturn ok s) := by
  refine onEng_keepsTables hc fun m e he => ?_
  split
  · exact he
  · extract_lets e₁
    have he₁ : e₁.Canon := he.modJrn
    exact .noteWork (.ite he₁.count.acceptDurable.jPrune.jPump he₁.jPump)

theorem execEnable_keepsTables (hc : s.eng.Canon) : KeepsTables (execEnable s) := by
  refine onEng_keepsTables hc fun _ _ he => he.ctxCommand fun _ _ _ he => .ite ?_ he.ctxResult
  extract_lets e'
  have he' : e'.Canon := he.modCtx
  exact .of he'

theorem execDisable_keepsTables (hc : s.eng.Canon) : KeepsTables (execDisable s) :=
  onEng_keepsTables hc fun _ _ he => he.ctxCommand (fun _ _ _ he => he.close)

theorem execReset_keepsTables (hc : s.eng.Canon) : KeepsTables (execReset s) := by
  refine onEng_keepsTables hc fun m e he => ?_
  refine he.ctxCommand (fun _ _ e₁ he₁ => ?_)
  extract_lets e₂
  have he₂ : e₂.Canon := he₁.close.cancelUnbegun
  exact he₂.foldl (fun _ _ he => he.cancelWait)

theorem execPark_keepsTables (hc : s.eng.Canon) : KeepsTables (execPark s) :=
  onEng_keepsTables hc fun _ _ he => he.ctxCommand (fun _ _ _ he => he.parkRing)

theorem execResume_keepsTables (hc : s.eng.Canon) : KeepsTables (execResume s) :=
  onEng_keepsTables hc fun _ _ he => he.ctxCommand (fun _ _ _ he => he.modCtx)

theorem execVcInvOne_keepsTables {w} (hc : s.eng.Canon) : KeepsTables (execVcInvOne w s) :=
  onEng_keepsTables hc fun _ _ he => he.vcInv

theorem execVcInvPaddock_keepsTables {w} (hc : s.eng.Canon) : KeepsTables (execVcInvPaddock w s) :=
  onEng_keepsTables hc fun _ _ he => he.vcInv

theorem execVcInvEvery_keepsTables {w} (hc : s.eng.Canon) : KeepsTables (execVcInvEvery w s) :=
  onEng_keepsTables hc fun _ _ he => he.vcInv

theorem execVcInvDone_keepsTables (hc : s.eng.Canon) : KeepsTables (execVcInvDone s) := by
  refine onEng_keepsTables hc fun m e he => ?_
  extract_lets i src
  exact .ite (.dropViews (.of he)) he

theorem execTlbInvRange_keepsTables {w} (hc : s.eng.Canon) : KeepsTables (execTlbInvRange w s) :=
  onEng_keepsTables hc fun _ _ he => he.tlbInv

theorem execTlbInvPaddock_keepsTables {w} (hc : s.eng.Canon) : KeepsTables (execTlbInvPaddock w s) :=
  onEng_keepsTables hc fun _ _ he => he.tlbInv

theorem execTlbInvEvery_keepsTables {w} (hc : s.eng.Canon) : KeepsTables (execTlbInvEvery w s) :=
  onEng_keepsTables hc fun _ _ he => he.tlbInv

theorem execTlbInvDone_keepsTables (hc : s.eng.Canon) : KeepsTables (execTlbInvDone s) := by
  refine onEng_keepsTables hc fun m e he => ?_
  split
  · extract_lets e₁ src
    have he₁ : e₁.Canon := he.dropLeaves.restartWalks
    exact .ite he₁ (.of he₁)
  · exact he

theorem execRotate_keepsTables {w} (hc : s.eng.Canon) : KeepsTables (execRotate w s) := by
  refine onEng_keepsTables hc fun m e he => ?_
  refine he.pdkCommand (fun e₁ he₁ => ?_)
  extract_lets p a
  exact .ite he₁.pdkResult (.ite he₁.pdkResult he₁.modPdk.pdkResult)

theorem execRetire_keepsTables {w} (hc : s.eng.Canon) : KeepsTables (execRetire w s) := by
  refine onEng_keepsTables hc fun m e he => ?_
  refine he.pdkCommand (fun e₁ he₁ => ?_)
  extract_lets p a
  exact .ite he₁.pdkResult (.ite he₁.pdkResult he₁.pdkBusy.wakeMany)

theorem execCensusDone_keepsTables {bad} (hc : s.eng.Canon) : KeepsTables (execCensusDone bad s) := by
  refine onEng_keepsTables hc fun m e he => ?_
  split
  · extract_lets fs n e₁ src e₂
    have he₁ : e₁.Canon := he.foldl (fun _ _ he => he.noteMalformed)
    have he₂ : e₂.Canon := .of he₁
    exact .noteWork (.ite he₂.pdkResult.pdkBusy he₂.pdkBusy)
  · exact he

theorem execReachInv_keepsTables {w} (hc : s.eng.Canon) : KeepsTables (execReachInv w s) :=
  onEng_keepsTables hc fun _ _ he => he.pdkCommand (fun _ he => he.dropReach.pdkBusy)

theorem execWkeyLoad_keepsTables {w} (hc : s.eng.Canon) : KeepsTables (execWkeyLoad w s) := by
  refine onEng_keepsTables hc fun m e he => ?_
  refine he.pdkCommand (fun e₁ he₁ => ?_)
  extract_lets p
  exact .ite he₁.modPdk.pdkResult he₁.emit.pdkBusy

theorem execWkeyErase_keepsTables {w} (hc : s.eng.Canon) : KeepsTables (execWkeyErase w s) :=
  onEng_keepsTables hc fun _ _ he => he.pdkCommand (fun _ he => he.modPdk.pdkBusy)

theorem execPdkCmdDone_keepsTables (hc : s.eng.Canon) : KeepsTables (execPdkCmdDone s) := by
  refine onEng_keepsTables hc fun m e he => ?_
  extract_lets p
  split
  · exact .ite he he.modPdk.pdkResult.pdkBusy
  · exact .ite he he.dropReach.pdkResult.pdkBusy
  · exact .ite he he.eraseSlot.pdkResult.pdkBusy
  · exact he

theorem execLfsrSeedWrite_keepsTables {r w} (hc : s.eng.Canon) : KeepsTables (execLfsrSeedWrite r w s) := by
  refine onEng_keepsTables hc fun m e he => ?_
  refine he.access (fun e₁ he₁ => ?_)
  extract_lets seed src
  exact .ite he₁ (.of he₁)

theorem execFlagCfgWrite_keepsTables {w} (hc : s.eng.Canon) : KeepsTables (execFlagCfgWrite w s) := by
  refine onEng_keepsTables hc fun m e he => ?_
  refine he.access (fun e₁ he₁ => ?_)
  extract_lets f e₂ fl
  have he₂ : e₂.Canon := he₁.orphanAll
  exact he₂.setFlag

theorem execFoldCfgWrite_keepsTables {w} (hc : s.eng.Canon) : KeepsTables (execFoldCfgWrite w s) := by
  refine onEng_keepsTables hc fun m e he => ?_
  refine he.access (fun e₁ he₁ => ?_)
  extract_lets g fo on fo₁
  exact .ite (.ite he₁ he₁.setFold) (.ite he₁.setFold he₁.setFold)

theorem execFresh_keepsTables (hc : s.eng.Canon) : KeepsTables (execFresh s) :=
  onEng_keepsTables hc fun _ _ he => he.jrnCommand (fun _ he => .ite he.modJrn he.modJrn.jAppend)

theorem execAdopt_keepsTables (hc : s.eng.Canon) : KeepsTables (execAdopt s) :=
  onEng_keepsTables hc fun _ _ he => he.jrnCommand (fun _ he => .ite he.modJrn he.modJrn)

theorem execReattach_keepsTables (hc : s.eng.Canon) : KeepsTables (execReattach s) := by
  refine onMem_keepsTables hc fun m e he => ?_
  extract_lets was e₁
  have he₁ : e₁.Canon := he.jrnCommand (fun _ he => he.modJrn)
  split
  · exact he₁
  · exact he₁.hostReturns

theorem execEngResetReq_keepsTables {w} (hc : s.eng.Canon) : KeepsTables (execEngResetReq w s) :=
  onEng_keepsTables hc fun _ _ he => he.access (fun _ he => he.engResetWrite)

theorem execFltModeWrite_keepsTables {w} (hc : s.eng.Canon) : KeepsTables (execFltModeWrite w s) := by
  refine onEng_keepsTables hc fun m e he => ?_
  refine he.access (fun e₁ he₁ => ?_)
  split
  · exact he₁
  · extract_lets new quiet ok
    exact .ite (.modFlt (.ite he₁.disarm he₁)) he₁

theorem execHistPop_keepsTables {w} (hc : s.eng.Canon) : KeepsTables (execHistPop w s) :=
  onEng_keepsTables hc fun _ _ he => he.access (fun _ he => .ite he.modFlt he)

theorem execAlertForce_keepsTables {w} (hc : s.eng.Canon) : KeepsTables (execAlertForce w s) :=
  onEng_keepsTables hc fun _ _ he => he.access (fun _ he => he.alertCtlWrite)

theorem execPendingClear_keepsTables {w} (hc : s.eng.Canon) : KeepsTables (execPendingClear w s) :=
  onEng_keepsTables hc fun _ _ he => he.access (fun _ he => he.alertCtlWrite)

theorem execFltInjectArm_keepsTables {w} (hc : s.eng.Canon) : KeepsTables (execFltInjectArm w s) :=
  onEng_keepsTables hc fun _ _ he => he.access (fun _ he => he.injectWrite)

theorem execFuseCmd_keepsTables {w} (hc : s.eng.Canon) : KeepsTables (execFuseCmd w s) :=
  onEng_keepsTables hc fun _ _ he => he.access (fun _ he => .ite he (.of he))

theorem execFuseDone_keepsTables (hc : s.eng.Canon) : KeepsTables (execFuseDone s) := by
  refine onEng_keepsTables hc fun m e he => ?_
  split
  · exact he
  · exact .raise (.fused he.advanceTo)

theorem execPodCtlWrite_keepsTables {w} (hc : s.eng.Canon) : KeepsTables (execPodCtlWrite w s) := by
  refine onMem_keepsTables hc fun m e he => ?_
  split
  · exact he.podCtlWrite.recorded
  · exact he

theorem execReverify_keepsTables {w} (hc : s.eng.Canon) : KeepsTables (execReverify w s) := by
  refine onMem_keepsTables hc fun m e he => ?_
  split
  · exact he.podCtlWrite.recorded
  · exact he

theorem execPodEpochWrite_keepsTables {w} (hc : s.eng.Canon) : KeepsTables (execPodEpochWrite w s) :=
  onEng_keepsTables hc fun _ _ he => he.access (fun _ he => .ite he.modPod.sendJoin he)

theorem execPwrCtlWrite_keepsTables {r w} (hc : s.eng.Canon) : KeepsTables (execPwrCtlWrite r w s) := by
  refine onEng_keepsTables hc fun m e he => ?_
  refine he.access (fun e₁ he₁ => ?_)
  extract_lets c c₁ e₂
  have he₂ : e₂.Canon := he₁.modPower.floorRaised
  exact he₂.lendRegion

theorem execPwrEngWrite_keepsTables {w} (hc : s.eng.Canon) : KeepsTables (execPwrEngWrite w s) := by
  refine onEng_keepsTables hc fun m e he => ?_
  refine he.access (fun e₁ he₁ => ?_)
  extract_lets e₂ e₃
  have he₂ : e₂.Canon := he₁.modPower
  have he₃ : e₃.Canon := .ite he₂ he₂.beginExit
  exact .ite he₃ he₃.engineFloor

theorem execCapWrite_keepsTables {w} (hc : s.eng.Canon) : KeepsTables (execCapWrite w s) :=
  onEng_keepsTables hc fun _ _ he => he.access (fun _ he => .ite he.modPower.limitChanged he)

theorem execDieCfgWrite_keepsTables {d w} (hc : s.eng.Canon) : KeepsTables (execDieCfgWrite d w s) :=
  onEng_keepsTables hc fun _ _ he => he.access (fun _ he => he.dieCfgWrite)

theorem execPeerPut_keepsTables {q bytes scatter} (hc : s.eng.Canon) : KeepsTables (execPeerPut q bytes scatter s) :=
  onEng_keepsTables hc fun _ _ he => he.peerArrives

theorem execPeerGet_keepsTables {q} (hc : s.eng.Canon) : KeepsTables (execPeerGet q s) :=
  onEng_keepsTables hc fun _ _ he => he.peerArrives

theorem execPeerAccumulate_keepsTables {q op dtype bytes fill poisoned} (hc : s.eng.Canon) : KeepsTables (execPeerAccumulate q op dtype bytes fill poisoned s) :=
  onEng_keepsTables hc fun _ _ he => he.count.peerArrives

theorem execPeerFlagSet_keepsTables {m f} (hc : s.eng.Canon) : KeepsTables (execPeerFlagSet m f s) :=
  onEng_keepsTables hc fun _ _ he => he.peerSyncArrives

theorem execPeerFlagClear_keepsTables {m f} (hc : s.eng.Canon) : KeepsTables (execPeerFlagClear m f s) :=
  onEng_keepsTables hc fun _ _ he => he.peerSyncArrives

theorem execPeerWait_keepsTables {m f waitFor timeout} (hc : s.eng.Canon) : KeepsTables (execPeerWait m f waitFor timeout s) := by
  refine onEng_keepsTables hc fun m e he => ?_
  extract_lets e₁
  have he₁ : e₁.Canon := he.heard
  exact .ite he₁.emit (.homeGo (.of he₁))

theorem execPeerFoldArrival_keepsTables {m g n} (hc : s.eng.Canon) : KeepsTables (execPeerFoldArrival m g n s) :=
  onEng_keepsTables hc fun _ _ he => he.peerSyncArrives

theorem execForwardedArrival_keepsTables {m g child} (hc : s.eng.Canon) : KeepsTables (execForwardedArrival m g child s) := by
  refine onEng_keepsTables hc fun m e he => ?_
  extract_lets e₁
  have he₁ : e₁.Canon := he.heard
  exact .ite he₁.emit he₁.homeGo

theorem execFoldRelease_keepsTables {d g scope stamp} (hc : s.eng.Canon) : KeepsTables (execFoldRelease d g scope stamp s) := by
  refine onEng_keepsTables hc fun m e he => ?_
  extract_lets e₁ fo
  have he₁ : e₁.Canon := he.heard
  exact .ite he₁ he₁.homeGo

theorem execWaitWithdrawal_keepsTables {d c id} (hc : s.eng.Canon) : KeepsTables (execWaitWithdrawal d c id s) :=
  onEng_keepsTables hc fun _ _ he => he.heard.endWaits

theorem execPeerResetNotice_keepsTables {d} (hc : s.eng.Canon) : KeepsTables (execPeerResetNotice d s) := by
  refine onEng_keepsTables hc fun m e he => ?_
  extract_lets e₁
  have he₁ : e₁.Canon := he.heard.endWaits
  exact he₁.foldl (fun _ _ he => he.lostAt)

theorem execPeerRefusalResend_keepsTables {id} (hc : s.eng.Canon) : KeepsTables (execPeerRefusalResend id s) := by
  refine onEng_keepsTables hc fun m e he => ?_
  split
  · exact .ite he he.advanceTo.emit
  · exact he

theorem execRemoteWaitRetry_keepsTables {h} (hc : s.eng.Canon) : KeepsTables (execRemoteWaitRetry h s) := by
  refine onEng_keepsTables hc fun m e he => ?_
  split
  · exact he
  · split
    · extract_lets e₁ src
      have he₁ : e₁.Canon := he.advanceTo
      exact he₁.emit
    · exact he

theorem execReleasePassToSyn_keepsTables {d c} (hc : s.eng.Canon) : KeepsTables (execReleasePassToSyn d c s) := by
  refine onEng_keepsTables hc fun m e he => ?_
  split
  · exact he
  · exact .ite he (.applyPeerSync (.of he))

theorem execWaitRecordObtained_keepsTables {id} (hc : s.eng.Canon) : KeepsTables (execWaitRecordObtained id s) := by
  refine onEng_keepsTables hc fun m e he => ?_
  split
  · exact he
  · split
    · extract_lets x
      exact .homeGo (.of he)
    · exact he

theorem execWaitDeadline_keepsTables {id} (hc : s.eng.Canon) : KeepsTables (execWaitDeadline id s) := by
  refine onEng_keepsTables hc fun m e he => ?_
  split
  · exact he
  · exact he.fireDeadline

theorem execLongWait_keepsTables {id} (hc : s.eng.Canon) : KeepsTables (execLongWait id s) := by
  refine onEng_keepsTables hc fun m e he => ?_
  split
  · exact he
  · exact .ite he he.advanceTo.makeLong

theorem execDieSet_keepsTables {d f} (hc : s.eng.Canon) : KeepsTables (execDieSet d f s) :=
  onEng_keepsTables hc fun _ _ he => he.dieFlag

theorem execDieClear_keepsTables {d f} (hc : s.eng.Canon) : KeepsTables (execDieClear d f s) :=
  onEng_keepsTables hc fun _ _ he => he.dieFlag

theorem execDieWait_keepsTables {d f waitFor timeout token} (hc : s.eng.Canon) : KeepsTables (execDieWait d f waitFor timeout token s) :=
  onEng_keepsTables hc fun _ _ he => he.fromDie (fun _ he => .ite he.emit (.homeGo (.of he)))

theorem execDieAccess_keepsTables {a} (hc : s.eng.Canon) : KeepsTables (execDieAccess a s) := by
  refine onEng_keepsTables hc fun m e he => ?_
  extract_lets e₁ x src src₁ e₂
  have he₁ : e₁.Canon := he.ended
  have hsrc : src.Canon := he₁.wakeEngine
  have he₂ : e₂.Canon := .of hsrc
  exact .ite he₁.count.emit he₂.count.startDie

theorem execInvalidateAck_keepsTables {h d} (hc : s.eng.Canon) : KeepsTables (execInvalidateAck h d s) :=
  onEng_keepsTables hc fun _ _ he => he.modJob.endInvalidate

theorem execDiePortDown_keepsTables {p} (hc : s.eng.Canon) : KeepsTables (execDiePortDown p s) := by
  refine onMem_keepsTables hc fun m e he => ?_
  extract_lets src e₁
  have he₁ : e₁.Canon := .of he
  exact .on (.foldlEff he₁ (fun _ _ hx => hx.andThen (fun _ _ he => he.dieLost))) (fun _ he => he.noteWork)

theorem execQuantumExpiry_keepsTables {x} (hc : s.eng.Canon) : KeepsTables (execQuantumExpiry x s) := by
  refine onEng_keepsTables hc fun m e he => ?_
  split
  · exact he
  · extract_lets l q e₁
    have he₁ : e₁.Canon := he.advanceFrom
    refine .ite he ?_
    split
    · exact he₁
    · split
      · next hp => exact he₁.drawFor.snd hp
      · next hp => exact .ite (he₁.drawFor.snd hp).modJob (he₁.drawFor.snd hp).askYield
      · next hp => exact (he₁.drawFor.snd hp).askYield

theorem execStarvation_keepsTables {x} (hc : s.eng.Canon) : KeepsTables (execStarvation x s) := by
  refine onEng_keepsTables hc fun m e he => ?_
  split
  · split
    · exact he.starveJob
    · exact he
  · exact he.starveCtx
  · exact he.starveTest
  · exact he.starvePort
  · exact he.starveBrief

theorem execPreemptSave_keepsTables {h} (hc : s.eng.Canon) : KeepsTables (execPreemptSave h s) := by
  refine onEng_keepsTables hc fun m e he => ?_
  split
  · exact he
  · exact .ite he.savePreempted he

theorem execCutoff_keepsTables {h} (hc : s.eng.Canon) : KeepsTables (execCutoff h s) := by
  refine onEng_keepsTables hc fun m e he => ?_
  split
  · exact he
  · split
    · exact he
    · extract_lets n e₁ j
      have he₁ : e₁.Canon := he.advanceFrom
      exact .ite he he₁.modJob.savePreempted.noteCut.count

theorem execActiveToIdle_keepsTables {d} (hc : s.eng.Canon) : KeepsTables (execActiveToIdle d s) := by
  refine onEng_keepsTables hc fun m e he => ?_
  extract_lets e₁
  have he₁ : e₁.Canon := he.noteWorkOf
  exact .ite he₁.advanceFrom.enter.serveQueue he₁

theorem execIdleToSleep_keepsTables {d} (hc : s.eng.Canon) : KeepsTables (execIdleToSleep d s) := by
  refine onEng_keepsTables hc fun m e he => ?_
  extract_lets e₁
  have he₁ : e₁.Canon := he.noteWorkOf
  exact .ite he₁.advanceTo.enter.serveQueue he₁

theorem execWakeComplete_keepsTables {d} (hc : s.eng.Canon) : KeepsTables (execWakeComplete d s) := by
  refine onMem_keepsTables hc fun m e he => ?_
  split
  · exact he
  · split
    · exact .mkEff (.noteWork (.wakeEnds (.advanceTo he)))
    · split
      · exact .regionWakes (.wakeEnds (.wakeEnds (.advanceTo he)))
      · split
        · exact .regionWakes (.wakeEnds (.advanceTo he))
        · exact .mkEff (.wakeEngine he)

theorem execRotation_keepsTables (hc : s.eng.Canon) : KeepsTables (execRotation s) := by
  refine onEng_keepsTables hc fun m e he => ?_
  split
  · exact he
  · split
    · exact he
    · extract_lets e₁
      have he₁ : e₁.Canon := he.advanceTo.serveQueue
      split
      · exact he₁
      · split
        · exact he₁
        · extract_lets idle e₂
          have he₂ : e₂.Canon := he₁.enter.modRegion
          exact .serveQueue (.ite he₂.count he₂)

theorem execPpmGrantStb_keepsTables {g} (hc : s.eng.Canon) : KeepsTables (execPpmGrantStb g s) :=
  onEng_keepsTables hc fun _ _ he => he.modPower.limitChanged

theorem execPpmReturn_keepsTables (hc : s.eng.Canon) : KeepsTables (execPpmReturn s) := by
  refine onEng_keepsTables hc fun m e he => ?_
  split
  · exact he
  · extract_lets present e₁
    have he₁ : e₁.Canon := he.modPower.modRegion
    exact .serveQueue (.ite he₁.count he₁)

theorem execDormantEntry_keepsTables (hc : s.eng.Canon) : KeepsTables (execDormantEntry s) := by
  refine onMem_keepsTables hc fun m e he => ?_
  split
  · extract_lets t
    have hd : (e.advanceTo (t + BitVec.ofNat 64 (e.svc.power.dormantDelay.toNat * 1000000))).draw.2.Canon := he.advanceTo.draw
    generalize (e.advanceTo (t + BitVec.ofNat 64 (e.svc.power.dormantDelay.toNat * 1000000))).draw = d at hd
    obtain ⟨n, e₁⟩ := d
    dsimp only
    exact .on (.store hd) fun _ he => .count (.coldCaches (.modPower he))
  · exact he

theorem execDormantExit_keepsTables {t} (hc : s.eng.Canon) : KeepsTables (execDormantExit t s) :=
  onEng_keepsTables hc fun _ _ he => he.beginExit

theorem execDormantExitDone_keepsTables (hc : s.eng.Canon) : KeepsTables (execDormantExitDone s) := by
  refine onEng_keepsTables hc fun m e he => ?_
  split
  · exact he
  · exact he.advanceTo.exitDormant

theorem execHistoryEntry_keepsTables (hc : s.eng.Canon) : KeepsTables (execHistoryEntry s) := by
  refine onEng_keepsTables hc fun m e he => ?_
  split
  · exact he
  · extract_lets e₁ v e₂
    have he₁ : e₁.Canon := he.deliverDue
    have he₂ : e₂.Canon := he₁.advanceCycles
    exact .ite he₂ he₂.modFlt

theorem execFaultEvent_keepsTables {a} (hc : s.eng.Canon) : KeepsTables (execFaultEvent a s) := by
  refine onMem_keepsTables hc fun m e he => ?_
  split
  · split
    · exact he
    · exact .mkEff (.noteWork (.deliver he))
  · extract_lets x
    have hx : x.1.eng.Canon := .detectAll he
    clear_value x
    exact .on hx fun _ he => .noteWork (.deliverAll he)

theorem execAlertPulseEnd_keepsTables (hc : s.eng.Canon) : KeepsTables (execAlertPulseEnd s) := by
  refine onEng_keepsTables hc fun m e he => ?_
  extract_lets e₁
  have he₁ : e₁.Canon := .ite he.advanceCycles he
  exact he₁.alertRelease

theorem execAlertHighEnd_keepsTables (hc : s.eng.Canon) : KeepsTables (execAlertHighEnd s) := by
  refine onEng_keepsTables hc fun m e he => ?_
  split
  · exact he.advanceCycles
  · exact he

theorem execWatchdogExpiry_keepsTables (hc : s.eng.Canon) : KeepsTables (execWatchdogExpiry s) :=
  onEng_keepsTables hc fun _ _ he => .ite he (.svcExpiry (.ite (.elapse (.advanceTo (.of he))) (.advanceTo (.of he))))

theorem execSvcRestartDone_keepsTables (hc : s.eng.Canon) : KeepsTables (execSvcRestartDone s) := by
  refine onEng_keepsTables hc fun m e he => ?_
  split
  · exact he
  · extract_lets src e₁ e₂ e₃ e₄
    have he₁ : e₁.Canon := by
      unfold e₁
      show e.Canon
      exact he
    have he₂ : e₂.Canon := he₁.resumeSweeps
    have he₃ : e₃.Canon := he₂.foldl (fun _ _ he => he.wakeRegion)
    have he₄ : e₄.Canon := .ite he₃.wakeEngine he₃
    exact he₄.limitChanged.sendJoin.resetGoesOn

theorem execStackLost_keepsTables {n} (hc : s.eng.Canon) : KeepsTables (execStackLost n s) := by
  refine onEng_keepsTables hc fun m e he => ?_
  extract_lets v e₁
  have he₁ : e₁.Canon := he.raise.stopTest
  exact .noteWork (.ite he₁.regionActs he₁)

theorem execNetworkPortLost_keepsTables {p} (hc : s.eng.Canon) : KeepsTables (execNetworkPortLost p s) :=
  onEng_keepsTables hc fun _ _ he => he.raise

theorem execBistSliceStart_keepsTables (hc : s.eng.Canon) : KeepsTables (execBistSliceStart s) := by
  refine onEng_keepsTables hc fun m e he => ?_
  split
  · exact he
  · refine .noteWork (.foldl ?_ fun _ _ he => he.startSlice)
    exact .sliceClock he.fireDue.advanceTo

theorem execBistSegmentEnd_keepsTables {t x} (hc : s.eng.Canon) : KeepsTables (execBistSegmentEnd t x s) := by
  refine onMem_keepsTables hc fun m e he => ?_
  split
  · exact he
  · exact he.sample.segmentEnds

theorem execBistOverdue_keepsTables {t} (hc : s.eng.Canon) : KeepsTables (execBistOverdue t s) := by
  refine onEng_keepsTables hc fun m e he => ?_
  extract_lets row inst b e₁
  have he₁ : e₁.Canon := .ite he he.advanceTo.modBist
  split
  · exact he
  · refine .grantSegment ?_
    split
    · exact he₁.wakeRegion
    · exact he₁.wakeEngine

theorem execClockSample_keepsTables {mhz mv} (hc : s.eng.Canon) : KeepsTables (execClockSample mhz mv s) :=
  onEng_keepsTables hc fun _ _ he => .sample (.of he)

theorem execSweepGranuleAdvance_keepsTables {slot bad} (hc : s.eng.Canon) : KeepsTables (execSweepGranuleAdvance slot bad s) := by
  refine onMem_keepsTables hc fun m e he => ?_
  split
  · exact he
  · split
    · exact he
    · exact he.sweepStep.on (fun _ he => he.noteWork)

theorem execLockReadTimeout_keepsTables {t} (hc : s.eng.Canon) : KeepsTables (execLockReadTimeout t s) := by
  refine onMem_keepsTables hc fun m e he => ?_
  split
  · split
    · exact he
    · split
      · exact he
      · extract_lets e₁ e₂
        have he₁ : e₁.Canon := he.heldOver.countStaged
        have he₂ : e₂.Canon := he₁.modJob
        exact he₂.goOn.on (fun _ he => he.noteWork)
  · split
    · exact he
    · split
      · exact he.heldOver.countStaged.answerPeer.noteWork
      · exact he
  · split
    · exact he
    · split
      · exact he.heldOver.countStaged.answerDie.noteWork
      · exact he

theorem execEngResetLFall_keepsTables (hc : s.eng.Canon) : KeepsTables (execEngResetLFall s) := by
  refine onEng_keepsTables hc fun m e he => ?_
  extract_lets src e₁
  have he₁ : e₁.Canon := .of he
  exact .ite he₁.beginReset he₁

theorem execEngResetLRise_keepsTables (hc : s.eng.Canon) : KeepsTables (execEngResetLRise s) := by
  refine onEng_keepsTables hc fun m e he => ?_
  extract_lets src e₁
  have he₁ : e₁.Canon := .of he
  exact .ite he₁ he₁.pinHigh

theorem execSettleDone_keepsTables {settled} (hc : s.eng.Canon) : KeepsTables (execSettleDone settled s) := by
  refine onMem_keepsTables hc fun m e he => ?_
  split
  · exact he
  · split
    · split
      · exact he
      · exact he.spoolFinished.on (fun _ he => ((he.foldl (fun _ _ he => he.markProgress)).finalFlush).endSettle)
    · exact he.advanceTo.endSettle

theorem execResetPhaseEnd_keepsTables {host} (hc : s.eng.Canon) : KeepsTables (execResetPhaseEnd host s) := by
  refine onMem_keepsTables hc fun m e he => ?_
  extract_lets e₁ e₂ e₃ e₄ e₅
  have he₁ : e₁.Canon := he.advanceTo.loadSeeds.noticeDies
  have he₂ : e₂.Canon := .ite he₁ (he₁.foldl fun _ _ he => he.emit)
  have he₃ : e₃.Canon := he₂.readJournal.resumeSweeps
  have he₄ : e₄.Canon := (he₃.retireLate.foldl fun _ _ he => he.replayCtx).jPrune
  clear_value e₄
  have he₅ : e₅.Canon := he₄.modReset
  exact .iteEff he (.foldlEff he₅.noteWork fun _ _ hx => hx.storeIdle)

theorem execReplayEnd_keepsTables (hc : s.eng.Canon) : KeepsTables (execReplayEnd s) :=
  onEng_keepsTables hc fun _ _ he => .ite he (.of he.modReset.hostBack)

theorem execAoResetLFall_keepsTables (hc : s.eng.Canon) : KeepsTables (execAoResetLFall s) :=
  onEng_keepsTables hc fun _ _ _ => .coldReset

theorem execAoResetLRise_keepsTables (hc : s.eng.Canon) : KeepsTables (execAoResetLRise s) := by
  refine keepsTables_next ?_
  split
  · exact hc
  · exact Eng.Canon.coldReset.startPhase

theorem execColdStartPhaseEnd_keepsTables {x} (hc : s.eng.Canon) : KeepsTables (execColdStartPhaseEnd x s) := by
  refine keepsTables_next ?_
  split
  · exact hc
  · dsimp only
    split <;> exact hc.phaseEnds

theorem execSupplyCheckTimeout_keepsTables (hc : s.eng.Canon) : KeepsTables (execSupplyCheckTimeout s) := by
  refine onEng_keepsTables hc fun m e he => ?_
  extract_lets st
  split
  · exact he
  · exact .ite he he.advanceTo.sample.startFails

theorem execCorePgFall_keepsTables (hc : s.eng.Canon) : KeepsTables (execCorePgFall s) :=
  onEng_keepsTables hc fun _ _ he => .breakSettle (.of he)

theorem execHostLinkChange_keepsTables {up} (hc : s.eng.Canon) : KeepsTables (execHostLinkChange up s) := by
  refine onMem_keepsTables hc fun m e he => ?_
  extract_lets was src e₁
  have he₁ : e₁.Canon := .of he
  split
  · split
    · exact he₁
    · exact he₁.hostReturns
  · exact he₁.breakSettle

theorem execHostResetInd_keepsTables (hc : s.eng.Canon) : KeepsTables (execHostResetInd s) := by
  refine onEng_keepsTables hc fun m e he => ?_
  split
  · exact he.modJrn.breakSettle
  · exact .ite he.endAdopt he

theorem execSpdmRequest_keepsTables {src k} (hc : s.eng.Canon) : KeepsTables (execSpdmRequest src k s) := by
  refine onEng_keepsTables hc fun m e he => ?_
  extract_lets e₁ src₁
  have he₁ : e₁.Canon := by
    unfold e₁
    split
    · exact he
    · exact he.heard
  exact .ite he₁ (.ite he₁.answerSpdm (.ite he₁.emit (.answerSpdm (.of he₁))))

theorem execBeaconSend_keepsTables (hc : s.eng.Canon) : KeepsTables (execBeaconSend s) := by
  refine onMem_keepsTables hc fun m e he => ?_
  split
  · exact he
  · extract_lets was e₁ v e₂ e₃
    have he₁ : e₁.Canon := he.advanceTo.checkEpochs
    have he₂ : e₂.Canon := he₁.modPod
    have he₃ : e₃.Canon := .ite he₂ he₂.modPod.setChanged
    exact .recorded (he₃.foldl (fun _ _ he => he.emit.count))

theorem execBeaconReceive_keepsTables {b} (hc : s.eng.Canon) : KeepsTables (execBeaconReceive b s) := by
  refine onEng_keepsTables hc fun m e he => ?_
  extract_lets e₁ e₂ e₃
  have he₁ : e₁.Canon := he.heard
  have he₂ : e₂.Canon := he₁.noteLostExchange
  have he₃ : e₃.Canon := he₂.count.takeVector
  exact .ite he₁.foreign.setRival he₃.modTime.sendSyncReq

theorem execSyncReq_keepsTables {q} (hc : s.eng.Canon) : KeepsTables (execSyncReq q s) := by
  refine onMem_keepsTables hc fun m e he => ?_
  extract_lets was e₁ e₂
  have he₁ : e₁.Canon := he.heard
  have he₂ : e₂.Canon := he₁.modPod.takeReport
  split
  · exact he₁
  · exact .recorded he₂.emit

theorem execSyncRsp_keepsTables {a} (hc : s.eng.Canon) : KeepsTables (execSyncRsp a s) := by
  refine onEng_keepsTables hc fun m e he => ?_
  extract_lets e₁ t4 theta delta ds dmin skew e₂ e₃ e₄
  have he₁ : e₁.Canon := he.heard
  have he₂ : e₂.Canon := he₁.modTime.count
  have he₃ : e₃.Canon := he₂.correct
  have he₄ : e₄.Canon := he₃.modTime
  exact .ite (.ite he₁ he₁.foreign.setRival) (.ite he₁ (.ite he₃.enterUnsynced (.ite he₄.modTime.reportTime he₄)))

theorem execJoinSend_keepsTables (hc : s.eng.Canon) : KeepsTables (execJoinSend s) :=
  onEng_keepsTables hc fun _ _ he => .ite he.advanceTo.sendJoin he

theorem execJoin_keepsTables {j} (hc : s.eng.Canon) : KeepsTables (execJoin j s) := by
  refine onMem_keepsTables hc fun m e he => ?_
  extract_lets was e₁ e₂
  have he₁ : e₁.Canon := he.heard
  have he₂ : e₂.Canon := he₁.joinArrives
  split
  · exact he₁
  · split
    · exact he₁.foreign
    · split
      · exact .recorded he₁.modPod.setPeer
      · exact .recorded (.ite he₂ he₂.queueJoin)

theorem execVerdict_keepsTables {d v} (hc : s.eng.Canon) : KeepsTables (execVerdict d v s) := by
  refine onMem_keepsTables hc fun m e he => ?_
  split
  · exact he
  · extract_lets was e₁
    have he₁ : e₁.Canon := he.modPod.count
    refine .on ?_ (fun e₂ he₂ => ?_)
    · refine .recorded ?_
      split
      · exact he₁.takeVerdict
      · exact he₁
    · exact he₂.startJoins

theorem execBellwetherStale_keepsTables (hc : s.eng.Canon) : KeepsTables (execBellwetherStale s) := by
  refine onEng_keepsTables hc fun m e he => ?_
  split
  · exact he
  · extract_lets p e₁
    have he₁ : e₁.Canon := he.advanceTo
    exact he₁.modPod.enterUnsynced

theorem execWorkerSilent_keepsTables {d} (hc : s.eng.Canon) : KeepsTables (execWorkerSilent d s) := by
  refine onMem_keepsTables hc fun m e he => ?_
  extract_lets p
  split
  · exact .recorded he.setPeer
  · exact he

theorem execRouteLost_keepsTables {d} (hc : s.eng.Canon) : KeepsTables (execRouteLost d s) := by
  refine onMem_keepsTables hc fun m e he => ?_
  extract_lets src e₁ e₂ hit
  have he₁ : e₁.Canon := .of he
  have he₂ : e₂.Canon := he₁.foldl (fun _ _ he => he.syncUnreachable)
  exact .on (.foldlEff he₂ (fun _ _ hx => hx.andThen (fun _ _ he => he.modJob.goOn))) (fun _ he => he.noteWork)

theorem execRemoteWaitResult_keepsTables {d c id st det} (hc : s.eng.Canon) : KeepsTables (execRemoteWaitResult d c id st det s) := by
  refine onEng_keepsTables hc fun m e he => ?_
  extract_lets e₁
  have he₁ : e₁.Canon := he.heard
  split
  · exact he₁
  · exact he₁.waitEnds

theorem execOpiPortUp_keepsTables {p d} (hc : s.eng.Canon) : KeepsTables (execOpiPortUp p d s) :=
  onEng_keepsTables hc fun _ _ he => .of he

theorem execAdoptDone_keepsTables {host} (hc : s.eng.Canon) : KeepsTables (execAdoptDone host s) := by
  refine onEng_keepsTables hc fun m e he => ?_
  split
  · exact he
  · extract_lets rs
    split
    · exact he.endAdopt
    · split
      · exact he.endAdopt
      · extract_lets run owed tail e₁ e₂ e₃
        have he₁ : e₁.Canon := he.modJrn
        have he₂ : e₂.Canon := he₁.foldl (fun _ _ he => he.modCtx)
        have he₃ : e₃.Canon := he₂.foldl (fun _ _ he => he.jAppend)
        exact he₃.jAppend

theorem execWkeyLoadDone_keepsTables {a} (hc : s.eng.Canon) : KeepsTables (execWkeyLoadDone a s) := by
  refine onEng_keepsTables hc fun m e he => ?_
  split
  · exact he
  · dsimp only
    refine .pdkBusy ?_
    refine .pdkResult ?_
    refine .modPdk ?_
    split
    · exact he.setSlotKey
    · exact he

theorem execTimeCorrectionDone_keepsTables (hc : s.eng.Canon) : KeepsTables (execTimeCorrectionDone s) :=
  onEng_keepsTables hc fun _ _ he => he.elapse

theorem rowOf_keepsTables {reg w row} (hc : s.eng.Canon) (hr : rowOf reg w = some row) : KeepsTables (row s) := by
  unfold rowOf at hr
  dsimp only at hr
  split at hr
  case h_1 =>
    split at hr <;> cases hr
    · exact execEnable_keepsTables hc
    · exact execDisable_keepsTables hc
    · exact execReset_keepsTables hc
    · exact execPark_keepsTables hc
    · exact execResume_keepsTables hc
  case h_2 =>
    split at hr <;> cases hr
    · exact execFresh_keepsTables hc
    · exact execAdopt_keepsTables hc
    · exact execReattach_keepsTables hc
  case h_3 =>
    split at hr <;> cases hr
    · exact execVcInvOne_keepsTables hc
    · exact execVcInvPaddock_keepsTables hc
    · exact execVcInvEvery_keepsTables hc
  case h_4 =>
    split at hr <;> cases hr
    · exact execTlbInvRange_keepsTables hc
    · exact execTlbInvPaddock_keepsTables hc
    · exact execTlbInvEvery_keepsTables hc
  case h_5 =>
    split at hr <;> cases hr
    · exact execRotate_keepsTables hc
    · exact execRetire_keepsTables hc
    · exact execReachInv_keepsTables hc
    · exact execWkeyLoad_keepsTables hc
    · exact execWkeyErase_keepsTables hc
  case h_6 =>
    cases hr
    exact execFlagCfgWrite_keepsTables hc
  case h_7 =>
    cases hr
    exact execFoldCfgWrite_keepsTables hc
  case h_8 =>
    cases hr
    exact execPwrEngWrite_keepsTables hc
  case h_9 =>
    cases hr
    exact execCapWrite_keepsTables hc
  case h_10 =>
    cases hr
    exact execFuseCmd_keepsTables hc
  case h_11 =>
    cases hr
    exact execPodCtlWrite_keepsTables hc
  case h_12 =>
    cases hr
    exact execPodEpochWrite_keepsTables hc
  case h_13 =>
    cases hr
    exact execFltModeWrite_keepsTables hc
  case h_14 =>
    repeat' split at hr
    all_goals cases hr
    all_goals exact execHistPop_keepsTables hc
  case h_15 =>
    split at hr
    · cases hr
      exact execLfsrSeedWrite_keepsTables hc
    · split at hr
      · cases hr
        exact execDieCfgWrite_keepsTables hc
      · split at hr <;> cases hr
        exact execPwrCtlWrite_keepsTables hc

/-- A write is the row of its register, or the plain write of its fields (R466 to R468). -/
theorem execRegisterWrite_keepsTables {off size v} (hc : s.eng.Canon) : KeepsTables (execRegisterWrite off size v s) := by
  unfold execRegisterWrite
  split
  · exact onEng_keepsTables hc fun _ _ he => he
  · dsimp only
    split
    · next hr => exact rowOf_keepsTables hc hr
    · exact onEng_keepsTables hc fun _ _ he => he.access fun _ he => .ite he he.plainWrite

/-- Every command keeps the form of the tables. -/
theorem exec_keepsTables (hc : s.eng.Canon) (c : Instr) : KeepsTables (exec c s) := by
  cases c with
  | submissionDoorbell => exact execSubmissionDoorbell_keepsTables hc
  | completionDoorbell => exact execCompletionDoorbell_keepsTables hc
  | opiDoorbellMessage => exact execOpiDoorbellMessage_keepsTables hc
  | takeRecordedDoorbell => exact execTakeRecordedDoorbell_keepsTables hc
  | landingCapture => exact execLandingCapture_keepsTables hc
  | descriptorFetch => exact execDescriptorFetch_keepsTables hc
  | timedRefetch => exact execTimedRefetch_keepsTables hc
  | ringStall => exact execRingStall_keepsTables hc
  | fetchResume => exact execFetchResume_keepsTables hc
  | dispatch => exact execDispatch_keepsTables hc
  | walkerGrant => exact execWalkerGrant_keepsTables hc
  | nop => exact execNop_keepsTables hc
  | copy => exact execCopy_keepsTables hc
  | transform => exact execTransform_keepsTables hc
  | gather => exact execGather_keepsTables hc
  | scatter => exact execScatter_keepsTables hc
  | scatterAcc => exact execScatterAcc_keepsTables hc
  | reduce => exact execReduce_keepsTables hc
  | putInline => exact execPutInline_keepsTables hc
  | compress => exact execCompress_keepsTables hc
  | compressPassEnd => exact execCompressPassEnd_keepsTables hc
  | expand => exact execExpand_keepsTables hc
  | expandBlockArrival => exact execExpandBlockArrival_keepsTables hc
  | flagSet => exact execFlagSet_keepsTables hc
  | flagClear => exact execFlagClear_keepsTables hc
  | flagWait => exact execFlagWait_keepsTables hc
  | foldArrive => exact execFoldArrive_keepsTables hc
  | fence => exact execFence_keepsTables hc
  | invalidate => exact execInvalidate_keepsTables hc
  | rekeySweep => exact execRekeySweep_keepsTables hc
  | scrub => exact execScrub_keepsTables hc
  | query => exact execQuery_keepsTables hc
  | fenceDone => exact execFenceDone_keepsTables hc
  | pageWalkDone => exact execPageWalkDone_keepsTables hc
  | readReturn => exact execReadReturn_keepsTables hc
  | writeAck => exact execWriteAck_keepsTables hc
  | appliedTimer => exact execAppliedTimer_keepsTables hc
  | postCompletion => exact execPostCompletion_keepsTables hc
  | spoolDrain => exact execSpoolDrain_keepsTables hc
  | contextClosed => exact execContextClosed_keepsTables hc
  | journalFlushReturn => exact execJournalFlushReturn_keepsTables hc
  | enable => exact execEnable_keepsTables hc
  | disable => exact execDisable_keepsTables hc
  | reset => exact execReset_keepsTables hc
  | park => exact execPark_keepsTables hc
  | resume => exact execResume_keepsTables hc
  | registerWrite => exact execRegisterWrite_keepsTables hc
  | vcInvOne => exact execVcInvOne_keepsTables hc
  | vcInvPaddock => exact execVcInvPaddock_keepsTables hc
  | vcInvEvery => exact execVcInvEvery_keepsTables hc
  | vcInvDone => exact execVcInvDone_keepsTables hc
  | tlbInvRange => exact execTlbInvRange_keepsTables hc
  | tlbInvPaddock => exact execTlbInvPaddock_keepsTables hc
  | tlbInvEvery => exact execTlbInvEvery_keepsTables hc
  | tlbInvDone => exact execTlbInvDone_keepsTables hc
  | rotate => exact execRotate_keepsTables hc
  | retire => exact execRetire_keepsTables hc
  | censusDone => exact execCensusDone_keepsTables hc
  | reachInv => exact execReachInv_keepsTables hc
  | wkeyLoad => exact execWkeyLoad_keepsTables hc
  | wkeyErase => exact execWkeyErase_keepsTables hc
  | pdkCmdDone => exact execPdkCmdDone_keepsTables hc
  | lfsrSeedWrite => exact execLfsrSeedWrite_keepsTables hc
  | flagCfgWrite => exact execFlagCfgWrite_keepsTables hc
  | foldCfgWrite => exact execFoldCfgWrite_keepsTables hc
  | fresh => exact execFresh_keepsTables hc
  | adopt => exact execAdopt_keepsTables hc
  | reattach => exact execReattach_keepsTables hc
  | engResetReq => exact execEngResetReq_keepsTables hc
  | fltModeWrite => exact execFltModeWrite_keepsTables hc
  | histPop => exact execHistPop_keepsTables hc
  | alertForce => exact execAlertForce_keepsTables hc
  | pendingClear => exact execPendingClear_keepsTables hc
  | fltInjectArm => exact execFltInjectArm_keepsTables hc
  | fuseCmd => exact execFuseCmd_keepsTables hc
  | fuseDone => exact execFuseDone_keepsTables hc
  | podCtlWrite => exact execPodCtlWrite_keepsTables hc
  | reverify => exact execReverify_keepsTables hc
  | podEpochWrite => exact execPodEpochWrite_keepsTables hc
  | pwrCtlWrite => exact execPwrCtlWrite_keepsTables hc
  | pwrEngWrite => exact execPwrEngWrite_keepsTables hc
  | capWrite => exact execCapWrite_keepsTables hc
  | dieCfgWrite => exact execDieCfgWrite_keepsTables hc
  | peerPut => exact execPeerPut_keepsTables hc
  | peerGet => exact execPeerGet_keepsTables hc
  | peerAccumulate => exact execPeerAccumulate_keepsTables hc
  | peerFlagSet => exact execPeerFlagSet_keepsTables hc
  | peerFlagClear => exact execPeerFlagClear_keepsTables hc
  | peerWait => exact execPeerWait_keepsTables hc
  | peerFoldArrival => exact execPeerFoldArrival_keepsTables hc
  | forwardedArrival => exact execForwardedArrival_keepsTables hc
  | foldRelease => exact execFoldRelease_keepsTables hc
  | waitWithdrawal => exact execWaitWithdrawal_keepsTables hc
  | peerResetNotice => exact execPeerResetNotice_keepsTables hc
  | peerRefusalResend => exact execPeerRefusalResend_keepsTables hc
  | remoteWaitRetry => exact execRemoteWaitRetry_keepsTables hc
  | releasePassToSyn => exact execReleasePassToSyn_keepsTables hc
  | waitRecordObtained => exact execWaitRecordObtained_keepsTables hc
  | waitDeadline => exact execWaitDeadline_keepsTables hc
  | longWait => exact execLongWait_keepsTables hc
  | dieSet => exact execDieSet_keepsTables hc
  | dieClear => exact execDieClear_keepsTables hc
  | dieWait => exact execDieWait_keepsTables hc
  | dieAccess => exact execDieAccess_keepsTables hc
  | invalidateAck => exact execInvalidateAck_keepsTables hc
  | diePortDown => exact execDiePortDown_keepsTables hc
  | quantumExpiry => exact execQuantumExpiry_keepsTables hc
  | starvation => exact execStarvation_keepsTables hc
  | preemptSave => exact execPreemptSave_keepsTables hc
  | cutoff => exact execCutoff_keepsTables hc
  | activeToIdle => exact execActiveToIdle_keepsTables hc
  | idleToSleep => exact execIdleToSleep_keepsTables hc
  | wakeComplete => exact execWakeComplete_keepsTables hc
  | rotation => exact execRotation_keepsTables hc
  | ppmGrantStb => exact execPpmGrantStb_keepsTables hc
  | ppmReturn => exact execPpmReturn_keepsTables hc
  | dormantEntry => exact execDormantEntry_keepsTables hc
  | dormantExit => exact onEng_keepsTables hc fun _ _ he => he.beginExit
  | dormantExitDone => exact execDormantExitDone_keepsTables hc
  | historyEntry => exact execHistoryEntry_keepsTables hc
  | faultEvent => exact execFaultEvent_keepsTables hc
  | alertPulseEnd => exact execAlertPulseEnd_keepsTables hc
  | alertHighEnd => exact execAlertHighEnd_keepsTables hc
  | watchdogExpiry => exact execWatchdogExpiry_keepsTables hc
  | svcRestartDone => exact execSvcRestartDone_keepsTables hc
  | stackLost => exact execStackLost_keepsTables hc
  | networkPortLost => exact execNetworkPortLost_keepsTables hc
  | bistSliceStart => exact execBistSliceStart_keepsTables hc
  | bistSegmentEnd => exact execBistSegmentEnd_keepsTables hc
  | bistOverdue => exact execBistOverdue_keepsTables hc
  | clockSample => exact execClockSample_keepsTables hc
  | sweepGranuleAdvance => exact execSweepGranuleAdvance_keepsTables hc
  | lockReadTimeout => exact execLockReadTimeout_keepsTables hc
  | engResetLFall => exact execEngResetLFall_keepsTables hc
  | engResetLRise => exact execEngResetLRise_keepsTables hc
  | settleDone => exact execSettleDone_keepsTables hc
  | resetPhaseEnd => exact execResetPhaseEnd_keepsTables hc
  | replayEnd => exact execReplayEnd_keepsTables hc
  | aoResetLFall => exact execAoResetLFall_keepsTables hc
  | aoResetLRise => exact execAoResetLRise_keepsTables hc
  | coldStartPhaseEnd => exact execColdStartPhaseEnd_keepsTables hc
  | supplyCheckTimeout => exact execSupplyCheckTimeout_keepsTables hc
  | corePgFall => exact execCorePgFall_keepsTables hc
  | hostLinkChange => exact execHostLinkChange_keepsTables hc
  | hostResetInd => exact execHostResetInd_keepsTables hc
  | spdmRequest => exact execSpdmRequest_keepsTables hc
  | beaconSend => exact execBeaconSend_keepsTables hc
  | beaconReceive => exact execBeaconReceive_keepsTables hc
  | syncReq => exact execSyncReq_keepsTables hc
  | syncRsp => exact execSyncRsp_keepsTables hc
  | joinSend => exact execJoinSend_keepsTables hc
  | join => exact execJoin_keepsTables hc
  | verdict => exact execVerdict_keepsTables hc
  | bellwetherStale => exact execBellwetherStale_keepsTables hc
  | workerSilent => exact execWorkerSilent_keepsTables hc
  | routeLost => exact execRouteLost_keepsTables hc
  | remoteWaitResult => exact execRemoteWaitResult_keepsTables hc
  | opiPortUp => exact execOpiPortUp_keepsTables hc
  | adoptDone => exact execAdoptDone_keepsTables hc
  | wkeyLoadDone => exact execWkeyLoadDone_keepsTables hc
  | timeCorrectionDone => exact execTimeCorrectionDone_keepsTables hc

theorem idle_keepsTables (hc : s.eng.Canon) : KeepsTables (idle s) := onEng_keepsTables hc fun _ _ he => .elapse (.of he)

/-- Settles O5: each command keeps the form, as every update it is made of does (`exec_keepsTables`), and an idle cycle changes no table. -/
theorem everyStepKeepsTheTables : Obligations.EveryStepKeepsTheTables := by
  unfold Obligations.EveryStepKeepsTheTables
  intro s t h hs
  unfold step at hs
  split at hs
  · next c cs _ => exact exec_keepsTables (s := { s with pending := cs }) h c t hs
  · exact idle_keepsTables h t hs

end Sys2Proof.Machine
end

section
/-! Doorbells: O7, O8, O9 and O10 (02: R39, R48 to R51). -/

namespace Sys2Proof.Machine

/-! ### The note of the engine domain's work (R342) -/

/-- Only the power states move when the engine domain's work is noted. -/
theorem Eng.noteWorkOf_engine (e : Eng) : e.noteWorkOf .engine = e.withPower (e.noteWorkOf .engine) := by
  unfold Eng.noteWorkOf
  split
  · dsimp only
    split <;> rfl
  · split <;> rfl

/-- The same, of a state around it. -/
theorem State.noted_eq (s : State) (e : Eng) :
    ({ s with eng := e.noteWorkOf .engine } : State) = { s with eng := e.withPower ({ s with eng := e.noteWorkOf .engine } : State).eng } :=
  congrArg (fun e => ({ s with eng := e } : State)) e.noteWorkOf_engine

theorem Eng.ctx_noteWorkOf (e : Eng) (d : Domain) (c : CtxNum) : (e.noteWorkOf d).ctx c = e.ctx c := by
  obtain ⟨-, -, -, -, hctxs, -⟩ := (e.noteWorkOf_side d).frame
  unfold Eng.ctx
  rw [hctxs]

/-- A context that is not DISABLED is listed, and reads as it was written. -/
theorem Eng.ctx_setCtx_state (e : Eng) (c : CtxNum) {x : Ctx} (h : x.state ≠ .disabled) : (e.setCtx c x).ctx c = x :=
  e.ctx_setCtx_some c x fun hx => h (by rw [hx])

@[simp] theorem Eng.ctx_count (e : Eng) (k : BitVec 4) (t n : Nat) (c : CtxNum) : (e.count k t n).ctx c = e.ctx c := rfl

/-- A 64-bit write to a submission doorbell. -/
theorem exec_submissionDoorbell {s : State} (live : s.Live) (c : CtxNum) (v : Word) :
    exec (.submissionDoorbell c .both v) s = .next { s with eng := s.eng.doorbell c false v } := by
  unfold exec
  exact onEng_live live _

/-- A 64-bit write to a completion doorbell. -/
theorem exec_completionDoorbell {s : State} (live : s.Live) (c : CtxNum) (v : Word) :
    exec (.completionDoorbell c .both v) s = .next { s with eng := s.eng.doorbell c true v } := by
  unfold exec
  exact onEng_live live _

/-- A message of an enabled die outside Dormant. -/
theorem exec_opiDoorbellMessage {s : State} {d : DieNum} (live : s.Live) (h : ∀ m, s.eng.ended m = s.eng)
    (hen : (s.eng.opi.die.getD d.toNat {}).enable = true) (c : CtxNum) (cq : Bool) (v : Word) :
    exec (.opiDoorbellMessage d c cq v) s =
      .next { s with eng := if (s.eng.ctx c).dieDb then s.eng.doorbell c cq v else s.eng.dbIgnored } := by
  unfold exec
  refine (onEng_live live _).trans ?_
  simp only [h, hen, Bool.not_true, Bool.false_eq_true, if_false]

/-! ### What a doorbell does, by the state of its context (R39, R48 to R50) -/

section Ring

variable {e : Eng} {c : CtxNum} {v : Word}

/-- With the engine domain running a doorbell reaches RFE. -/
theorem Eng.doorbell_runs (h : e.engineRuns = true) (cq : Bool) (v : Word) :
    e.doorbell c cq v = (if cq then e.ringCq c v else e.ringSq c v).noteWorkOf .engine := by
  simp [Eng.doorbell, h]

theorem Eng.ringSq_reserved (h : v.extractLsb' 32 32 ≠ (0 : BitVec 32)) : e.ringSq c v = e.dbIgnored := if_pos h

theorem Eng.ringCq_reserved (h : v.extractLsb' 32 32 ≠ (0 : BitVec 32)) : e.ringCq c v = e.dbIgnored := if_pos h

theorem Eng.ringSq_closed (h : (e.ctx c).state = .disabled ∨ (e.ctx c).state = .closing) : e.ringSq c v = e.dbIgnored := by
  rcases h with h | h <;> simp [Eng.ringSq, h]

theorem Eng.ringCq_closed (h : (e.ctx c).state = .disabled ∨ (e.ctx c).state = .closing) : e.ringCq c v = e.dbIgnored := by
  rcases h with h | h <;> simp [Eng.ringCq, h]

/-- An open ring that is not past its last refetch takes the doorbell's TAIL. -/
theorem Eng.ringSq_open (h0 : v.extractLsb' 32 32 = (0 : BitVec 32))
    (h : (e.ctx c).state = .enabled ∧ (∀ r, (e.ctx c).refetch = some r → r.stallAt = none) ∨ (e.ctx c).state = .parked) :
    e.ringSq c v = e.takeTail c (v.extractLsb' 0 32) := by
  rcases h with ⟨hs, hr⟩ | hs
  · cases hf : (e.ctx c).refetch with
    | none => simp [Eng.ringSq, h0, hs, hf]
    | some r => simp [Eng.ringSq, h0, hs, hf, hr r hf]
  · simp [Eng.ringSq, h0, hs]

theorem Eng.ringCq_open (h0 : v.extractLsb' 32 32 = (0 : BitVec 32)) (h : (e.ctx c).state = .enabled ∨ (e.ctx c).state = .parked) :
    e.ringCq c v =
      if idxDist (e.ctx c).cqTail (v.extractLsb' 0 32) ≤ idxDist (e.ctx c).cqTail (e.ctx c).cqHead then
        e.setCtx c { e.ctx c with cqHead := v.extractLsb' 0 32 }
      else e.count subRfe 0 1 := by
  rcases h with h | h <;> simp [Eng.ringCq, h0, h, Eng.modCtx, Eng.dbIgnored]

end Ring

/-! ### R49 by its three cases -/

section Tail

variable {e : Eng} {c : CtxNum} {n : Idx}

theorem Eng.takeTail_beyond (h : 2 ^ (e.ctx c).sqLog2.toNat < idxDist n (e.ctx c).sqHead) :
    e.takeTail c n = e.parkRing c .tailRange (e.ctx c).sqHead 0 := by
  simp [Eng.takeTail, h]

theorem Eng.takeTail_stale (h : idxDist n (e.ctx c).sqHead ≤ 2 ^ (e.ctx c).sqLog2.toNat)
    (h' : idxDist n (e.ctx c).sqHead < idxDist (e.ctx c).sqTail (e.ctx c).sqHead) : e.takeTail c n = e.count subRfe 0 1 := by
  simp [Eng.takeTail, Nat.not_lt.mpr h, h', Eng.dbIgnored]

theorem Eng.takeTail_taken (h : idxDist n (e.ctx c).sqHead ≤ 2 ^ (e.ctx c).sqLog2.toNat)
    (h' : idxDist (e.ctx c).sqTail (e.ctx c).sqHead ≤ idxDist n (e.ctx c).sqHead) :
    e.takeTail c n = e.modCtx c fun x => { x with
      sqTail := n, refetch := x.refetch.map fun r => { r with urgent := true, stallAt := none } } := by
  simp [Eng.takeTail, Nat.not_lt.mpr h, Nat.not_lt.mpr h']

theorem Eng.takeTail_others (e : Eng) (c : CtxNum) (n : Idx) {c' : CtxNum} (h : c' ≠ c) : (e.takeTail c n).ctx c' = e.ctx c' := by
  unfold Eng.takeTail
  dsimp only
  split
  · simp [Eng.parkRing, h]
  · split
    · rfl
    · simp [h]

/-- A ring that parks is listed as PARKED. -/
theorem Eng.ctx_parkRing (e : Eng) (c : CtxNum) (cause : ParkCause) (i : Idx) (n : Nat) :
    (e.parkRing c cause i n).ctx c = { e.ctx c with
      state := .parked, parkCause := cause, parkIndex := i, parkRetries := BitVec.ofNat 8 n, refetch := none } :=
  e.ctx_setCtx_state c (by simp)

end Tail

/-- Settles O7: the three cases of `Eng.takeTail`, under the note of the engine domain's work. -/
theorem submissionDoorbellFollowsR49 : Obligations.SubmissionDoorbellFollowsR49 := by
  unfold Obligations.SubmissionDoorbellFollowsR49
  intro s c v live runs hopen h0 x n
  have hring : s.eng.doorbell c false v = (s.eng.takeTail c n).noteWorkOf .engine := by
    rw [Eng.doorbell_runs runs, if_neg (by simp), Eng.ringSq_open h0 hopen]
  have hstate : x.state ≠ .disabled := by
    rcases hopen with ⟨h, -⟩ | h <;> simp [x, h]
  refine ⟨_, exec_submissionDoorbell live c v, ?_⟩
  rw [hring]
  refine ⟨fun hle hge => ?_, fun hle hlt => ?_, fun hgt => ?_, fun c' hc => ?_⟩
  · rw [Eng.ctx_noteWorkOf, Eng.takeTail_taken hle hge]
    have hx : ((s.eng.modCtx c fun x => { x with
        sqTail := n, refetch := x.refetch.map fun r => { r with urgent := true, stallAt := none } }).ctx c) =
        { x with sqTail := n, refetch := x.refetch.map fun r => { r with urgent := true, stallAt := none } } :=
      s.eng.ctx_setCtx_state c hstate
    rw [hx]
    exact ⟨rfl, rfl⟩
  · rw [Eng.takeTail_stale hle hlt]
    exact s.noted_eq _
  · rw [Eng.ctx_noteWorkOf, Eng.takeTail_beyond hgt, Eng.ctx_parkRing]
    exact ⟨rfl, rfl, rfl, rfl⟩
  · rw [Eng.ctx_noteWorkOf, Eng.takeTail_others _ _ _ hc]

/-- Settles O8: `Eng.ringCq_open`, under the note of the engine domain's work. -/
theorem completionDoorbellFollowsR50 : Obligations.CompletionDoorbellFollowsR50 := by
  unfold Obligations.CompletionDoorbellFollowsR50
  intro s c v live runs hopen h0 x n
  refine ⟨_, exec_completionDoorbell live c v, ?_⟩
  rw [Eng.doorbell_runs runs, if_pos rfl, Eng.ringCq_open h0 hopen]
  exact s.noted_eq _

/-- Settles O9: each such doorbell is `Eng.dbIgnored`. -/
theorem doorbellsOfClosedContextsAreIgnored : Obligations.DoorbellsOfClosedContextsAreIgnored := by
  unfold Obligations.DoorbellsOfClosedContextsAreIgnored
  intro s c v live
  refine ⟨fun runs hclosed i hi => ?_, fun i hi => ?_⟩
  · have hsq : s.eng.ringSq c v = s.eng.dbIgnored := by
      rcases hclosed with h | h | h
      · exact Eng.ringSq_closed (.inl h)
      · exact Eng.ringSq_closed (.inr h)
      · exact Eng.ringSq_reserved h
    have hcq : s.eng.ringCq c v = s.eng.dbIgnored := by
      rcases hclosed with h | h | h
      · exact Eng.ringCq_closed (.inl h)
      · exact Eng.ringCq_closed (.inr h)
      · exact Eng.ringCq_reserved h
    simp only [List.mem_cons, List.not_mem_nil, or_false] at hi
    rcases hi with rfl | rfl
    · refine ⟨_, exec_submissionDoorbell live c v, ?_⟩
      rw [Eng.doorbell_runs runs, if_neg (by simp), hsq]
      exact s.noted_eq _
    · refine ⟨_, exec_completionDoorbell live c v, ?_⟩
      rw [Eng.doorbell_runs runs, if_pos rfl, hcq]
      exact s.noted_eq _
  · simp only [List.mem_cons, List.not_mem_nil, or_false] at hi
    rcases hi with rfl | rfl | rfl | rfl <;> unfold exec <;> exact onEng_live live _

/-! ### The catcher, and messages of dies (R51) -/

section Catcher

variable {e : Eng}

theorem not_dormant_of_engineRuns (h : e.engineRuns = true) : e.svc.power.dormant = false := by
  unfold Eng.engineRuns at h
  simpa using (Bool.and_eq_true_iff.mp h).2

/-- Outside Dormant nothing ends it. -/
theorem Eng.ended_of_engineRuns (h : e.engineRuns = true) (m : Memory) : e.ended m = e := by
  simp [Eng.ended, not_dormant_of_engineRuns h]

theorem engineRuns_of_accepts (h : e.accepts = true) : e.engineRuns = true := by
  unfold Eng.accepts at h
  rw [Bool.and_assoc, Bool.and_eq_true_iff] at h
  exact h.1

/-- The catcher's records after it has caught a submission doorbell for which it has place. -/
def Eng.caughtWith (e : Eng) (c : CtxNum) (v : Word) : List Caught :=
  if e.rfe.caught.any (·.ctx = c) then e.rfe.caught.map fun k => if k.ctx = c then { k with sq := some v } else k
  else e.rfe.caught ++ [{ ctx := c, sq := some v }]

theorem Eng.catchDoorbell_caught (c : CtxNum) (v : Word) (h : e.rfe.caught.any (·.ctx = c) = true ∨ e.rfe.caught.length < 256) :
    (e.catchDoorbell c false v).rfe.caught = e.caughtWith c v := by
  unfold Eng.catchDoorbell Eng.caughtWith
  by_cases hany : e.rfe.caught.any (·.ctx = c) = true
  · simp [hany]
  · simp [hany, h.resolve_left hany]

theorem Eng.catchDoorbell_ctxs (c : CtxNum) (cq : Bool) (v : Word) : (e.catchDoorbell c cq v).ctxs = e.ctxs := by
  simp [Eng.catchDoorbell]

theorem Eng.caughtWith_length (c : CtxNum) (v : Word) (hle : e.rfe.caught.length ≤ 256)
    (h : e.rfe.caught.any (·.ctx = c) = true ∨ e.rfe.caught.length < 256) : (e.caughtWith c v).length ≤ 256 := by
  unfold Eng.caughtWith
  split
  · simpa using hle
  · next hany =>
    have := h.resolve_left hany
    simp only [List.length_append, List.length_cons, List.length_nil]
    omega

/-- Every record of the context holds the doorbell's value. -/
theorem Eng.caughtWith_sq {c : CtxNum} {v : Word} {k : Caught} (hk : k ∈ e.caughtWith c v) (hc : k.ctx = c) : k.sq = some v := by
  unfold Eng.caughtWith at hk
  split at hk
  · obtain ⟨k', -, rfl⟩ := List.mem_map.mp hk
    split
    · rfl
    · next hne => rw [if_neg hne] at hc; exact absurd hc hne
  · next hany =>
    rcases List.mem_append.mp hk with hk | hk
    · exact absurd (List.any_eq_true.mpr ⟨k, hk, by simpa using hc⟩) hany
    · rw [List.mem_singleton.mp hk]

theorem Eng.caughtWith_mem (e : Eng) (c : CtxNum) (v : Word) : ∃ k ∈ e.caughtWith c v, k.ctx = c := by
  unfold Eng.caughtWith
  split
  · next hany =>
    obtain ⟨k, hk, hc⟩ := List.any_eq_true.mp hany
    have hc : k.ctx = c := by simpa using hc
    exact ⟨_, List.mem_map.mpr ⟨k, hk, rfl⟩, by rw [if_pos hc]; exact hc⟩
  · exact ⟨_, List.mem_append_right _ (List.mem_singleton.mpr rfl), rfl⟩

/-- A recorded doorbell is rung at its context once its record has gone. -/
theorem exec_takeRecordedDoorbell_caught {s : State} {c : CtxNum} {k : Caught} (live : s.Live) (acc : s.eng.accepts = true)
    (hk : s.eng.rfe.caught.find? (·.ctx = c) = some k) :
    exec (.takeRecordedDoorbell c) s = .next { s with eng :=
      (({ s.eng with rfe := { s.eng.rfe with caught := s.eng.rfe.caught.filter (·.ctx ≠ c) } } : Eng).takeCaught k).noteWorkOf .engine } := by
  unfold exec
  refine (onEng_live live _).trans ?_
  simp only [acc, hk, Bool.not_true, Bool.false_eq_true, if_false]

end Catcher

/-- Settles O10: the catcher's records are `Eng.caughtWith`; a recorded doorbell and a die's message end in the ring that the host's write does. -/
theorem recordedAndDieDoorbellsActAsHostDoorbells : Obligations.RecordedAndDieDoorbellsActAsHostDoorbells := by
  unfold Obligations.RecordedAndDieDoorbellsActAsHostDoorbells
  intro s c d v live gone
  refine ⟨fun stopped hle hroom => ?_, fun runs => ?_⟩
  · have hcatch : s.eng.doorbell c false v = s.eng.catchDoorbell c false v := by simp [Eng.doorbell, stopped]
    obtain ⟨k, hk, hc⟩ := s.eng.caughtWith_mem c v
    refine ⟨_, exec_submissionDoorbell live c v, ?_⟩
    dsimp only
    rw [hcatch, Eng.catchDoorbell_caught c v hroom, Eng.catchDoorbell_ctxs]
    exact ⟨⟨k, hk, hc, Eng.caughtWith_sq hk hc⟩, fun k hk hc => Eng.caughtWith_sq hk hc, Eng.caughtWith_length c v hle hroom, rfl⟩
  · have gone_runs : gone.eng.engineRuns = true := runs
    have hdie := fun cq (hen : (s.eng.opi.die.getD d.toNat {}).enable = true) =>
      exec_opiDoorbellMessage live (Eng.ended_of_engineRuns runs) hen c cq v
    refine ⟨fun acc hk => ?_, fun acc hk => ?_, fun hen hdb => ?_, fun hen hdb => ?_⟩
    · refine ⟨_, exec_takeRecordedDoorbell_caught live acc hk, (exec_submissionDoorbell (s := gone) live c v).trans ?_⟩
      rw [Eng.doorbell_runs gone_runs]
      rfl
    · refine ⟨_, exec_takeRecordedDoorbell_caught live acc hk, (exec_completionDoorbell (s := gone) live c v).trans ?_⟩
      rw [Eng.doorbell_runs gone_runs]
      rfl
    · rw [hdie false hen, hdie true hen, if_pos hdb, if_pos hdb]
      exact ⟨⟨_, rfl, exec_submissionDoorbell live c v⟩, ⟨_, rfl, exec_completionDoorbell live c v⟩⟩
    · rw [hdie false hen, if_neg (by simp [hdb])]
      rfl

end Sys2Proof.Machine
end

section
/-! The ends of descriptors and of waits: what they leave as it is (R69, R256, R257, R342). -/

namespace Sys2Proof.Machine

/-- What the end of a descriptor or of a wait leaves as it is: all but the descriptors, the waits at their homes, power states, tallies and what leaves. -/
def Eng.core (e : Eng) : Eng := { e with jobs := [], syn := {}, tally := [], out := [], svc := { e.svc with power := {} } }

section Parts

variable {e e' : Eng} (h : e'.core = e.core)

include h

theorem ctxs_of_core : e'.ctxs = e.ctxs := (congrArg Eng.ctxs h :)
theorem cxs_of_core : e'.cxs = e.cxs := (congrArg Eng.cxs h :)
theorem pdks_of_core : e'.pdks = e.pdks := (congrArg Eng.pdks h :)
theorem sweeps_of_core : e'.svc.sweeps = e.svc.sweeps := (congrArg (·.svc.sweeps) h :)
theorem now_of_core : e'.now = e.now := (congrArg Eng.now h :)

theorem ctx_of_core (c : CtxNum) : e'.ctx c = e.ctx c := by
  unfold Eng.ctx
  rw [ctxs_of_core h]

end Parts

theorem PowerSide.core {e e' : Eng} (h : PowerSide e e') : e'.core = e.core := by
  rw [h.1]
  rfl

theorem core_foldl {β : Type} {f : Eng → β → Eng} (hf : ∀ e x, (f e x).core = e.core) (l : List β) (e : Eng) : (l.foldl f e).core = e.core := by
  induction l generalizing e with
  | nil => rfl
  | cons x l ih => exact (ih _).trans (hf e x)

theorem handOver_core (e : Eng) (j : Job) : (e.handOver j).core = e.core := by
  unfold Eng.handOver
  split <;> rfl

theorem release_core (e : Eng) (h : Word) : (e.release h).core = e.core := by
  unfold Eng.release
  split
  · rfl
  · exact handOver_core _ _

theorem finish_core (e : Eng) (h : Word) (st : Status) (d : Word) : (e.finish h st d).core = e.core :=
  (Eng.noteQuiet_side _ _).core.trans (release_core e h)

/-! ### Waits -/

theorem waitEnds_core (e : Eng) (h : Word) (st : Status) (d t : Word) : (e.waitEnds h st d t).core = e.core := by
  unfold Eng.waitEnds
  split
  · rfl
  · split
    · rfl
    · split
      · exact finish_core e h st d
      · exact (Eng.wakeRegion_side _ _).core

theorem answerWait_core (e : Eng) (w : Wait) (st : Status) (d t : Word) : (e.answerWait w st d t).core = e.core := by
  have hp : (if st = stUnsynced || st = stPodMismatch then e.podRefused else e).core = e.core := by split <;> rfl
  unfold Eng.answerWait
  dsimp only
  split
  · exact (waitEnds_core _ _ _ _ _).trans hp
  · exact hp
  · exact hp

theorem tallyWait_core (e : Eng) (r : Region) (st : Status) : (e.tallyWait r st).core = e.core := by
  unfold Eng.tallyWait
  repeat' split
  all_goals rfl

theorem endWait_core (e : Eng) (w : Wait) (st : Status) (d t : Word) : (e.endWait w st d t).core = e.core :=
  (answerWait_core _ _ _ _ _).trans (tallyWait_core _ _ _)

theorem dropWait_core (e : Eng) (w : Wait) (how : Option (Status × Word)) : (e.dropWait w how).core = e.core := by
  cases how with
  | none => rfl
  | some x => exact endWait_core _ _ _ _ _

theorem endEarly_core (e : Eng) (t : Word) (w : Wait) (how : Option (Status × Word)) : (e.endEarly t w how).core = e.core := by
  unfold Eng.endEarly
  split
  · exact endWait_core _ _ _ _ _
  · exact dropWait_core e w how

theorem orphanAll_core (e : Eng) (t : Word) (p : Wait → Bool) : (e.orphanAll t p).core = e.core :=
  core_foldl (fun e w => endEarly_core e t w _) _ _

/-- An event that sends nothing on: its home applies it, or keeps it until its region is Active. -/
theorem homeGo_alone (e : Eng) (v : HomeEvent) (h : ∀ e : Eng, (e.applyEvent v).2 = []) :
    e.homeGo v =
      if (e.wakeRegion v.act.region).homeRuns v.act.region then
        ((e.wakeRegion v.act.region).applyEvent v).1.noteWorkOf (.region v.act.region)
      else (e.wakeRegion v.act.region).modSyn fun s => { s with events := s.events ++ [(e.wakeRegion v.act.region).ruled v] } := by
  obtain ⟨n, hn⟩ : ∃ n, e.homeFuel = n + 2 := ⟨e.homeFuel - 2, by unfold Eng.homeFuel; omega⟩
  unfold Eng.homeGo
  rw [hn]
  unfold Eng.homeRun
  dsimp only
  rw [h]
  split <;> rfl

/-- Its effect is that of the event alone, with power and the home's queue. -/
theorem homeGo_core (e : Eng) (v : HomeEvent) (h : ∀ e : Eng, (e.applyEvent v).2 = []) (hc : ∀ e : Eng, (e.applyEvent v).1.core = e.core) :
    (e.homeGo v).core = e.core := by
  rw [homeGo_alone e v h]
  split
  · exact (Eng.noteWorkOf_side _ _).core.trans ((hc _).trans (e.wakeRegion_side _).core)
  · exact (e.wakeRegion_side _).core

/-- The end of a wait at its home, with no answer to send. -/
def endEvent (w : Wait) (how : Option (Status × Word)) (x : SyncSrc) : HomeEvent := { act := .ends w how, src := x }

theorem applyEvent_ends (e : Eng) (w : Wait) (how : Option (Status × Word)) (x : SyncSrc) :
    e.applyEvent (endEvent w how x) = (if e.syn.waits.any (·.id = w.id) then e.endEarly x.stamp w how else e, []) := rfl

/-- The reset of an owner at a home. -/
def ownerEvent (c : CtxNum) (r : Region) (x : SyncSrc) : HomeEvent := { act := .owner c r, src := x }

theorem applyEvent_owner (e : Eng) (c : CtxNum) (r : Region) (x : SyncSrc) :
    e.applyEvent (ownerEvent c r x) =
      (e.orphanAll x.stamp fun w => flagRegion w.flag = r && (e.flag w.flag).owned && decide ((e.flag w.flag).owner = c), []) := rfl

theorem homeGo_ends_core (e : Eng) (w : Wait) (how : Option (Status × Word)) (x : SyncSrc) : (e.homeGo (endEvent w how x)).core = e.core := by
  refine homeGo_core e _ (fun e => by rw [applyEvent_ends]) fun e => ?_
  rw [applyEvent_ends]
  dsimp only
  split
  · exact endEarly_core _ _ _ _
  · rfl

theorem homeGo_owner_core (e : Eng) (c : CtxNum) (r : Region) (x : SyncSrc) : (e.homeGo (ownerEvent c r x)).core = e.core := by
  refine homeGo_core e _ (fun e => by rw [applyEvent_owner]) fun e => ?_
  rw [applyEvent_owner]
  exact orphanAll_core _ _ _

theorem ownerReset_core (e : Eng) (c : CtxNum) : (e.ownerReset c).core = e.core := core_foldl (fun e r => homeGo_owner_core e c r _) _ _

theorem endWaits_core (e : Eng) (p : Wait → Bool) (how : Option (Status × Word)) : (e.endWaits p how).core = e.core :=
  (core_foldl (fun e w => homeGo_ends_core e w how _) _ _).trans (core_foldl (fun e w => dropWait_core e w how) _ _)

end Sys2Proof.Machine
end

section
/-! NOP, QUERY and FENCE: O23 (R55, R59, R68). -/

namespace Sys2Proof.Machine

section Begins

variable {e : Eng} {h : Word} {j : Job} (hj : e.job h = some j) (hs : j.stage = .running) (ha : e.active (.region j.lead) = true)
  (hh : e.halted = false) (hb : e.failedBytes j = none)

include hj hs ha hh hb

/-- A descriptor of its opcode that runs at an Active region, with well-formed bytes, does what its opcode does. -/
theorem beginSimple_goes {op : Nat} (ho : j.opcode = op) (go : Job → Eng → Eng) : e.beginSimple h op go = go j e := by
  unfold Eng.beginSimple
  rw [hj]
  dsimp only
  rw [if_neg (by simp [ho, hs, ha, hh]), hb]

end Begins

/-- A command that ends a descriptor: it holds its status, and contexts and memory are as before. -/
theorem finishes {s : State} {i : Instr} {h : Word} {j : Job} {st : Status} {d : Word} (hj : s.eng.job h = some j)
    (hx : exec i s = .next { s with eng := s.eng.finish h st d }) :
    ∃ t j', exec i s = .next t ∧ t.eng.job h = some j' ∧ j'.stage = .finished ∧ j'.status = st ∧ j'.detail = d ∧
      t.eng.ctxs = s.eng.ctxs ∧ t.mem = s.mem := by
  obtain ⟨j', hj', hstage, hst, hd, -, -⟩ := finish_ends hj st d
  exact ⟨_, j', hx, hj', hstage, hst, hd, ctxs_of_core (finish_core _ _ _ _), rfl⟩

section Commands

variable {s : State} {h : Word} {j : Job} (hl : s.Live) (hj : s.eng.job h = some j) (hs : j.stage = .running)
  (ha : s.eng.active (.region j.lead) = true) (hh : s.eng.halted = false) (hb : s.eng.failedBytes j = none)

include hl hj hs ha hh hb

theorem exec_nop (ho : j.opcode = opNop) : exec (.nop h) s = .next { s with eng := s.eng.finish h stOk 0 } := by
  unfold exec
  exact onEng_eq hl (beginSimple_goes hj hs ha hh hb ho _)

theorem exec_query (ho : j.opcode = opQuery) :
    exec (.query h) s = .next { s with eng := s.eng.finish h (s.eng.answerQuery j).1 (s.eng.answerQuery j).2 } := by
  unfold exec
  exact onEng_eq hl (beginSimple_goes hj hs ha hh hb ho _)

theorem exec_fence (ho : j.opcode = opFence) : exec (.fence h) s = .next { s with eng := s.eng.modJob h fun j => { j with stage := .waiting } } := by
  unfold exec
  exact onEng_eq hl (beginSimple_goes hj hs ha hh hb ho _)

end Commands

theorem exec_fenceDone {s : State} {h : Word} {j : Job} (hl : s.Live) (hj : s.eng.job h = some j) (ho : j.opcode = opFence)
    (hs : j.stage = .waiting) (hr : s.eng.releaseReady j 2 s.eng.device = true) :
    exec (.fenceDone h) s = .next { s with eng := s.eng.finish h stOk 0 } := by
  unfold exec
  refine onEng_eq hl ?_
  simp only [hj, ho, hs, hr, decide_true, Bool.and_self, if_true]

/-! ### A QUERY's answer (R68) -/

section Answers

variable {e : Eng} {j : Job}

theorem answerQuery_device (h : fld (j.w 2) 3 0 = 1) :
    e.answerQuery j = (stOk, pack [(0, e.device.toNat), (32, e.svc.pod.epoch.toNat)]) := if_pos h

variable (h : fld (j.w 2) 3 0 ≠ 1)

include h

theorem answerQuery_otherPaddock (hp : (e.ctx (handleCtx (j.w 1))).paddock ≠ j.paddock) : e.answerQuery j = (stNotPermitted, 0) :=
  (if_neg h).trans (if_pos hp)

variable (hp : (e.ctx (handleCtx (j.w 1))).paddock = j.paddock)

include hp

theorem answerQuery_stale (hg : handleGen (j.w 1) ≠ (e.ctx (handleCtx (j.w 1))).gen) : e.answerQuery j = (stStale, 0) :=
  (if_neg h).trans ((if_neg (not_not.mpr hp)).trans (if_pos hg))

theorem answerQuery_state (hg : handleGen (j.w 1) = (e.ctx (handleCtx (j.w 1))).gen) :
    e.answerQuery j = (stOk, pack [(0, (e.handleState (j.w 1)).1), (16, (e.handleState (j.w 1)).2)]) :=
  (if_neg h).trans ((if_neg (not_not.mpr hp)).trans (if_neg (not_not.mpr hg)))

end Answers

/-- Settles O23: each begins as its opcode does (`beginSimple_goes`), and what completes ends as `finish_ends` says. -/
theorem simpleDescriptorsComplete : Obligations.SimpleDescriptorsComplete := by
  unfold Obligations.SimpleDescriptorsComplete
  intro s h j hl hj done
  refine ⟨fun hs ha hh hb => ⟨fun ho => ?_, fun ho hw => ?_, fun ho hw => ⟨fun hp => ?_, fun hp hg => ?_, fun hp hg => ?_⟩, fun ho => ?_⟩,
    fun ho hs hr => ?_⟩
  · exact finishes hj (exec_nop hl hj hs ha hh hb ho)
  · have hq := exec_query hl hj hs ha hh hb ho
    rw [answerQuery_device hw] at hq
    exact finishes hj hq
  · have hq := exec_query hl hj hs ha hh hb ho
    rw [answerQuery_otherPaddock hw hp] at hq
    exact finishes hj hq
  · have hq := exec_query hl hj hs ha hh hb ho
    rw [answerQuery_stale hw hp hg] at hq
    exact finishes hj hq
  · have hq := exec_query hl hj hs ha hh hb ho
    rw [answerQuery_state hw hp hg] at hq
    exact finishes hj hq
  · exact ⟨_, _, exec_fence hl hj hs ha hh hb ho, Eng.job_modJob_self _ hj fun _ => rfl, rfl, rfl⟩
  · exact finishes hj (exec_fenceDone hl hj ho hs hr)

end Sys2Proof.Machine
end

section
/-! The commands of CXS_CTX_CMD, and the close of a context: O32 and O33 (R41, R44, R45). -/

namespace Sys2Proof.Machine

/-- Outside Dormant, with the page answering and no command in progress, a command acts on the selected context as its state allows (R41). -/
theorem ctxCommand_acts {e : Eng} (ha : e.answers subCxs = true) (hd : e.svc.power.dormant = false) (hb : e.cxs.busy = .idle) (m : Memory)
    (legal : CtxState → Bool) (f : CtxNum → Ctx → Eng → Eng) :
    e.ctxCommand m legal f = if legal (e.ctx e.cxs.sel).state then f e.cxs.sel (e.ctx e.cxs.sel) (e.ctxResult 0) else e.ctxResult 1 := by
  have hr : e.reach m subCxs = e := by
    unfold Eng.reach Eng.ended
    simp [hd]
  unfold Eng.ctxCommand Eng.access
  rw [if_pos ha, hr]
  exact if_neg (not_not.mpr hb)

section Results

variable {e : Eng} {r : BitVec 4} {c : CtxNum}

@[simp] theorem Eng.ctx_ctxResult : (e.ctxResult r).ctx c = e.ctx c := rfl
@[simp] theorem Eng.ctxConfigOk_ctxResult (x : Ctx) : (e.ctxResult r).ctxConfigOk x = e.ctxConfigOk x := rfl
@[simp] theorem Eng.ctxResult_ctxResult (q : BitVec 4) : (e.ctxResult r).ctxResult q = e.ctxResult q := rfl

/-- A context that starts closing is listed as CLOSING. -/
theorem Eng.ctx_close (k : Closing) : (e.close c k).ctx c = { e.ctx c with state := .closing, closing := some k, refetch := none } :=
  Eng.ctx_setCtx_state e c (by simp)

end Results

/-- A command of CXS_CTX_CMD from a state that allows it. -/
theorem exec_ctxCommand {s : State} (hl : s.Live) (ha : s.eng.answers subCxs = true) (hd : s.eng.svc.power.dormant = false)
    (hb : s.eng.cxs.busy = .idle) {i : Instr} {legal : CtxState → Bool} {f : CtxNum → Ctx → Eng → Eng}
    (hi : exec i s = onEng s fun m e => e.ctxCommand m legal f) :
    (legal (s.eng.ctx s.eng.cxs.sel).state = true →
      exec i s = .next { s with eng := f s.eng.cxs.sel (s.eng.ctx s.eng.cxs.sel) (s.eng.ctxResult 0) }) ∧
    (legal (s.eng.ctx s.eng.cxs.sel).state = false → exec i s = .next { s with eng := s.eng.ctxResult 1 }) := by
  have hx := ctxCommand_acts ha hd hb s.mem legal f
  refine ⟨fun h => ?_, fun h => ?_⟩
  · rw [if_pos h] at hx
    exact hi.trans (onEng_eq hl hx)
  · rw [if_neg (by simp [h])] at hx
    exact hi.trans (onEng_eq hl hx)

/-- Settles O33: `exec_ctxCommand` for each of the four, and the context as the command writes it. -/
theorem contextCommandsChangeTheState : Obligations.ContextCommandsChangeTheState := by
  unfold Obligations.ContextCommandsChangeTheState
  intro s hl ha hd hb c x bad
  obtain ⟨enable, enableBad⟩ := exec_ctxCommand hl ha hd hb (i := .enable) (by unfold exec; rfl)
  obtain ⟨disable, disableBad⟩ := exec_ctxCommand hl ha hd hb (i := .disable) (by unfold exec; rfl)
  obtain ⟨park, parkBad⟩ := exec_ctxCommand hl ha hd hb (i := .park) (by unfold exec; rfl)
  obtain ⟨resume, resumeBad⟩ := exec_ctxCommand hl ha hd hb (i := .resume) (by unfold exec; rfl)
  refine ⟨fun hs hc ho => ?_, fun hs hc => ?_, fun hs => ?_, fun hs => ?_, fun hs => ?_, fun hs => ?_, fun hs => ?_, fun hs => ?_, fun hs => ?_⟩
  · have hx := enable (decide_eq_true hs)
    rw [if_pos (show (s.eng.ctxResult 0).ctxConfigOk (s.eng.ctx s.eng.cxs.sel) = true from hc)] at hx
    refine ⟨_, hx, rfl, ?_, ?_, fun c' hc' => ?_⟩
    · refine (Eng.ctx_setCtx_state _ c (by simp)).trans ?_
      show ({ x with sqTail := 0, sqHead := 0, cqTail := 0, cqHead := 0, spooled := 0, outstanding := x.owed.length, state := .enabled,
                     refetch := none, owed := [], savedHead := 0, savedCqTail := 0 } : Ctx) = _
      rw [ho]
      rfl
    · show s.eng.jobs ++ x.owed.zipIdx.map _ = s.eng.jobs
      rw [ho]
      exact List.append_nil _
    · exact Eng.ctx_setCtx_ne _ _ _ _ hc'
  · have hx := enable (decide_eq_true hs)
    rw [if_neg (show ¬ (s.eng.ctxResult 0).ctxConfigOk (s.eng.ctx s.eng.cxs.sel) = true from fun h => Bool.noConfusion (hc.symm.trans h))] at hx
    exact hx
  · exact ⟨_, disable (by rcases hs with h | h <;> simp [x, c] at h <;> simp [h]), rfl, Eng.ctx_close _, rfl⟩
  · exact ⟨_, park (decide_eq_true hs), rfl, Eng.ctx_parkRing _ _ _ _ _⟩
  · exact ⟨_, resume (decide_eq_true hs), rfl, Eng.ctx_setCtx_state _ _ (by simp)⟩
  · exact enableBad (decide_eq_false hs)
  · exact disableBad (by rcases hs with h | h <;> simp [x, c] at h <;> simp [h])
  · exact parkBad (decide_eq_false hs)
  · exact resumeBad (decide_eq_false hs)

/-- The context is DISABLED, and no command is in progress on it. -/
def Eng.closed (e : Eng) (c : CtxNum) : Eng :=
  { (e.modCtx c fun x => { x with state := .disabled, closing := none }) with
    cxs := { e.cxs with busy := if e.cxs.busy = .closing c then .idle else e.cxs.busy } }

section Closes

variable {s : State} {c : CtxNum} (hl : s.Live) (hs : (s.eng.ctx c).state = .closing) (ho : (s.eng.ctx c).outstanding = 0)

include hl hs ho

/-- DISABLE ends with the context closed. -/
theorem exec_contextClosed_disable (hk : (s.eng.ctx c).closing = some .byDisable) :
    exec (.contextClosed c) s = .next { s with eng := s.eng.closed c } := by
  unfold exec
  refine onEng_eq hl ?_
  dsimp only
  rw [if_neg (by simp [hs, ho]), hk]
  rfl

/-- Under RESET, GEN is incremented and the homes are told, before the context is closed. -/
theorem exec_contextClosed_reset (hk : (s.eng.ctx c).closing = some .byReset) :
    exec (.contextClosed c) s =
      .next { s with eng := ((s.eng.modCtx c fun x => { x with gen := x.gen + 1 }).ownerReset c).closed c } := by
  unfold exec
  refine onEng_eq hl ?_
  dsimp only
  rw [if_neg (by simp [hs, ho]), hk]
  rfl

end Closes

theorem Eng.busy_closed (e : Eng) (c : CtxNum) : (e.closed c).cxs.busy ≠ .closing c := by
  show (if e.cxs.busy = .closing c then CtxBusy.idle else e.cxs.busy) ≠ _
  split
  · simp
  · next hne => exact hne

theorem Eng.ctx_closed {e : Eng} (w : MapWf {} e.ctxs) (c : CtxNum) :
    (e.closed c).ctx c = { e.ctx c with state := .disabled, closing := none } :=
  e.ctx_modCtx_self c (fun x => { x with state := .disabled, closing := none }) w

/-- Settles O32: under DISABLE by the definition; under RESET the homes that are told leave the contexts as they are (`ownerReset_core`). -/
theorem contextClosesWhenNothingIsOutstanding : Obligations.ContextClosesWhenNothingIsOutstanding := by
  unfold Obligations.ContextClosesWhenNothingIsOutstanding
  intro s c hl hs ho inv x
  refine ⟨fun hk => exec_contextClosed_disable hl hs ho hk, fun hk => ?_⟩
  have hreset := ownerReset_core (s.eng.modCtx c fun x => { x with gen := x.gen + 1 }) c
  have hwf : MapWf {} ((s.eng.modCtx c fun x => { x with gen := x.gen + 1 }).ownerReset c).ctxs := by
    rw [ctxs_of_core hreset]
    exact mapSet_wf _ _ _ _ inv.1
  refine ⟨_, exec_contextClosed_reset hl hs ho hk, ?_, Eng.busy_closed _ c, rfl⟩
  rw [Eng.ctx_closed hwf, ctx_of_core hreset, Eng.ctx_modCtx_self _ _ _ inv.1]

end Sys2Proof.Machine
end

section
/-! Posting and spooling of completions: O31 (R69, R71, R75 to R77, R407). -/

namespace Sys2Proof.Machine

/-! ### What a write of RFE leaves as it is -/

/-- What a write to stack memory leaves of rings and descriptors: all but the Drovers, the landing buffer and tallies. -/
def Eng.ringSide (e : Eng) : Eng := { e with drv := [], rfe := {}, tally := [] }

section Parts

variable {e e' : Eng} (h : e'.ringSide = e.ringSide)

include h

theorem ctxs_of_ringSide : e'.ctxs = e.ctxs := (congrArg Eng.ctxs h :)
theorem cxs_of_ringSide : e'.cxs = e.cxs := (congrArg Eng.cxs h :)
theorem jobs_of_ringSide : e'.jobs = e.jobs := (congrArg Eng.jobs h :)

theorem ctx_of_ringSide (c : CtxNum) : e'.ctx c = e.ctx c := by
  unfold Eng.ctx
  rw [ctxs_of_ringSide h]

theorem storeAddr_of_ringSide (c : CtxNum) : e'.storeAddr c = e.storeAddr c := by
  unfold Eng.storeAddr
  rw [cxs_of_ringSide h]

end Parts

theorem recordWrite_ringSide (e : Eng) (n : BitVec 5) (pa len : Nat) (w : Writer) : (e.recordWrite n pa len w).ringSide = e.ringSide := by
  unfold Eng.recordWrite
  generalize beatsOf pa len = bs
  induction bs generalizing e with
  | nil => rfl
  | cons b bs ih => exact ih _

theorem put_ringSide (x : Eff) (o : MemOp) : (x.put o).eng.ringSide = x.eng.ringSide := by
  unfold Eff.put
  split
  · exact recordWrite_ringSide _ _ _ _ _
  · rfl

theorem put_ops (x : Eff) (o : MemOp) : (x.put o).ops = x.ops ++ [o] := (put_keeps x o).1

theorem ctx_put (x : Eff) (o : MemOp) (c : CtxNum) : (x.put o).eng.ctx c = x.eng.ctx c := ctx_of_ringSide (put_ringSide x o) c

theorem on_ops (x : Eff) (f : Eng → Eng) : (x.on f).ops = x.ops := rfl
theorem on_eng (x : Eff) (f : Eng → Eng) : (x.on f).eng = f x.eng := rfl

/-! ### The indices that go through to the backing store (R407) -/

/-- The two writes of a context's indices. -/
def Eng.idxOps (e : Eng) (c : CtxNum) : List MemOp :=
  [⟨e.storeAddr c + 0x10, .clear, leBytes 8 ((e.ctx c).reg 0x10).toNat⟩, ⟨e.storeAddr c + 0x28, .clear, leBytes 8 ((e.ctx c).reg 0x28).toNat⟩]

theorem storeIdx_ops (x : Eff) (c : CtxNum) : (x.storeIdx c).ops = x.ops ++ x.eng.idxOps c := by
  show ((x.put _).put _).ops = _
  rw [put_ops, put_ops, List.append_assoc]
  rfl

theorem storeIdx_ctxs (x : Eff) (c : CtxNum) : (x.storeIdx c).eng.ctxs = x.eng.ctxs :=
  (ctxs_of_ringSide (put_ringSide _ _)).trans (ctxs_of_ringSide (put_ringSide _ _))

theorem storeIdx_jobs (x : Eff) (c : CtxNum) : (x.storeIdx c).eng.jobs = x.eng.jobs :=
  (jobs_of_ringSide (put_ringSide _ _)).trans (jobs_of_ringSide (put_ringSide _ _))

theorem storeIdle_ops (x : Eff) (c : CtxNum) :
    (x.storeIdle c).ops = x.ops ++ if (x.eng.ctx c).outstanding = 0 then x.eng.idxOps c else [] := by
  unfold Eff.storeIdle
  split
  · exact storeIdx_ops x c
  · exact (List.append_nil _).symm

theorem storeIdle_ctxs (x : Eff) (c : CtxNum) : (x.storeIdle c).eng.ctxs = x.eng.ctxs := by
  unfold Eff.storeIdle
  split
  · exact storeIdx_ctxs x c
  · rfl

theorem storeIdle_jobs (x : Eff) (c : CtxNum) : (x.storeIdle c).eng.jobs = x.eng.jobs := by
  unfold Eff.storeIdle
  split
  · exact storeIdx_jobs x c
  · rfl

section Written

variable {m : Memory} {e : Eng} {c : CtxNum}

/-- Addresses outside the two words read as before. -/
theorem idxOps_byte_out {k : Tag} {b : Nat} (h₁ : b < e.storeAddr c + 0x10 ∨ e.storeAddr c + 0x18 ≤ b)
    (h₂ : b < e.storeAddr c + 0x28 ∨ e.storeAddr c + 0x30 ≤ b) : (applyOps m (e.idxOps c)).byte k b = m.byte k b := by
  refine applyOps_byte_out _ _ _ _ fun o ho => ?_
  simp only [Eng.idxOps, List.mem_cons, List.not_mem_nil, or_false] at ho
  rcases ho with rfl | rfl
  · rw [leBytes_length]
    exact h₁
  · rw [leBytes_length]
    exact h₂

theorem idxOps_bytes_out {k : Tag} {a n : Nat} (h : a + n ≤ e.storeAddr c + 0x10 ∨ e.storeAddr c + 0x30 ≤ a) :
    (applyOps m (e.idxOps c)).bytes k a n = m.bytes k a n := by
  unfold Memory.bytes
  refine List.map_congr_left fun i hi => ?_
  have := List.mem_range.mp hi
  exact idxOps_byte_out (by omega) (by omega)

/-- The two words hold the context's indices. -/
theorem idxOps_bytes_in (w : m.wf) :
    (applyOps m (e.idxOps c)).bytes .clear (e.storeAddr c + 0x10) 8 = leBytes 8 ((e.ctx c).reg 0x10).toNat ∧
    (applyOps m (e.idxOps c)).bytes .clear (e.storeAddr c + 0x28) 8 = leBytes 8 ((e.ctx c).reg 0x28).toNat := by
  have hin (m : Memory) (w : m.wf) (a v : Nat) : (m.write .clear a (leBytes 8 v)).bytes .clear a 8 = leBytes 8 v := by
    have := Memory.bytes_write .clear (leBytes 8 v) m a w
    rwa [leBytes_length] at this
  unfold Eng.idxOps
  rw [applyOps_cons, applyOps_cons, applyOps_nil]
  refine ⟨?_, hin _ (Memory.write_wf _ _ _ _ w) _ _⟩
  have hout (m : Memory) (bs : List Byte) : (m.write .clear (e.storeAddr c + 0x28) bs).bytes .clear (e.storeAddr c + 0x10) 8 =
      m.bytes .clear (e.storeAddr c + 0x10) 8 := Memory.bytes_write_out _ _ _ _ _ _ _ (.inl (by omega))
  rw [hout]
  exact hin m w _ _

end Written

/-! ### A record enters the completion ring (R69, R71, R76) -/

/-- The bytes of a descriptor's completion at index TAIL. -/
def Eng.recordOf (e : Eng) (c : CtxNum) (j : Job) : List Byte :=
  completionBytes j.handle j.userTag j.status j.detail (j.ready.getD e.now) (cqPhase (e.ctx c).cqLog2 (e.ctx c).cqTail)

theorem completionBytes_length (h : Word) (tag : BitVec 32) (st : Status) (detail stamp : Word) (phase : Nat) :
    (completionBytes h tag st detail stamp phase).length = 32 := by
  simp [completionBytes]

/-- A context once a completion of it is posted. -/
def Ctx.posted (x : Ctx) (spooled : Bool) : Ctx :=
  writeThrough { x with
    cqTail := x.cqTail + 1, outstanding := x.outstanding - 1, tallyPost := x.tallyPost + 1
    spooled := if spooled then x.spooled - 1 else x.spooled }

theorem writeThrough_fields (x : Ctx) : (writeThrough x).cqTail = x.cqTail ∧ (writeThrough x).outstanding = x.outstanding ∧
    (writeThrough x).sqHead = x.sqHead ∧ (writeThrough x).cqHead = x.cqHead ∧ (writeThrough x).cqLog2 = x.cqLog2 := by
  unfold writeThrough
  split <;> exact ⟨rfl, rfl, rfl, rfl, rfl⟩

theorem posted_fields (x : Ctx) (b : Bool) : (x.posted b).cqTail = x.cqTail + 1 ∧ (x.posted b).outstanding = x.outstanding - 1 ∧
    (x.posted b).sqHead = x.sqHead ∧ (x.posted b).cqHead = x.cqHead ∧ (x.posted b).cqLog2 = x.cqLog2 :=
  writeThrough_fields _

/-- A ring with room does not come to look unlisted: its TAIL is not the last index of all. -/
theorem posted_listed {e : Eng} {c : CtxNum} (h : e.cqRoom c = true) (b : Bool) : (e.ctx c).posted b ≠ {} := by
  intro hx
  obtain ⟨htail, -, -, hhead, hlog⟩ := posted_fields (e.ctx c) b
  rw [hx] at htail hhead hlog
  have ht : (e.ctx c).cqTail = 0xFFFFFFFF := by
    have : (e.ctx c).cqTail = (e.ctx c).cqTail + 1 - 1 := by simp
    rw [this, ← htail]
    rfl
  unfold Eng.cqRoom at h
  dsimp only at h
  rw [ht, ← hhead, ← hlog] at h
  simp [idxDist] at h

/-- RFE's tables once the record is written: TAIL and OUTSTANDING have moved, and the descriptor has left. -/
def Eng.posts (e : Eng) (c : CtxNum) (j : Job) : Eng :=
  let e := e.modCtx c fun x => x.posted (j.stage = .spooled)
  ((if j.status = stAbandoned then e.count subRfe 3 1 else e).dropJob j.handle).jAppend (retireRec j.handle j.detail j.status)

section Posts

variable (e : Eng) (c : CtxNum) (j : Job)

theorem posts_ctxs : (e.posts c j).ctxs = (e.modCtx c fun x => x.posted (j.stage = .spooled)).ctxs := by
  unfold Eng.posts
  dsimp only
  split <;> simp

theorem posts_cxs : (e.posts c j).cxs = e.cxs := by
  unfold Eng.posts
  dsimp only
  split <;> simp

/-- No descriptor of the handle is in work. -/
theorem posts_jobs : ∀ k ∈ (e.posts c j).jobs, k.handle ≠ j.handle := by
  have hj : (e.posts c j).jobs = e.jobs.filter (·.handle ≠ j.handle) := by
    unfold Eng.posts
    dsimp only
    split <;> simp
  intro k hk
  rw [hj] at hk
  exact of_decide_eq_true (List.mem_filter.mp hk).2

theorem posts_ctx (h : e.cqRoom c = true) : (e.posts c j).ctx c = (e.ctx c).posted (j.stage = .spooled) := by
  refine Eq.trans ?_ (e.ctx_setCtx_some c _ (posted_listed h (j.stage = .spooled)))
  unfold Eng.ctx
  rw [posts_ctxs]
  rfl

theorem posts_storeAddr : (e.posts c j).storeAddr c = e.storeAddr c := by
  unfold Eng.storeAddr
  rw [posts_cxs]

end Posts

/-- The signal that may end a run changes nothing but what leaves. -/
theorem endRun_frame (e : Eng) (c : CtxNum) : (e.endRun c).ctxs = e.ctxs ∧ (e.endRun c).jobs = e.jobs := by
  unfold Eng.endRun
  split
  · exact ⟨rfl, rfl⟩
  · unfold Eng.signal
    dsimp only
    split <;> exact ⟨rfl, rfl⟩

/-- What follows the tables' change: the indices go through where nothing is outstanding, a run may end, and work is noted. -/
def Eff.settled (x : Eff) (c : CtxNum) : Eff := (x.storeIdle c).on fun e => (e.endRun c).noteWork

section Settled

variable (x : Eff) (c : CtxNum)

theorem settled_ctxs : (x.settled c).eng.ctxs = x.eng.ctxs := by
  rw [Eff.settled, on_eng, (Eng.noteWork_frame _).2.2.2.2.1, (endRun_frame _ _).1, storeIdle_ctxs]

theorem settled_jobs : (x.settled c).eng.jobs = x.eng.jobs := by
  rw [Eff.settled, on_eng, (Eng.noteWork_frame _).2.2.2.2.2.2.2.1, (endRun_frame _ _).2, storeIdle_jobs]

theorem settled_ops : (x.settled c).ops = x.ops ++ if (x.eng.ctx c).outstanding = 0 then x.eng.idxOps c else [] := by
  rw [Eff.settled, on_ops, storeIdle_ops]

end Settled

/-- The record's write. -/
def Eng.ringOp (e : Eng) (c : CtxNum) (j : Job) : MemOp :=
  ⟨ringAddr (e.ctx c).cqBase (e.ctx c).cqLog2 (e.ctx c).cqTail 32, .clear, e.recordOf c j⟩

/-- The record's write and the tables' change. -/
def Eng.postedEff (e : Eng) (c : CtxNum) (j : Job) : Eff := ((Eff.mk e []).put (e.ringOp c j)).on fun e => e.posts c j

/-- What posting a record comes to. -/
def Eng.postAll (e : Eng) (c : CtxNum) (j : Job) : Eff := (e.postedEff c j).settled c

theorem postRecord_eq {e : Eng} {c : CtxNum} {j : Job} (hin : (e.ctx c).cqInHost = false) :
    e.postRecord c j = (e.postedEff c j).storeIdle c := by
  unfold Eng.postRecord Eff.putRing
  dsimp only
  rw [if_neg (by simp [hin])]
  simp only [Eng.postedEff, Eng.posts, Eng.ringOp, Eng.recordOf, Ctx.posted, Eff.on, decide_eq_true_eq]

section Posted

variable (e : Eng) (c : CtxNum) (j : Job)

theorem postedEff_ops : (e.postedEff c j).ops = [e.ringOp c j] := by
  rw [Eng.postedEff, on_ops, put_ops, List.nil_append]

theorem postedEff_eng : (e.postedEff c j).eng = ((Eff.mk e []).put (e.ringOp c j)).eng.posts c j := by
  rw [Eng.postedEff, on_eng]

theorem put_cqRoom (o : MemOp) (h : e.cqRoom c = true) : ((Eff.mk e []).put o).eng.cqRoom c = true := by
  have hp := put_ringSide (Eff.mk e []) o
  have hu : ((Eff.mk e []).put o).eng.hostUp = e.hostUp := (congrArg Eng.hostUp hp :)
  unfold Eng.cqRoom at h ⊢
  rw [ctx_of_ringSide hp, hu]
  exact h

theorem postedEff_ctx (h : e.cqRoom c = true) : (e.postedEff c j).eng.ctx c = (e.ctx c).posted (j.stage = .spooled) := by
  rw [postedEff_eng, posts_ctx _ c j (put_cqRoom e c _ h), ctx_put]

theorem postedEff_storeAddr : (e.postedEff c j).eng.storeAddr c = e.storeAddr c := by
  rw [postedEff_eng, posts_storeAddr, storeAddr_of_ringSide (put_ringSide _ _)]

theorem postAll_ctx : (e.postAll c j).eng.ctx c = (e.postedEff c j).eng.ctx c := by
  unfold Eng.ctx
  rw [Eng.postAll, settled_ctxs]

theorem postAll_jobs : ∀ k ∈ (e.postAll c j).eng.jobs, k.handle ≠ j.handle := by
  rw [Eng.postAll, settled_jobs, postedEff_eng]
  exact posts_jobs _ c j

/-- The writes of a posted record: the record, and the indices where nothing is outstanding any more. -/
theorem postAll_ops (h : e.cqRoom c = true) :
    (e.postAll c j).ops = e.ringOp c j :: if (e.ctx c).outstanding ≤ 1 then (e.postedEff c j).eng.idxOps c else [] := by
  have ho : ((e.postedEff c j).eng.ctx c).outstanding = (e.ctx c).outstanding - 1 := by
    rw [postedEff_ctx e c j h]
    exact (posted_fields _ _).2.1
  have h0 : (e.ctx c).outstanding - 1 = 0 ↔ (e.ctx c).outstanding ≤ 1 := by omega
  rw [Eng.postAll, settled_ops, postedEff_ops, ho]
  simp only [h0, List.singleton_append]

end Posted

/-! ### A record goes to the spool (R77) -/

/-- A spooled record's write. -/
def Eng.spoolOp (e : Eng) (c : CtxNum) (j : Job) : MemOp :=
  ⟨spoolAddr (e.ctx c) j.postIndex, .clear, completionBytes j.handle j.userTag j.status j.detail (j.ready.getD e.now) 0⟩

theorem spoolOp_addr (e : Eng) (c : CtxNum) (j : Job) : (e.spoolOp c j).addr = spoolAddr (e.ctx c) j.postIndex := rfl
theorem spoolOp_tag (e : Eng) (c : CtxNum) (j : Job) : (e.spoolOp c j).tag = .clear := rfl

/-- The record's write, and the tables' change. -/
def Eng.spooledEff (e : Eng) (c : CtxNum) (j : Job) : Eff :=
  ((Eff.mk e []).put (e.spoolOp c j)).on fun e =>
    (e.modCtx c fun x => { x with spooled := x.spooled + 1 }).modJob j.handle fun j => { j with stage := .spooled }

/-- What spooling a record comes to. -/
def Eng.spoolAll (e : Eng) (c : CtxNum) (j : Job) : Eff := (e.spooledEff c j).on Eng.noteWork

section Spool

variable (e : Eng) (c : CtxNum) (j : Job)

theorem spoolAll_ops : (e.spoolAll c j).ops = [e.spoolOp c j] := by
  rw [Eng.spoolAll, on_ops, Eng.spooledEff, on_ops, put_ops, List.nil_append]

theorem spooledEff_eng : (e.spooledEff c j).eng = (((Eff.mk e []).put (e.spoolOp c j)).eng.modCtx c fun x =>
    { x with spooled := x.spooled + 1 }).modJob j.handle fun j => { j with stage := .spooled } := by
  rw [Eng.spooledEff, on_eng]

theorem spoolAll_inWork : (e.spoolAll c j).eng.inWork = (e.spooledEff c j).eng.inWork := by
  rw [Eng.spoolAll, on_eng]
  exact (Eng.noteWork_side _).inWork

theorem spoolAll_ctx : (e.spoolAll c j).eng.ctx c = { e.ctx c with spooled := (e.ctx c).spooled + 1 } := by
  have hs (e' : Eng) (f : Job → Job) : ((e'.modCtx c fun x => { x with spooled := x.spooled + 1 }).modJob j.handle f).ctx c =
      { e'.ctx c with spooled := (e'.ctx c).spooled + 1 } := by
    refine Eng.ctx_setCtx_some e' c _ fun h => ?_
    exact absurd (congrArg Ctx.spooled h) (Nat.succ_ne_zero _)
  have hx : (e.spoolAll c j).eng.ctx c = (e.spooledEff c j).eng.ctx c := by
    unfold Eng.ctx
    rw [(inWork_parts (spoolAll_inWork e c j)).2.1]
  rw [hx, spooledEff_eng, hs, ctx_put]

theorem spoolAll_stage (h : j ∈ e.jobs) : ((e.spoolAll c j).eng.job j.handle).map (·.stage) = some .spooled := by
  have hs (e' : Eng) (hj : j ∈ e'.jobs) (f : Ctx → Ctx) :
      (((e'.modCtx c f).modJob j.handle fun j => { j with stage := .spooled }).job j.handle).map (·.stage) = some .spooled := by
    have hk : ∃ k, (e'.modCtx c f).job j.handle = some k :=
      Option.isSome_iff_exists.mp (List.find?_isSome.mpr ⟨j, hj, by simp⟩)
    obtain ⟨k, hk⟩ := hk
    rw [Eng.job_modJob_self (fun j => { j with stage := .spooled }) hk fun _ => rfl]
    rfl
  rw [job_inWork (spoolAll_inWork e c j), spooledEff_eng]
  refine hs _ ?_ _
  rw [jobs_of_ringSide (put_ringSide _ _)]
  exact h

end Spool

/-! ### The two commands -/

/-- The state after an effect. -/
def State.after (s : State) (x : Eff) : State := { s with eng := x.eng, mem := applyOps s.mem x.ops }

theorem after_mem (s : State) (x : Eff) : (s.after x).mem = applyOps s.mem x.ops := rfl

section Commands

variable {s : State} {c : CtxNum} {j : Job} (hl : s.Live) (hh : s.eng.halted = false) (ht : s.eng.testing 8 0 = false)

include hl hh ht

theorem exec_postCompletion_posts (hin : (s.eng.ctx c).cqInHost = false) (hj : s.eng.nextJob c = some j) (hp : j.postable = true) (hr : s.eng.cqRoom c = true)
    (h0 : (s.eng.ctx c).spooled = 0) : exec (.postCompletion c) s = .next (s.after (s.eng.postAll c j)) := by
  unfold exec
  refine (onMem_live hl _).trans ?_
  simp only [hj, hp, hh, ht, hr, h0, Bool.not_true, Bool.or_self, Bool.false_eq_true, if_false, decide_true, Bool.and_self, if_true, postRecord_eq hin]
  rfl

theorem exec_spoolDrain_posts (hin : (s.eng.ctx c).cqInHost = false) (hj : s.eng.oldestSpooled c = some j) (hr : s.eng.cqRoom c = true) :
    exec (.spoolDrain c) s = .next (s.after (s.eng.postAll c j)) := by
  unfold exec
  refine (onMem_live hl _).trans ?_
  simp only [hj, hh, ht, hr, Bool.not_false, Bool.and_self, if_true, postRecord_eq hin]
  rfl

theorem exec_postCompletion_spools (hj : s.eng.nextJob c = some j) (hp : j.postable = true)
    (hn : s.eng.cqRoom c = false ∨ (s.eng.ctx c).spooled ≠ 0) : exec (.postCompletion c) s = .next (s.after (s.eng.spoolAll c j)) := by
  have hc : (s.eng.cqRoom c && decide ((s.eng.ctx c).spooled = 0)) = false := by
    rcases hn with h | h <;> simp [h]
  unfold exec
  refine (onMem_live hl _).trans ?_
  simp only [hj, hp, hh, ht, hc, Bool.not_true, Bool.or_self, Bool.false_eq_true, if_false]
  rfl

end Commands

/-- Settles O31: the writes of a posted record are those of `postAll_ops`, of a spooled one that of `spoolAll_ops`. -/
theorem completionsArePostedOrSpooled : Obligations.CompletionsArePostedOrSpooled := by
  unfold Obligations.CompletionsArePostedOrSpooled
  refine ⟨?_, ?_⟩
  · intro s c j i hl w hh ht hr x hin hi a st
    have hx : exec i s = .next (s.after (s.eng.postAll c j)) := by
      rcases hi with ⟨rfl, hj, hp, h0⟩ | ⟨rfl, hj⟩
      · exact exec_postCompletion_posts hl hh ht hin hj hp hr h0
      · exact exec_spoolDrain_posts hl hh ht hin hj hr
    have hpctx := postAll_ctx s.eng c j
    have hctx := hpctx.trans (postedEff_ctx s.eng c j hr)
    have hops := postAll_ops s.eng c j hr
    have haddr := postedEff_storeAddr s.eng c j
    have hjobs := postAll_jobs s.eng c j
    generalize s.eng.postedEff c j = p at hops hpctx haddr
    generalize s.eng.postAll c j = y at hx hpctx hctx hops hjobs
    have hlen : (s.eng.recordOf c j).length = 32 := completionBytes_length _ _ _ _ _ _
    have hrec : (s.mem.write .clear a (s.eng.recordOf c j)).bytes .clear a 32 = s.eng.recordOf c j := by
      have := Memory.bytes_write .clear (s.eng.recordOf c j) s.mem a w
      rwa [hlen] at this
    have hmem : (s.after y).mem = applyOps (s.mem.write .clear a (s.eng.recordOf c j)) (if x.outstanding ≤ 1 then p.eng.idxOps c else []) := by
      rw [after_mem, hops, applyOps_cons]
      rfl
    obtain ⟨htail, hout, hhead, -, -⟩ := posted_fields x (j.stage = .spooled)
    refine ⟨_, hx, fun h => ?_, fun h => ?_, fun k b hb h => ?_, (congrArg Ctx.cqTail hctx).trans htail,
      (congrArg Ctx.outstanding hctx).trans hout, (congrArg Ctx.sqHead hctx).trans hhead, hjobs⟩
    · rw [hmem]
      refine Eq.trans ?_ hrec
      split
      · rw [idxOps_bytes_out (by rw [haddr]; omega)]
      · rfl
    · rw [hmem, if_pos h]
      have hw := idxOps_bytes_in (e := p.eng) (c := c) (Memory.write_wf .clear (s.eng.recordOf c j) s.mem a w)
      rw [haddr, ← hpctx] at hw
      exact hw
    · rw [hmem]
      refine Eq.trans ?_ (Memory.byte_write_out .clear _ s.mem a k b (by rw [hlen]; exact hb))
      split
      · exact idxOps_byte_out (by rw [haddr]; omega) (by rw [haddr]; omega)
      · rfl
  · intro s c j hl w hh ht hj hp x hn a
    have hlen : (s.eng.spoolOp c j).bytes.length = 32 := completionBytes_length _ _ _ _ _ _
    have hx := exec_postCompletion_spools hl hh ht hj hp hn
    have hctx := spoolAll_ctx s.eng c j
    have hstage := spoolAll_stage s.eng c j (List.mem_of_find?_eq_some hj)
    have hops := spoolAll_ops s.eng c j
    generalize s.eng.spoolAll c j = y at hx hctx hstage hops
    have hmem : (s.after y).mem = s.mem.write .clear a (s.eng.spoolOp c j).bytes := by
      rw [after_mem, hops, applyOps_cons, applyOps_nil, spoolOp_addr, spoolOp_tag]
    refine ⟨_, hx, ?_, fun k b hb => ?_, hctx, hstage⟩
    · rw [hmem]
      have := Memory.bytes_write .clear (s.eng.spoolOp c j).bytes s.mem a w
      rwa [hlen] at this
    · rw [hmem]
      exact Memory.byte_write_out .clear _ s.mem a k b (by rw [hlen]; exact hb)

end Sys2Proof.Machine
end

section
/-! The fetch of a context whose record is not on die. FETCH_RESUME asks for STATE as the engine holds it and reads the record after that, so a record
that says ENABLED over a context that the engine holds PARKED is not fetched from. -/

namespace Sys2Proof.Machine

/-- A suspended refetch, the first of its ring. -/
def suspendedRefetch : Refetch := { retries := 0, due := 0, urgent := false, stallAt := none, suspended := true }

/-- A running engine whose context 0 is PARKED with a suspended refetch and is not on die; every word of its record was written as 0. -/
def awayEng : Eng :=
  { pins := { aoResetL := true }
    ctxs := [(0, { state := .parked, sqTail := 1, refetch := some suspendedRefetch })]
    cxs := { away := [(0, List.replicate 12 0)] }
    jrn := { state := .attached }
    svc := { power := { dormant := false, engine := { st := .active } } } }

/-- Context 0's record with STATE ENABLED (byte 4), and its ring's first entry with PHASE 1 (byte 0x7A); every other byte is 0. -/
def awayMem : Memory := { cells := [(4, 1), (0x7A, 1)] }

def awayState : State := ⟨awayEng, awayMem, []⟩

/-- A reply without an error; the ring stands in stack memory. -/
def plainReply : FetchReply := ⟨false, []⟩

theorem awayState_accepts : awayState.eng.accepts = true := by decide +kernel

theorem awayState_loads : ((awayState.eng.touchCtx awayState.mem 0).eng.ctx 0).state = .enabled := by decide +kernel

/-- The entry at HEAD, as the loaded record finds it. -/
theorem awayState_visible :
    let on := awayState.eng.touchCtx awayState.mem 0
    let x := on.eng.ctx 0
    let m := on.mem awayState.mem
    let d := on.eng.readEntry m 0 x.sqHead plainReply.host
    entryVisible x d ((List.range (entryExt d)).flatMap fun i =>
      on.eng.readEntry m 0 (x.sqHead + BitVec.ofNat 32 (i + 1)) plainReply.host) = true := by decide +kernel

theorem awayState_suspended :
    awayState.eng.fetchStopped 0 = false ∧ (awayState.eng.ctx 0).refetch = some suspendedRefetch := by decide +kernel

/-- The engine holds the context PARKED, and FETCH_RESUME leaves everything as it stands. -/
theorem awayState_fetchResume : exec (.fetchResume 0 plainReply) awayState = .next awayState := by
  have hparked : (awayState.eng.ctx 0).state = .parked := by decide +kernel
  unfold exec
  refine (onMem_live (s := awayState) rfl _).trans ?_
  simp only [awayState_suspended.2, hparked, reduceCtorEq, decide_false, Bool.and_false, Bool.false_and, Bool.false_eq_true, if_false]
  rfl

theorem awayState_head :
    (awayState.eng.ctx 0).sqHead = 0 ∧ (((awayState.eng.touchCtx awayState.mem 0).eng.ctx 0).sqHead = 0 ∧
      entryExt ((awayState.eng.touchCtx awayState.mem 0).eng.readEntry ((awayState.eng.touchCtx awayState.mem 0).mem awayState.mem) 0 0
        plainReply.host) = 0) := by decide +kernel

/-- Refutes O12: `awayState` meets every hypothesis at context 0, and FETCH_RESUME leaves HEAD at 0 where the statement asks for 1. -/
theorem not_visibleDescriptorIsFetched : ¬ Obligations.VisibleDescriptorIsFetched := by
  unfold Obligations.VisibleDescriptorIsFetched
  intro h
  obtain ⟨hstopped, hrefetch⟩ := awayState_suspended
  obtain ⟨hhead, hloaded, hext⟩ := awayState_head
  obtain ⟨t, ht, hmoved, -⟩ := h awayState 0 plainReply rfl awayState_accepts rfl awayState_visible awayState_loads
    (.fetchResume 0 plainReply) (.inr ⟨rfl, hstopped, suspendedRefetch, hrefetch, rfl⟩)
  obtain rfl : awayState = t := Host.Outcome.next.inj (awayState_fetchResume.symm.trans ht)
  rw [hhead, hloaded, hext] at hmoved
  exact absurd hmoved (by decide)

end Sys2Proof.Machine
end

section
/-! O13: a timed refetch, and a stall (02: R63, R64, R66). -/

namespace Sys2Proof.Machine

/-! ### A context's record is brought on die (R16) -/

/-- A context that waits on a mismatched entry is listed, and reads as it was written. -/
theorem Eng.ctx_setCtx_refetch (e : Eng) (c : CtxNum) {x : Ctx} {r : Refetch} (h : x.refetch = some r) : (e.setCtx c x).ctx c = x :=
  e.ctx_setCtx_some c x fun hx => nomatch h.symm.trans (congrArg Ctx.refetch hx)

@[simp] theorem Ctx.load_refetch (x : Ctx) (off : Nat) (w : Word) : (x.load off w).refetch = x.refetch := by
  unfold Ctx.load
  split <;> rfl

theorem Ctx.foldl_load_refetch (l : List ((Word × Word) × Nat)) (x : Ctx) :
    (l.foldl (fun x w => x.load (8 * w.2) w.1.1) x).refetch = x.refetch := by
  induction l generalizing x with
  | nil => rfl
  | cons w l ih => exact (ih _).trans (x.load_refetch _ _)

theorem Eng.loadCtx_refetch {e : Eng} {c : CtxNum} {r : Refetch} (h : (e.ctx c).refetch = some r) (m : Memory) :
    ((e.loadCtx m c).ctx c).refetch = some r := by
  unfold Eng.loadCtx
  split
  · exact h
  · extract_lets found _ e'
    split
    · exact h
    · have hread := (Ctx.foldl_load_refetch ((found.zip (mapGet [] e.cxs.away c.toNat)).zipIdx.filter fun w => w.1.1 ≠ w.1.2) (e'.ctx c)).trans h
      unfold Eng.modCtx
      rw [Eng.ctx_setCtx_refetch e' c hread]
      exact hread

theorem Eng.evictCtx_ctx (e : Eng) (c c' : CtxNum) : (e.evictCtx c).eng.ctx c' = e.ctx c' := ctx_put _ _ _

/-- The record keeps the refetch of a context that waits: no word of R42 holds it. -/
theorem Eng.touchCtx_refetch {e : Eng} {c : CtxNum} {r : Refetch} (h : (e.ctx c).refetch = some r) (m : Memory) :
    ((e.touchCtx m c).eng.ctx c).refetch = some r := by
  unfold Eng.touchCtx
  split
  · exact h
  · extract_lets e'
    have he' : (e'.ctx c).refetch = some r := Eng.loadCtx_refetch h m
    clear_value e'
    split
    · exact he'
    · exact (congrArg Ctx.refetch (Eng.evictCtx_ctx _ _ _)).trans he'

/-! ### The fetch step of an entry that is not visible (R63) -/

theorem Eng.useLines_ctx (e : Eng) (c c' : CtxNum) (ext : Nat) : (e.useLines c ext).ctx c' = e.ctx c' := by
  unfold Eng.useLines
  extract_lets x
  split
  · rfl
  · generalize List.range (1 + ext) = l
    clear_value x
    induction l generalizing e with
    | nil => rfl
    | cons i l ih => exact ih _

theorem Eng.useLines_now (e : Eng) (c : CtxNum) (ext : Nat) : (e.useLines c ext).now = e.now := by
  unfold Eng.useLines
  extract_lets x
  split
  · rfl
  · generalize List.range (1 + ext) = l
    clear_value x
    induction l generalizing e with
    | nil => rfl
    | cons i l ih => exact ih _

/-- The refetches used so far, with this one where it was a timed one. -/
def Ctx.refetchesUsed (x : Ctx) (timed : Bool) : Nat := (match x.refetch with | some r => r.retries | none => 0) + ofBit timed

/-- A ring's wait for a mismatched entry: the refetches used, and the stall where the budget is spent (R63, R64). -/
def Ctx.waitsAgain (x : Ctx) (now : Word) (timed : Bool) : Refetch :=
  { retries := x.refetchesUsed timed, due := now + 1000, urgent := false, suspended := false
    stallAt := if x.retryBudget.toNat ≤ x.refetchesUsed timed then some now else none }

theorem Eng.mismatch_ctx (e : Eng) (c : CtxNum) (timed : Bool) :
    (e.mismatch c timed).ctx c = { e.ctx c with refetch := some ((e.ctx c).waitsAgain e.now timed) } :=
  e.ctx_setCtx_refetch c rfl

/-- A refetch is counted in RFE_TALLY_REFETCH (R63). -/
def Ctx.refetchCounted (x : Ctx) : Ctx := { x with tallyRefetch := x.tallyRefetch + 1 }

/-- The entry and its EXT slots, as the ring's memory holds them. -/
def Eng.entrySlots (e : Eng) (m : Memory) (c : CtxNum) (i : Idx) (host : HostBytes) : List Byte :=
  (List.range (entryExt (e.readEntry m c i host))).flatMap fun k => e.readEntry m c (i + BitVec.ofNat 32 (k + 1)) host

/-- Where the entry at HEAD is not visible still, the ring waits on, with nothing else moved but its tally and lines of the landing buffer. -/
theorem Eng.fetchEntry_mismatched {e : Eng} {c : CtxNum} {r : Refetch} (h : (e.ctx c).refetch = some r) (m : Memory) {reply : FetchReply}
    (hok : reply.error = false) (timed : Bool)
    (hv : entryVisible (e.ctx c) (e.readEntry m c (e.ctx c).sqHead reply.host) (e.entrySlots m c (e.ctx c).sqHead reply.host) = false) :
    (e.fetchEntry m c reply timed).ctx c =
      { (e.ctx c).refetchCounted with refetch := some ((e.ctx c).waitsAgain e.now timed) } := by
  have hctx : (e.modCtx c Ctx.refetchCounted).ctx c = (e.ctx c).refetchCounted := e.ctx_setCtx_refetch c h
  have hread (i : Idx) : (e.modCtx c Ctx.refetchCounted).readEntry m c i reply.host = e.readEntry m c i reply.host := by
    unfold Eng.readEntry
    rw [hctx]
    rfl
  unfold Eng.entrySlots at hv
  unfold Eng.fetchEntry
  simp only [h, Option.isSome_some, if_true, hok, Bool.false_and, Bool.false_eq_true, if_false]
  change Eng.ctx (if entryVisible _ ((e.modCtx c Ctx.refetchCounted).readEntry m c _ reply.host) ((List.range (entryExt
    ((e.modCtx c Ctx.refetchCounted).readEntry m c _ reply.host))).flatMap fun i => (e.modCtx c Ctx.refetchCounted).readEntry m c _ reply.host)
    = true then _ else Eng.mismatch ((e.modCtx c Ctx.refetchCounted).useLines c _) c timed) c = _
  simp only [hread, hv, Bool.false_eq_true, if_false]
  rw [Eng.mismatch_ctx, Eng.useLines_ctx, Eng.useLines_now, hctx]
  rfl

theorem Eng.ctx_noteWork (e : Eng) (c : CtxNum) : e.noteWork.ctx c = e.ctx c := by
  unfold Eng.noteWork
  simp only [List.foldl_cons, List.foldl_nil, Eng.ctx_noteWorkOf]

theorem advanceTo_ctx {e : Eng} {c : CtxNum} (h : e.fetchStopped c = false) (t : Word) : (e.advanceTo t).ctx c = e.ctx c := by
  unfold Eng.advanceTo
  split
  · exact elapse_ctx h _
  · rfl

/-- A fetch brings the context on die, and makes its fetch step there; the step writes no stack memory. -/
theorem Eng.fetchOne_eq (e : Eng) (m : Memory) (c : CtxNum) (reply : FetchReply) (timed : Bool) :
    (e.fetchOne m c reply timed).eng = ((e.touchCtx m c).eng.fetchEntry ((e.touchCtx m c).mem m) c reply timed).noteWork ∧
      applyOps m (e.fetchOne m c reply timed).ops = (e.touchCtx m c).mem m :=
  ⟨rfl, congrArg (applyOps m) (List.append_nil _)⟩

/-- The refetch falls due, and is made. -/
theorem exec_timedRefetch {s : State} (hl : s.Live) {c : CtxNum} {r : Refetch} (hacc : s.eng.accepts = true)
    (hen : (s.eng.ctx c).state = .enabled) (hr : (s.eng.ctx c).refetch = some r) (hstall : r.stallAt = none) (hsus : r.suspended = false)
    (hurg : r.urgent = false) (hstop : s.eng.fetchStopped c = false) (reply : FetchReply) :
    ∃ t, exec (.timedRefetch c reply) s = .next t ∧ t.eng = ((s.eng.advanceTo r.due).fetchOne s.mem c reply true).eng ∧
      t.mem = applyOps s.mem ((s.eng.advanceTo r.due).fetchOne s.mem c reply true).ops := by
  have hgo : (s.eng.advanceTo r.due).fetchStopped c = false := (fetchStopped_of_untimed (advanceTo_untimed _ _) c).trans hstop
  refine ⟨{ s with
    eng := ((s.eng.advanceTo r.due).fetchOne s.mem c reply true).eng
    mem := applyOps s.mem ((s.eng.advanceTo r.due).fetchOne s.mem c reply true).ops }, ?_, rfl, rfl⟩
  unfold exec
  refine (onMem_live hl _).trans ?_
  simp only [hr, hacc, hen, hstall, hsus, hurg, hgo, Bool.not_true, ne_eq, not_true_eq_false, decide_false, Option.isSome_none, Bool.or_false,
    Bool.false_eq_true, if_false]

/-- RING_STALL of a ring whose budget is spent (R64). -/
theorem exec_ringStall {s : State} (hl : s.Live) {c : CtxNum} {r : Refetch} (hen : (s.eng.ctx c).state = .enabled)
    (hr : (s.eng.ctx c).refetch = some r) (hs : r.stallAt.isSome = true) :
    exec (.ringStall c) s = .next { s with eng := s.eng.ringStallNow c } := by
  unfold exec
  refine onEng_eq hl ?_
  simp only [hr, hen, hs, decide_true, Bool.and_self, if_true]

/-! ### The stall (R64) -/

/-- A context that its spent budget has parked. -/
def Ctx.stalled (x : Ctx) : Ctx :=
  { x with state := .parked, parkCause := .stall, parkIndex := x.sqHead, parkRetries := x.retryBudget, refetch := none }

/-- The fault event of a stall. -/
def Eng.stallEvent (e : Eng) (c : CtxNum) : FEvent :=
  { stamp := e.now, cycle := e.aoCycle, mode := e.flt.mode, source := sourceOf subRfe 0 0x10, cls := classOf subRfe 0 0x10, ctx := some c
    detail := (e.ctx c).sqHead.setWidth 64 }

theorem Eng.ringStallNow_ctx (e : Eng) (c c' : CtxNum) : (e.ringStallNow c).ctx c' = (e.setCtx c (e.ctx c).stalled).ctx c' := by
  have hpark : e.parkRing c .stall (e.ctx c).sqHead (e.ctx c).retryBudget.toNat = e.setCtx c (e.ctx c).stalled := by
    unfold Eng.parkRing Eng.modCtx Ctx.stalled
    rw [BitVec.ofNat_toNat, BitVec.setWidth_eq]
  unfold Eng.ringStallNow
  rw [← hpark]
  unfold Eng.signal
  dsimp only
  split <;> rfl

theorem Eng.ringStallNow_events (e : Eng) (c : CtxNum) : (e.ringStallNow c).flt.events = e.flt.events ++ [e.stallEvent c] := by
  unfold Eng.ringStallNow Eng.signal
  dsimp only
  split <;> rfl

/-- The vector is signalled where NOTIFY is 1 (R75). -/
theorem Eng.ringStallNow_out (e : Eng) (c : CtxNum) :
    (e.ringStallNow c).out = e.out ++ (if (e.ctx c).notify then [.msi (e.ctx c).vector] else []) := by
  have hx : ((e.parkRing c .stall (e.ctx c).sqHead (e.ctx c).retryBudget.toNat).raise subRfe 0 0x10 (some c) ((e.ctx c).sqHead.setWidth 64)).ctx c =
      { e.ctx c with state := .parked, parkCause := .stall, parkIndex := (e.ctx c).sqHead
                     parkRetries := BitVec.ofNat 8 (e.ctx c).retryBudget.toNat, refetch := none } :=
    Eng.ctx_setCtx_state e c (by simp)
  unfold Eng.ringStallNow Eng.signal
  simp only [hx]
  split
  · rfl
  · exact (List.append_nil _).symm

/-- Settles O13: the entry is read on the loaded record and mismatches (`Eng.fetchEntry_mismatched`), and a stall is `Eng.ringStallNow`. -/
theorem timedRefetchAndRingStall : Obligations.TimedRefetchAndRingStall := by
  unfold Obligations.TimedRefetchAndRingStall
  refine ⟨?_, ?_⟩
  · intro s c reply r hl hacc hok hen hr hstall hsus hurg hstop on x m d slots hv
    obtain ⟨heng, hmem⟩ := (s.eng.advanceTo r.due).fetchOne_eq s.mem c reply true
    obtain ⟨t, ht, hteng, htmem⟩ := exec_timedRefetch hl hacc hen hr hstall hsus hurg hstop reply
    have hon : x.refetch = some r := Eng.touchCtx_refetch ((congrArg Ctx.refetch (advanceTo_ctx hstop r.due)).trans hr) s.mem
    have hctx : t.eng.ctx c = { x.refetchCounted with refetch := some (x.waitsAgain on.eng.now true) } := by
      rw [hteng, heng, Eng.ctx_noteWork]
      exact Eng.fetchEntry_mismatched hon m hok true hv
    have hused : x.refetchesUsed true = r.retries + 1 := by
      unfold Ctx.refetchesUsed
      rw [hon]
      rfl
    have hhead := congrArg Ctx.sqHead hctx
    have hout := congrArg Ctx.outstanding hctx
    refine ⟨t, x.waitsAgain on.eng.now true, ht, congrArg Ctx.refetch hctx, hused, ?_, hhead, hout, htmem.trans hmem⟩
    unfold Ctx.waitsAgain
    rw [hused]
    by_cases hb : x.retryBudget.toNat ≤ r.retries + 1 <;> simp [hb]
  · intro s c r hl hen hr hs x
    refine ⟨_, s.eng.stallEvent c, exec_ringStall hl hen hr hs, ?_, s.eng.ringStallNow_events c, rfl, rfl, rfl, s.eng.ringStallNow_out c,
      fun c' hc => ?_, rfl⟩
    · exact (s.eng.ringStallNow_ctx c c).trans (Eng.ctx_setCtx_state _ c (by simp [Ctx.stalled]))
    · exact (s.eng.ringStallNow_ctx c c').trans (Eng.ctx_setCtx_ne _ c c' _ hc)

end Sys2Proof.Machine
end

section
/-! The descriptors after one of them has ended (R69, R331, R332). -/

namespace Sys2Proof.Machine

/-- A descriptor without the one that waits for what it holds. -/
def Job.bare (j : Job) : Job := { j with yieldTo := none }

/-- A descriptor that has ended, and has given its units back (R331). -/
def Job.endedAs (j : Job) (st : Status) (d now : Word) : Job :=
  { j with walker := none, units := 0, compressor := false, starved := none, yieldAt := none, yieldTo := none, slot := false
           stage := .finished, status := st, detail := d, ready := some now }

/-- The descriptors in work, each without the one that waits for what it holds. -/
def Eng.bareJobs (e : Eng) : List Job := e.jobs.map Job.bare

theorem modJob_bareJobs (e : Eng) (h : Word) {f g : Job → Job} (hf : ∀ j, (f j).bare = g j.bare) :
    (e.modJob h f).bareJobs = e.bareJobs.map fun j => if j.handle = h then g j else j := by
  unfold Eng.bareJobs
  rw [Eng.modJob_jobs, List.map_map, List.map_map]
  refine List.map_congr_left fun j _ => ?_
  simp only [Function.comp_apply]
  by_cases hj : j.handle = h
  · rw [if_pos hj, if_pos (show j.bare.handle = h from hj), hf]
  · rw [if_neg hj, if_neg (show ¬ j.bare.handle = h from hj)]

theorem modJob_bareJobs_same (e : Eng) (h : Word) {f : Job → Job} (hf : ∀ j, (f j).bare = j.bare) : (e.modJob h f).bareJobs = e.bareJobs := by
  refine (modJob_bareJobs e h (g := id) hf).trans ((List.map_congr_left fun j _ => ?_).trans (List.map_id _))
  split <;> rfl

theorem bareJobs_inWork {e e' : Eng} (h : e'.inWork = e.inWork) : e'.bareJobs = e.bareJobs := by
  unfold Eng.bareJobs
  rw [(inWork_parts h).2.2]

theorem handOver_bareJobs (e : Eng) (j : Job) : (e.handOver j).bareJobs = e.bareJobs := by
  unfold Eng.handOver
  split
  · exact modJob_bareJobs_same e _ fun _ => rfl
  · rfl

/-- What a descriptor gives back at its end. -/
def Job.givenBack (j : Job) : Job :=
  { j with walker := none, units := 0, compressor := false, starved := none, yieldAt := none, yieldTo := none, slot := false }

theorem release_bareJobs (e : Eng) (h : Word) :
    (e.release h).bareJobs = e.bareJobs.map fun j => if j.handle = h then j.givenBack else j := by
  unfold Eng.release
  split
  · next hj =>
    have hn : ∀ j ∈ e.bareJobs, ¬ j.handle = h := by
      intro j hm
      obtain ⟨k, hk, rfl⟩ := List.mem_map.mp hm
      exact fun hkh => List.find?_eq_none.mp hj k hk (decide_eq_true hkh)
    exact (List.map_id _).symm.trans (List.map_congr_left fun j hm => (if_neg (hn j hm)).symm)
  · exact (handOver_bareJobs _ _).trans (modJob_bareJobs e h fun _ => rfl)

/-- The one descriptor has ended, and every other is as it was but for the one that waits for it. -/
theorem finish_bareJobs (e : Eng) (h : Word) (st : Status) (d : Word) :
    (e.finish h st d).bareJobs = e.bareJobs.map fun j => if j.handle = h then j.endedAs st d e.now else j := by
  unfold Eng.finish
  rw [bareJobs_inWork (Eng.noteQuiet_side _ _).inWork,
    modJob_bareJobs _ h (g := fun j => { j with stage := .finished, status := st, detail := d, ready := some e.now }) fun _ => rfl,
    release_bareJobs, List.map_map]
  refine List.map_congr_left fun j _ => ?_
  rw [Function.comp_apply]
  by_cases hj : j.handle = h
  · rw [if_pos hj, if_pos hj, if_pos (show j.givenBack.handle = h from hj)]
    rfl
  · rw [if_neg hj, if_neg hj, if_neg hj]

theorem bareJobs_job (e : Eng) (h : Word) : (e.job h).map Job.bare = e.bareJobs.find? (·.handle = h) := by
  unfold Eng.job Eng.bareJobs
  rw [List.find?_map]
  rfl

theorem find?_map_handle (l : List Job) (h : Word) {f : Job → Job} (hf : ∀ j, (f j).handle = j.handle) :
    (l.map fun j => if j.handle = h then f j else j).find? (·.handle = h) = (l.find? (·.handle = h)).map f := by
  rw [List.find?_map]
  have hp : ((fun j : Job => decide (j.handle = h)) ∘ fun j => if j.handle = h then f j else j) = fun j => decide (j.handle = h) := by
    funext j
    rw [Function.comp_apply]
    split <;> simp [hf]
  rw [hp]
  cases hl : l.find? (·.handle = h) with
  | none => rfl
  | some j => simpa using fun hj => absurd (by simpa using List.find?_some hl) hj

/-- The descriptor that ends, whole. -/
theorem finish_job {e : Eng} {h : Word} {j : Job} (hj : e.job h = some j) (st : Status) (d : Word) :
    ∃ j', (e.finish h st d).job h = some j' ∧ j'.bare = j.bare.endedAs st d e.now := by
  have hb := bareJobs_job (e.finish h st d) h
  rw [finish_bareJobs, find?_map_handle _ h (f := fun j => j.endedAs st d e.now) fun _ => rfl, ← bareJobs_job, hj] at hb
  exact Option.map_eq_some_iff.mp hb

end Sys2Proof.Machine
end

section
/-! INVALIDATE: its messages and their acknowledgements (06: R241, R242). -/

namespace Sys2Proof.Machine

/-! ### What a range's messages need of the engine -/

section Reads

variable {e e' : Eng} (h : e'.core = e.core)

include h

theorem translate_of_core (r : Region) (p : PdkNum) (va bit n : Nat) (w : Want) : e'.translate r p va bit n w = e.translate r p va bit n w := by
  have hk (x : Eng) : x.translate r p va bit n w = x.core.translate r p va bit n w := rfl
  rw [hk, hk e, h]

theorem tlbHit_of_core (r : Region) (p : PdkNum) (va : Nat) : e'.tlbHit r p va = e.tlbHit r p va := by
  have hk (x : Eng) : x.tlbHit r p va = x.core.tlbHit r p va := rfl
  rw [hk, hk e, h]

theorem mute_of_core : e'.mute = e.mute := by
  have hk (x : Eng) : x.mute = x.core.mute := rfl
  rw [hk, hk e, h]

theorem portFor_of_core (d : DieNum) (pa : Nat) : e'.portFor d pa = e.portFor d pa := by
  have hk (x : Eng) : x.portFor d pa = x.core.portFor d pa := rfl
  rw [hk, hk e, h]

end Reads

/-- One message to a die (R241). -/
def Eng.sendInval (e : Eng) (d : DieNum) (pa n : Nat) : Eng := (e.emit (.die d (.invalidate (e.portFor d pa) pa n))).count subOpi 0 1

/-- A message to each of the dies that a descriptor names. -/
def Eng.sendInvals (e : Eng) (dies : List DieNum) (pa n : Nat) : Eng := dies.foldl (fun e d => e.sendInval d pa n) e

theorem sendInvals_core (e : Eng) (dies : List DieNum) (pa n : Nat) : (e.sendInvals dies pa n).core = e.core :=
  core_foldl (f := fun e d => e.sendInval d pa n) (fun _ _ => rfl) dies e

theorem sendInvals_jobs (e : Eng) (dies : List DieNum) (pa n : Nat) : (e.sendInvals dies pa n).jobs = e.jobs := by
  unfold Eng.sendInvals
  induction dies generalizing e with
  | nil => rfl
  | cons d dies ih => exact ih _

theorem sendInvals_out (e : Eng) (dies : List DieNum) (pa n : Nat) :
    (e.sendInvals dies pa n).out = e.out ++ dies.map fun d => .die d (.invalidate (e.portFor d pa) pa n) := by
  unfold Eng.sendInvals
  induction dies generalizing e with
  | nil => exact (List.append_nil _).symm
  | cons d dies ih =>
    have hp (k : DieNum) : (e.sendInval d pa n).portFor k pa = e.portFor k pa := rfl
    rw [List.foldl_cons, ih, List.map_cons]
    simp only [hp]
    exact List.append_assoc _ _ _

/-! ### The descriptor's range (R242) -/

/-- The dies of a descriptor's W3, the length of its range, and its address. -/
def Job.invalDies (j : Job) : List DieNum := ((List.range 4).filter fun d => bitOf (j.w 3) d).map (BitVec.ofNat 2)
def Job.invalLen (j : Job) : Nat := fld (j.w 2) 39 0
def Job.invalAt (j : Job) : Nat := fld (j.w 1) 47 0

/-- The lookup of the range's page is counted once. -/
def Eng.lookOnce (e : Eng) (h : Word) (j : Job) (key : StreamId × Nat × Nat) : Eng :=
  if j.looked.contains key then e else (e.count subAtg j.lead.toNat 1).modJob h fun j => { j with looked := key :: j.looked }

/-- A descriptor without the lookups that are counted. -/
def Job.unlooked (j : Job) : Job := { j with looked := [] }

theorem lookOnce_core (e : Eng) (h : Word) (j : Job) (key : StreamId × Nat × Nat) : (e.lookOnce h j key).core = e.core := by
  unfold Eng.lookOnce
  split <;> rfl

theorem lookOnce_out (e : Eng) (h : Word) (j : Job) (key : StreamId × Nat × Nat) : (e.lookOnce h j key).out = e.out := by
  unfold Eng.lookOnce
  split <;> rfl

theorem lookOnce_job {e : Eng} {h : Word} {j : Job} (hj : e.job h = some j) (key : StreamId × Nat × Nat) :
    ∃ k, (e.lookOnce h j key).job h = some k ∧ k.unlooked = j.unlooked := by
  unfold Eng.lookOnce
  split
  · exact ⟨j, hj, rfl⟩
  · exact ⟨_, Eng.job_modJob_self _ hj fun _ => rfl, rfl⟩

section Runs

variable {e : Eng} {h : Word} {j : Job} (hj : e.job h = some j)

include hj

/-- A range that is through has nothing more to send. -/
theorem invalidateRuns_through (hl : j.emitted = j.invalLen) (fuel : Nat) : e.invalidateRuns h fuel = e := by
  cases fuel with
  | zero => rfl
  | succ fuel =>
    unfold Eng.invalidateRuns
    rw [hj]
    exact if_pos (by simp [hl, Job.invalLen])

/-- A range in one cached page that may be read is one run: its messages are sent, and the descriptor waits for them. -/
theorem invalidateRuns_onePage {l : Leaf} {q : Req} {n : BitVec 5} {pa : Nat} (hm : e.mute = false) (h0 : j.emitted = 0) (hf : j.fault = none)
    (hlen : 0 < j.invalLen) (hhit : e.tlbHit j.lead j.paddock j.invalAt = some l) (hpage : j.invalAt % 2 ^ l.log2 + j.invalLen ≤ 2 ^ l.log2)
    (ht : e.translate j.lead j.paddock j.invalAt 0 j.invalLen { write := false, stackOnly := true } = .ok q) (hq : q.dest = .stack n pa) (fuel : Nat) :
    ∃ k, (e.invalidateRuns h (fuel + 1)).job h = some k ∧
      k.unlooked = { j.unlooked with emitted := j.invalLen, invals := j.invals ++ j.invalDies } ∧
      (e.invalidateRuns h (fuel + 1)).out = e.out ++ j.invalDies.map fun d => .die d (.invalidate (e.portFor d pa) pa j.invalLen) := by
  obtain ⟨k, hk, hkj⟩ := lookOnce_job hj (StreamId.src, 0, 0)
  have hn : min j.invalLen (2 ^ l.log2 - j.invalAt % 2 ^ l.log2) = j.invalLen := by omega
  have ht' := (translate_of_core (lookOnce_core e h j (StreamId.src, 0, 0)) _ _ _ _ _ _).trans ht
  have hstep : e.invalidateRuns h (fuel + 1) =
      (((e.lookOnce h j (StreamId.src, 0, 0)).sendInvals j.invalDies pa j.invalLen).modJob h fun k =>
        { k with emitted := k.emitted + j.invalLen, invals := k.invals ++ j.invalDies }).invalidateRuns h fuel := by
    unfold Eng.lookOnce at ht' ⊢
    unfold Job.invalAt Job.invalLen at *
    rw [Eng.invalidateRuns, hj]
    simp only [h0, hf, hm, Nat.add_zero, Nat.sub_zero, hhit, hn, ht', hq, Nat.ne_of_gt hlen, Option.isSome_none, decide_false, Bool.or_self,
      Bool.false_eq_true, if_false]
    rfl
  have hke : k.emitted = j.emitted := (congrArg Job.emitted hkj :)
  have hki : k.invals = j.invals := (congrArg Job.invals hkj :)
  have hkl : k.invalLen = j.invalLen := (congrArg Job.invalLen hkj :)
  have hsent : ((e.lookOnce h j (StreamId.src, 0, 0)).sendInvals j.invalDies pa j.invalLen).job h = some k := by
    unfold Eng.job at hk ⊢
    rw [sendInvals_jobs]
    exact hk
  have hthrough := Eng.job_modJob_self (fun k : Job => { k with emitted := k.emitted + j.invalLen, invals := k.invals ++ j.invalDies }) hsent
    fun _ => rfl
  have hall : k.emitted + j.invalLen = k.invalLen := by rw [hke, h0, hkl, Nat.zero_add]
  rw [hstep, invalidateRuns_through hthrough hall]
  refine ⟨_, hthrough, ?_, ?_⟩
  · rw [← hkj, ← hki, hall, hkl]
    rfl
  · refine (sendInvals_out _ _ _ _).trans ?_
    simp only [portFor_of_core (lookOnce_core _ _ _ _), lookOnce_out]

end Runs

/-! ### The commands -/

theorem exec_invalidate_waits {s : State} {h : Word} {j : Job} (hj : s.eng.job h = some j) (hserves : s.eng.serves j = false) :
    exec (.invalidate h) s = .next s := by
  unfold exec
  refine onEng_id s ?_
  simp only [hj, hserves, Bool.not_false, Bool.or_true, if_true]

/-- A descriptor whose checks are made, and whose bytes are well-formed. -/
def Job.passed (j : Job) : Job := { j with checked := true }

theorem exec_invalidate {s : State} (hl : s.Live) {h : Word} {j : Job} (hj : s.eng.job h = some j) (ho : j.opcode = opInvalidate)
    (hs : j.stage = .running) (hserves : s.eng.serves j = true) (hb : s.eng.failedBytes j = none) (hdone : s.eng.earlierDataDone j = true) :
    exec (.invalidate h) s = .next { s with eng := ((s.eng.modJob h Job.passed).invalidateRuns h (j.invalLen / 65536 + 2)).endInvalidate h } := by
  have hp : (s.eng.modJob h Job.passed).job h = some j.passed := Eng.job_modJob_self _ hj fun _ => rfl
  have hx : (s.eng.modJob h Job.passed).advanceInvalidate h =
      ((s.eng.modJob h Job.passed).invalidateRuns h (j.invalLen / 65536 + 2)).endInvalidate h := by
    unfold Eng.advanceInvalidate
    rw [hp]
    rfl
  unfold exec
  refine onEng_eq hl (Eq.trans ?_ hx)
  simp only [hj, ho, hs, hserves, hb, hdone, ite_self, Bool.not_true, ne_eq, not_true_eq_false, decide_false, Bool.or_self, Bool.false_eq_true,
    if_false, if_true]
  rfl

theorem exec_invalidateAck {s : State} (hl : s.Live) (h : Word) (d : DieNum) :
    exec (.invalidateAck h d) s = .next { s with eng := (s.eng.modJob h fun j => { j with invals := j.invals.erase d }).endInvalidate h } := by
  unfold exec
  exact onEng_live hl _

section Ends

variable {e : Eng} {h : Word} {k : Job} (hk : e.job h = some k)

include hk

theorem endInvalidate_waits (hi : k.invals ≠ []) : e.endInvalidate h = e := by
  unfold Eng.endInvalidate
  rw [hk]
  exact if_pos (by simp [hi])

theorem endInvalidate_done (hs : k.stage = .running) (hc : k.checked = true) (hi : k.invals = []) (hf : k.fault = none)
    (he : k.emitted = k.invalLen) : e.endInvalidate h = e.finish h stOk 0 := by
  unfold Eng.endInvalidate
  rw [hk]
  simp only [hs, hc, hi, hf, he, Job.invalLen, ne_eq, not_true_eq_false, decide_false, Bool.not_true, Bool.or_self, Bool.false_eq_true, if_false,
    if_true]

end Ends

end Sys2Proof.Machine
end

section
/-! REKEY_SWEEP and SCRUB begin (09: R303, R317), and O45. -/

namespace Sys2Proof.Machine

/-- What stands in the way of a sweep, or of a scrub, of a paddock (R303, R317). -/
def Eng.sweepHeld (e : Eng) (scrub : Bool) (p : PdkNum) : Bool := if scrub then e.scrubBusy p else (e.pdk p).sweeping || (e.pdk p).scrubbing

/-- The record of a sweep that starts. -/
def Job.sweepRecord (j : Job) (n : BitVec 2) (scrub : Bool) : Sweep :=
  { handle := j.handle, slot := n, scrub := scrub, paddock := j.sweepOf, fromE := (j.w 1).extractLsb' 16 4, toE := (j.w 1).extractLsb' 20 4
    phase := if scrub then .quiesce else .start }

/-- A paddock under a sweep or a scrub. -/
def Paddock.swept (x : Paddock) (scrub : Bool) : Paddock := if scrub then { x with scrubbing := true } else { x with sweeping := true }

/-- A sweep or scrub starts in a slot. -/
def Eng.sweepStarts (e : Eng) (j : Job) (n : BitVec 2) (scrub : Bool) : Eng :=
  let e := (e.modJob j.handle fun j => { j with stage := .waiting }).modPdk j.sweepOf fun x => x.swept scrub
  { e with svc := { e.svc with sweeps := e.svc.sweeps ++ [j.sweepRecord n scrub] } }

section Starts

variable {e : Eng} {j : Job} {scrub : Bool} (ho : decide (j.opcode = opScrub) = scrub)

theorem startSweep_notOperator (h : (e.ctx j.ctx).operator = false) : e.startSweep j = e.finish j.handle stNotPermitted 0 := by
  unfold Eng.startSweep
  exact if_pos (by simp [h])

variable (hop : (e.ctx j.ctx).operator = true) (hr : e.svc.restarting = false) (ht : e.sweepTurn j = true) {n : BitVec 2} (hn : e.freeSlot = some n)

include hop hr ht hn

theorem startSweep_noScratch (h : e.svc.scratch = 0) : e.startSweep j = e.finish j.handle stNotPermitted 0 := by
  unfold Eng.startSweep
  simp only [hop, hr, ht, hn, h, Bool.not_true, Bool.or_self, Bool.false_eq_true, if_false, if_true]

include ho

theorem startSweep_held (h : e.svc.scratch ≠ 0) (hh : e.sweepHeld scrub j.sweepOf = true) : e.startSweep j = e.finish j.handle stBusy 0 := by
  unfold Eng.sweepHeld at hh
  unfold Eng.startSweep
  simp only [hop, hr, ht, hn, h, ho, hh, Bool.not_true, Bool.or_self, Bool.false_eq_true, if_false, if_true]

theorem startSweep_starts (h : e.svc.scratch ≠ 0) (hh : e.sweepHeld scrub j.sweepOf = false) : e.startSweep j = e.sweepStarts j n scrub := by
  unfold Eng.sweepHeld at hh
  unfold Eng.startSweep
  simp only [hop, hr, ht, hn, h, ho, hh, Bool.not_true, Bool.or_self, Bool.false_eq_true, if_false]
  rfl

end Starts

theorem pdk_sweepStarts (e : Eng) (j : Job) (n : BitVec 2) (scrub : Bool) :
    (e.sweepStarts j n scrub).pdk j.sweepOf = (e.pdk j.sweepOf).swept scrub := by
  refine mapGet_mapSet_self_ne {} e.pdks j.sweepOf.toNat _ fun hx => ?_
  cases scrub
  · exact Bool.noConfusion (congrArg Paddock.sweeping hx :)
  · exact Bool.noConfusion (congrArg Paddock.scrubbing hx :)

/-- What O45's statement says of a descriptor that completes at once. -/
theorem completes {s : State} {i : Instr} {h : Word} {j : Job} {st : Status} (hj : s.eng.job h = some j)
    (hx : exec i s = .next { s with eng := s.eng.finish h st 0 }) :
    ∃ t j', exec i s = .next t ∧ t.eng.job h = some j' ∧ j'.stage = .finished ∧ j'.status = st ∧ j'.detail = 0 ∧
      t.eng.pdks = s.eng.pdks ∧ t.eng.svc.sweeps = s.eng.svc.sweeps ∧ t.mem = s.mem := by
  obtain ⟨j', hj', hstage, hst, hd, -, -⟩ := finish_ends hj st 0
  have hc := finish_core s.eng h st 0
  exact ⟨_, j', hx, hj', hstage, hst, hd, pdks_of_core hc, sweeps_of_core hc, rfl⟩

/-- REKEY_SWEEP or SCRUB of a descriptor that may begin is `Eng.startSweep`. -/
theorem exec_sweep {s : State} (hl : s.Live) {h : Word} {j : Job} (hj : s.eng.job h = some j) (hs : j.stage = .running)
    (ha : s.eng.active (.region j.lead) = true) (hh : s.eng.halted = false) (hb : s.eng.failedBytes j = none) {i : Instr} {scrub : Bool}
    (hi : i = .rekeySweep h ∧ j.opcode = opRekeySweep ∧ scrub = false ∨ i = .scrub h ∧ j.opcode = opScrub ∧ scrub = true) :
    exec i s = .next { s with eng := s.eng.startSweep j } ∧ decide (j.opcode = opScrub) = scrub := by
  rcases hi with ⟨rfl, ho, rfl⟩ | ⟨rfl, ho, rfl⟩
  · refine ⟨?_, by rw [ho]; decide⟩
    unfold exec
    exact onEng_eq hl (beginSimple_goes hj hs ha hh hb ho _)
  · refine ⟨?_, by rw [ho]; decide⟩
    unfold exec
    exact onEng_eq hl (beginSimple_goes hj hs ha hh hb ho _)

/-- Settles O45: the one run of INVALIDATE by `invalidateRuns_onePage`, its end by `endInvalidate_done`, and the three starts of a sweep. -/
theorem invalidateSweepAndScrubBegin : Obligations.InvalidateSweepAndScrubBegin := by
  unfold Obligations.InvalidateSweepAndScrubBegin
  intro s h j hl hj hs ha hh hb done
  refine ⟨fun ho => ⟨exec_invalidate_waits hj, ?_, ?_⟩, ?_⟩
  · intro l q n pa hserves hdone hm h0 hf hi hlen hhit hpage ht hq
    have hp : (s.eng.modJob h Job.passed).job h = some j.passed := Eng.job_modJob_self _ hj fun _ => rfl
    obtain ⟨k, hk, hkj, hout⟩ := invalidateRuns_onePage (e := s.eng.modJob h Job.passed) hp hm h0 hf hlen hhit hpage ht hq (j.invalLen / 65536 + 1)
    have hx := exec_invalidate hl hj ho hs hserves hb hdone
    generalize (s.eng.modJob h Job.passed).invalidateRuns h (j.invalLen / 65536 + 2) = e at hx hk hout
    have hki : k.invals = j.invalDies := (congrArg Job.invals hkj :).trans (by rw [show j.passed.invals = [] from hi]; rfl)
    have hke : k.emitted = j.invalLen := (congrArg Job.emitted hkj :)
    have hks : k.stage = .running := (congrArg Job.stage hkj :).trans hs
    by_cases hd : j.invalDies = []
    · have hkl : k.invalLen = j.invalLen := (congrArg Job.invalLen hkj :)
      rw [endInvalidate_done hk hks (congrArg Job.checked hkj :) (hki.trans hd) ((congrArg Job.fault hkj :).trans hf) (hke.trans hkl.symm)] at hx
      obtain ⟨k', hk', hb'⟩ := finish_job hk stOk 0
      exact ⟨_, k', hx, hk', (congrArg Job.emitted hb' :).trans hke, (congrArg Job.invals hb' :).trans hki, rfl, fun h => absurd hd h⟩
    · rw [endInvalidate_waits hk (hki.trans_ne hd)] at hx
      exact ⟨_, k, hx, hk, hke, hki, rfl, fun _ => ⟨hks, hout⟩⟩
  · intro d hc hf he _
    have hx := exec_invalidateAck hl h d
    have hk := Eng.job_modJob_self (fun j : Job => { j with invals := j.invals.erase d }) hj fun _ => rfl
    refine ⟨fun hi => ?_, fun hi => ?_⟩
    · rw [endInvalidate_done hk hs hc hi hf he] at hx
      obtain ⟨k', hk', hstage, hst, hdet, -, -⟩ := finish_ends hk stOk 0
      have hcore := finish_core (s.eng.modJob h fun j => { j with invals := j.invals.erase d }) h stOk 0
      exact ⟨_, k', hx, hk', hstage, hst, hdet, pdks_of_core hcore, sweeps_of_core hcore, rfl⟩
    · rw [endInvalidate_waits hk hi] at hx
      exact ⟨_, _, hx, hk, hs, rfl, rfl⟩
  · intro i scrub hi p held
    obtain ⟨hx, ho⟩ := exec_sweep hl hj hs ha hh hb hi
    have hjh : j.handle = h := (s.eng.job_spec hj).2
    refine ⟨fun hop => ?_, fun n hop hr ht hn => ⟨fun h0 => ?_, fun h0 hh => ?_, fun h0 hh => ?_⟩⟩
    · rw [startSweep_notOperator hop, hjh] at hx
      exact completes hj hx
    · rw [startSweep_noScratch hop hr ht hn h0, hjh] at hx
      exact completes hj hx
    · rw [startSweep_held ho hop hr ht hn h0 hh, hjh] at hx
      exact completes hj hx
    · rw [startSweep_starts ho hop hr ht hn h0 hh] at hx
      have hpdk := pdk_sweepStarts s.eng j n scrub
      refine ⟨_, { j with stage := .waiting }, j.sweepRecord n scrub, hx, ?_, rfl, rfl, hjh, rfl, rfl, rfl, ?_, ?_, rfl⟩
      · have hw := Eng.job_modJob_self (fun j : Job => { j with stage := .waiting }) hj fun _ => rfl
        rw [← hjh] at hw ⊢
        exact hw
      · refine (congrArg Paddock.scrubbing hpdk).trans ?_
        cases scrub <;> rfl
      · refine (congrArg Paddock.sweeping hpdk).trans ?_
        cases scrub <;> rfl

end Sys2Proof.Machine
end

section
/-! What the end of a FLAG_WAIT keeps (08: R256, R257, R261, R270, R342). -/

namespace Sys2Proof.Machine

/-! ### A property that each part of the end of a wait keeps -/

/-- A property of the engine that holds on as the descriptor `h` is cancelled, or its waits end. -/
structure EndKeeps (I : Eng → Prop) (h : Word) : Prop where
  count : ∀ {e : Eng} (s : BitVec 4) (t n : Nat), I e → I (e.count s t n)
  emit : ∀ {e : Eng} (o : Out), I e → I (e.emit o)
  free : ∀ {e : Eng} (id : Nat), I e → I (e.freeWait id)
  wake : ∀ {e : Eng} (r : Region), I e → I (e.wakeRegion r)
  note : ∀ {e : Eng} (r : Region), I e → I (e.noteWorkOf (.region r))
  keep : ∀ {e : Eng} (v : HomeEvent), e.homeRuns v.act.region = false → I e → I (e.modSyn fun s => { s with events := s.events ++ [e.ruled v] })
  ends : ∀ {e : Eng} (st : Status) (d t : Word), I e → I (e.waitEnds h st d t)
  cancel : ∀ {e : Eng}, I e → I (e.finish h stCancelled 0)

theorem foldl_keeps {β : Type} {I : Eng → Prop} {f : Eng → β → Eng} (l : List β) (hf : ∀ e, ∀ x ∈ l, I e → I (f e x)) {e : Eng} (he : I e) :
    I (l.foldl f e) := by
  induction l generalizing e with
  | nil => exact he
  | cons x l ih => exact ih (fun e y hy => hf e y (List.mem_cons_of_mem _ hy)) (hf e x List.mem_cons_self he)

theorem tallyWait_keeps {I : Eng → Prop} (hc : ∀ (e : Eng) s t n, I e → I (e.count s t n)) {e : Eng} (he : I e) (r : Region) (st : Status) :
    I (e.tallyWait r st) := by
  unfold Eng.tallyWait
  split
  · exact hc _ _ _ _ he
  · split
    · exact hc _ _ _ _ he
    · split
      · exact hc _ _ _ _ he
      · exact he

namespace EndKeeps

variable {I : Eng → Prop} {h : Word} (k : EndKeeps I h)

include k

section Waits

variable {w : Wait} (hw : w.who = .job h)

include hw

theorem endWait {e : Eng} (he : I e) (st : Status) (d t : Word) : I (e.endWait w st d t) := by
  have hfree := k.free w.id he
  have htally := tallyWait_keeps (I := I) (fun _ s t n => k.count s t n) hfree (flagRegion w.flag) st
  unfold Eng.endWait Eng.answerWait
  rw [hw]
  refine k.ends st d t ?_
  split
  · exact k.count _ _ _ htally
  · exact htally

theorem dropWait {e : Eng} (he : I e) (how : Option (Status × Word)) : I (e.dropWait w how) := by
  cases how with
  | none => exact k.free w.id he
  | some x => exact k.endWait hw he _ _ _

theorem endEarly {e : Eng} (he : I e) (t : Word) (how : Option (Status × Word)) : I (e.endEarly t w how) := by
  unfold Eng.endEarly
  split
  · exact k.endWait hw he _ _ _
  · exact k.dropWait hw he how

theorem homeGo {e : Eng} (he : I e) (how : Option (Status × Word)) (x : SyncSrc) : I (e.homeGo (endEvent w how x)) := by
  have hwake := k.wake (endEvent w how x).act.region he
  rw [homeGo_alone e _ fun e => by rw [applyEvent_ends]]
  split
  · refine k.note _ ?_
    rw [applyEvent_ends]
    dsimp only
    split
    · exact k.endEarly hw hwake _ _
    · exact hwake
  · next hr => exact k.keep _ (by simpa using hr) hwake

end Waits

theorem endWaits {e : Eng} (he : I e) (how : Option (Status × Word)) : I (e.endWaits (fun w => w.who = .job h) how) := by
  unfold Eng.endWaits
  refine foldl_keeps _ (fun e w hm he => ?_) (foldl_keeps _ (fun e w hm he => ?_) he)
  · exact k.homeGo (of_decide_eq_true (List.mem_filter.mp hm).2) he how _
  · exact k.dropWait (of_decide_eq_true (List.mem_filter.mp hm).2) he how

theorem cancelWait {e : Eng} {j : Job} (hj : j.handle = h) (he : I e) : I (e.cancelWait j) := by
  unfold Eng.cancelWait Eng.stopWait
  rw [hj]
  split
  · exact k.cancel (k.emit _ he)
  · split
    · exact k.endWaits he _
    · exact k.cancel he

end EndKeeps

/-! ### The descriptors under a handle -/

/-- The descriptors under a handle, without the ones that wait for what they hold. -/
def Eng.jobsAt (e : Eng) (h : Word) : List Job := e.bareJobs.filter fun j => j.handle = h

/-- The first of them is the one that the handle names. -/
theorem jobsAt_head (e : Eng) (h : Word) : (e.jobsAt h).head? = (e.job h).map Job.bare := by
  rw [bareJobs_job]
  exact List.head?_filter

theorem jobsAt_inWork {e e' : Eng} (he : e'.inWork = e.inWork) (h : Word) : e'.jobsAt h = e.jobsAt h := by
  unfold Eng.jobsAt
  rw [bareJobs_inWork he]

section At

variable {e e' : Eng} {h : Word} {g : Job → Job} (hg : ∀ j, (g j).handle = j.handle)
  (hb : e'.bareJobs = e.bareJobs.map fun j => if j.handle = h then g j else j)

include hg hb

theorem jobsAt_ne {k : Word} (hk : k ≠ h) : e'.jobsAt k = e.jobsAt k := by
  unfold Eng.jobsAt
  rw [hb, List.filter_map]
  have hp : ((fun j : Job => decide (j.handle = k)) ∘ fun j => if j.handle = h then g j else j) = fun j => decide (j.handle = k) := by
    funext j
    rw [Function.comp_apply]
    split <;> simp [hg]
  rw [hp]
  refine (List.map_congr_left fun j hm => ?_).trans (List.map_id _)
  have hjk : j.handle = k := of_decide_eq_true (List.mem_filter.mp hm).2
  exact if_neg (hjk.trans_ne hk)

theorem jobsAt_self : e'.jobsAt h = (e.jobsAt h).map g := by
  unfold Eng.jobsAt
  rw [hb, List.filter_map]
  have hp : ((fun j : Job => decide (j.handle = h)) ∘ fun j => if j.handle = h then g j else j) = fun j => decide (j.handle = h) := by
    funext j
    rw [Function.comp_apply]
    split <;> simp [hg]
  rw [hp]
  exact List.map_congr_left fun j hm => if_pos (of_decide_eq_true (List.mem_filter.mp hm).2)

end At

/-- A descriptor with its completion's time. -/
def Job.readyAt (j : Job) (t : Word) : Job := { j with ready := some t }

/-- A descriptor with its wait's result, which it has yet to take. -/
def Job.answeredBy (j : Job) (st : Status) (d t : Word) : Job := { j with answer := some (st, d, t) }

/-- What the result of a wait does to its descriptor. -/
theorem waitEnds_cases (e : Eng) (h : Word) (st : Status) (d t : Word) :
    e.waitEnds h st d t = e ∨
      (∃ j, e.job h = some j ∧ j.stage = .waiting ∧ j.answer = none) ∧
        (e.waitEnds h st d t = (e.finish h st d).modJob h (·.readyAt t) ∨
          ∃ r, e.active (.region r) = false ∧ e.waitEnds h st d t = (e.modJob h (·.answeredBy st d t)).wakeRegion r) := by
  unfold Eng.waitEnds
  split
  · exact .inl rfl
  · next j hj =>
    split
    · exact .inl rfl
    · next hs =>
      have hs' : j.stage = .waiting ∧ j.answer = none := by simpa using hs
      refine .inr ⟨⟨j, hj, hs'⟩, ?_⟩
      split
      · exact .inl rfl
      · next ha => exact .inr ⟨j.lead, by simpa using ha, rfl⟩

theorem finish_jobsAt_ne (e : Eng) {h k : Word} (hk : k ≠ h) (st : Status) (d : Word) : (e.finish h st d).jobsAt k = e.jobsAt k :=
  jobsAt_ne (g := fun j => j.endedAs st d e.now) (fun _ => rfl) (finish_bareJobs e h st d) hk

theorem modJob_jobsAt_ne (e : Eng) {h k : Word} (hk : k ≠ h) {f : Job → Job} (hf : ∀ j, (f j).bare = f j.bare)
    (hh : ∀ j, (f j).handle = j.handle) : (e.modJob h f).jobsAt k = e.jobsAt k := jobsAt_ne hh (modJob_bareJobs e h hf) hk

/-- The descriptors under another handle are as they were. -/
theorem endKeeps_jobsAt {h k : Word} (hk : k ≠ h) (l : List Job) : EndKeeps (fun e => e.jobsAt k = l) h where
  count _ _ _ he := he
  emit _ he := he
  free _ he := he
  wake r he := (jobsAt_inWork (Eng.wakeRegion_side _ r).inWork k).trans he
  note r he := (jobsAt_inWork (Eng.noteWorkOf_side _ _).inWork k).trans he
  keep _ _ he := he
  cancel he := (finish_jobsAt_ne _ hk _ _).trans he
  ends st d t he := by
    rename_i e
    rcases waitEnds_cases e h st d t with hx | ⟨-, hx | ⟨r, -, hx⟩⟩
    · rwa [hx]
    · rw [hx, modJob_jobsAt_ne _ hk (f := (·.readyAt t)) (fun _ => rfl) fun _ => rfl, finish_jobsAt_ne e hk]
      exact he
    · rw [hx, jobsAt_inWork (Eng.wakeRegion_side _ r).inWork, modJob_jobsAt_ne _ hk (f := (·.answeredBy st d t)) (fun _ => rfl) fun _ => rfl]
      exact he

/-! ### A descriptor that is cancelled -/

/-- There is a descriptor under the handle, and each has ended with CANCELLED. -/
def Eng.Settled (e : Eng) (h : Word) : Prop := e.jobsAt h ≠ [] ∧ ∀ k ∈ e.jobsAt h, k.stage = .finished ∧ k.status = stCancelled

theorem Eng.Settled.of_eq {e e' : Eng} {h : Word} (hs : e.Settled h) (he : e'.jobsAt h = e.jobsAt h) : e'.Settled h := by
  unfold Eng.Settled
  rw [he]
  exact hs

/-- The end with CANCELLED of a descriptor in work. -/
theorem settled_finish {e : Eng} {h : Word} (hj : e.jobsAt h ≠ []) : (e.finish h stCancelled 0).Settled h := by
  have hm := jobsAt_self (g := fun j => j.endedAs stCancelled 0 e.now) (fun _ => rfl) (finish_bareJobs e h stCancelled 0)
  unfold Eng.Settled
  rw [hm]
  refine ⟨by simpa using hj, fun k hk => ?_⟩
  obtain ⟨j, -, rfl⟩ := List.mem_map.mp hk
  exact ⟨rfl, rfl⟩

theorem Eng.Settled.readyAt {e : Eng} {h : Word} (hs : e.Settled h) (t : Word) : (e.modJob h (·.readyAt t)).Settled h := by
  have hm := jobsAt_self (e := e) (h := h) (g := (·.readyAt t)) (fun _ => rfl) (modJob_bareJobs e h (f := (·.readyAt t)) fun _ => rfl)
  unfold Eng.Settled
  rw [hm]
  refine ⟨by simpa using hs.1, fun k hk => ?_⟩
  obtain ⟨j, hj, rfl⟩ := List.mem_map.mp hk
  exact hs.2 j hj

/-- The descriptor that the handle names. -/
theorem Eng.Settled.job {e : Eng} {h : Word} (hs : e.Settled h) : ∃ k, e.job h = some k ∧ k.stage = .finished ∧ k.status = stCancelled := by
  obtain ⟨hne, hall⟩ := hs
  cases hl : e.jobsAt h with
  | nil => exact absurd hl hne
  | cons x l =>
    have hx : (e.job h).map Job.bare = some x := by rw [← jobsAt_head, hl, List.head?_cons]
    obtain ⟨k, hk, rfl⟩ := Option.map_eq_some_iff.mp hx
    exact ⟨k, hk, hall k.bare (hl ▸ List.mem_cons_self)⟩

theorem endKeeps_settled (h : Word) : EndKeeps (fun e => e.Settled h) h where
  count _ _ _ he := he
  emit _ he := he
  free _ he := he
  wake r he := he.of_eq (jobsAt_inWork (Eng.wakeRegion_side _ r).inWork h)
  note r he := he.of_eq (jobsAt_inWork (Eng.noteWorkOf_side _ _).inWork h)
  keep _ _ he := he
  cancel he := settled_finish he.1
  ends st d t he := by
    rename_i e
    rcases waitEnds_cases e h st d t with hx | ⟨⟨j, hj, hw, -⟩, -⟩
    · rwa [hx]
    · obtain ⟨k, hk, hf, -⟩ := he.job
      obtain rfl : k = j := Option.some.inj (hk.symm.trans hj)
      exact absurd (hf.symm.trans hw) (by simp)

/-! ### Regions that stay Active (R278, R349) -/

/-- Every region is Active, and none is lowered for lending: it may not be, or no descriptor is held by a long wait. -/
def Eng.Awake (e : Eng) : Prop := ∀ r, e.active (.region r) = true ∧ ((e.regionCtl r).lendEn = false ∨ ∀ k ∈ e.jobs, e.longHeld k = false)

theorem modRegion_active (e : Eng) (r q : Region) {f : Dom → Dom} (hf : ∀ d, (f d).st = d.st) :
    (e.modRegion r f).active (.region q) = e.active (.region q) := by
  have hd : (e.modRegion r f).regionDom q = if q.toNat = r.toNat then f (e.regionDom r) else e.regionDom q :=
    setRow_getD ({} : Dom) 4 e.svc.power.region r.toNat q.toNat (f (e.regionDom r)) q.isLt
  change decide (((e.modRegion r f).regionDom q).st = .active) = decide ((e.regionDom q).st = .active)
  rw [hd]
  split
  · next hq => rw [hf, BitVec.eq_of_toNat_eq hq]
  · rfl

theorem Eng.Awake.modRegion {e : Eng} (h : e.Awake) (r : Region) {f : Dom → Dom} (hf : ∀ d, (f d).st = d.st) : (e.modRegion r f).Awake := by
  intro q
  rw [modRegion_active e r q hf]
  exact h q

theorem Eng.Awake.lendRegion_eq {e : Eng} (h : e.Awake) (r : Region) : e.lendRegion r = e := by
  unfold Eng.lendRegion
  refine if_neg fun hc => ?_
  simp only [Bool.and_eq_true] at hc
  obtain ⟨⟨⟨⟨-, hw⟩, hlend⟩, -⟩, -⟩ := hc
  rcases (h r).2 with hl | hl
  · exact Bool.noConfusion (hl.symm.trans hlend)
  · unfold Eng.waitingRegion at hw
    simp only [Bool.and_eq_true, List.any_eq_true, List.all_eq_true, Bool.or_eq_true, Bool.not_eq_true'] at hw
    obtain ⟨⟨-, j, hj, hin⟩, hall⟩ := hw
    rcases hall j hj with hx | hx
    · exact Bool.noConfusion (hx.symm.trans hin)
    · exact Bool.noConfusion ((hl j hj).symm.trans hx)

theorem Eng.Awake.noteWorkOf {e : Eng} (h : e.Awake) (r : Region) : (e.noteWorkOf (.region r)).Awake := by
  unfold Eng.noteWorkOf
  split
  · have hb : (if (e.domOf (.region r)).busy then e else e.modDom (.region r) fun x => { x with busy := true }).Awake := by
      split
      · exact h
      · exact h.modRegion r fun _ => rfl
    dsimp only
    rw [hb.lendRegion_eq]
    exact hb
  · split
    · exact h.modRegion r fun _ => rfl
    · exact h

theorem Eng.Awake.wakeRegion {e : Eng} (h : e.Awake) (r : Region) : (e.wakeRegion r).Awake := by
  have hb : (e.modRegion r fun d => { d with busy := true }).Awake := h.modRegion r fun _ => rfl
  have hst : ((e.modRegion r fun d => { d with busy := true }).regionDom r).st = .active := of_decide_eq_true (hb r).1
  unfold Eng.wakeRegion
  dsimp only
  rw [if_pos (by simp [hst])]
  exact hb

theorem Eng.Awake.modJob {e : Eng} (h : e.Awake) (x : Word) {f : Job → Job} (hf : ∀ j, e.longHeld (f j) = true → e.longHeld j = true) :
    (e.modJob x f).Awake := by
  refine fun r => ⟨(h r).1, (h r).2.imp_right fun hl k hk => ?_⟩
  obtain ⟨j, hj, rfl⟩ := List.mem_map.mp hk
  refine Bool.eq_false_iff.mpr fun hk => ?_
  have hlong : e.longHeld j = true := by
    by_cases hx : j.handle = x
    · rw [if_pos hx] at hk
      exact hf j hk
    · rw [if_neg hx] at hk
      exact hk
  exact Bool.noConfusion ((hl j hj).symm.trans hlong)

theorem longHeld_dropWaits (e : Eng) (p : Wait → Bool) {j : Job} (h : (e.dropWaits p).longHeld j = true) : e.longHeld j = true := by
  unfold Eng.longHeld at h ⊢
  simp only [Bool.and_eq_true, Bool.or_eq_true, List.any_eq_true] at h ⊢
  obtain ⟨hw, hl⟩ := h
  refine ⟨hw, hl.imp_right fun ⟨w, hm, hx⟩ => ⟨w, List.mem_of_mem_filter hm, hx⟩⟩

theorem Eng.Awake.dropWaits {e : Eng} (h : e.Awake) (p : Wait → Bool) : (e.dropWaits p).Awake :=
  fun r => ⟨(h r).1, (h r).2.imp_right fun hl k hk => Bool.eq_false_iff.mpr fun hx =>
    Bool.noConfusion ((hl k hk).symm.trans (longHeld_dropWaits e p hx))⟩

theorem longHeld_finished (e : Eng) {j : Job} (h : j.stage = .finished) : e.longHeld j = false := by
  unfold Eng.longHeld
  rw [h]
  rfl

theorem Eng.Awake.finish {e : Eng} (h : e.Awake) (x : Word) (st : Status) (d : Word) : (e.finish x st d).Awake := by
  have hr : (e.release x).Awake := by
    unfold Eng.release
    split
    · exact h
    · have hg := h.modJob x (f := Job.givenBack) fun _ hl => hl
      unfold Eng.handOver
      split
      · exact hg.modJob _ fun _ hl => hl
      · exact hg
  exact (hr.modJob x fun _ hl => Bool.noConfusion ((longHeld_finished _ rfl).symm.trans hl)).noteWorkOf _

/-! ### A wait whose deadline has not fired (R271) -/

/-- No wait of the descriptor is on its way to its home, and none that stands there has fired. -/
def Eng.Unfired (e : Eng) (h : Word) : Prop :=
  (∀ v ∈ e.syn.events, ∀ w, v.act.waitOf = some w → w.who ≠ .job h) ∧ ∀ w ∈ e.syn.waits, w.who = .job h → w.firedBy e.now = false

theorem Eng.Unfired.of_eq {e e' : Eng} {h : Word} (hu : e.Unfired h) (hs : e'.syn = e.syn) (hn : e'.now = e.now) : e'.Unfired h := by
  unfold Eng.Unfired
  rw [hs, hn]
  exact hu

theorem Eng.Unfired.dropWaits {e : Eng} {h : Word} (hu : e.Unfired h) (p : Wait → Bool) : (e.dropWaits p).Unfired h :=
  ⟨fun v hv => hu.1 v (List.mem_of_mem_filter hv), fun w hw => hu.2 w (List.mem_of_mem_filter hw)⟩

theorem syn_of_side {e e' : Eng} (h : PowerSide e e') : e'.syn = e.syn := by
  rw [h.1]

theorem release_syn (e : Eng) (h : Word) : (e.release h).syn = e.syn := by
  unfold Eng.release Eng.handOver
  split
  · rfl
  · split <;> rfl

theorem finish_syn (e : Eng) (h : Word) (st : Status) (d : Word) : (e.finish h st d).syn = e.syn :=
  (syn_of_side (Eng.noteQuiet_side _ _)).trans (release_syn e h)

/-- The homes can end the waits of `k` at once, with the status that they are given. -/
def Eng.Prompt (e : Eng) (k : Word) : Prop := e.Awake ∧ e.Unfired k

theorem Eng.Prompt.finish {e : Eng} {k : Word} (hp : e.Prompt k) (h : Word) (st : Status) (d : Word) : (e.finish h st d).Prompt k :=
  ⟨hp.1.finish h st d, hp.2.of_eq (finish_syn e h st d) (now_of_core (finish_core e h st d))⟩

theorem Eng.Prompt.wakeRegion {e : Eng} {k : Word} (hp : e.Prompt k) (r : Region) : (e.wakeRegion r).Prompt k :=
  ⟨hp.1.wakeRegion r, hp.2.of_eq (syn_of_side (e.wakeRegion_side r)) (now_of_core (e.wakeRegion_side r).core)⟩

theorem Eng.Prompt.noteWorkOf {e : Eng} {k : Word} (hp : e.Prompt k) (r : Region) : (e.noteWorkOf (.region r)).Prompt k :=
  ⟨hp.1.noteWorkOf r, hp.2.of_eq (syn_of_side (e.noteWorkOf_side _)) (now_of_core (e.noteWorkOf_side _).core)⟩

theorem endKeeps_prompt (h k : Word) : EndKeeps (fun e => e.Prompt k) h where
  count _ _ _ he := he
  emit _ he := he
  free _ he := ⟨he.1.dropWaits _, he.2.dropWaits _⟩
  wake r he := Eng.Prompt.wakeRegion he r
  note r he := Eng.Prompt.noteWorkOf he r
  keep v hr he := by
    unfold Eng.homeRuns at hr
    rw [(he.1 v.act.region).1] at hr
    exact Bool.noConfusion hr
  cancel he := Eng.Prompt.finish he h stCancelled 0
  ends st d t he := by
    rename_i e
    rcases waitEnds_cases e h st d t with hx | ⟨-, hx | ⟨r, hr, -⟩⟩
    · rwa [hx]
    · have hf := Eng.Prompt.finish he h st d
      rw [hx]
      exact ⟨hf.1.modJob h fun _ hl => hl, hf.2⟩
    · exact Bool.noConfusion (hr.symm.trans (he.1 r).1)

/-! ### The other contexts -/

/-- The descriptors of other contexts are those of `l`, and no descriptor of this one has been asked to yield. -/
def Eng.Beside (e : Eng) (c : CtxNum) (l : List Job) : Prop :=
  (e.jobs.filter fun j => decide (j.ctx ≠ c)) = l ∧ ∀ j ∈ e.jobs, j.ctx = c → j.yieldAt = none

theorem Eng.Beside.of_jobs {e e' : Eng} {c : CtxNum} {l : List Job} (hb : e.Beside c l) (hj : e'.jobs = e.jobs) : e'.Beside c l := by
  unfold Eng.Beside
  rw [hj]
  exact hb

theorem Eng.Beside.modJob {e : Eng} {c : CtxNum} {l : List Job} (hb : e.Beside c l) {h : Word} (hc : handleCtx h = c) {f : Job → Job}
    (hh : ∀ j, (f j).handle = j.handle) (hy : ∀ j, j.yieldAt = none → (f j).yieldAt = none) : (e.modJob h f).Beside c l := by
  have hctx (j : Job) : (if j.handle = h then f j else j).ctx = j.ctx := by
    unfold Job.ctx
    split <;> simp [hh]
  obtain ⟨hl, hall⟩ := hb
  refine ⟨?_, fun k hk hkc => ?_⟩
  · rw [Eng.modJob_jobs, List.filter_map, ← hl]
    have hp : ((fun j : Job => decide (j.ctx ≠ c)) ∘ fun j => if j.handle = h then f j else j) = fun j => decide (j.ctx ≠ c) := by
      funext j
      rw [Function.comp_apply, hctx]
    rw [hp]
    refine (List.map_congr_left fun j hm => if_neg fun hj => ?_).trans (List.map_id _)
    exact of_decide_eq_true (List.mem_filter.mp hm).2 (by unfold Job.ctx; rw [hj, hc])
  · obtain ⟨j, hj, rfl⟩ := List.mem_map.mp hk
    have hjy := hall j hj ((hctx j).symm.trans hkc)
    split
    · exact hy j hjy
    · exact hjy

theorem Eng.Beside.finish {e : Eng} {c : CtxNum} {l : List Job} (hb : e.Beside c l) {h : Word} (hc : handleCtx h = c) (st : Status) (d : Word) :
    (e.finish h st d).Beside c l := by
  have hr : (e.release h).Beside c l := by
    unfold Eng.release
    split
    · exact hb
    · next j hj =>
      have hjc : j.ctx = c := by
        unfold Job.ctx
        rw [(e.job_spec hj).2, hc]
      have hn : ∀ e' : Eng, e'.handOver j = e' := fun e' => by
        unfold Eng.handOver
        rw [hb.2 j (e.job_spec hj).1 hjc]
      rw [hn]
      exact hb.modJob hc (fun _ => rfl) fun _ _ => rfl
  exact (hr.modJob hc (f := fun j => { j with stage := .finished, status := st, detail := d, ready := some e.now }) (fun _ => rfl)
    fun _ hy => hy).of_jobs (inWork_parts (Eng.noteQuiet_side _ _).inWork).2.2

theorem endKeeps_beside {h : Word} {c : CtxNum} (hc : handleCtx h = c) (l : List Job) : EndKeeps (fun e => e.Beside c l) h where
  count _ _ _ he := he
  emit _ he := he
  free _ he := he
  wake r he := Eng.Beside.of_jobs he (inWork_parts (Eng.wakeRegion_side _ r).inWork).2.2
  note r he := Eng.Beside.of_jobs he (inWork_parts (Eng.noteWorkOf_side _ _).inWork).2.2
  keep _ _ he := he
  cancel he := Eng.Beside.finish he hc _ _
  ends st d t he := by
    rename_i e
    rcases waitEnds_cases e h st d t with hx | ⟨-, hx | ⟨r, -, hx⟩⟩
    · rwa [hx]
    · rw [hx]
      exact (Eng.Beside.finish he hc st d).modJob hc (fun _ => rfl) fun _ hy => hy
    · rw [hx]
      exact (Eng.Beside.modJob he hc (f := (·.answeredBy st d t)) (fun _ => rfl) fun _ hy => hy).of_jobs (inWork_parts (Eng.wakeRegion_side _ r).inWork).2.2

end Sys2Proof.Machine
end

section
/-! RESET cancels what has not begun, and the waits: O34 (02: R44; 08: R261). -/

namespace Sys2Proof.Machine

/-! ### A FLAG_WAIT that is cancelled (R261) -/

/-- The handle names a FLAG_WAIT that waits for its result. -/
def Eng.Pending (e : Eng) (h : Word) : Prop := ∃ k, e.job h = some k ∧ k.stage = .waiting ∧ k.answer = none

theorem Eng.Pending.listed {e : Eng} {h : Word} (hp : e.Pending h) : e.jobsAt h ≠ [] := by
  obtain ⟨k, hk, -⟩ := hp
  intro hn
  have hh := jobsAt_head e h
  rw [hn, hk] at hh
  exact nomatch hh

theorem waitEnds_settles {e : Eng} {h : Word} (ha : e.Awake) (hp : e.Pending h) (t : Word) : (e.waitEnds h stCancelled 0 t).Settled h := by
  obtain ⟨k, hk, hs, hn⟩ := id hp
  have hx : e.waitEnds h stCancelled 0 t = (e.finish h stCancelled 0).modJob h (·.readyAt t) := by
    unfold Eng.waitEnds
    rw [hk]
    dsimp only
    rw [if_neg (by simp [hs, hn]), if_pos (ha k.lead).1]
    rfl
  rw [hx]
  exact (settled_finish hp.listed).readyAt t

section Waits

variable {e : Eng} {h : Word} {w : Wait} (hw : w.who = .job h) (hpr : e.Prompt h) (hp : e.Pending h)

include hw hpr hp

theorem endWait_settles (t : Word) : (e.endWait w stCancelled 0 t).Settled h := by
  have hI : ((e.freeWait w.id).tallyWait (flagRegion w.flag) stCancelled).Awake ∧
      ((e.freeWait w.id).tallyWait (flagRegion w.flag) stCancelled).Pending h :=
    tallyWait_keeps (I := fun e => e.Awake ∧ e.Pending h) (fun _ _ _ _ he => he) ⟨hpr.1.dropWaits _, hp⟩ _ _
  unfold Eng.endWait Eng.answerWait
  rw [hw]
  exact waitEnds_settles hI.1 hI.2 t

theorem homeGo_settles (hm : w ∈ e.syn.waits) {x : SyncSrc} (hx : x.stamp = e.now) :
    (e.homeGo (endEvent w (some (stCancelled, 0)) x)).Settled h := by
  have hr := hpr.wakeRegion (flagRegion w.flag)
  have hsyn := syn_of_side (e.wakeRegion_side (flagRegion w.flag))
  have hp' : (e.wakeRegion (flagRegion w.flag)).Pending h := by
    unfold Eng.Pending
    rw [job_inWork (e.wakeRegion_side _).inWork]
    exact hp
  have hany : (e.wakeRegion (flagRegion w.flag)).syn.waits.any (·.id = w.id) = true := by
    rw [hsyn]
    exact List.any_eq_true.mpr ⟨w, hm, decide_eq_true rfl⟩
  have hruns : (e.wakeRegion (flagRegion w.flag)).homeRuns (flagRegion w.flag) = true := by
    unfold Eng.homeRuns
    rw [(hr.1 (flagRegion w.flag)).1]
    rfl
  have hfired : w.firedBy x.stamp = false := by
    rw [hx]
    exact hpr.2.2 w hm hw
  rw [homeGo_alone e _ fun e => by rw [applyEvent_ends]]
  change (if (e.wakeRegion (flagRegion w.flag)).homeRuns (flagRegion w.flag) then
    ((e.wakeRegion (flagRegion w.flag)).applyEvent (endEvent w (some (stCancelled, 0)) x)).1.noteWorkOf (.region (flagRegion w.flag)) else _ :
    Eng).Settled h
  rw [if_pos hruns, applyEvent_ends]
  dsimp only
  rw [if_pos hany]
  unfold Eng.endEarly
  rw [if_neg (by simp [hfired])]
  exact (endKeeps_settled h).note _ (endWait_settles hw hr hp' _)

end Waits

/-- An event that registers a wait is that wait's. -/
theorem waitOf_of_registers {a : HomeAct} {w : Wait} (h : a.registers = some w) : a.waitOf = some w := by
  cases a with
  | wait x => exact h
  | _ => exact nomatch h

/-- A wait that stands at its home, or is held for a record, ends its descriptor at once. -/
theorem endWaits_settles {e : Eng} {h : Word} (hpr : e.Prompt h) (hp : e.Pending h)
    (hany : ∃ w ∈ e.syn.waits ++ e.syn.held ++ e.syn.events.filterMap fun v => v.act.waitOf, w.who = .job h) :
    (e.endWaits (fun w => w.who = .job h) (some (stCancelled, 0))).Settled h := by
  have keeps := endKeeps_settled h
  have hreg : ∀ v ∈ e.syn.events, ∀ w, v.act.registers = some w → w.who ≠ .job h := by
    intro v hv w hvw
    exact hpr.2.1 v hv w (waitOf_of_registers hvw)
  unfold Eng.endWaits
  dsimp only
  cases hheld : e.syn.held.filter fun w => decide (w.who = .job h) with
  | cons w l =>
    have hall : ∀ x ∈ w :: l, x.who = .job h := by
      intro x hx
      rw [← hheld] at hx
      exact of_decide_eq_true (List.mem_filter.mp hx).2
    have hfirst : (e.dropWait w (some (stCancelled, 0))).Settled h := endWait_settles (hall w List.mem_cons_self) hpr hp _
    refine foldl_keeps (I := fun e => e.Settled h) _ (fun e w hm he => ?_)
      (foldl_keeps (I := fun e => e.Settled h) l (fun e w hm he => ?_) hfirst)
    · exact keeps.homeGo (of_decide_eq_true (List.mem_filter.mp hm).2) he _ _
    · exact keeps.dropWait (hall w (List.mem_cons_of_mem _ hm)) he _
  | nil =>
    have hmine : ∀ w ∈ e.homeWaits.filter fun w => decide (w.who = .job h), w.who = .job h ∧ w ∈ e.syn.waits := by
      intro w hm
      obtain ⟨hm, hw⟩ := List.mem_filter.mp hm
      have hw := of_decide_eq_true hw
      refine ⟨hw, (List.mem_append.mp hm).resolve_right fun hv => ?_⟩
      obtain ⟨v, hv, hvw⟩ := List.mem_filterMap.mp hv
      exact hreg v hv w hvw hw
    cases hl : e.homeWaits.filter fun w => decide (w.who = .job h) with
    | nil =>
      obtain ⟨w, hm, hw⟩ := hany
      rcases List.mem_append.mp hm with hm | hm
      · rcases List.mem_append.mp hm with hm | hm
        · have hin : w ∈ e.homeWaits.filter fun w => decide (w.who = .job h) :=
            List.mem_filter.mpr ⟨List.mem_append_left _ hm, decide_eq_true hw⟩
          rw [hl] at hin
          exact nomatch hin
        · have hin : w ∈ e.syn.held.filter fun w => decide (w.who = .job h) := List.mem_filter.mpr ⟨hm, decide_eq_true hw⟩
          rw [hheld] at hin
          exact nomatch hin
      · obtain ⟨v, hv, hvw⟩ := List.mem_filterMap.mp hm
        exact absurd hw (hpr.2.1 v hv w hvw)
    | cons w l =>
      obtain ⟨hw, hm⟩ := hmine w (hl ▸ List.mem_cons_self)
      have hnone : (e.syn.events.filter fun v => decide (v.act.registers = some w)) = [] :=
        List.filter_eq_nil_iff.mpr fun v hv hvw => hreg v hv w (of_decide_eq_true hvw) hw
      refine foldl_keeps (I := fun e => e.Settled h) l (fun e w hm he => ?_) (homeGo_settles hw hpr hp hm ?_)
      · exact keeps.homeGo (hmine w (hl ▸ List.mem_cons_of_mem _ hm)).1 he _ _
      · rw [hnone]
        rfl

/-- A pending FLAG_WAIT is cancelled: at once where it was sent to a peer, else where its home can end it. -/
theorem cancelWait_settles {e : Eng} {j : Job} (hpr : j.syncSent = true ∨ e.Prompt j.handle) (hp : e.Pending j.handle) :
    (e.cancelWait j).Settled j.handle := by
  unfold Eng.cancelWait Eng.stopWait
  split
  · exact settled_finish (e := e.emit _) hp.listed
  · next hs =>
    split
    · next hany =>
      obtain ⟨w, hm, hw⟩ := List.any_eq_true.mp hany
      exact endWaits_settles (hpr.resolve_left hs) hp ⟨w, hm, of_decide_eq_true hw⟩
    · exact settled_finish hp.listed

theorem cancelWait_core (e : Eng) (j : Job) : (e.cancelWait j).core = e.core := by
  unfold Eng.cancelWait Eng.stopWait
  split
  · exact finish_core _ _ _ _
  · split
    · exact endWaits_core _ _ _
    · exact finish_core _ _ _ _

/-- What has been cancelled stays so as others are. -/
theorem Eng.Settled.cancelWait {e : Eng} {h : Word} (hs : e.Settled h) (j : Job) : (e.cancelWait j).Settled h := by
  by_cases hj : j.handle = h
  · exact (endKeeps_settled h).cancelWait hj hs
  · exact hs.of_eq ((endKeeps_jobsAt (Ne.symm hj) (e.jobsAt h)).cancelWait rfl rfl)

theorem Eng.Settled.cancel {e : Eng} {h : Word} (hs : e.Settled h) (x : Word) : (e.finish x stCancelled 0).Settled h := by
  by_cases hx : x = h
  · subst hx
    exact settled_finish hs.1
  · exact hs.of_eq (finish_jobsAt_ne e (Ne.symm hx) _ _)

/-! ### RESET -/

/-- A context's descriptors that have not begun (R44). -/
def Eng.unbegun (e : Eng) (c : CtxNum) : List Job :=
  e.jobs.filter fun j => j.ctx = c && (j.stage = .fetched || j.stage = .queued) && !j.begun

/-- A context's FLAG_WAITs without a result (R261). -/
def Eng.flagWaits (e : Eng) (c : CtxNum) : List Job :=
  e.jobs.filter fun j => j.ctx = c && j.opcode = opFlagWait && (j.stage = .running || j.stage = .waiting) && j.answer.isNone

/-- The engine after RESET of a context. -/
def Eng.afterReset (e : Eng) (c : CtxNum) : Eng := ((e.cancelUnbegun c).flagWaits c).foldl Eng.cancelWait (e.cancelUnbegun c)

theorem exec_reset {s : State} (hl : s.Live) (ha : s.eng.answers subCxs = true) (hd : s.eng.svc.power.dormant = false)
    (hb : s.eng.cxs.busy = .idle) (hs : (s.eng.ctx s.eng.cxs.sel).state ≠ .closing) :
    exec .reset s = .next { s with eng := ((s.eng.ctxResult 0).close s.eng.cxs.sel .byReset).afterReset s.eng.cxs.sel } :=
  (exec_ctxCommand hl ha hd hb (i := .reset) (by unfold exec; rfl)).1 (decide_eq_true hs)

section AfterReset

variable {e : Eng} {c : CtxNum}

theorem unbegun_ctx {j : Job} (hj : j ∈ e.unbegun c) : handleCtx j.handle = c := by
  have hx := (List.mem_filter.mp hj).2
  simp only [Bool.and_eq_true, decide_eq_true_eq] at hx
  exact hx.1.1

theorem flagWaits_ctx {j : Job} (hj : j ∈ e.flagWaits c) : handleCtx j.handle = c := by
  have hx := (List.mem_filter.mp hj).2
  simp only [Bool.and_eq_true, decide_eq_true_eq] at hx
  exact hx.1.1.1

theorem cancelUnbegun_core : (e.cancelUnbegun c).core = e.core :=
  core_foldl (f := fun e (j : Job) => e.finish j.handle stCancelled 0) (fun e j => finish_core e j.handle _ _) (e.unbegun c) e

theorem afterReset_core : (e.afterReset c).core = e.core := (core_foldl cancelWait_core _ _).trans cancelUnbegun_core

theorem afterReset_settled {h : Word} (hs : (e.cancelUnbegun c).Settled h) : (e.afterReset c).Settled h :=
  foldl_keeps (I := fun e => e.Settled h) _ (fun _ j _ he => he.cancelWait j) hs

/-- Every descriptor that had not begun is cancelled. -/
theorem cancelUnbegun_settles {j : Job} (hj : j ∈ e.unbegun c) : (e.cancelUnbegun c).Settled j.handle := by
  obtain ⟨A, B, hAB⟩ := List.append_of_mem hj
  have hlisted : e.jobsAt j.handle ≠ [] :=
    List.ne_nil_of_mem (List.mem_filter.mpr ⟨List.mem_map.mpr ⟨j, (List.mem_filter.mp hj).1, rfl⟩, decide_eq_true rfl⟩)
  have hbefore : (A.foldl (fun e j => e.finish j.handle stCancelled 0) e).jobsAt j.handle ≠ [] := by
    refine foldl_keeps (I := fun e => e.jobsAt j.handle ≠ []) A (fun e k _ he => ?_) hlisted
    by_cases hk : k.handle = j.handle
    · rw [hk]
      exact (settled_finish he).1
    · rw [finish_jobsAt_ne e (Ne.symm hk)]
      exact he
  change ((e.unbegun c).foldl (fun e j => e.finish j.handle stCancelled 0) e).Settled j.handle
  rw [hAB, List.foldl_append, List.foldl_cons]
  exact foldl_keeps (I := fun e => e.Settled j.handle) B (fun e k _ he => he.cancel _) (settled_finish hbefore)

/-- A descriptor of which none has this handle that had not begun stands as it did. -/
theorem cancelUnbegun_jobsAt {h : Word} (hn : ∀ j ∈ e.unbegun c, j.handle ≠ h) : (e.cancelUnbegun c).jobsAt h = e.jobsAt h :=
  foldl_keeps (I := fun x => x.jobsAt h = e.jobsAt h) (e.unbegun c)
    (fun x j hj he => (finish_jobsAt_ne x (Ne.symm (hn j hj)) _ _).trans he) rfl

theorem cancelUnbegun_prompt {h : Word} (hp : e.Prompt h) : (e.cancelUnbegun c).Prompt h :=
  foldl_keeps (I := fun e => e.Prompt h) (e.unbegun c) (fun _ j _ he => he.finish j.handle _ _) hp

/-- The FLAG_WAIT that a handle names is cancelled in its turn, and those before it leave it as it is. -/
theorem flagWaits_settle {h : Word} {j : Job} (hj : e.job h = some j) (hc : j.ctx = c) (ho : j.opcode = opFlagWait) (hs : j.stage = .waiting)
    (ha : j.answer = none) (hpr : j.syncSent = true ∨ e.Prompt h) : ((e.flagWaits c).foldl Eng.cancelWait e).Settled h := by
  obtain ⟨hh, A, B, hAB, hA⟩ := List.find?_eq_some_iff_append.mp hj
  have hh : j.handle = h := of_decide_eq_true hh
  have hsplit : e.flagWaits c = A.filter (fun j => j.ctx = c && j.opcode = opFlagWait && (j.stage = .running || j.stage = .waiting) && j.answer.isNone)
      ++ j :: B.filter fun j => j.ctx = c && j.opcode = opFlagWait && (j.stage = .running || j.stage = .waiting) && j.answer.isNone := by
    unfold Eng.flagWaits
    rw [hAB, List.filter_append, List.filter_cons_of_pos (by simp [hc, ho, hs, ha])]
  rw [hsplit, List.foldl_append, List.foldl_cons]
  generalize hA' : A.filter _ = A'
  have hne : ∀ k ∈ A', h ≠ k.handle := by
    intro k hk hkh
    rw [← hA'] at hk
    exact Bool.noConfusion ((hA k (List.mem_of_mem_filter hk)).symm.trans (congrArg not (decide_eq_true hkh.symm)))
  have hbefore : (A'.foldl Eng.cancelWait e).jobsAt h = e.jobsAt h :=
    foldl_keeps (I := fun x => x.jobsAt h = e.jobsAt h) A' (fun x k hk hx => (endKeeps_jobsAt (hne k hk) _).cancelWait rfl hx) rfl
  have hpend : (A'.foldl Eng.cancelWait e).Pending h := by
    have hx : ((A'.foldl Eng.cancelWait e).job h).map Job.bare = some j.bare := by
      rw [← jobsAt_head, hbefore, jobsAt_head, hj]
      rfl
    obtain ⟨k, hk, hkj⟩ := Option.map_eq_some_iff.mp hx
    exact ⟨k, hk, (congrArg Job.stage hkj :).trans hs, (congrArg Job.answer hkj :).trans ha⟩
  have hprompt : j.syncSent = true ∨ (A'.foldl Eng.cancelWait e).Prompt h :=
    hpr.imp_right fun hp => foldl_keeps (I := fun e => e.Prompt h) A' (fun _ k _ he => (endKeeps_prompt k.handle h).cancelWait rfl he) hp
  subst hh
  exact foldl_keeps (I := fun e => e.Settled j.handle) _ (fun _ k _ he => he.cancelWait k) (cancelWait_settles hprompt hpend)

/-- The FLAG_WAIT that a handle names is cancelled, with the descriptors that have not begun or after them. -/
theorem afterReset_settles {h : Word} {j : Job} (hj : e.job h = some j) (hc : j.ctx = c) (ho : j.opcode = opFlagWait) (hs : j.stage = .waiting)
    (ha : j.answer = none) (hpr : j.syncSent = true ∨ e.Prompt h) : (e.afterReset c).Settled h := by
  by_cases hn : ∃ k ∈ e.unbegun c, k.handle = h
  · obtain ⟨k, hk, rfl⟩ := hn
    exact afterReset_settled (cancelUnbegun_settles hk)
  · have hat := cancelUnbegun_jobsAt (e := e) (c := c) (h := h) fun k hk hkh => hn ⟨k, hk, hkh⟩
    have hx : ((e.cancelUnbegun c).job h).map Job.bare = some j.bare := by
      rw [← jobsAt_head, hat, jobsAt_head, hj]
      rfl
    obtain ⟨k, hk, hkj⟩ := Option.map_eq_some_iff.mp hx
    have hkc : k.ctx = j.ctx := (congrArg Job.ctx hkj :)
    have hko : k.opcode = j.opcode := (congrArg Job.opcode hkj :)
    have hks : k.stage = j.stage := (congrArg Job.stage hkj :)
    have hka : k.answer = j.answer := (congrArg Job.answer hkj :)
    have hky : k.syncSent = j.syncSent := (congrArg Job.syncSent hkj :)
    exact flagWaits_settle hk (hkc.trans hc) (hko.trans ho) (hks.trans hs) (hka.trans ha)
      (hpr.imp hky.trans fun hp => cancelUnbegun_prompt hp)

theorem afterReset_beside {l : List Job} (hb : e.Beside c l) : (e.afterReset c).Beside c l :=
  foldl_keeps (I := fun e => e.Beside c l) _ (fun _ _ hj he => (endKeeps_beside (flagWaits_ctx hj) l).cancelWait rfl he)
    (foldl_keeps (I := fun e => e.Beside c l) (e.unbegun c) (fun _ _ hj he => he.finish (unbegun_ctx hj) _ _) hb)

end AfterReset

/-- Settles O34: what has not begun ends first (`cancelUnbegun_settles`), each FLAG_WAIT in its turn (`flagWaits_settle`), and what closes the context
stays (`afterReset_core`). -/
theorem resetCancelsWhatHasNotBegun : Obligations.ResetCancelsWhatHasNotBegun := by
  unfold Obligations.ResetCancelsWhatHasNotBegun
  intro s hl ha hd hb c hs
  have hx := exec_reset hl ha hd hb hs
  have hcore := afterReset_core (e := (s.eng.ctxResult 0).close c .byReset) (c := c)
  have hctx := (ctx_of_core hcore c).trans (Eng.ctx_close _)
  have hcxs := cxs_of_core hcore
  refine ⟨_, hx, congrArg Ctx.state hctx, congrArg Ctx.closing hctx, congrArg Cxs.busy hcxs, congrArg Cxs.result hcxs, ?_, ?_, ?_, rfl⟩
  · intro j hj hjc hst hbeg
    have hun : j ∈ ((s.eng.ctxResult 0).close c .byReset).unbegun c :=
      List.mem_filter.mpr ⟨hj, by rcases hst with h | h <;> simp [hjc, h, hbeg]⟩
    obtain ⟨k, hk, hf, hst⟩ := (afterReset_settled (cancelUnbegun_settles hun)).job
    exact ⟨k, (Eng.job_spec hk).1, (Eng.job_spec hk).2, hf, hst⟩
  · intro h j hj hjc ho hw han hwhere
    exact (afterReset_settles (e := (s.eng.ctxResult 0).close c .byReset) hj hjc ho hw han hwhere).job
  · intro hy
    exact (afterReset_beside (e := (s.eng.ctxResult 0).close c .byReset) ⟨rfl, hy⟩).1

end Sys2Proof.Machine
end

section
/-! What leaves while the host is reachable: descriptors that go on and requests that wait send and take nothing back, and hold nothing for the host
(02: R78; 12: R395, R415). -/

namespace Sys2Proof.Machine

/-- The host is reachable and nothing is held for it, and `sent` has left before anything else that has. -/
def Eng.HostOpen (sent : List Out) (e : Eng) : Prop :=
  e.pins.hostLinkUp = true ∧ e.jrn.state ≠ .held ∧ e.jrn.heldOut = [] ∧ sent <+: e.out

variable {sent : List Out} {e : Eng} {x : Eff}

theorem Eng.HostOpen.of (h : e.pins.hostLinkUp = true ∧ e.jrn.state ≠ .held ∧ e.jrn.heldOut = [] ∧ sent <+: e.out) : e.HostOpen sent := h

theorem Eng.HostOpen.ite {c : Prop} [Decidable c] {e e' : Eng} (h : e.HostOpen sent) (h' : e'.HostOpen sent) : (if c then e else e').HostOpen sent := by
  split
  · exact h
  · exact h'

theorem Eng.HostOpen.iteEff {c : Prop} [Decidable c] {x y : Eff} (h : x.eng.HostOpen sent) (h' : y.eng.HostOpen sent) : (if c then x else y).eng.HostOpen sent := by
  split
  · exact h
  · exact h'

theorem Eng.HostOpen.foldl {β : Type} {f : Eng → β → Eng} {l : List β} (hc : e.HostOpen sent) (hf : ∀ e x, (he : e.HostOpen sent) → (f e x).HostOpen sent) :
    (l.foldl f e).HostOpen sent := by
  induction l generalizing e with
  | nil => exact hc
  | cons x l ih => exact ih (hf _ _ hc)

theorem Eng.HostOpen.foldlEff {β : Type} {f : Eff → β → Eff} {l : List β} (hc : x.eng.HostOpen sent) (hf : ∀ x y, (hx : x.eng.HostOpen sent) → (f x y).eng.HostOpen sent) :
    (l.foldl f x).eng.HostOpen sent := by
  induction l generalizing x with
  | nil => exact hc
  | cons y l ih => exact ih (hf _ _ hc)

theorem Eng.HostOpen.foldlPump {β : Type} {p : Pump} {f : Pump → β → Pump} {l : List β} (hc : p.e.HostOpen sent)
    (hf : ∀ p y, (hp : p.e.HostOpen sent) → (f p y).e.HostOpen sent) : (l.foldl f p).e.HostOpen sent := by
  induction l generalizing p with
  | nil => exact hc
  | cons y l ih => exact ih (hf _ _ hc)

theorem Eng.HostOpen.foldlFst {β γ : Type} {s : Eng × γ} {f : Eng × γ → β → Eng × γ} {l : List β} (hc : s.1.HostOpen sent)
    (hf : ∀ s y, (hs : s.1.HostOpen sent) → (f s y).1.HostOpen sent) : (l.foldl f s).1.HostOpen sent := by
  induction l generalizing s with
  | nil => exact hc
  | cons y l ih => exact ih (hf _ _ hc)

theorem Eng.HostOpen.modPower {f} (hc : e.HostOpen sent) : (e.modPower f).HostOpen sent := hc

theorem Eng.HostOpen.count {s t n} (hc : e.HostOpen sent) : (e.count s t n).HostOpen sent := hc

theorem Eng.HostOpen.emit {o} (hc : e.HostOpen sent) : (e.emit o).HostOpen sent := by
  obtain ⟨hup, hst, hheld, hout⟩ := hc
  exact ⟨hup, hst, hheld, hout.trans (List.prefix_append _ _)⟩

theorem Eng.HostOpen.raise {sub inst code ctx d} (hc : e.HostOpen sent) : (e.raise sub inst code ctx d).HostOpen sent := hc

theorem Eng.HostOpen.on {f} (hc : x.eng.HostOpen sent) (hf : ∀ e, (he : e.HostOpen sent) → (f e).HostOpen sent) : (x.on f).eng.HostOpen sent := hf _ hc

theorem Eng.HostOpen.andThen {m f} (hc : x.eng.HostOpen sent) (hf : ∀ m e, (he : e.HostOpen sent) → (f m e).eng.HostOpen sent) : (x.andThen m f).eng.HostOpen sent := hf _ _ hc

theorem Eng.HostOpen.dropLines {a n} (hc : e.HostOpen sent) : (e.dropLines a n).HostOpen sent := by
  unfold Eng.dropLines
  exact .of hc

theorem Eng.HostOpen.modDrover {n f} (hc : e.HostOpen sent) : (e.modDrover n f).HostOpen sent := by
  unfold Eng.modDrover
  exact .of hc

theorem Eng.HostOpen.recordWrite {n pa len w} (hc : e.HostOpen sent) : (e.recordWrite n pa len w).HostOpen sent := by
  unfold Eng.recordWrite
  exact hc.foldl (fun _ _ he => he.modDrover.count)

theorem Eng.HostOpen.store {o} (hc : x.eng.HostOpen sent) : (x.store o).eng.HostOpen sent := by
  unfold Eff.store
  exact hc.dropLines

theorem Eng.HostOpen.put {o} (hc : x.eng.HostOpen sent) : (x.put o).eng.HostOpen sent := by
  unfold Eff.put
  refine .store ?_
  split
  · exact hc.on (fun _ he => he.recordWrite)
  · exact hc

theorem Eng.HostOpen.draw (hc : e.HostOpen sent) : e.draw.2.HostOpen sent := by
  unfold Eng.draw
  exact .of hc

theorem Eng.HostOpen.modJob {h f} (hc : e.HostOpen sent) : (e.modJob h f).HostOpen sent := by
  unfold Eng.modJob
  exact .of hc

/-- What is written to the host leaves at once. -/
theorem Eng.HostOpen.hostPut {a bs} (hc : e.HostOpen sent) : (e.hostPut a bs).HostOpen sent := by
  obtain ⟨hup, hst, hheld, -⟩ := id hc
  unfold Eng.hostPut Eng.hostUp
  rw [if_pos (by simp [hup, hst, hheld])]
  exact hc.emit

theorem Eng.HostOpen.releaseHeld (hc : e.HostOpen sent) : e.releaseHeld.HostOpen sent := by
  obtain ⟨hup, hst, hheld, hout⟩ := id hc
  unfold Eng.releaseHeld
  exact .ite ⟨hup, hst, rfl, hout.trans (List.prefix_append _ _)⟩ hc

theorem Eng.HostOpen.modRegion {r f} (hc : e.HostOpen sent) : (e.modRegion r f).HostOpen sent := by
  unfold Eng.modRegion
  exact hc.modPower

theorem Eng.HostOpen.modDom {d f} (hc : e.HostOpen sent) : (e.modDom d f).HostOpen sent := by
  unfold Eng.modDom
  split
  · exact hc.modRegion
  · exact hc.modPower

theorem Eng.HostOpen.enter {d st} (hc : e.HostOpen sent) : (e.enter d st).HostOpen sent := by
  unfold Eng.enter
  exact hc.modDom

theorem Eng.HostOpen.beginWake {d} (hc : e.HostOpen sent) : (e.beginWake d).HostOpen sent := by
  unfold Eng.beginWake
  extract_lets x e₁
  have he₁ : e₁.HostOpen sent := hc.modDom
  split
  · exact he₁.count
  · exact he₁.count
  · exact he₁

theorem Eng.HostOpen.wakeEngine (hc : e.HostOpen sent) : e.wakeEngine.HostOpen sent := by
  unfold Eng.wakeEngine
  extract_lets d
  exact .ite hc (.ite hc.beginWake hc.modDom)

theorem Eng.HostOpen.lowerQuiet {r} (hc : e.HostOpen sent) : (e.lowerQuiet r).HostOpen sent := by
  unfold Eng.lowerQuiet
  extract_lets d
  exact .ite hc (.ite (.ite hc hc.enter) (.ite (.ite hc.enter hc) hc))

theorem Eng.HostOpen.lowerUntil {fits rs} (hc : e.HostOpen sent) : (Eng.lowerUntil fits rs e).HostOpen sent := by
  induction rs generalizing e with
  | nil => exact hc
  | cons r rs ih =>
    unfold Eng.lowerUntil
    exact .ite hc (ih hc.lowerQuiet)

theorem Eng.HostOpen.admitRegion {r} (hc : e.HostOpen sent) : (e.admitRegion r).HostOpen sent := by
  unfold Eng.admitRegion
  exact hc.wakeEngine.beginWake

theorem Eng.HostOpen.serveQueue {n} (hc : e.HostOpen sent) : (e.serveQueue n).HostOpen sent := by
  induction n generalizing e with
  | zero => exact hc
  | succ n ih =>
    unfold Eng.serveQueue
    split
    · exact hc
    · split
      · exact hc
      · extract_lets e'
        exact .ite (ih hc.admitRegion) (.ite (ih hc.lowerUntil.admitRegion) hc)

theorem Eng.HostOpen.wakeRegion {r} (hc : e.HostOpen sent) : (e.wakeRegion r).HostOpen sent := by
  unfold Eng.wakeRegion
  extract_lets e₁ d e₂
  have he₁ : e₁.HostOpen sent := hc.modRegion
  have he₂ : e₂.HostOpen sent := .ite he₁.modPower.modRegion.emit he₁
  exact .ite he₁ he₂.modRegion.serveQueue

theorem Eng.HostOpen.lendRegion {r} (hc : e.HostOpen sent) : (e.lendRegion r).HostOpen sent := by
  unfold Eng.lendRegion
  extract_lets c d
  exact .ite (.ite hc.enter.modRegion.count.serveQueue (.ite hc.enter.serveQueue hc)) hc

theorem Eng.HostOpen.noteWorkOf {d} (hc : e.HostOpen sent) : (e.noteWorkOf d).HostOpen sent := by
  unfold Eng.noteWorkOf
  split
  · extract_lets e₁
    have he₁ : e₁.HostOpen sent := .ite hc hc.modDom
    split
    · exact he₁.lendRegion
    · exact he₁
  · exact .ite hc.modDom hc

theorem Eng.HostOpen.noteQuiet {r} (hc : e.HostOpen sent) : (e.noteQuiet r).HostOpen sent := by
  unfold Eng.noteQuiet
  exact hc.noteWorkOf

theorem Eng.HostOpen.reaches {m r p d} (hc : e.HostOpen sent) : (e.reaches m r p d).2.HostOpen sent := by
  unfold Eng.reaches
  extract_lets base i src b
  split
  · exact hc
  · split
    · exact hc
    · split
      · exact .of hc
      · exact .of hc

theorem Eng.HostOpen.noteFault {r pn ctx t} (hc : e.HostOpen sent) : (e.noteFault r pn ctx t).HostOpen sent := by
  unfold Eng.noteFault
  split
  · exact hc.count
  · exact hc.count.count.raise
  · exact hc

theorem Eng.HostOpen.startWalk {r pn va} (hc : e.HostOpen sent) : (e.startWalk r pn va).HostOpen sent := by
  unfold Eng.startWalk
  extract_lets ws src
  exact .ite hc (.count (.of hc))

theorem Eng.HostOpen.wakeFor {q} (hc : e.HostOpen sent) : (e.wakeFor q).HostOpen sent := by
  unfold Eng.wakeFor
  split
  · exact hc.wakeRegion
  · exact hc

theorem Eng.HostOpen.modJrn {f : Jrn → Jrn} (hc : e.HostOpen sent) (hs : (f e.jrn).state = e.jrn.state := by rfl)
    (hh : (f e.jrn).heldOut = e.jrn.heldOut := by rfl) : (e.modJrn f).HostOpen sent := by
  obtain ⟨hup, hst, hheld, hout⟩ := hc
  exact ⟨hup, hs.trans_ne hst, hh.trans hheld, hout⟩

theorem Eng.HostOpen.jFlush (hc : e.HostOpen sent) : e.jFlush.HostOpen sent := by
  unfold Eng.jFlush
  exact .ite hc.emit.modJrn hc

theorem Eng.HostOpen.jWrite {r} (hc : e.HostOpen sent) : (e.jWrite r).HostOpen sent := by
  unfold Eng.jWrite
  extract_lets r₁
  exact hc.hostPut.modJrn.count

theorem Eng.HostOpen.jCarry (hc : e.HostOpen sent) : e.jCarry.HostOpen sent := by
  unfold Eng.jCarry
  split
  · extract_lets lim old e₁
    have he₁ : e₁.HostOpen sent := hc.foldl (fun _ _ he => he.jWrite.count)
    exact he₁.modJrn
  · exact hc

theorem Eng.HostOpen.jPump (hc : e.HostOpen sent) : e.jPump.HostOpen sent := by
  unfold Eng.jPump
  split
  · extract_lets n go e₁
    have he₁ : e₁.HostOpen sent := hc.modJrn
    exact ((he₁.foldl (fun _ _ he => he.jWrite)).jCarry).jFlush
  · exact hc

theorem Eng.HostOpen.jAppend {r} (hc : e.HostOpen sent) : (e.jAppend r).HostOpen sent := by
  unfold Eng.jAppend
  exact hc.modJrn.jPump

theorem Eng.HostOpen.jRewrite (hc : e.HostOpen sent) : e.jRewrite.HostOpen sent := by
  unfold Eng.jRewrite
  exact hc.foldl (fun _ _ he => he.hostPut)

theorem Eng.HostOpen.handOver {j} (hc : e.HostOpen sent) : (e.handOver j).HostOpen sent := by
  unfold Eng.handOver
  split
  · exact hc.modJob
  · exact hc

theorem Eng.HostOpen.release {h} (hc : e.HostOpen sent) : (e.release h).HostOpen sent := by
  unfold Eng.release
  split
  · exact hc
  · exact hc.modJob.handOver

theorem Eng.HostOpen.finish {h st detail} (hc : e.HostOpen sent) : (e.finish h st detail).HostOpen sent := by
  unfold Eng.finish
  exact hc.release.modJob.noteQuiet

theorem Eng.HostOpen.park {q who} (hc : e.HostOpen sent) : (e.park q who).HostOpen sent := by
  unfold Eng.park
  extract_lets port full x src e₁
  have he₁ : e₁.HostOpen sent := .of hc
  exact .ite hc (.ite he₁ he₁.count)

theorem Eng.HostOpen.castElem {j p v} (hc : e.HostOpen sent) : (e.castElem j p v).2.HostOpen sent := by
  unfold Eng.castElem
  split
  · exact hc
  · extract_lets c r w b src
    exact .count (.count (.count (.count (.of hc))))

theorem Eng.HostOpen.castGrant {j} (hc : e.HostOpen sent) : (e.castGrant j).1.HostOpen sent := by
  unfold Eng.castGrant
  dsimp only
  refine hc.foldlFst (fun s y hs => ?_)
  split
  · exact hs.castElem
  · exact hs

theorem Eng.HostOpen.castAll {n j} (hc : e.HostOpen sent) : (e.castAll n j).1.HostOpen sent := by
  induction n generalizing e j with
  | zero => exact hc
  | succ n ih =>
    unfold Eng.castAll
    split
    · exact ih hc.castGrant
    · exact hc

theorem Eng.HostOpen.pumpPut {p : Pump} {st k x} (hc : p.e.HostOpen sent) : (p.put st k x).e.HostOpen sent := by
  unfold Pump.put
  exact hc

theorem Eng.HostOpen.pumpLook {p : Pump} {st k} (hc : p.e.HostOpen sent) : (p.look st k).e.HostOpen sent := by
  unfold Pump.look
  extract_lets key src
  split
  · exact hc
  · exact hc.count

theorem Eng.HostOpen.pumpAccept {p : Pump} {st k q v bad} (hc : p.e.HostOpen sent) : (p.accept st k q v bad).e.HostOpen sent := by
  unfold Pump.accept
  extract_lets q₁
  exact hc.wakeFor

theorem Eng.HostOpen.pumpSend {p : Pump} {m st k q v bad} (hc : p.e.HostOpen sent) : (p.send m st k q v bad).e.HostOpen sent := by
  unfold Pump.send
  split
  · exact hc.pumpAccept
  · extract_lets e
    have he : e.HostOpen sent := hc.wakeFor
    exact .ite he he.park

theorem Eng.HostOpen.pumpResend {p : Pump} {st k q v bad} (hc : p.e.HostOpen sent) : (p.resend st k q v bad).e.HostOpen sent := by
  unfold Pump.resend
  split
  · exact hc.pumpAccept
  · exact hc

theorem Eng.HostOpen.pumpFire {p : Pump} {m st k va bit v bad} (hc : p.e.HostOpen sent) : (p.fire m st k va bit v bad).e.HostOpen sent := by
  unfold Pump.fire
  extract_lets j d w p₁
  have hp₁ : p₁.e.HostOpen sent := hc.pumpLook
  split
  · split
    · exact hp₁.pumpSend
    · exact hp₁.startWalk
    · exact hp₁.noteFault
  · dsimp only
    split
    · exact hc.reaches.noteFault
    · split
      · exact hc.reaches
      · exact .pumpSend hc.reaches

theorem Eng.HostOpen.noteMerge {m j a b} (hc : e.HostOpen sent) : (e.noteMerge m j a b).HostOpen sent := by
  unfold Eng.noteMerge
  split
  · exact hc
  · split
    · split
      · exact hc.count
      · exact hc
    · exact hc

theorem Eng.HostOpen.pumpTryRead {p : Pump} {m st k} (hc : p.e.HostOpen sent) : (Pump.tryRead m st p k).e.HostOpen sent := by
  unfold Pump.tryRead
  split
  · exact hc.pumpResend
  · split
    · exact hc
    · exact hc.pumpPut
    · refine Eng.HostOpen.pumpPut ?_
      split
      · exact hc.count
      · exact hc
    · extract_lets shared
      clear_value shared
      split
      · exact .ite hc.noteMerge hc
      · exact hc.pumpFire

theorem Eng.HostOpen.pumpFireDst {p : Pump} {m k} (hc : p.e.HostOpen sent) : (p.fireDst m k).e.HostOpen sent := by
  unfold Pump.fireDst
  extract_lets go whole
  split
  · refine hc.foldlPump (fun p₁ y hp => ?_)
    unfold go
    split
    · split
      · exact hp.pumpPut
      · exact hp.pumpFire
    · exact hp
  · unfold go
    split
    · split
      · exact hc.pumpPut
      · exact hc.pumpFire
    · exact hc

theorem Eng.HostOpen.pumpTryDst {p : Pump} {m k} (hc : p.e.HostOpen sent) : (p.tryDst m k).e.HostOpen sent := by
  unfold Pump.tryDst
  extract_lets p₁ gated src
  have hp₁ : p₁.e.HostOpen sent := hc.pumpLook
  split
  · exact hc.pumpResend
  · unfold gated
    split
    · split
      · exact hc.pumpPut
      · exact .pumpPut hp₁.noteFault
      · exact hc.pumpPut
      · exact hc.pumpPut
      · exact hc.pumpFireDst
    · exact hc
  · unfold gated
    split
    · split
      · exact hc.pumpPut
      · exact .pumpPut hp₁.noteFault
      · exact hc.pumpPut
      · exact hc.pumpPut
      · exact hc.pumpFireDst
    · exact hc
  · split
    · exact hc
    · split
      · exact hc
      · exact hc.pumpPut
      · split
        · exact hc.pumpPut
        · exact .pumpPut hc.count
        · split
          · exact hc
          · unfold gated
            split
            · split
              · exact hc.pumpPut
              · exact .pumpPut hp₁.noteFault
              · exact hc.pumpPut
              · exact hc.pumpPut
              · exact hc.pumpFireDst
            · exact hc
        · exact hc
  · exact hc

theorem Eng.HostOpen.pumpTryScaleOut {p : Pump} {m b} (hc : p.e.HostOpen sent) : (p.tryScaleOut m b).e.HostOpen sent := by
  unfold Pump.tryScaleOut
  extract_lets go
  split
  · exact hc.pumpResend
  · unfold go
    split
    · exact hc.pumpFire
    · exact hc.pumpPut
  · split
    · exact hc
    · exact hc.pumpPut
    · dsimp only
      unfold go
      dsimp only
      split
      · refine .pumpFire ?_
        dsimp only
        split
        · exact .ite hc.draw.count hc.draw
        · exact .ite (.count hc) hc
      · refine .pumpPut ?_
        dsimp only
        split
        · exact .ite hc.draw.count hc.draw
        · exact .ite (.count hc) hc
  · exact hc

theorem Eng.HostOpen.sendDie {d pa bit bits write} (hc : e.HostOpen sent) : (e.sendDie d pa bit bits write).HostOpen sent := by
  unfold Eng.sendDie
  extract_lets a n
  refine hc.foldl (fun e₁ x he => ?_)
  extract_lets first lastBits
  exact he.emit

theorem Eng.HostOpen.sendNpi {d msg} (hc : e.HostOpen sent) : (e.sendNpi d msg).HostOpen sent := by
  unfold Eng.sendNpi
  extract_lets src src₁
  have hsrc : src.HostOpen sent := hc.emit
  exact .of hsrc

theorem Eng.HostOpen.sendRun {j run} (hc : e.HostOpen sent) : (e.sendRun j run).HostOpen sent := by
  unfold Eng.sendRun
  split
  · exact hc
  · extract_lets w n v bytes q
    split
    · exact hc
    · exact .ite hc.hostPut hc.emit
    · exact hc.sendDie
    · exact .ite hc.sendNpi (.ite hc.sendNpi.count hc.sendNpi)

theorem Eng.HostOpen.pumpWalkOn {p : Pump} (hc : p.e.HostOpen sent) : p.walkOn.e.HostOpen sent := by
  unfold Pump.walkOn
  split
  · exact hc
  · exact hc

theorem Eng.HostOpen.pumpPass {p : Pump} {m} (hc : p.e.HostOpen sent) : (p.pass m).e.HostOpen sent := by
  unfold Pump.pass
  extract_lets p₁ p₂ p₃ p₄
  have hp₁ : p₁.e.HostOpen sent := hc.pumpWalkOn
  have hp₂ : p₂.e.HostOpen sent := by
    unfold p₂
    exact hp₁.foldlPump (fun _ _ hp => hp.pumpTryRead)
  have hp₃ : p₃.e.HostOpen sent := by
    unfold p₃
    exact hp₂.foldlPump (fun _ _ hp => hp.pumpTryRead)
  have hp₄ : p₄.e.HostOpen sent := by
    unfold p₄
    exact hp₃.foldlPump (fun _ _ hp => hp.pumpTryRead)
  dsimp only
  exact .foldlPump (.foldlPump hp₄.castAll (fun _ _ hp => hp.pumpTryDst)) (fun _ _ hp => hp.pumpTryScaleOut)

theorem Eng.HostOpen.pumpJob {m h} (hc : e.HostOpen sent) : (e.pumpJob m h).HostOpen sent := by
  unfold Eng.pumpJob
  split
  · exact hc
  · split
    · exact hc
    · extract_lets p
      have hp : p.e.HostOpen sent := by
        unfold p
        exact .foldlPump hc (fun _ _ hp => hp.pumpPass)
      exact (hp.foldl (fun _ _ he => he.sendRun)).modJob

theorem Eng.HostOpen.writeApplied {h pick} (hc : e.HostOpen sent) : (e.writeApplied h pick).HostOpen sent := by
  unfold Eng.writeApplied
  split
  · exact hc
  · extract_lets rs left e₁
    have he₁ : e₁.HostOpen sent := hc.modJob
    exact he₁.foldl (fun _ _ he => he.jAppend)

theorem Eng.HostOpen.writeAllApplied {h} (hc : e.HostOpen sent) : (e.writeAllApplied h).HostOpen sent := by
  unfold Eng.writeAllApplied
  exact hc.writeApplied

theorem Eng.HostOpen.noteChunks {h cs} (hc : e.HostOpen sent) : (e.noteChunks h cs).HostOpen sent := by
  unfold Eng.noteChunks
  split
  · exact hc
  · split
    · exact hc
    · extract_lets new
      exact .ite hc hc.modJob.writeApplied

theorem Eng.HostOpen.noteDropped {h} (hc : e.HostOpen sent) : (e.noteDropped h).HostOpen sent := by
  unfold Eng.noteDropped
  split
  · exact hc
  · exact hc.noteChunks

theorem Eng.HostOpen.freeWalkerOf {h} (hc : e.HostOpen sent) : (e.freeWalkerOf h).HostOpen sent := by
  unfold Eng.freeWalkerOf
  split
  · exact hc
  · exact hc.modJob.handOver.noteQuiet

theorem Eng.HostOpen.checkEnd {h} (hc : e.HostOpen sent) : (e.checkEnd h).HostOpen sent := by
  unfold Eng.checkEnd
  split
  · exact hc
  · split
    · exact hc
    · extract_lets e₁ e₂
      have he₁ : e₁.HostOpen sent := .ite hc.freeWalkerOf hc
      have he₂ : e₂.HostOpen sent := .ite he₁.writeAllApplied he₁
      exact .ite he₂.finish he₁

theorem Eng.HostOpen.advanceJob {m h} (hc : e.HostOpen sent) : (e.advanceJob m h).HostOpen sent := by
  unfold Eng.advanceJob
  exact hc.pumpJob.noteDropped.checkEnd

theorem Eng.HostOpen.endDisables (hc : e.HostOpen sent) : e.endDisables.HostOpen sent := by
  unfold Eng.endDisables
  exact .of hc

theorem Eng.HostOpen.answerPeer {s st bad bs col rep} (hc : e.HostOpen sent) : (e.answerPeer s st bad bs col rep).HostOpen sent := by
  unfold Eng.answerPeer
  extract_lets held src e₁
  have he₁ : e₁.HostOpen sent := .of hc
  split
  · exact he₁.emit
  · exact he₁.emit

theorem Eng.HostOpen.modServe {s} (hc : e.HostOpen sent) : (e.modServe s).HostOpen sent := by
  unfold Eng.modServe
  exact .of hc

theorem Eng.HostOpen.sendPeerOn {s x} (hc : e.HostOpen sent) : (e.sendPeerOn s x).HostOpen sent := by
  unfold Eng.sendPeerOn
  extract_lets q e₁
  have he₁ : e₁.HostOpen sent := hc.modServe
  split
  · exact he₁.wakeFor
  · exact .ite he₁.hostPut he₁.emit
  · exact he₁.sendDie
  · exact he₁

theorem Eng.HostOpen.startPeer {m s} (hc : e.HostOpen sent) : (e.startPeer m s).HostOpen sent := by
  unfold Eng.startPeer
  extract_lets q r n part
  split
  · exact hc
  · split
    · exact .ite hc.sendPeerOn hc
    · split
      · exact hc.wakeRegion
      · dsimp only
        split
        · exact .ite hc.reaches.noteFault.answerPeer (.ite hc.reaches.sendPeerOn hc.reaches.modServe.wakeFor.park)
        · exact hc.reaches.startWalk
        · exact hc.reaches.noteFault.answerPeer

theorem Eng.HostOpen.answerDie {s st bs} (hc : e.HostOpen sent) : (e.answerDie s st bs).HostOpen sent := by
  unfold Eng.answerDie
  exact .emit (.endDisables (.of hc))

theorem Eng.HostOpen.modDieServe {s t} (hc : e.HostOpen sent) : (e.modDieServe s t).HostOpen sent := by
  unfold Eng.modDieServe
  exact .of hc

theorem Eng.HostOpen.startDie {s} (hc : e.HostOpen sent) : (e.startDie s).HostOpen sent := by
  unfold Eng.startDie
  extract_lets a p
  split
  · exact hc
  · split
    · exact .ite hc.modDieServe.wakeFor hc
    · split
      · exact hc.wakeRegion
      · split
        · exact .ite hc.modDieServe.wakeFor hc.modDieServe.wakeFor.park
        · exact hc.startWalk
        · exact hc.noteFault.answerDie

theorem Eng.HostOpen.resumeOther {m u} (hc : e.HostOpen sent) : (e.resumeOther m u).HostOpen sent := by
  unfold Eng.resumeOther
  split
  · split
    · exact hc.startPeer
    · exact hc
  · split
    · exact hc.startDie
    · exact hc
  · exact hc

theorem Eng.HostOpen.pumpTryGiven {p : Pump} {m k} (hc : p.e.HostOpen sent) : (p.tryGiven m k).e.HostOpen sent := by
  unfold Pump.tryGiven
  extract_lets src go
  split
  · unfold go
    split
    · exact hc.pumpFire
    · exact hc.pumpPut
    · exact .pumpPut hc.count
    · exact hc
  · unfold go
    split
    · exact hc.pumpFire
    · exact hc.pumpPut
    · exact .pumpPut hc.count
    · exact hc
  · exact hc.pumpResend
  · exact hc

theorem Eng.HostOpen.pumpCerhus {m h} (hc : e.HostOpen sent) : (e.pumpCerhus m h).HostOpen sent := by
  unfold Eng.pumpCerhus
  split
  · exact hc
  · split
    · exact hc
    · extract_lets p p₁ p₂ p₃
      have hp : p.e.HostOpen sent := hc
      have hp₁ : p₁.e.HostOpen sent := by
        unfold p₁
        exact hp.foldlPump (fun _ _ hp => hp.pumpTryRead)
      have hp₂ : p₂.e.HostOpen sent := by
        unfold p₂
        exact .foldlPump hp₁ (fun _ _ hp => hp.pumpTryRead)
      have hp₃ : p₃.e.HostOpen sent := by
        unfold p₃
        exact hp₂.foldlPump (fun _ _ hp => hp.pumpTryGiven)
      exact (hp₃.foldl (fun _ _ he => he.sendRun)).modJob

theorem Eng.HostOpen.setFree {n} (hc : e.HostOpen sent) : (e.setFree n).HostOpen sent := by
  unfold Eng.setFree
  exact .of hc

theorem Eng.HostOpen.giveSets {h} (hc : e.HostOpen sent) : (e.giveSets h).HostOpen sent := by
  unfold Eng.giveSets
  extract_lets ns e₁ src
  have he₁ : e₁.HostOpen sent := hc.foldl fun _ _ he => .ite he.setFree he
  clear_value e₁
  exact .of he₁

theorem Eng.HostOpen.expandHeader {h} (hc : e.HostOpen sent) : (e.expandHeader h).HostOpen sent := by
  unfold Eng.expandHeader
  split
  · exact hc
  · split
    · exact hc
    · extract_lets spoil n empty j'
      have hspoil : spoil.HostOpen sent := hc.modJob
      split
      · exact hc
      · exact hc.modJob
      · exact hspoil
      · split
        · exact hspoil
        · split
          · exact hc
          · exact hc.modJob
          · exact hspoil
          · exact .ite hspoil (.ite hc.finish hc.count.modJob)

theorem Eng.HostOpen.endExpand {h} (hc : e.HostOpen sent) : (e.endExpand h).HostOpen sent := by
  unfold Eng.endExpand
  split
  · exact hc
  · split
    · exact hc
    · extract_lets ff e₁ j all issued e₂ whole o e₃ e₄
      have he₁ : e₁.HostOpen sent := hc.modJob
      have he₂ : e₂.HostOpen sent := .ite he₁.freeWalkerOf he₁
      have he₃ : e₃.HostOpen sent := he₂.giveSets
      have he₄ : e₄.HostOpen sent := by
        unfold e₄
        split
        · split
          · exact he₃.raise
          · split
            · exact he₃.raise
            · exact he₃
        · exact he₃
      exact .ite he₄.finish he₂

theorem Eng.HostOpen.advanceExpand {m h} (hc : e.HostOpen sent) : (e.advanceExpand m h).HostOpen sent := by
  unfold Eng.advanceExpand
  exact hc.pumpCerhus.expandHeader.pumpCerhus.endExpand

theorem Eng.HostOpen.codeBlocks {h n} (hc : e.HostOpen sent) : (e.codeBlocks h n).HostOpen sent := by
  induction n generalizing e with
  | zero => exact hc
  | succ n ih =>
    unfold Eng.codeBlocks
    split
    · exact hc
    · extract_lets i
      split
      · exact hc
      · split
        · extract_lets b off raw e₁
          exact ih (Eng.HostOpen.ite hc.count hc).count.modJob
        · exact hc

theorem Eng.HostOpen.scribble {m j lo hi} (hc : e.HostOpen sent) : (e.scribble m j lo hi).eng.HostOpen sent := by
  unfold Eng.scribble
  dsimp only
  refine hc.draw.foldlEff (fun x y hx => ?_)
  split
  · split
    · split
      · split
        · exact hx
        · exact (hx.on (fun _ he => he.recordWrite)).store
      · exact hx
    · exact hx
  · exact hx

theorem Eng.HostOpen.endCompress {m h} (hc : e.HostOpen sent) : (e.endCompress m h).eng.HostOpen sent := by
  have hend {f : Job → Job} {c : Prop} [Decidable c] :
      Eng.HostOpen sent (if c then (e.modJob h f).freeWalkerOf h else e.modJob h f) := .ite hc.modJob.freeWalkerOf hc.modJob
  unfold Eng.endCompress
  split
  · exact hc
  · split
    · exact hc
    · refine .iteEff ?_ hend
      split
      · exact hend.scribble.on fun _ he => he.finish
      · exact hend.scribble.on fun _ he => he.finish

theorem Eng.HostOpen.advanceCompress {m h} (hc : e.HostOpen sent) : (e.advanceCompress m h).eng.HostOpen sent := by
  unfold Eng.advanceCompress
  extract_lets e₁ e₂
  have he₁ : e₁.HostOpen sent := hc.modJob.pumpCerhus
  have he₂ : e₂.HostOpen sent := he₁.modJob.codeBlocks
  exact he₂.modJob.pumpCerhus.endCompress

theorem Eng.HostOpen.invalidateRuns {h n} (hc : e.HostOpen sent) : (e.invalidateRuns h n).HostOpen sent := by
  induction n generalizing e with
  | zero => exact hc
  | succ n ih =>
    unfold Eng.invalidateRuns
    split
    · exact hc
    · extract_lets va left page n key e₁
      have he₁ : e₁.HostOpen sent := .ite hc hc.count.modJob
      split
      · exact hc
      · split
        · exact ih (he₁.foldl fun _ _ he => he.emit.count).modJob
        · exact he₁.startWalk
        · exact he₁.noteFault.modJob

theorem Eng.HostOpen.endInvalidate {h} (hc : e.HostOpen sent) : (e.endInvalidate h).HostOpen sent := by
  unfold Eng.endInvalidate
  split
  · exact hc
  · split
    · exact hc
    · split
      · exact hc.finish
      · exact .ite hc.finish hc

theorem Eng.HostOpen.advanceInvalidate {h} (hc : e.HostOpen sent) : (e.advanceInvalidate h).HostOpen sent := by
  unfold Eng.advanceInvalidate
  split
  · exact hc
  · exact hc.invalidateRuns.endInvalidate

theorem Eng.HostOpen.goOn {m h} (hc : e.HostOpen sent) : (e.goOn m h).eng.HostOpen sent := by
  unfold Eng.goOn
  split
  · exact hc
  · split
    · exact hc
    · split
      · exact hc.advanceCompress
      · split
        · exact hc.advanceExpand
        · split
          · exact .ite hc.advanceInvalidate hc
          · exact hc.advanceJob

theorem Eng.HostOpen.resumeUsers {m us} (hc : e.HostOpen sent) : (e.resumeUsers m us).eng.HostOpen sent := by
  unfold Eng.resumeUsers
  refine hc.foldlEff (fun x y hx => ?_)
  refine hx.andThen (fun m₁ e₁ he => ?_)
  split
  · exact he.goOn
  · exact he.resumeOther

theorem Eng.HostOpen.hostBack (hc : e.HostOpen sent) : e.hostBack.HostOpen sent := by
  unfold Eng.hostBack
  extract_lets e₁
  have he₁ : e₁.HostOpen sent := hc.releaseHeld
  exact .ite he₁.jRewrite.jPump he₁

end Sys2Proof.Machine
end

section
/-! The host link goes down and comes back, and a host reset: O38 (02: R78; 12: R415, R416). -/

namespace Sys2Proof.Machine

variable {e : Eng} {o : List Out} {held : List HostWrite} {n : Nat}

/-- Held writes leave. -/
def Eng.leaves (e : Eng) (l : List HostWrite) : Eng := l.foldl (fun e w => e.emit (.host w)) e

theorem leaves_out (e : Eng) (l : List HostWrite) : (e.leaves l).out = e.out ++ l.map .host := by
  unfold Eng.leaves
  induction l generalizing e with
  | nil => exact (List.append_nil _).symm
  | cons w l ih =>
    rw [List.foldl_cons, ih, List.map_cons]
    exact List.append_assoc _ _ _

theorem Eng.HostOpen.leaves (hc : e.HostOpen o) (l : List HostWrite) : (e.leaves l).HostOpen o := hc.foldl fun _ _ he => he.emit

/-- The host is reachable, and the first `n` of what was held for it have left in their order since `o`. -/
def Eng.HostLeft (o : List Out) (held : List HostWrite) (n : Nat) (e : Eng) : Prop :=
  ∃ l, e.HostOpen (o ++ l) ∧ ((held.take n).map Out.host).Sublist l

theorem take_max (l : List HostWrite) (n b : Nat) : l.take (max n b) = l.take n ++ (l.take b).drop n := by
  rcases Nat.le_total n b with h | h
  · rw [Nat.max_eq_right h]
    have ht := List.take_append_drop n (l.take b)
    rw [List.take_take, Nat.min_eq_left h] at ht
    exact ht.symm
  · rw [Nat.max_eq_left h, List.drop_eq_nil_of_le ((List.length_take_le b l).trans h), List.append_nil]

theorem Eng.HostLeft.leaves (h : e.HostLeft o held n) (b : Nat) : (e.leaves ((held.take b).drop n)).HostLeft o held (max n b) := by
  obtain ⟨l, hopen, hsub⟩ := h
  obtain ⟨hup, hst, hheld, r, hr⟩ := id hopen
  refine ⟨l ++ r ++ ((held.take b).drop n).map .host, ?_, ?_⟩
  · obtain ⟨hup', hst', hheld', -⟩ := hopen.leaves ((held.take b).drop n)
    refine ⟨hup', hst', hheld', ?_⟩
    rw [leaves_out, ← hr]
    simp only [List.append_assoc, List.prefix_refl]
  · rw [take_max, List.map_append]
    exact (hsub.trans (List.sublist_append_left _ _)).append (List.Sublist.refl _)

theorem Eng.HostLeft.keeps {e' : Eng} (h : e.HostLeft o held n) (hk : ∀ sent, e.HostOpen sent → e'.HostOpen sent) : e'.HostLeft o held n := by
  obtain ⟨l, hopen, hsub⟩ := h
  exact ⟨l, hk _ hopen, hsub⟩

/-- A user of the host link's port is served, after the writes that were held before it. -/
def Eff.portServed (x : Eff × Nat) (m : Memory) (held : List HostWrite) (p : PortWait) : Eff × Nat :=
  ((x.1.on fun e => e.leaves ((held.take p.behind).drop x.2)).andThen m fun m e => e.resumeUsers m [p.who], max x.2 p.behind)

/-- The engine without what is held for the host, and without what waits at the host link's port. -/
def Eng.portCleared (e : Eng) : Eng :=
  { e with jrn := { e.jrn with heldOut := [] }, svc := { e.svc with ports := e.svc.ports.filter fun p => p.port ≠ 6 } }

/-- The users of the host link's port, each with what was held before it. -/
def Eng.portsServed (e : Eng) (m : Memory) : Eff × Nat :=
  (e.svc.ports.filter fun p => p.port = 6).foldl (fun x p => Eff.portServed x m e.jrn.heldOut p) (⟨e.portCleared, []⟩, 0)

theorem hostReturns_eq (e : Eng) (m : Memory) (h : e.hostUp = true) :
    e.hostReturns m = ((e.portsServed m).1.on fun x => x.leaves (e.jrn.heldOut.drop (e.portsServed m).2)).on Eng.hostBack := by
  unfold Eng.hostReturns
  rw [if_neg (by simp [h])]
  rfl

theorem portsServed_left (m : Memory) (hc : e.portCleared.HostOpen o) :
    (e.portsServed m).1.eng.HostLeft o e.jrn.heldOut (e.portsServed m).2 := by
  unfold Eng.portsServed
  have hstart : Eng.HostLeft o e.jrn.heldOut 0 e.portCleared := ⟨[], by rwa [List.append_nil], List.Sublist.refl _⟩
  generalize e.jrn.heldOut = held at hstart ⊢
  generalize e.svc.ports.filter _ = ps
  suffices h : ∀ x : Eff × Nat, x.1.eng.HostLeft o held x.2 →
      (ps.foldl (fun x p => Eff.portServed x m held p) x).1.eng.HostLeft o held (ps.foldl (fun x p => Eff.portServed x m held p) x).2 from
    h _ hstart
  induction ps with
  | nil => exact fun x hx => hx
  | cons p ps ih =>
    intro x hx
    exact ih _ ((hx.leaves p.behind).keeps fun _ hc => hc.resumeUsers)

/-- All that was held for the host leaves in its order. -/
theorem hostReturns_left (m : Memory) (hup : e.hostUp = true) (hc : e.portCleared.HostOpen o) :
    ∃ l, (e.hostReturns m).eng.HostOpen (o ++ l) ∧ (e.jrn.heldOut.map Out.host).Sublist l := by
  rw [hostReturns_eq e m hup]
  have h := (portsServed_left m hc).leaves e.jrn.heldOut.length
  rw [List.take_length] at h
  obtain ⟨l, hopen, hsub⟩ := h.keeps fun _ hc => hc.hostBack
  rw [List.take_of_length_le (Nat.le_max_right _ _)] at hsub
  exact ⟨l, hopen, hsub⟩

/-- What follows the host's return is the journal's. -/
theorem hostBack_side (e : Eng) : JrnSide e e.hostBack := by
  have hr : JrnSide e e.releaseHeld := by
    unfold Eng.releaseHeld
    split
    · exact ⟨rfl, id⟩
    · exact .refl e
  have hw (e : Eng) : JrnSide e e.jRewrite := Eng.foldSide _ (fun e _ => e.hostPut_jrnSide _ _) _ e
  unfold Eng.hostBack
  dsimp only
  split
  · exact (hr.trans (hw _)).trans (Eng.jPump_side _)
  · exact hr

theorem leaves_jobs (e : Eng) (l : List HostWrite) : (e.leaves l).jobs = e.jobs := by
  unfold Eng.leaves
  induction l generalizing e with
  | nil => rfl
  | cons w l ih => exact ih _

/-- Where nothing waits at the host link's port, what was held leaves first of all, and the journal follows. -/
theorem hostReturns_alone {m : Memory} (hup : e.hostUp = true) (hp : ∀ p ∈ e.svc.ports, p.port ≠ 6) :
    e.hostReturns m = ⟨(e.portCleared.leaves e.jrn.heldOut).hostBack, []⟩ := by
  have hnone : e.svc.ports.filter (fun p => decide (p.port = 6)) = [] := List.filter_eq_nil_iff.mpr fun p hm hx => hp p hm (of_decide_eq_true hx)
  rw [hostReturns_eq e m hup]
  unfold Eng.portsServed
  rw [hnone]
  rfl

/-- Settles O38: what was held leaves in its order among the requests of the port (`hostReturns_left`), and alone where none waits there
(`hostReturns_alone`). -/
theorem hostLossAndReturn : Obligations.HostLossAndReturn := by
  unfold Obligations.HostLossAndReturn
  intro s hl
  refine ⟨fun hph => ⟨?_, fun ha => ?_⟩, fun hdown hst => ?_, fun hb ha => ?_⟩
  · unfold exec
    refine (onMem_live hl _).trans ?_
    simp only [Bool.false_eq_true, if_false, Eng.breakSettle, hph, decide_false, Bool.false_and]
    rfl
  · unfold exec
    refine onEng_eq hl ?_
    simp only [ha]
    exact if_neg (by simp [Eng.modJrn, hph])
  · have hwas : s.eng.hostUp = false := by
      unfold Eng.hostUp
      rw [hdown]
      rfl
    obtain ⟨e, he⟩ : ∃ e, e = ({ s.eng with pins := { s.eng.pins with hostLinkUp := true } } : Eng) := ⟨_, rfl⟩
    have hup : e.hostUp = true := by
      rw [he]
      exact decide_eq_true hst
    have hx : exec (.hostLinkChange true) s = .next { s with eng := (e.hostReturns s.mem).eng, mem := applyOps s.mem (e.hostReturns s.mem).ops } := by
      unfold exec
      refine (onMem_live hl _).trans ?_
      simp only [if_true, hwas, Bool.false_eq_true, if_false, he]
    have hopen : e.portCleared.HostOpen s.eng.out := by
      rw [he]
      exact ⟨rfl, hst, rfl, List.prefix_refl _⟩
    have hheld : e.jrn.heldOut = s.eng.jrn.heldOut := by rw [he]
    have hports : e.svc.ports = s.eng.svc.ports := by rw [he]
    have hjobs : e.portCleared.jobs = s.eng.jobs := by rw [he]; rfl
    have hout : e.portCleared.out = s.eng.out := by rw [he]; rfl
    obtain ⟨l, ⟨hlink, -, hempty, r, hr⟩, hsub⟩ := hostReturns_left s.mem hup hopen
    rw [hheld] at hsub
    refine ⟨_, l ++ r, hx, ?_, hsub.trans (List.sublist_append_left l r), hempty, hlink, fun hp => ?_⟩
    · rw [← List.append_assoc]
      exact hr.symm
    · rw [← hports] at hp
      have halone := hostReturns_alone (m := s.mem) hup hp
      have hleft : (e.portCleared.leaves e.jrn.heldOut).HostOpen (s.eng.out ++ s.eng.jrn.heldOut.map .host) := by
        obtain ⟨h₁, h₂, h₃, -⟩ := hopen.leaves e.jrn.heldOut
        refine ⟨h₁, h₂, h₃, ?_⟩
        rw [leaves_out, hout, hheld]
      obtain ⟨-, -, -, hfirst⟩ := hleft.hostBack
      rw [halone] at hr ⊢
      refine ⟨?_, ?_, rfl⟩
      · rw [← hr, List.append_assoc, List.prefix_append_right_inj] at hfirst
        obtain ⟨l', hl'⟩ := hfirst
        exact ⟨l', hl'.symm⟩
      · obtain ⟨-, -, -, -, -, -, -, hback, -⟩ := (hostBack_side (e.portCleared.leaves e.jrn.heldOut)).frame
        exact hback.trans ((leaves_jobs _ _).trans hjobs)
  · unfold exec
    refine onEng_eq hl ?_
    cases hs : s.eng.jrn.state with
    | attached => exact absurd hs ha
    | _ => exact if_pos hb

end Sys2Proof.Machine
end
